-- ==== Sys2Proof/Word.lean ====
section
/-! DEFINITION. The word types of the LV-4800 and their plainest arithmetic (R9, R31). -/

namespace Sys2Proof

/-- A byte of memory. -/
abbrev Byte := BitVec 8

/-- The value of an x register, a control register or an address (R9). -/
abbrev X := BitVec 64

/-- The image of a v register in the layout of R111: 256 words of 64 bits, of which the granted groups use the first 16G. -/
abbrev Img := BitVec 16384

/-- The value of a k register; bit i governs element i (R9). -/
abbrev Mask := BitVec 4096

/-- The image of an accumulator tile: word w of row i at bit 64 * (32 * i + w) (R148). -/
abbrev Tile := BitVec 65536

end Sys2Proof
end

