-- ==== Sys2Proof/Config.lean ====
section
/-! DEFINITION. What an implementation fixes, what the host hands to the module's management commands, and the free
values: constants without a body that stand for what the manual leaves open. -/

namespace Sys2Proof

/-- The slots and lane groups of one core that a partition configuration grants (R278). -/
structure CoreGrant where
  /-- core number, stack * 16 + layer * 8 + position (R209) -/
  core : Nat
  /-- slot mask, bit n for slot n -/
  mask : BitVec 4
  /-- lane groups granted -/
  part : Nat
deriving DecidableEq, Repr

/-- A range of T3 physical addresses and the port that decodes it (R309, R344). -/
structure T3Range where
  base : Nat
  size : Nat
  port : Nat
deriving DecidableEq, Repr

/-- A peer's grant: the port id of the peer and the range of module memory it may reach (R348). -/
structure PeerGrant where
  peer : Nat
  base : Nat
  size : Nat
deriving DecidableEq, Repr

/-- Table 1 of 17_host_platform: the configuration of a partition (R344). -/
structure PartCfg where
  root : Nat
  pool : Nat
  count : Nat
  frames : Nat
  /-- k of the slice of 2^k cycles (R269) -/
  slice : Nat
  cores : List CoreGrant
  /-- (stack, position) pairs whose scratch the partition owns (R313) -/
  scratch : List (Nat × Nat)
  watermarks : List Nat
  engines : List Nat
  t3 : List T3Range
  peers : List PeerGrant
deriving DecidableEq, Repr

/-- A column of a stack (R308). -/
structure ColumnRef where
  stack : Nat
  column : Nat
deriving DecidableEq, Repr

/-- The units of Table 3 of 16_reliability that can be lost (R340). -/
inductive ModuleUnit where
  | bank (stack die column : Nat)
  | die (stack die : Nat)
  | bus (stack column : Nat)
  | sramLayer (stack : Nat)
  | computeLayer (stack layer : Nat)
  | core (core : Nat)
  | baseDie (stack : Nat)
deriving DecidableEq, Repr

/-- The lanes that flip in a transfer over a column bus, each with its beat (R336). -/
abbrev LaneFlips := List (Nat × Nat)

/-- A die or layer with its temperature in degrees Celsius (R352). -/
abbrev Heated := ModuleUnit × Nat

/-- An agent that a bus-master freeze can stop (R294). -/
inductive BusMaster where
  | engine (n : Nat)
  | sequencer (stack pid : Nat)
  | peer (id : Nat)
deriving DecidableEq, Repr

/-- Who sends a CXL.mem request (R342, R348). -/
inductive Requester where
  | host (port : Nat)
  | peer (id : Nat)
deriving DecidableEq, Repr

/-- A firmware image as it is transferred: its bytes, its signature and its security version (R350). -/
structure FwImage where
  bytes : List Byte
  signature : List Byte
  version : Nat
deriving DecidableEq, Repr, Inhabited

namespace Config

/-- Free words: what the manual leaves open, one value for each use (log entry 6). -/
opaque freeWord : Nat → X

/-- Free choices among a finite number of outcomes that the manual lists (R4; log entry 6). -/
opaque freeChoice : Nat → Nat → Nat

/-- Cycles that a division takes within the 8 to 40 of R78, by its quotient (log entry 11). -/
opaque divCycles : X → Nat

/-- Cycles that fdiv and fsqrt take within the 14 to 24 of R79 (log entry 11). -/
opaque fdivCycles : X → Nat

/-- Whether an image's RSASSA-PSS signature verifies under the fused key (R350; log entry 28). -/
opaque signatureValid : FwImage → Bool

/-- The 384-byte RSASSA-PSS signature of an attestation report under the device identity key (R351; log entry 28). -/
opaque attestSignature : List Byte → Vector Byte 384

/-- The byte string of a partition's Table 1 configuration that attestation digests (R351; log entry 28). -/
opaque cfgBytes : Option PartCfg → List Byte

/-- The byte string of the list of lost units that attestation digests (R351; log entry 28). -/
opaque unitBytes : List ModuleUnit → List Byte

/-- The module's serial number (R351; log entry 28). -/
opaque serialNumber : List Byte

/-- The firmware image that the module leaves manufacture with (R350; log entry 28). -/
opaque factoryImage : FwImage

end Config
end Sys2Proof
end

