-- ==== Sys2Proof/Syntax.lean ====
section
/-! DEFINITION. The instruction words of the Tchisum instruction set and the part's events, one constructor for each
row of spec/opcode_table.json. Operand fields keep the widths of R51; `s` is the stall count of R50. Rows that the table
gives no word are the events of spec/95: the operands name the unit that the event concerns. -/

namespace Sys2Proof

/-- One constructor per row of spec/opcode_table.json. -/
inductive Instr where
  /-- ECALL (R90). -/
  | ecall (s : BitVec 3) (n : BitVec 5)
  /-- ERET (R92). -/
  | eret (s : BitVec 3) (e p : BitVec 5)
  /-- WFI (R93). -/
  | wfi (s : BitVec 3)
  /-- BREAK (R91). -/
  | brk (s : BitVec 3) (n : BitVec 5)
  /-- TLBI (R95). -/
  | tlbi (s : BitVec 3) (a : BitVec 5)
  /-- TLBIA (R95). -/
  | tlbia (s : BitVec 3)
  /-- VNAME (R96). -/
  | vname (s : BitVec 3) (d a : BitVec 5)
  /-- FENCEI (R94). -/
  | fencei (s : BitVec 3)
  /-- SYSR (R97). -/
  | sysr (s : BitVec 3) (d : BitVec 5) (c : BitVec 9)
  /-- SYSW (R97). -/
  | sysw (s : BitVec 3) (a : BitVec 5) (c : BitVec 9)
  /-- SYSW_VOWN (R296). -/
  | syswVown (s : BitVec 3) (a : BitVec 5)
  /-- SYSW_WPART (R314). -/
  | syswWpart (s : BitVec 3) (a : BitVec 5)
  /-- PFX (R58). -/
  | pfx (k : BitVec 3) (p e : BitVec 1) (c : BitVec 2) (r : BitVec 5)
  /-- ADD (R75). -/
  | addR (s : BitVec 3) (d a b : BitVec 5)
  /-- SUB (R75). -/
  | subR (s : BitVec 3) (d a b : BitVec 5)
  /-- AND (R75). -/
  | andR (s : BitVec 3) (d a b : BitVec 5)
  /-- OR (R75). -/
  | orR (s : BitVec 3) (d a b : BitVec 5)
  /-- XOR (R75). -/
  | xorR (s : BitVec 3) (d a b : BitVec 5)
  /-- SLL (R75). -/
  | sll (s : BitVec 3) (d a b : BitVec 5)
  /-- SRL (R75). -/
  | srl (s : BitVec 3) (d a b : BitVec 5)
  /-- SRA (R75). -/
  | sra (s : BitVec 3) (d a b : BitVec 5)
  /-- SLT (R75). -/
  | slt (s : BitVec 3) (d a b : BitVec 5)
  /-- SLTN (R75). -/
  | sltn (s : BitVec 3) (d a b : BitVec 5)
  /-- MIN (R75). -/
  | minR (s : BitVec 3) (d a b : BitVec 5)
  /-- MAX (R75). -/
  | maxR (s : BitVec 3) (d a b : BitVec 5)
  /-- MINN (R75). -/
  | minn (s : BitVec 3) (d a b : BitVec 5)
  /-- MAXN (R75). -/
  | maxn (s : BitVec 3) (d a b : BitVec 5)
  /-- ADD_S (R75). -/
  | addS (s : BitVec 3) (d a b : BitVec 5)
  /-- SUB_S (R75). -/
  | subS (s : BitVec 3) (d a b : BitVec 5)
  /-- CLZ (R75). -/
  | clz (s : BitVec 3) (d a : BitVec 5)
  /-- CTZ (R75). -/
  | ctz (s : BitVec 3) (d a : BitVec 5)
  /-- POPC (R75). -/
  | popc (s : BitVec 3) (d a : BitVec 5)
  /-- ADDI (R76). -/
  | addi (s : BitVec 3) (d a : BitVec 5) (i : BitVec 13)
  /-- ANDI (R76). -/
  | andi (s : BitVec 3) (d a : BitVec 5) (i : BitVec 13)
  /-- ORI (R76). -/
  | ori (s : BitVec 3) (d a : BitVec 5) (i : BitVec 13)
  /-- XORI (R76). -/
  | xori (s : BitVec 3) (d a : BitVec 5) (i : BitVec 13)
  /-- SLLI (R76). -/
  | slli (s : BitVec 3) (d a : BitVec 5) (h : BitVec 6)
  /-- SRLI (R76). -/
  | srli (s : BitVec 3) (d a : BitVec 5) (h : BitVec 6)
  /-- SRAI (R76). -/
  | srai (s : BitVec 3) (d a : BitVec 5) (h : BitVec 6)
  /-- SLTI (R76). -/
  | slti (s : BitVec 3) (d a : BitVec 5) (i : BitVec 12)
  /-- SLTIN (R76). -/
  | sltin (s : BitVec 3) (d a : BitVec 5) (i : BitVec 12)
  /-- LI (R77). -/
  | li (s : BitVec 3) (d : BitVec 5) (i : BitVec 17)
  /-- LIH (R77). -/
  | lih (s : BitVec 3) (d : BitVec 5) (i : BitVec 16)
  /-- MUL (R78). -/
  | mul (s : BitVec 3) (d a b : BitVec 5)
  /-- MULH (R78). -/
  | mulh (s : BitVec 3) (d a b : BitVec 5)
  /-- MULHN (R78). -/
  | mulhn (s : BitVec 3) (d a b : BitVec 5)
  /-- MULHSN (R78). -/
  | mulhsn (s : BitVec 3) (d a b : BitVec 5)
  /-- DIV (R78). -/
  | div (s : BitVec 3) (d a b : BitVec 5)
  /-- DIVN (R78). -/
  | divn (s : BitVec 3) (d a b : BitVec 5)
  /-- REM (R78). -/
  | rem (s : BitVec 3) (d a b : BitVec 5)
  /-- REMN (R78). -/
  | remn (s : BitVec 3) (d a b : BitVec 5)
  /-- FADD (R79). -/
  | fadd (s : BitVec 3) (d a b : BitVec 5) (o : BitVec 1) (m : BitVec 3)
  /-- FSUB (R79). -/
  | fsub (s : BitVec 3) (d a b : BitVec 5) (o : BitVec 1) (m : BitVec 3)
  /-- FMUL (R79). -/
  | fmul (s : BitVec 3) (d a b : BitVec 5) (o : BitVec 1) (m : BitVec 3)
  /-- FDIV (R79). -/
  | fdiv (s : BitVec 3) (d a b : BitVec 5) (o : BitVec 1) (m : BitVec 3)
  /-- FSQRT (R79). -/
  | fsqrt (s : BitVec 3) (d a : BitVec 5) (o : BitVec 1) (m : BitVec 3)
  /-- FMA (R79). -/
  | fma (s : BitVec 3) (d a b : BitVec 5) (o : BitVec 1) (m : BitVec 3)
  /-- FMIN (R79). -/
  | fmin (s : BitVec 3) (d a b : BitVec 5) (o : BitVec 1) (m : BitVec 3)
  /-- FMAX (R79). -/
  | fmax (s : BitVec 3) (d a b : BitVec 5) (o : BitVec 1) (m : BitVec 3)
  /-- FEQ (R79). -/
  | feq (s : BitVec 3) (d a b : BitVec 5) (o : BitVec 1) (m : BitVec 3)
  /-- FLT (R79). -/
  | flt (s : BitVec 3) (d a b : BitVec 5) (o : BitVec 1) (m : BitVec 3)
  /-- FLE (R79). -/
  | fle (s : BitVec 3) (d a b : BitVec 5) (o : BitVec 1) (m : BitVec 3)
  /-- FKIND (R79). -/
  | fkind (s : BitVec 3) (d a : BitVec 5) (o : BitVec 1) (m : BitVec 3)
  /-- FCVT (R80). -/
  | fcvt (s : BitVec 3) (d a t : BitVec 5) (o : BitVec 1) (m : BitVec 3)
  /-- FCVTF (R80). -/
  | fcvtf (s : BitVec 3) (d a t : BitVec 5) (o : BitVec 1) (m : BitVec 3)
  /-- LB (R81). -/
  | lb (s : BitVec 3) (d a : BitVec 5) (h : BitVec 2) (i : BitVec 8)
  /-- LH (R81). -/
  | lh (s : BitVec 3) (d a : BitVec 5) (h : BitVec 2) (i : BitVec 8)
  /-- LW (R81). -/
  | lw (s : BitVec 3) (d a : BitVec 5) (h : BitVec 2) (i : BitVec 8)
  /-- LD (R81). -/
  | ld (s : BitVec 3) (d a : BitVec 5) (h : BitVec 2) (i : BitVec 8)
  /-- LBN (R81). -/
  | lbn (s : BitVec 3) (d a : BitVec 5) (h : BitVec 2) (i : BitVec 8)
  /-- LHN (R81). -/
  | lhn (s : BitVec 3) (d a : BitVec 5) (h : BitVec 2) (i : BitVec 8)
  /-- LWN (R81). -/
  | lwn (s : BitVec 3) (d a : BitVec 5) (h : BitVec 2) (i : BitVec 8)
  /-- PREF (R85). -/
  | pref (s : BitVec 3) (t : BitVec 2) (a : BitVec 5) (i : BitVec 8)
  /-- SB (R81). -/
  | sb (s : BitVec 3) (d a : BitVec 5) (h : BitVec 2) (i : BitVec 8)
  /-- SH (R81). -/
  | sh (s : BitVec 3) (d a : BitVec 5) (h : BitVec 2) (i : BitVec 8)
  /-- SW (R81). -/
  | sw (s : BitVec 3) (d a : BitVec 5) (h : BitVec 2) (i : BitVec 8)
  /-- SD (R81). -/
  | sd (s : BitVec 3) (d a : BitVec 5) (h : BitVec 2) (i : BitVec 8)
  /-- MKREF (R205). -/
  | mkref (s : BitVec 3) (d a : BitVec 5)
  /-- RTAG (R205). -/
  | rtag (s : BitVec 3) (d a : BitVec 5)
  /-- PUB (R206). -/
  | pub (s : BitVec 3) (d a : BitVec 5) (c : BitVec 4)
  /-- AMOSWAP (R203). -/
  | amoswap (s : BitVec 3) (d a : BitVec 5) (c : BitVec 4) (o : BitVec 3) (z : BitVec 1)
  /-- AMOADD (R203). -/
  | amoadd (s : BitVec 3) (d a : BitVec 5) (c : BitVec 4) (o : BitVec 3) (z : BitVec 1)
  /-- AMOAND (R203). -/
  | amoand (s : BitVec 3) (d a : BitVec 5) (c : BitVec 4) (o : BitVec 3) (z : BitVec 1)
  /-- AMOOR (R203). -/
  | amoor (s : BitVec 3) (d a : BitVec 5) (c : BitVec 4) (o : BitVec 3) (z : BitVec 1)
  /-- AMOXOR (R203). -/
  | amoxor (s : BitVec 3) (d a : BitVec 5) (c : BitVec 4) (o : BitVec 3) (z : BitVec 1)
  /-- AMOMIN (R203). -/
  | amomin (s : BitVec 3) (d a : BitVec 5) (c : BitVec 4) (o : BitVec 3) (z : BitVec 1)
  /-- AMOMAX (R203). -/
  | amomax (s : BitVec 3) (d a : BitVec 5) (c : BitVec 4) (o : BitVec 3) (z : BitVec 1)
  /-- AMOMINN (R203). -/
  | amominn (s : BitVec 3) (d a : BitVec 5) (c : BitVec 4) (o : BitVec 3) (z : BitVec 1)
  /-- AMOMAXN (R203). -/
  | amomaxn (s : BitVec 3) (d a : BitVec 5) (c : BitVec 4) (o : BitVec 3) (z : BitVec 1)
  /-- AMOCAS (R203). -/
  | amocas (s : BitVec 3) (d a : BitVec 5) (c : BitVec 4) (o : BitVec 3) (z : BitVec 1)
  /-- BEQ (R86). -/
  | beq (s : BitVec 3) (a b : BitVec 5) (i : BitVec 13)
  /-- BNE (R86). -/
  | bne (s : BitVec 3) (a b : BitVec 5) (i : BitVec 13)
  /-- BLT (R86). -/
  | blt (s : BitVec 3) (a b : BitVec 5) (i : BitVec 13)
  /-- BGE (R86). -/
  | bge (s : BitVec 3) (a b : BitVec 5) (i : BitVec 13)
  /-- BLTN (R86). -/
  | bltn (s : BitVec 3) (a b : BitVec 5) (i : BitVec 13)
  /-- BGEN (R86). -/
  | bgen (s : BitVec 3) (a b : BitVec 5) (i : BitVec 13)
  /-- J (R87). -/
  | jump (s : BitVec 3) (i : BitVec 18)
  /-- JAL (R87). -/
  | jal (s : BitVec 3) (l : BitVec 5) (i : BitVec 18)
  /-- JALR (R88). -/
  | jalr (s : BitVec 3) (d a : BitVec 5) (i : BitVec 13)
  /-- ORDERED_LOAD (R201). -/
  | orderedLoad (s : BitVec 3) (d a : BitVec 5) (c : BitVec 4) (o t : BitVec 3)
  /-- ORDERED_STORE (R201). -/
  | orderedStore (s : BitVec 3) (d a : BitVec 5) (c : BitVec 4) (o t : BitVec 3)
  /-- FENCE (R202). -/
  | fence (s : BitVec 3) (c : BitVec 4) (o : BitVec 3)
  /-- BARINIT (R210). -/
  | barinit (s : BitVec 3) (d a : BitVec 5)
  /-- BARBIND (R210). -/
  | barbind (s : BitVec 3) (d a : BitVec 5)
  /-- BARARR (R210). -/
  | bararr (s : BitVec 3) (d a : BitVec 5) (c : BitVec 4)
  /-- BARWAIT (R210). -/
  | barwait (s : BitVec 3) (t a : BitVec 5) (c : BitVec 4)
  /-- BARSYNC (R210). -/
  | barsync (s : BitVec 3) (a : BitVec 5) (c : BitVec 4)
  /-- BARRIER_PHASE_RELEASE (R224). -/
  | barrierPhaseRelease (barrier : Nat)
  /-- JOIN (R211). -/
  | joinSet (s : BitVec 3) (a : BitVec 5)
  /-- LEAVE (R211). -/
  | leaveSet (s : BitVec 3) (a : BitVec 5)
  /-- WMSET (R212). -/
  | wmset (s : BitVec 3) (w a : BitVec 5)
  /-- WMADV (R213). -/
  | wmadv (s : BitVec 3) (w a : BitVec 5) (c : BitVec 4)
  /-- WMRD (R213). -/
  | wmrd (s : BitVec 3) (d w : BitVec 5)
  /-- WATERMARK_WAIT_END (R214). -/
  | watermarkWaitEnd (core slot : Nat)
  /-- WAITM (R215). -/
  | waitm (s : BitVec 3) (a : BitVec 5)
  /-- EPUSH (R216). -/
  | epush (s : BitVec 3) (c e : BitVec 5)
  /-- EPUSH_T (R216). -/
  | epushT (s : BitVec 3) (c e : BitVec 5)
  /-- EPOP (R216). -/
  | epop (s : BitVec 3) (d e : BitVec 5)
  /-- EPOP_T (R216). -/
  | epopT (s : BitVec 3) (d e : BitVec 5)
  /-- EPUSH_AT (R216). -/
  | epushAt (s : BitVec 3) (c e : BitVec 5)
  /-- NEST (R219). -/
  | nest (s : BitVec 3) (x a : BitVec 5)
  /-- NEST_AT (R219). -/
  | nestAt (s : BitVec 3) (x a : BitVec 5)
  /-- DONE (R221). -/
  | doneH (s : BitVec 3)
  /-- YIELD (R221). -/
  | yieldH (s : BitVec 3)
  /-- SETVL (R99). -/
  | setvl (s : BitVec 3) (d a v : BitVec 5)
  /-- SETVLM (R99). -/
  | setvlm (s : BitVec 3) (d a v : BitVec 5)
  /-- VLD (R104). -/
  | vld (s : BitVec 3) (d a : BitVec 5) (k : BitVec 3) (h : BitVec 2)
  /-- VLDS (R104). -/
  | vlds (s : BitVec 3) (d a b : BitVec 5) (k : BitVec 3) (h : BitVec 2)
  /-- VLDL (R107). -/
  | vldl (s : BitVec 3) (d a : BitVec 5) (k : BitVec 3) (h : BitVec 2)
  /-- VLDP (R110). -/
  | vldp (s : BitVec 3) (d : BitVec 5) (p : BitVec 4) (b : BitVec 5) (k : BitVec 3)
  /-- VLM (R111). -/
  | vlm (s : BitVec 3) (d a n : BitVec 5) (h : BitVec 2)
  /-- VLMN (R113). -/
  | vlmn (s : BitVec 3) (a b : BitVec 5) (h : BitVec 2)
  /-- VST (R104). -/
  | vst (s : BitVec 3) (d a : BitVec 5) (k : BitVec 3) (h : BitVec 2)
  /-- VSTS (R104). -/
  | vsts (s : BitVec 3) (d a b : BitVec 5) (k : BitVec 3) (h : BitVec 2)
  /-- VSTL (R107). -/
  | vstl (s : BitVec 3) (d a : BitVec 5) (k : BitVec 3) (h : BitVec 2)
  /-- VSM (R111). -/
  | vsm (s : BitVec 3) (d a n : BitVec 5) (h : BitVec 2)
  /-- VSMN (R113). -/
  | vsmn (s : BitVec 3) (a b : BitVec 5) (h : BitVec 2)
  /-- VLDX (R108). -/
  | vldx (s : BitVec 3) (d a b : BitVec 5) (k : BitVec 3) (h : BitVec 2)
  /-- VSTX (R108). -/
  | vstx (s : BitVec 3) (d a b : BitVec 5) (k : BitVec 3) (h : BitVec 2)
  /-- VBIND (R115). -/
  | vbind (s : BitVec 3) (d a : BitVec 5)
  /-- VUNBIND (R115). -/
  | vunbind (s : BitVec 3) (d a : BitVec 5)
  /-- READ_AHEAD (R117). -/
  | readAhead (core slot : Nat) (v : BitVec 5)
  /-- VPREF (R118). -/
  | vpref (s : BitVec 3) (a : BitVec 5) (k : BitVec 3) (t : BitVec 2)
  /-- VPREFS (R118). -/
  | vprefs (s : BitVec 3) (a b : BitVec 5) (k : BitVec 3) (t : BitVec 2)
  /-- VADD (R124). -/
  | vadd (s : BitVec 3) (d a b : BitVec 5) (k : BitVec 3)
  /-- VSUB (R124). -/
  | vsub (s : BitVec 3) (d a b : BitVec 5) (k : BitVec 3)
  /-- VADD_S_I (R124). -/
  | vaddSI (s : BitVec 3) (d a b : BitVec 5) (k : BitVec 3)
  /-- VADD_S_N (R124). -/
  | vaddSN (s : BitVec 3) (d a b : BitVec 5) (k : BitVec 3)
  /-- VSUB_S_I (R124). -/
  | vsubSI (s : BitVec 3) (d a b : BitVec 5) (k : BitVec 3)
  /-- VSUB_S_N (R124). -/
  | vsubSN (s : BitVec 3) (d a b : BitVec 5) (k : BitVec 3)
  /-- VMUL (R124). -/
  | vmul (s : BitVec 3) (d a b : BitVec 5) (k : BitVec 3)
  /-- VMULH (R124). -/
  | vmulh (s : BitVec 3) (d a b : BitVec 5) (k : BitVec 3)
  /-- VMULHN (R124). -/
  | vmulhn (s : BitVec 3) (d a b : BitVec 5) (k : BitVec 3)
  /-- VAND (R124). -/
  | vand (s : BitVec 3) (d a b : BitVec 5) (k : BitVec 3)
  /-- VOR (R124). -/
  | vor (s : BitVec 3) (d a b : BitVec 5) (k : BitVec 3)
  /-- VXOR (R124). -/
  | vxor (s : BitVec 3) (d a b : BitVec 5) (k : BitVec 3)
  /-- VSLL (R124). -/
  | vsll (s : BitVec 3) (d a b : BitVec 5) (k : BitVec 3)
  /-- VSRL (R124). -/
  | vsrl (s : BitVec 3) (d a b : BitVec 5) (k : BitVec 3)
  /-- VSRA (R124). -/
  | vsra (s : BitVec 3) (d a b : BitVec 5) (k : BitVec 3)
  /-- VMIN (R124). -/
  | vmin (s : BitVec 3) (d a b : BitVec 5) (k : BitVec 3)
  /-- VMAX (R124). -/
  | vmax (s : BitVec 3) (d a b : BitVec 5) (k : BitVec 3)
  /-- VMINN (R124). -/
  | vminn (s : BitVec 3) (d a b : BitVec 5) (k : BitVec 3)
  /-- VMAXN (R124). -/
  | vmaxn (s : BitVec 3) (d a b : BitVec 5) (k : BitVec 3)
  /-- VDIV (R124). -/
  | vdiv (s : BitVec 3) (d a b : BitVec 5) (k : BitVec 3)
  /-- VDIVN (R124). -/
  | vdivn (s : BitVec 3) (d a b : BitVec 5) (k : BitVec 3)
  /-- VREM (R124). -/
  | vrem (s : BitVec 3) (d a b : BitVec 5) (k : BitVec 3)
  /-- VREMN (R124). -/
  | vremn (s : BitVec 3) (d a b : BitVec 5) (k : BitVec 3)
  /-- VADDI (R125). -/
  | vaddi (s : BitVec 3) (d a i : BitVec 5) (k : BitVec 3)
  /-- VRSUBI (R125). -/
  | vrsubi (s : BitVec 3) (d a i : BitVec 5) (k : BitVec 3)
  /-- VANDI (R125). -/
  | vandi (s : BitVec 3) (d a i : BitVec 5) (k : BitVec 3)
  /-- VORI (R125). -/
  | vori (s : BitVec 3) (d a i : BitVec 5) (k : BitVec 3)
  /-- VXORI (R125). -/
  | vxori (s : BitVec 3) (d a i : BitVec 5) (k : BitVec 3)
  /-- VSLLI (R125). -/
  | vslli (s : BitVec 3) (d a i : BitVec 5) (k : BitVec 3)
  /-- VSRLI (R125). -/
  | vsrli (s : BitVec 3) (d a i : BitVec 5) (k : BitVec 3)
  /-- VSRAI (R125). -/
  | vsrai (s : BitVec 3) (d a i : BitVec 5) (k : BitVec 3)
  /-- VFADD (R126). -/
  | vfadd (s : BitVec 3) (d a b : BitVec 5) (k : BitVec 3) (l : BitVec 1)
  /-- VFSUB (R126). -/
  | vfsub (s : BitVec 3) (d a b : BitVec 5) (k : BitVec 3) (l : BitVec 1)
  /-- VFMUL (R126). -/
  | vfmul (s : BitVec 3) (d a b : BitVec 5) (k : BitVec 3) (l : BitVec 1)
  /-- VFDIV (R126). -/
  | vfdiv (s : BitVec 3) (d a b : BitVec 5) (k : BitVec 3) (l : BitVec 1)
  /-- VFSQRT (R126). -/
  | vfsqrt (s : BitVec 3) (d a : BitVec 5) (k : BitVec 3) (l : BitVec 1)
  /-- VFMIN (R126). -/
  | vfmin (s : BitVec 3) (d a b : BitVec 5) (k : BitVec 3) (l : BitVec 1)
  /-- VFMAX (R126). -/
  | vfmax (s : BitVec 3) (d a b : BitVec 5) (k : BitVec 3) (l : BitVec 1)
  /-- VFSGNJ (R126). -/
  | vfsgnj (s : BitVec 3) (d a b : BitVec 5) (k : BitVec 3) (l : BitVec 1)
  /-- VFSGNJN (R126). -/
  | vfsgnjn (s : BitVec 3) (d a b : BitVec 5) (k : BitVec 3) (l : BitVec 1)
  /-- VFSGNJX (R126). -/
  | vfsgnjx (s : BitVec 3) (d a b : BitVec 5) (k : BitVec 3) (l : BitVec 1)
  /-- VFEXP2 (R127). -/
  | vfexp2 (s : BitVec 3) (d a : BitVec 5) (k : BitVec 3) (l : BitVec 1)
  /-- VFLOG2 (R128). -/
  | vflog2 (s : BitVec 3) (d a : BitVec 5) (k : BitVec 3) (l : BitVec 1)
  /-- VFRECE (R128). -/
  | vfrece (s : BitVec 3) (d a : BitVec 5) (k : BitVec 3) (l : BitVec 1)
  /-- VFRSQE (R128). -/
  | vfrsqe (s : BitVec 3) (d a : BitVec 5) (k : BitVec 3) (l : BitVec 1)
  /-- VFKIND (R126). -/
  | vfkind (s : BitVec 3) (d a : BitVec 5) (k : BitVec 3) (l : BitVec 1)
  /-- VFMA (R129). -/
  | vfma (s : BitVec 3) (d a b : BitVec 5) (k : BitVec 3) (l : BitVec 1)
  /-- VFMS (R129). -/
  | vfms (s : BitVec 3) (d a b : BitVec 5) (k : BitVec 3) (l : BitVec 1)
  /-- VFNMA (R129). -/
  | vfnma (s : BitVec 3) (d a b : BitVec 5) (k : BitVec 3) (l : BitVec 1)
  /-- VFNMS (R129). -/
  | vfnms (s : BitVec 3) (d a b : BitVec 5) (k : BitVec 3) (l : BitVec 1)
  /-- VMAC (R129). -/
  | vmac (s : BitVec 3) (d a b : BitVec 5) (k : BitVec 3)
  /-- VNMSAC (R129). -/
  | vnmsac (s : BitVec 3) (d a b : BitVec 5) (k : BitVec 3)
  /-- VDOT (R131). -/
  | vdot (s : BitVec 3) (d a b : BitVec 5) (k : BitVec 3) (c : BitVec 2)
  /-- VDIST_IP (R132). -/
  | vdistIp (s : BitVec 3) (d a b : BitVec 5) (k : BitVec 3) (c : BitVec 2)
  /-- VDIST_L2 (R132). -/
  | vdistL2 (s : BitVec 3) (d a b : BitVec 5) (k : BitVec 3) (c : BitVec 2)
  /-- VDIST_HAM (R132). -/
  | vdistHam (s : BitVec 3) (d a b : BitVec 5) (k : BitVec 3) (c : BitVec 2)
  /-- VQDEC (R133). -/
  | vqdec (s : BitVec 3) (d a : BitVec 5) (k : BitVec 3) (c : BitVec 2)
  /-- VQENC (R133). -/
  | vqenc (s : BitVec 3) (d a : BitVec 5) (k : BitVec 3) (c : BitVec 2)
  /-- VQENCO (R133). -/
  | vqenco (s : BitVec 3) (d a : BitVec 5) (k : BitVec 3) (c : BitVec 2)
  /-- VCVT (R134). -/
  | vcvt (s : BitVec 3) (d a u : BitVec 5) (k : BitVec 3) (t : BitVec 5)
  /-- VUNPK (R135). -/
  | vunpk (s : BitVec 3) (d a : BitVec 5) (w : BitVec 3) (g : BitVec 1) (k : BitVec 3)
  /-- VLUT (R136). -/
  | vlut (s : BitVec 3) (d a b : BitVec 5) (k : BitVec 3)
  /-- VEXPAND (R137). -/
  | vexpand (s : BitVec 3) (d a : BitVec 5) (k : BitVec 3)
  /-- VCOMPRESS (R137). -/
  | vcompress (s : BitVec 3) (d a : BitVec 5) (k : BitVec 3)
  /-- VPERM (R141). -/
  | vperm (s : BitVec 3) (d a b : BitVec 5) (k : BitVec 3)
  /-- VLIFT (R141). -/
  | vlift (s : BitVec 3) (d a b : BitVec 5) (k : BitVec 3)
  /-- VDROP (R141). -/
  | vdrop (s : BitVec 3) (d a b : BitVec 5) (k : BitVec 3)
  /-- VBCAST (R141). -/
  | vbcast (s : BitVec 3) (d a b : BitVec 5) (k : BitVec 3)
  /-- VREV (R141). -/
  | vrev (s : BitVec 3) (d a : BitVec 5) (k : BitVec 3)
  /-- VZIP (R141). -/
  | vzip (s : BitVec 3) (d a b : BitVec 5) (k : BitVec 3)
  /-- VUNZIP (R141). -/
  | vunzip (s : BitVec 3) (d a b : BitVec 5) (k : BitVec 3)
  /-- VRSUM (R142). -/
  | vrsum (s : BitVec 3) (d a b : BitVec 5) (k : BitVec 3)
  /-- VRMIN (R142). -/
  | vrmin (s : BitVec 3) (d a b : BitVec 5) (k : BitVec 3)
  /-- VRMAX (R142). -/
  | vrmax (s : BitVec 3) (d a b : BitVec 5) (k : BitVec 3)
  /-- VRMINN (R142). -/
  | vrminn (s : BitVec 3) (d a b : BitVec 5) (k : BitVec 3)
  /-- VRMAXN (R142). -/
  | vrmaxn (s : BitVec 3) (d a b : BitVec 5) (k : BitVec 3)
  /-- VRAND (R142). -/
  | vrand (s : BitVec 3) (d a b : BitVec 5) (k : BitVec 3)
  /-- VRIOR (R142). -/
  | vrior (s : BitVec 3) (d a b : BitVec 5) (k : BitVec 3)
  /-- VRXOR (R142). -/
  | vrxor (s : BitVec 3) (d a b : BitVec 5) (k : BitVec 3)
  /-- VFRSEQ (R142). -/
  | vfrseq (s : BitVec 3) (d a b : BitVec 5) (k : BitVec 3) (l : BitVec 1)
  /-- VFRPAIR (R142). -/
  | vfrpair (s : BitVec 3) (d a b : BitVec 5) (k : BitVec 3) (l : BitVec 1)
  /-- VFRMIN (R142). -/
  | vfrmin (s : BitVec 3) (d a b : BitVec 5) (k : BitVec 3) (l : BitVec 1)
  /-- VFRMAX (R142). -/
  | vfrmax (s : BitVec 3) (d a b : BitVec 5) (k : BitVec 3) (l : BitVec 1)
  /-- VMSEQ (R138). -/
  | vmseq (s d : BitVec 3) (a b : BitVec 5) (k : BitVec 3)
  /-- VMSNE (R138). -/
  | vmsne (s d : BitVec 3) (a b : BitVec 5) (k : BitVec 3)
  /-- VMSLT (R138). -/
  | vmslt (s d : BitVec 3) (a b : BitVec 5) (k : BitVec 3)
  /-- VMSLE (R138). -/
  | vmsle (s d : BitVec 3) (a b : BitVec 5) (k : BitVec 3)
  /-- VMSLTN (R138). -/
  | vmsltn (s d : BitVec 3) (a b : BitVec 5) (k : BitVec 3)
  /-- VMSLEN (R138). -/
  | vmslen (s d : BitVec 3) (a b : BitVec 5) (k : BitVec 3)
  /-- VMFEQ (R138). -/
  | vmfeq (s d : BitVec 3) (a b : BitVec 5) (k : BitVec 3) (l : BitVec 1)
  /-- VMFLT (R138). -/
  | vmflt (s d : BitVec 3) (a b : BitVec 5) (k : BitVec 3) (l : BitVec 1)
  /-- VMFLE (R138). -/
  | vmfle (s d : BitVec 3) (a b : BitVec 5) (k : BitVec 3) (l : BitVec 1)
  /-- KAND (R139). -/
  | kand (s d a b : BitVec 3)
  /-- KOR (R139). -/
  | kor (s d a b : BitVec 3)
  /-- KXOR (R139). -/
  | kxor (s d a b : BitVec 3)
  /-- KANDN (R139). -/
  | kandn (s d a b : BitVec 3)
  /-- KNOT (R139). -/
  | knot (s d a : BitVec 3)
  /-- KPOPC (R139). -/
  | kpopc (s : BitVec 3) (d : BitVec 5) (a k : BitVec 3)
  /-- KFIRST (R139). -/
  | kfirst (s : BitVec 3) (d : BitVec 5) (a k : BitVec 3)
  /-- VSEL (R140). -/
  | vsel (s : BitVec 3) (d a b : BitVec 5) (k : BitVec 3)
  /-- VMV (R143). -/
  | vmv (s : BitVec 3) (d a : BitVec 5) (k : BitVec 3)
  /-- VMVX (R143). -/
  | vmvx (s : BitVec 3) (d a b : BitVec 5)
  /-- VINS (R143). -/
  | vins (s : BitVec 3) (d a b : BitVec 5) (k : BitVec 3)
  /-- VMVVK (R143). -/
  | vmvvk (s d : BitVec 3) (a : BitVec 5) (k : BitVec 3)
  /-- VMVKV (R143). -/
  | vmvkv (s : BitVec 3) (d : BitVec 5) (a k : BitVec 3)
  /-- MOP_F64 (R151). -/
  | mopF64 (s : BitVec 3) (t : BitVec 2) (a b i : BitVec 5) (k : BitVec 3)
  /-- MOP_F32 (R151). -/
  | mopF32 (s : BitVec 3) (t : BitVec 2) (a b i : BitVec 5) (k : BitVec 3)
  /-- MOP_BF16 (R151). -/
  | mopBf16 (s : BitVec 3) (t : BitVec 2) (a b i : BitVec 5) (k : BitVec 3)
  /-- MOP_E4M3 (R151). -/
  | mopE4m3 (s : BitVec 3) (t : BitVec 2) (a b i : BitVec 5) (k : BitVec 3)
  /-- MOP_E5M2 (R151). -/
  | mopE5m2 (s : BitVec 3) (t : BitVec 2) (a b i : BitVec 5) (k : BitVec 3)
  /-- MOP_Q4X (R151). -/
  | mopQ4x (s : BitVec 3) (t : BitVec 2) (a b i : BitVec 5) (k : BitVec 3)
  /-- MOP_I4 (R151). -/
  | mopI4 (s : BitVec 3) (t : BitVec 2) (a b i : BitVec 5) (k : BitVec 3)
  /-- HALF_RATE_WINDOW (R157). -/
  | halfRateWindow (core : Nat)
  /-- MZERO (R153). -/
  | mzero (s : BitVec 3) (t : BitVec 2)
  /-- MRD (R154). -/
  | mrd (s : BitVec 3) (t : BitVec 2) (d r : BitVec 5) (k : BitVec 3)
  /-- MWR (R154). -/
  | mwr (s : BitVec 3) (t : BitVec 2) (a r : BitVec 5) (k : BitVec 3)
  /-- MLD (R155). -/
  | mld (s : BitVec 3) (t : BitVec 2) (a : BitVec 5)
  /-- MST (R155). -/
  | mst (s : BitVec 3) (t : BitVec 2) (a : BitVec 5)
  /-- PADD (R174). -/
  | padd (s : BitVec 3) (d a b : BitVec 4) (w : BitVec 5) (t : BitVec 1)
  /-- PSUB (R175). -/
  | psub (s : BitVec 3) (d a b : BitVec 4) (w : BitVec 5) (t : BitVec 1)
  /-- PMUL (R175). -/
  | pmul (s : BitVec 3) (d a b : BitVec 4) (w : BitVec 5) (t : BitVec 1)
  /-- PCMPEQ (R175). -/
  | pcmpeq (s : BitVec 3) (d a b : BitVec 4) (w : BitVec 5) (t : BitVec 1)
  /-- PCMPLT (R175). -/
  | pcmplt (s : BitVec 3) (d a b : BitVec 4) (w : BitVec 5) (t : BitVec 1)
  /-- PCMPLTN (R175). -/
  | pcmpltn (s : BitVec 3) (d a b : BitVec 4) (w : BitVec 5) (t : BitVec 1)
  /-- PTDOT (R175). -/
  | ptdot (s : BitVec 3) (d a b : BitVec 4) (w : BitVec 5) (t : BitVec 1)
  /-- PCRED (R175). -/
  | pcred (s : BitVec 3) (d a g : BitVec 4) (w : BitVec 5) (t : BitVec 1)
  /-- PNEG (R175). -/
  | pneg (s : BitVec 3) (d a : BitVec 4) (w : BitVec 5) (t : BitVec 1)
  /-- PAND (R175). -/
  | pand (s : BitVec 3) (d a b : BitVec 4) (w : BitVec 5) (t : BitVec 1)
  /-- POR (R175). -/
  | por (s : BitVec 3) (d a b : BitVec 4) (w : BitVec 5) (t : BitVec 1)
  /-- PXOR (R175). -/
  | pxor (s : BitVec 3) (d a b : BitVec 4) (w : BitVec 5) (t : BitVec 1)
  /-- PNOT (R175). -/
  | pnot (s : BitVec 3) (d a : BitVec 4) (w : BitVec 5) (t : BitVec 1)
  /-- PMAJ (R175). -/
  | pmaj (s : BitVec 3) (d a b : BitVec 4) (w : BitVec 5) (t : BitVec 1)
  /-- PSEL (R175). -/
  | psel (s : BitVec 3) (d a b : BitVec 4) (w : BitVec 5) (t : BitVec 1)
  /-- PSHL (R175). -/
  | pshl (s : BitVec 3) (d a k : BitVec 4) (w : BitVec 5) (t : BitVec 1)
  /-- PSHR (R175). -/
  | pshr (s : BitVec 3) (d a k : BitVec 4) (w : BitVec 5) (t : BitVec 1)
  /-- PCOPY (R175). -/
  | pcopy (s : BitVec 3) (d a : BitVec 4) (w : BitVec 5) (t : BitVec 1)
  /-- PRUN (R176). -/
  | prun (s : BitVec 3) (d a b : BitVec 4) (w : BitVec 5) (t : BitVec 1)
  /-- PLOCK (R178). -/
  | plock (s : BitVec 3) (a : BitVec 4) (m : BitVec 2)
  /-- LOCK_PLACED (R178). -/
  | lockPlaced (core slot : Nat)
  /-- PUNLOCK (R179). -/
  | punlock (s : BitVec 3) (a : BitVec 4)
  /-- LOCK_RELEASE (R179). -/
  | lockRelease (stack lock : Nat)
  /-- PFENCE (R180). -/
  | pfence (s : BitVec 3)
  /-- PHSET (R163). -/
  | phset (s : BitVec 3) (d : BitVec 4) (a b : BitVec 5)
  /-- PHGET (R164). -/
  | phget (s : BitVec 3) (d : BitVec 5) (p : BitVec 4)
  /-- MICROPROGRAM_START (R166). -/
  | microprogramStart (op : Nat)
  /-- ROW_OPERATION (R167). -/
  | rowOperation (op : Nat)
  /-- SYNC (R169). -/
  | syncWindow (op : Nat)
  /-- REFRESH (R170). -/
  | refresh (stack die : Nat)
  /-- DWCFG (R191). -/
  | dwcfg (s : BitVec 3) (a : BitVec 5)
  /-- DWLAUNCH (R192). -/
  | dwlaunch (s : BitVec 3) (e : BitVec 1) (a b : BitVec 5) (k : BitVec 3)
  /-- DWLAUNCH_AT (R194). -/
  | dwlaunchAt (s : BitVec 3) (e : BitVec 1) (a b : BitVec 5) (k : BitVec 3)
  /-- RACE_BEGIN (R194). -/
  | raceBegin (core slot : Nat)
  /-- RACE_END (R193). -/
  | raceEnd (core slot : Nat)
  /-- DWCAP (R196). -/
  | dwcap (s : BitVec 3) (d a : BitVec 5) (k : BitVec 3)
  /-- DWRD (R197). -/
  | dwrd (s : BitVec 3) (d l : BitVec 5) (k : BitVec 3)
  /-- DWLDW (R197). -/
  | dwldw (s : BitVec 3) (a l : BitVec 5) (k : BitVec 3)
  /-- DWMP_MIN (R195). -/
  | dwmpMin (s : BitVec 3) (d a : BitVec 5) (k : BitVec 3)
  /-- DWMP_MAX (R195). -/
  | dwmpMax (s : BitVec 3) (d a : BitVec 5) (k : BitVec 3)
  /-- DWRST (R191). -/
  | dwrst (s : BitVec 3)
  /-- DWWIN (R191). -/
  | dwwin (s : BitVec 3) (a : BitVec 5)
  /-- MERIDIAN_ALARM (R20). -/
  | meridianAlarm (core slot : Nat)
  /-- WAITM_EXPIRY (R215). -/
  | waitmExpiry (core slot : Nat)
  /-- ASYNCHRONOUS_TRAP (R283). -/
  | asynchronousTrap (core slot : Nat)
  /-- SLICE_EXPIRY (R269). -/
  | sliceExpiry (core slot : Nat)
  /-- WAITING_SWITCH_OUT (R269). -/
  | waitingSwitchOut (core slot : Nat)
  /-- SWITCH_IN (R271). -/
  | switchIn (core slot : Nat)
  /-- WAIT_CONDITION_OBSERVED (R265). -/
  | waitConditionObserved (pid : Nat) (hid : BitVec 32)
  /-- NEST_HANDOFF (R274). -/
  | nestHandoff (stack core slot : Nat)
  /-- WAY_CONVERSION (R314). -/
  | wayConversion (stack position : Nat)
  /-- COPY (R324). -/
  | engineCopy (engine : Nat)
  /-- CTURN (R325). -/
  | engineCturn (engine : Nat)
  /-- ENGINE_PREF (R326). -/
  | enginePref (engine : Nat)
  /-- SNAP (R327). -/
  | engineSnap (engine : Nat)
  /-- FILL (R328). -/
  | engineFill (engine : Nat)
  /-- START (R266). -/
  | startRoot (pid : Nat) (rec : BitVec 64)
  /-- CONFIGURE (R344). -/
  | configure (pid : Nat) (cfg : PartCfg)
  /-- UNCONFIGURE (R347). -/
  | unconfigure (pid : Nat)
  /-- SWAP_OUT (R298). -/
  | swapOut (pid : Nat)
  /-- RESTORE (R300). -/
  | restorePart (pid : Nat)
  /-- FREEZE_SET (R292). -/
  | freezeSet (pid : Nat)
  /-- FREEZE_CLEAR (R292). -/
  | freezeClear (pid : Nat)
  /-- RESUME (R294). -/
  | resumeMaster (m : BusMaster)
  /-- ABORT (R294). -/
  | abortMaster (m : BusMaster)
  /-- LOG_READ (R339). -/
  | logRead (stack : Nat)
  /-- LOG_CLEAR (R339). -/
  | logClear (stack : Nat)
  /-- ATTEST (R351). -/
  | attest (pid : Nat) (nonce : List (BitVec 8))
  /-- IMAGE_TRANSFER (R350). -/
  | imageTransfer (image : FwImage)
  /-- CXL_MEM_READ (R343). -/
  | cxlMemRead (who : Requester) (pa size : Nat)
  /-- CXL_MEM_WRITE (R245). -/
  | cxlMemWrite (who : Requester) (pa : Nat) (bytes : List (BitVec 8))
  /-- COMPLETION_TIMEOUT (R343). -/
  | completionTimeout (request : Nat)
  /-- HOST_SNOOP (R318). -/
  | hostSnoop (pa : Nat)
  /-- TRANSFER_REPEAT (R336, R337): for a transfer and each of its repeats, the lanes that flipped, each with its beat; lanes 128 to 135 are the
  parity lanes. -/
  | transferRepeat (column : ColumnRef) (pa : Nat) (first : LaneFlips) (repeats : List LaneFlips)
  /-- LANE_DIAGNOSIS (R337). -/
  | laneDiagnosis (column : ColumnRef) (pa : Nat) (failing : List Nat) (passes : Bool)
  /-- UNIT_LOSS (R340). -/
  | unitLoss (unit : ModuleUnit)
  /-- MODULE_RESET (R340). -/
  | moduleReset
  /-- COOLANT_PRESSURE_LOSS (R340). -/
  | coolantPressureLoss
  /-- POWER_WINDOW (R352). -/
  | powerWindow (watts : Nat)
  /-- ILLEGAL_INSTRUCTION (R68). -/
  | illegalInstruction (w : BitVec 32)
  /-- TEMPERATURE_THROTTLE (R338, R352): the temperatures of the coolant inlet and of dies, in °C. -/
  | temperatureThrottle (inlet : Nat) (dies : List Heated)
  /-- SOFT_ERROR (R330). -/
  | softError (pa : Nat) (bits : List Nat)
deriving DecidableEq, Repr

end Sys2Proof
end

