-- ==== Sys2Proof/WellFormed.lean ====
section
/-! DEFINITION. Which instructions are words of the instruction set: the codes that R53, R58, R64, R65, R68 and the
instructions' own chapters reserve, each with a name. -/

namespace Sys2Proof

/-- Why a word is no instruction (R68). -/
inductive Reject where
  /-- 0x0000_0000 or 0xFFFF_FFFF: cause 0x001 -/
  | permanentlyIllegal
  /-- a major opcode absent from Table 4 (R63) -/
  | reservedMajor
  /-- a function or selector code that Table 6 does not list (R65) -/
  | unallocated
  /-- a nonzero value in a field stated zero (R53) -/
  | fieldNotZero
  /-- a reserved order code (R64) or one that the instruction does not take (R201, R202) -/
  | reservedOrder
  /-- a scope code from 12 to 15 (R64), or 9 to 15 on pub (R206) -/
  | reservedScope
  /-- hint 3 where it is reserved (R64, R102), or target tier 3 (R85, R118) -/
  | reservedHint
  /-- a type code that the instruction does not take (R80, R134, R201) -/
  | reservedType
  /-- a rounding mode field without override, or a reserved mode (R65, R79) -/
  | reservedRounding
  /-- PFX: class 0b11 with copy enable, a copy register without copy enable, or a k copy register above 7 (R58) -/
  | badPrefix
  /-- an operand number or combination that the instruction's chapter excludes (R90, R111, R178, R192, R197, R203, R216) -/
  | badOperand
  /-- control registers 0x019 and 0x030 have write rows of their own in the opcode table -/
  | ownRow
deriving DecidableEq, Repr

/-- none where the condition holds, the rejection otherwise. -/
def rejectUnless (ok : Bool) (r : Reject) : Option Reject := if ok then none else some r

/-- The first rejection of a list of checks. -/
def firstReject : List (Option Reject) → Option Reject
  | [] => none
  | some r :: _ => some r
  | none :: rest => firstReject rest

/-- Types that the conversions of R80 and R134 take: not .e2m1, not .q4x, and none above .t2. -/
def typeConverts (t : BitVec 5) : Bool := t.toNat ≤ 17 && t.toNat != 14 && t.toNat != 16

/-- Scope codes 0 to 11 (R64). -/
def scopeOk (c : BitVec 4) : Option Reject := rejectUnless (c.toNat ≤ 11) .reservedScope

/-- Hints 0 to 2, where 3 is reserved (R64). -/
def hintOk (h : BitVec 2) : Option Reject := rejectUnless (h != 3) .reservedHint

/-- Rounding override of a scalar floating-point word (R65): the mode is zero without override and a mode of R30 with it. -/
def roundingOk (o : BitVec 1) (m : BitVec 3) : Option Reject :=
  rejectUnless (if o = 1 then m.toNat ≤ 4 else m = 0) .reservedRounding

/-- Order and scope of an atomic (R203). -/
def amoOk (c : BitVec 4) (o : BitVec 3) : Option Reject :=
  firstReject [scopeOk c, rejectUnless (o.toNat ≤ 4) .reservedOrder]

/-- The rejection of an instruction whose codes are reserved, none for a word of the instruction set. -/
def Instr.check : Instr → Option Reject
  | .ecall _ n => rejectUnless (n != 0) .badOperand
  | .sysw _ _ c => rejectUnless (c != 0x19 && c != 0x30) .ownRow
  | .pfx _ _ e c r => rejectUnless (if e = 0 then r == 0 else c != 3 && (c != 2 || r.toNat < 8)) .badPrefix
  | .fadd _ _ _ _ o m | .fsub _ _ _ _ o m | .fmul _ _ _ _ o m | .fdiv _ _ _ _ o m | .fma _ _ _ _ o m
  | .fmin _ _ _ _ o m | .fmax _ _ _ _ o m | .feq _ _ _ _ o m | .flt _ _ _ _ o m | .fle _ _ _ _ o m => roundingOk o m
  | .fsqrt _ _ _ o m | .fkind _ _ _ o m => roundingOk o m
  | .fcvt _ _ _ t o m | .fcvtf _ _ _ t o m => firstReject [roundingOk o m, rejectUnless (typeConverts t) .reservedType]
  | .lb _ _ _ h _ | .lh _ _ _ h _ | .lw _ _ _ h _ | .ld _ _ _ h _ | .lbn _ _ _ h _ | .lhn _ _ _ h _ | .lwn _ _ _ h _
  | .sb _ _ _ h _ | .sh _ _ _ h _ | .sw _ _ _ h _ | .sd _ _ _ h _ => hintOk h
  | .pref _ t _ _ => hintOk t
  | .pub _ _ _ c => rejectUnless (c.toNat ≤ 8) .reservedScope
  | .amoswap _ _ _ c o _ | .amoadd _ _ _ c o _ | .amoand _ _ _ c o _ | .amoor _ _ _ c o _ | .amoxor _ _ _ c o _
  | .amomin _ _ _ c o _ | .amomax _ _ _ c o _ | .amominn _ _ _ c o _ | .amomaxn _ _ _ c o _ => amoOk c o
  | .amocas _ d _ c o _ => firstReject [amoOk c o, rejectUnless (d != 31) .badOperand]
  | .orderedLoad _ _ _ c o t =>
      firstReject [scopeOk c, rejectUnless (o == 0 || o == 1 || o == 4) .reservedOrder, rejectUnless (t != 7) .reservedType]
  | .orderedStore _ _ _ c o t =>
      firstReject [scopeOk c, rejectUnless (o == 0 || o == 2 || o == 4) .reservedOrder, rejectUnless (t.toNat < 4) .reservedType]
  | .fence _ c o => firstReject [scopeOk c, rejectUnless (o != 0 && o.toNat ≤ 4) .reservedOrder]
  | .bararr _ _ _ c | .barwait _ _ _ c | .barsync _ _ c | .wmadv _ _ _ c => scopeOk c
  | .epush _ c _ | .epushT _ c _ | .epushAt _ c _ => rejectUnless (c.toNat ≤ 28) .badOperand
  | .vlm _ d _ n h | .vsm _ d _ n h => firstReject [hintOk h, rejectUnless (d.toNat + n.toNat ≤ 31) .badOperand]
  | .vlmn _ _ _ h | .vsmn _ _ _ h => hintOk h
  | .vpref _ _ _ t | .vprefs _ _ _ _ t => hintOk t
  | .vcvt _ _ _ u _ t => rejectUnless (typeConverts t && typeConverts u) .reservedType
  | .plock _ _ m => rejectUnless (m != 0) .badOperand
  | .dwlaunch _ e _ b _ | .dwlaunchAt _ e _ b _ => rejectUnless (e == 1 || b == 0) .fieldNotZero
  | .dwrd _ _ l _ => rejectUnless (l == 0 || l == 1 || l == 3) .badOperand
  | .dwldw _ _ l _ => rejectUnless (l.toNat ≤ 3) .badOperand
  | _ => none

/-- A well-formed instruction: one whose word is no word of R68. -/
def Instr.wf (i : Instr) : Bool := i.check.isNone

end Sys2Proof
end

