-- ==== Sys2Proof/Decode.lean ====
section
/-! DEFINITION. Decoding and encoding of the 32-bit instruction words (R50 to R53, R63 to R68). Tables 1, 4 and 6 of
03_instruction_words give the fields. Decoding is total: it answers an instruction or the name of the rejection. Lean's compiler has no tag for an inductive's constructor past the
244th, so the definitions that build such constructors are marked noncomputable: they have no compiled code, and the kernel
evaluates them like any other.-/

namespace Sys2Proof

/-- Bits [lo + k - 1 : lo] of the word whose value is n (R51). -/
def bits (n lo k : Nat) : BitVec k := BitVec.ofNat k (n / 2 ^ lo)

/-- A word's value: the match value of Table 6 with each field placed at its lowest bit (R51). -/
def layWord (m : Nat) : List (Nat × Nat) → Nat
  | [] => m
  | (v, lo) :: rest => layWord (m + v * 2 ^ lo) rest

/-- The value of an instruction's word, written from Tables 1 and 6 (R51, R65). Events have no word. -/
def encodeNat : Instr → Option Nat
  | .ecall s n => some (layWord 0x00000000 [(s.toNat, 23), (n.toNat, 18)])
  | .eret s e p => some (layWord 0x00000001 [(s.toNat, 23), (e.toNat, 18), (p.toNat, 13)])
  | .wfi s => some (layWord 0x00000002 [(s.toNat, 23)])
  | .brk s n => some (layWord 0x00000003 [(s.toNat, 23), (n.toNat, 18)])
  | .tlbi s a => some (layWord 0x00000004 [(s.toNat, 23), (a.toNat, 13)])
  | .tlbia s => some (layWord 0x00000005 [(s.toNat, 23)])
  | .vname s d a => some (layWord 0x00000006 [(s.toNat, 23), (d.toNat, 18), (a.toNat, 13)])
  | .fencei s => some (layWord 0x00000007 [(s.toNat, 23)])
  | .sysr s d c => some (layWord 0x00001C00 [(s.toNat, 23), (d.toNat, 18), (c.toNat, 0)])
  | .sysw s a c => some (layWord 0x00001E00 [(s.toNat, 23), (a.toNat, 13), (c.toNat, 0)])
  | .syswVown s a => some (layWord 0x00001E19 [(s.toNat, 23), (a.toNat, 13)])
  | .syswWpart s a => some (layWord 0x00001E30 [(s.toNat, 23), (a.toNat, 13)])
  | .pfx k p e c r => some (layWord 0x04000000 [(k.toNat, 23), (p.toNat, 22), (e.toNat, 21), (c.toNat, 19), (r.toNat, 14)])
  | .addR s d a b => some (layWord 0x08000000 [(s.toNat, 23), (d.toNat, 18), (a.toNat, 13), (b.toNat, 8)])
  | .subR s d a b => some (layWord 0x08000001 [(s.toNat, 23), (d.toNat, 18), (a.toNat, 13), (b.toNat, 8)])
  | .andR s d a b => some (layWord 0x08000002 [(s.toNat, 23), (d.toNat, 18), (a.toNat, 13), (b.toNat, 8)])
  | .orR s d a b => some (layWord 0x08000003 [(s.toNat, 23), (d.toNat, 18), (a.toNat, 13), (b.toNat, 8)])
  | .xorR s d a b => some (layWord 0x08000004 [(s.toNat, 23), (d.toNat, 18), (a.toNat, 13), (b.toNat, 8)])
  | .sll s d a b => some (layWord 0x08000005 [(s.toNat, 23), (d.toNat, 18), (a.toNat, 13), (b.toNat, 8)])
  | .srl s d a b => some (layWord 0x08000006 [(s.toNat, 23), (d.toNat, 18), (a.toNat, 13), (b.toNat, 8)])
  | .sra s d a b => some (layWord 0x08000007 [(s.toNat, 23), (d.toNat, 18), (a.toNat, 13), (b.toNat, 8)])
  | .slt s d a b => some (layWord 0x08000008 [(s.toNat, 23), (d.toNat, 18), (a.toNat, 13), (b.toNat, 8)])
  | .sltn s d a b => some (layWord 0x08000009 [(s.toNat, 23), (d.toNat, 18), (a.toNat, 13), (b.toNat, 8)])
  | .minR s d a b => some (layWord 0x0800000A [(s.toNat, 23), (d.toNat, 18), (a.toNat, 13), (b.toNat, 8)])
  | .maxR s d a b => some (layWord 0x0800000B [(s.toNat, 23), (d.toNat, 18), (a.toNat, 13), (b.toNat, 8)])
  | .minn s d a b => some (layWord 0x0800000C [(s.toNat, 23), (d.toNat, 18), (a.toNat, 13), (b.toNat, 8)])
  | .maxn s d a b => some (layWord 0x0800000D [(s.toNat, 23), (d.toNat, 18), (a.toNat, 13), (b.toNat, 8)])
  | .addS s d a b => some (layWord 0x0800000E [(s.toNat, 23), (d.toNat, 18), (a.toNat, 13), (b.toNat, 8)])
  | .subS s d a b => some (layWord 0x0800000F [(s.toNat, 23), (d.toNat, 18), (a.toNat, 13), (b.toNat, 8)])
  | .clz s d a => some (layWord 0x08000010 [(s.toNat, 23), (d.toNat, 18), (a.toNat, 13)])
  | .ctz s d a => some (layWord 0x08000011 [(s.toNat, 23), (d.toNat, 18), (a.toNat, 13)])
  | .popc s d a => some (layWord 0x08000012 [(s.toNat, 23), (d.toNat, 18), (a.toNat, 13)])
  | .addi s d a i => some (layWord 0x0C000000 [(s.toNat, 23), (d.toNat, 18), (a.toNat, 13), (i.toNat, 0)])
  | .andi s d a i => some (layWord 0x10000000 [(s.toNat, 23), (d.toNat, 18), (a.toNat, 13), (i.toNat, 0)])
  | .ori s d a i => some (layWord 0x14000000 [(s.toNat, 23), (d.toNat, 18), (a.toNat, 13), (i.toNat, 0)])
  | .xori s d a i => some (layWord 0x18000000 [(s.toNat, 23), (d.toNat, 18), (a.toNat, 13), (i.toNat, 0)])
  | .slli s d a h => some (layWord 0x1C000000 [(s.toNat, 23), (d.toNat, 18), (a.toNat, 13), (h.toNat, 0)])
  | .srli s d a h => some (layWord 0x1C000800 [(s.toNat, 23), (d.toNat, 18), (a.toNat, 13), (h.toNat, 0)])
  | .srai s d a h => some (layWord 0x1C001000 [(s.toNat, 23), (d.toNat, 18), (a.toNat, 13), (h.toNat, 0)])
  | .slti s d a i => some (layWord 0x20000000 [(s.toNat, 23), (d.toNat, 18), (a.toNat, 13), (i.toNat, 0)])
  | .sltin s d a i => some (layWord 0x20001000 [(s.toNat, 23), (d.toNat, 18), (a.toNat, 13), (i.toNat, 0)])
  | .li s d i => some (layWord 0x24000000 [(s.toNat, 23), (d.toNat, 18), (i.toNat, 0)])
  | .lih s d i => some (layWord 0x24020000 [(s.toNat, 23), (d.toNat, 18), (i.toNat, 0)])
  | .mul s d a b => some (layWord 0x28000000 [(s.toNat, 23), (d.toNat, 18), (a.toNat, 13), (b.toNat, 8)])
  | .mulh s d a b => some (layWord 0x28000001 [(s.toNat, 23), (d.toNat, 18), (a.toNat, 13), (b.toNat, 8)])
  | .mulhn s d a b => some (layWord 0x28000002 [(s.toNat, 23), (d.toNat, 18), (a.toNat, 13), (b.toNat, 8)])
  | .mulhsn s d a b => some (layWord 0x28000003 [(s.toNat, 23), (d.toNat, 18), (a.toNat, 13), (b.toNat, 8)])
  | .div s d a b => some (layWord 0x28000004 [(s.toNat, 23), (d.toNat, 18), (a.toNat, 13), (b.toNat, 8)])
  | .divn s d a b => some (layWord 0x28000005 [(s.toNat, 23), (d.toNat, 18), (a.toNat, 13), (b.toNat, 8)])
  | .rem s d a b => some (layWord 0x28000006 [(s.toNat, 23), (d.toNat, 18), (a.toNat, 13), (b.toNat, 8)])
  | .remn s d a b => some (layWord 0x28000007 [(s.toNat, 23), (d.toNat, 18), (a.toNat, 13), (b.toNat, 8)])
  | .fadd s d a b o m => some (layWord 0x2C000000 [(s.toNat, 23), (d.toNat, 18), (a.toNat, 13), (b.toNat, 8), (o.toNat, 7), (m.toNat, 4)])
  | .fsub s d a b o m => some (layWord 0x2C000001 [(s.toNat, 23), (d.toNat, 18), (a.toNat, 13), (b.toNat, 8), (o.toNat, 7), (m.toNat, 4)])
  | .fmul s d a b o m => some (layWord 0x2C000002 [(s.toNat, 23), (d.toNat, 18), (a.toNat, 13), (b.toNat, 8), (o.toNat, 7), (m.toNat, 4)])
  | .fdiv s d a b o m => some (layWord 0x2C000003 [(s.toNat, 23), (d.toNat, 18), (a.toNat, 13), (b.toNat, 8), (o.toNat, 7), (m.toNat, 4)])
  | .fsqrt s d a o m => some (layWord 0x2C000004 [(s.toNat, 23), (d.toNat, 18), (a.toNat, 13), (o.toNat, 7), (m.toNat, 4)])
  | .fma s d a b o m => some (layWord 0x2C000005 [(s.toNat, 23), (d.toNat, 18), (a.toNat, 13), (b.toNat, 8), (o.toNat, 7), (m.toNat, 4)])
  | .fmin s d a b o m => some (layWord 0x2C000006 [(s.toNat, 23), (d.toNat, 18), (a.toNat, 13), (b.toNat, 8), (o.toNat, 7), (m.toNat, 4)])
  | .fmax s d a b o m => some (layWord 0x2C000007 [(s.toNat, 23), (d.toNat, 18), (a.toNat, 13), (b.toNat, 8), (o.toNat, 7), (m.toNat, 4)])
  | .feq s d a b o m => some (layWord 0x2C000008 [(s.toNat, 23), (d.toNat, 18), (a.toNat, 13), (b.toNat, 8), (o.toNat, 7), (m.toNat, 4)])
  | .flt s d a b o m => some (layWord 0x2C000009 [(s.toNat, 23), (d.toNat, 18), (a.toNat, 13), (b.toNat, 8), (o.toNat, 7), (m.toNat, 4)])
  | .fle s d a b o m => some (layWord 0x2C00000A [(s.toNat, 23), (d.toNat, 18), (a.toNat, 13), (b.toNat, 8), (o.toNat, 7), (m.toNat, 4)])
  | .fkind s d a o m => some (layWord 0x2C00000B [(s.toNat, 23), (d.toNat, 18), (a.toNat, 13), (o.toNat, 7), (m.toNat, 4)])
  | .fcvt s d a t o m => some (layWord 0x2C00000C [(s.toNat, 23), (d.toNat, 18), (a.toNat, 13), (t.toNat, 8), (o.toNat, 7), (m.toNat, 4)])
  | .fcvtf s d a t o m => some (layWord 0x2C00000D [(s.toNat, 23), (d.toNat, 18), (a.toNat, 13), (t.toNat, 8), (o.toNat, 7), (m.toNat, 4)])
  | .lb s d a h i => some (layWord 0x30000000 [(s.toNat, 23), (d.toNat, 18), (a.toNat, 13), (h.toNat, 8), (i.toNat, 0)])
  | .lh s d a h i => some (layWord 0x30000400 [(s.toNat, 23), (d.toNat, 18), (a.toNat, 13), (h.toNat, 8), (i.toNat, 0)])
  | .lw s d a h i => some (layWord 0x30000800 [(s.toNat, 23), (d.toNat, 18), (a.toNat, 13), (h.toNat, 8), (i.toNat, 0)])
  | .ld s d a h i => some (layWord 0x30000C00 [(s.toNat, 23), (d.toNat, 18), (a.toNat, 13), (h.toNat, 8), (i.toNat, 0)])
  | .lbn s d a h i => some (layWord 0x30001000 [(s.toNat, 23), (d.toNat, 18), (a.toNat, 13), (h.toNat, 8), (i.toNat, 0)])
  | .lhn s d a h i => some (layWord 0x30001400 [(s.toNat, 23), (d.toNat, 18), (a.toNat, 13), (h.toNat, 8), (i.toNat, 0)])
  | .lwn s d a h i => some (layWord 0x30001800 [(s.toNat, 23), (d.toNat, 18), (a.toNat, 13), (h.toNat, 8), (i.toNat, 0)])
  | .pref s t a i => some (layWord 0x30001C00 [(s.toNat, 23), (t.toNat, 18), (a.toNat, 13), (i.toNat, 0)])
  | .sb s d a h i => some (layWord 0x34000000 [(s.toNat, 23), (d.toNat, 18), (a.toNat, 13), (h.toNat, 8), (i.toNat, 0)])
  | .sh s d a h i => some (layWord 0x34000400 [(s.toNat, 23), (d.toNat, 18), (a.toNat, 13), (h.toNat, 8), (i.toNat, 0)])
  | .sw s d a h i => some (layWord 0x34000800 [(s.toNat, 23), (d.toNat, 18), (a.toNat, 13), (h.toNat, 8), (i.toNat, 0)])
  | .sd s d a h i => some (layWord 0x34000C00 [(s.toNat, 23), (d.toNat, 18), (a.toNat, 13), (h.toNat, 8), (i.toNat, 0)])
  | .mkref s d a => some (layWord 0x38000000 [(s.toNat, 23), (d.toNat, 18), (a.toNat, 13)])
  | .rtag s d a => some (layWord 0x38000001 [(s.toNat, 23), (d.toNat, 18), (a.toNat, 13)])
  | .pub s d a c => some (layWord 0x38000002 [(s.toNat, 23), (d.toNat, 18), (a.toNat, 13), (c.toNat, 9)])
  | .amoswap s d a c o z => some (layWord 0x3C000020 [(s.toNat, 23), (d.toNat, 18), (a.toNat, 13), (c.toNat, 9), (o.toNat, 6), (z.toNat, 4)])
  | .amoadd s d a c o z => some (layWord 0x3C000021 [(s.toNat, 23), (d.toNat, 18), (a.toNat, 13), (c.toNat, 9), (o.toNat, 6), (z.toNat, 4)])
  | .amoand s d a c o z => some (layWord 0x3C000022 [(s.toNat, 23), (d.toNat, 18), (a.toNat, 13), (c.toNat, 9), (o.toNat, 6), (z.toNat, 4)])
  | .amoor s d a c o z => some (layWord 0x3C000023 [(s.toNat, 23), (d.toNat, 18), (a.toNat, 13), (c.toNat, 9), (o.toNat, 6), (z.toNat, 4)])
  | .amoxor s d a c o z => some (layWord 0x3C000024 [(s.toNat, 23), (d.toNat, 18), (a.toNat, 13), (c.toNat, 9), (o.toNat, 6), (z.toNat, 4)])
  | .amomin s d a c o z => some (layWord 0x3C000025 [(s.toNat, 23), (d.toNat, 18), (a.toNat, 13), (c.toNat, 9), (o.toNat, 6), (z.toNat, 4)])
  | .amomax s d a c o z => some (layWord 0x3C000026 [(s.toNat, 23), (d.toNat, 18), (a.toNat, 13), (c.toNat, 9), (o.toNat, 6), (z.toNat, 4)])
  | .amominn s d a c o z => some (layWord 0x3C000027 [(s.toNat, 23), (d.toNat, 18), (a.toNat, 13), (c.toNat, 9), (o.toNat, 6), (z.toNat, 4)])
  | .amomaxn s d a c o z => some (layWord 0x3C000028 [(s.toNat, 23), (d.toNat, 18), (a.toNat, 13), (c.toNat, 9), (o.toNat, 6), (z.toNat, 4)])
  | .amocas s d a c o z => some (layWord 0x3C000029 [(s.toNat, 23), (d.toNat, 18), (a.toNat, 13), (c.toNat, 9), (o.toNat, 6), (z.toNat, 4)])
  | .beq s a b i => some (layWord 0x40000000 [(s.toNat, 23), (a.toNat, 18), (b.toNat, 13), (i.toNat, 0)])
  | .bne s a b i => some (layWord 0x44000000 [(s.toNat, 23), (a.toNat, 18), (b.toNat, 13), (i.toNat, 0)])
  | .blt s a b i => some (layWord 0x48000000 [(s.toNat, 23), (a.toNat, 18), (b.toNat, 13), (i.toNat, 0)])
  | .bge s a b i => some (layWord 0x4C000000 [(s.toNat, 23), (a.toNat, 18), (b.toNat, 13), (i.toNat, 0)])
  | .bltn s a b i => some (layWord 0x50000000 [(s.toNat, 23), (a.toNat, 18), (b.toNat, 13), (i.toNat, 0)])
  | .bgen s a b i => some (layWord 0x54000000 [(s.toNat, 23), (a.toNat, 18), (b.toNat, 13), (i.toNat, 0)])
  | .jump s i => some (layWord 0x58000000 [(s.toNat, 23), (i.toNat, 0)])
  | .jal s l i => some (layWord 0x5C000000 [(s.toNat, 23), (l.toNat, 18), (i.toNat, 0)])
  | .jalr s d a i => some (layWord 0x60000000 [(s.toNat, 23), (d.toNat, 18), (a.toNat, 13), (i.toNat, 0)])
  | .orderedLoad s d a c o t => some (layWord 0x64000000 [(s.toNat, 23), (d.toNat, 18), (a.toNat, 13), (c.toNat, 9), (o.toNat, 4), (t.toNat, 0)])
  | .orderedStore s d a c o t => some (layWord 0x64000008 [(s.toNat, 23), (d.toNat, 18), (a.toNat, 13), (c.toNat, 9), (o.toNat, 4), (t.toNat, 0)])
  | .fence s c o => some (layWord 0x64000080 [(s.toNat, 23), (c.toNat, 9), (o.toNat, 4)])
  | .barinit s d a => some (layWord 0x64000100 [(s.toNat, 23), (d.toNat, 18), (a.toNat, 13)])
  | .barbind s d a => some (layWord 0x64000101 [(s.toNat, 23), (d.toNat, 18), (a.toNat, 13)])
  | .bararr s d a c => some (layWord 0x64000102 [(s.toNat, 23), (d.toNat, 18), (a.toNat, 13), (c.toNat, 9)])
  | .barwait s t a c => some (layWord 0x64000103 [(s.toNat, 23), (t.toNat, 18), (a.toNat, 13), (c.toNat, 9)])
  | .barsync s a c => some (layWord 0x64000104 [(s.toNat, 23), (a.toNat, 13), (c.toNat, 9)])
  | .barrierPhaseRelease _ => none
  | .joinSet s a => some (layWord 0x64000105 [(s.toNat, 23), (a.toNat, 13)])
  | .leaveSet s a => some (layWord 0x64000106 [(s.toNat, 23), (a.toNat, 13)])
  | .wmset s w a => some (layWord 0x64000107 [(s.toNat, 23), (w.toNat, 18), (a.toNat, 13)])
  | .wmadv s w a c => some (layWord 0x64000108 [(s.toNat, 23), (w.toNat, 18), (a.toNat, 13), (c.toNat, 9)])
  | .wmrd s d w => some (layWord 0x64000109 [(s.toNat, 23), (d.toNat, 18), (w.toNat, 13)])
  | .watermarkWaitEnd _ _ => none
  | .waitm s a => some (layWord 0x6400010A [(s.toNat, 23), (a.toNat, 13)])
  | .epush s c e => some (layWord 0x68000000 [(s.toNat, 23), (c.toNat, 18), (e.toNat, 13)])
  | .epushT s c e => some (layWord 0x68000001 [(s.toNat, 23), (c.toNat, 18), (e.toNat, 13)])
  | .epop s d e => some (layWord 0x68000002 [(s.toNat, 23), (d.toNat, 18), (e.toNat, 13)])
  | .epopT s d e => some (layWord 0x68000003 [(s.toNat, 23), (d.toNat, 18), (e.toNat, 13)])
  | .epushAt s c e => some (layWord 0x68000004 [(s.toNat, 23), (c.toNat, 18), (e.toNat, 13)])
  | .nest s x a => some (layWord 0x6C000000 [(s.toNat, 23), (x.toNat, 18), (a.toNat, 13)])
  | .nestAt s x a => some (layWord 0x6C000001 [(s.toNat, 23), (x.toNat, 18), (a.toNat, 13)])
  | .doneH s => some (layWord 0x6C000002 [(s.toNat, 23)])
  | .yieldH s => some (layWord 0x6C000003 [(s.toNat, 23)])
  | .setvl s d a v => some (layWord 0x80000000 [(s.toNat, 23), (d.toNat, 18), (a.toNat, 13), (v.toNat, 0)])
  | .setvlm s d a v => some (layWord 0x80000800 [(s.toNat, 23), (d.toNat, 18), (a.toNat, 13), (v.toNat, 0)])
  | .vld s d a k h => some (layWord 0x84000000 [(s.toNat, 23), (d.toNat, 18), (a.toNat, 13), (k.toNat, 5), (h.toNat, 3)])
  | .vlds s d a b k h => some (layWord 0x84000001 [(s.toNat, 23), (d.toNat, 18), (a.toNat, 13), (b.toNat, 8), (k.toNat, 5), (h.toNat, 3)])
  | .vldl s d a k h => some (layWord 0x84000002 [(s.toNat, 23), (d.toNat, 18), (a.toNat, 13), (k.toNat, 5), (h.toNat, 3)])
  | .vldp s d p b k => some (layWord 0x84000003 [(s.toNat, 23), (d.toNat, 18), (p.toNat, 13), (b.toNat, 8), (k.toNat, 5)])
  | .vlm s d a n h => some (layWord 0x84000004 [(s.toNat, 23), (d.toNat, 18), (a.toNat, 13), (n.toNat, 8), (h.toNat, 3)])
  | .vlmn s a b h => some (layWord 0x84000005 [(s.toNat, 23), (a.toNat, 13), (b.toNat, 8), (h.toNat, 3)])
  | .vst s d a k h => some (layWord 0x88000000 [(s.toNat, 23), (d.toNat, 18), (a.toNat, 13), (k.toNat, 5), (h.toNat, 3)])
  | .vsts s d a b k h => some (layWord 0x88000001 [(s.toNat, 23), (d.toNat, 18), (a.toNat, 13), (b.toNat, 8), (k.toNat, 5), (h.toNat, 3)])
  | .vstl s d a k h => some (layWord 0x88000002 [(s.toNat, 23), (d.toNat, 18), (a.toNat, 13), (k.toNat, 5), (h.toNat, 3)])
  | .vsm s d a n h => some (layWord 0x88000004 [(s.toNat, 23), (d.toNat, 18), (a.toNat, 13), (n.toNat, 8), (h.toNat, 3)])
  | .vsmn s a b h => some (layWord 0x88000005 [(s.toNat, 23), (a.toNat, 13), (b.toNat, 8), (h.toNat, 3)])
  | .vldx s d a b k h => some (layWord 0x8C000000 [(s.toNat, 23), (d.toNat, 18), (a.toNat, 13), (b.toNat, 8), (k.toNat, 5), (h.toNat, 3)])
  | .vstx s d a b k h => some (layWord 0x8C000001 [(s.toNat, 23), (d.toNat, 18), (a.toNat, 13), (b.toNat, 8), (k.toNat, 5), (h.toNat, 3)])
  | .vbind s d a => some (layWord 0x90000000 [(s.toNat, 23), (d.toNat, 18), (a.toNat, 13)])
  | .vunbind s d a => some (layWord 0x90000001 [(s.toNat, 23), (d.toNat, 18), (a.toNat, 13)])
  | .readAhead _ _ _ => none
  | .vpref s a k t => some (layWord 0x90000002 [(s.toNat, 23), (a.toNat, 13), (k.toNat, 5), (t.toNat, 3)])
  | .vprefs s a b k t => some (layWord 0x90000003 [(s.toNat, 23), (a.toNat, 13), (b.toNat, 8), (k.toNat, 5), (t.toNat, 3)])
  | .vadd s d a b k => some (layWord 0x94000000 [(s.toNat, 23), (d.toNat, 18), (a.toNat, 13), (b.toNat, 8), (k.toNat, 5)])
  | .vsub s d a b k => some (layWord 0x94000001 [(s.toNat, 23), (d.toNat, 18), (a.toNat, 13), (b.toNat, 8), (k.toNat, 5)])
  | .vaddSI s d a b k => some (layWord 0x94000002 [(s.toNat, 23), (d.toNat, 18), (a.toNat, 13), (b.toNat, 8), (k.toNat, 5)])
  | .vaddSN s d a b k => some (layWord 0x94000003 [(s.toNat, 23), (d.toNat, 18), (a.toNat, 13), (b.toNat, 8), (k.toNat, 5)])
  | .vsubSI s d a b k => some (layWord 0x94000004 [(s.toNat, 23), (d.toNat, 18), (a.toNat, 13), (b.toNat, 8), (k.toNat, 5)])
  | .vsubSN s d a b k => some (layWord 0x94000005 [(s.toNat, 23), (d.toNat, 18), (a.toNat, 13), (b.toNat, 8), (k.toNat, 5)])
  | .vmul s d a b k => some (layWord 0x94000006 [(s.toNat, 23), (d.toNat, 18), (a.toNat, 13), (b.toNat, 8), (k.toNat, 5)])
  | .vmulh s d a b k => some (layWord 0x94000007 [(s.toNat, 23), (d.toNat, 18), (a.toNat, 13), (b.toNat, 8), (k.toNat, 5)])
  | .vmulhn s d a b k => some (layWord 0x94000008 [(s.toNat, 23), (d.toNat, 18), (a.toNat, 13), (b.toNat, 8), (k.toNat, 5)])
  | .vand s d a b k => some (layWord 0x94000009 [(s.toNat, 23), (d.toNat, 18), (a.toNat, 13), (b.toNat, 8), (k.toNat, 5)])
  | .vor s d a b k => some (layWord 0x9400000A [(s.toNat, 23), (d.toNat, 18), (a.toNat, 13), (b.toNat, 8), (k.toNat, 5)])
  | .vxor s d a b k => some (layWord 0x9400000B [(s.toNat, 23), (d.toNat, 18), (a.toNat, 13), (b.toNat, 8), (k.toNat, 5)])
  | .vsll s d a b k => some (layWord 0x9400000C [(s.toNat, 23), (d.toNat, 18), (a.toNat, 13), (b.toNat, 8), (k.toNat, 5)])
  | .vsrl s d a b k => some (layWord 0x9400000D [(s.toNat, 23), (d.toNat, 18), (a.toNat, 13), (b.toNat, 8), (k.toNat, 5)])
  | .vsra s d a b k => some (layWord 0x9400000E [(s.toNat, 23), (d.toNat, 18), (a.toNat, 13), (b.toNat, 8), (k.toNat, 5)])
  | .vmin s d a b k => some (layWord 0x9400000F [(s.toNat, 23), (d.toNat, 18), (a.toNat, 13), (b.toNat, 8), (k.toNat, 5)])
  | .vmax s d a b k => some (layWord 0x94000010 [(s.toNat, 23), (d.toNat, 18), (a.toNat, 13), (b.toNat, 8), (k.toNat, 5)])
  | .vminn s d a b k => some (layWord 0x94000011 [(s.toNat, 23), (d.toNat, 18), (a.toNat, 13), (b.toNat, 8), (k.toNat, 5)])
  | .vmaxn s d a b k => some (layWord 0x94000012 [(s.toNat, 23), (d.toNat, 18), (a.toNat, 13), (b.toNat, 8), (k.toNat, 5)])
  | .vdiv s d a b k => some (layWord 0x94000013 [(s.toNat, 23), (d.toNat, 18), (a.toNat, 13), (b.toNat, 8), (k.toNat, 5)])
  | .vdivn s d a b k => some (layWord 0x94000014 [(s.toNat, 23), (d.toNat, 18), (a.toNat, 13), (b.toNat, 8), (k.toNat, 5)])
  | .vrem s d a b k => some (layWord 0x94000015 [(s.toNat, 23), (d.toNat, 18), (a.toNat, 13), (b.toNat, 8), (k.toNat, 5)])
  | .vremn s d a b k => some (layWord 0x94000016 [(s.toNat, 23), (d.toNat, 18), (a.toNat, 13), (b.toNat, 8), (k.toNat, 5)])
  | .vaddi s d a i k => some (layWord 0x98000000 [(s.toNat, 23), (d.toNat, 18), (a.toNat, 13), (i.toNat, 8), (k.toNat, 5)])
  | .vrsubi s d a i k => some (layWord 0x98000001 [(s.toNat, 23), (d.toNat, 18), (a.toNat, 13), (i.toNat, 8), (k.toNat, 5)])
  | .vandi s d a i k => some (layWord 0x98000002 [(s.toNat, 23), (d.toNat, 18), (a.toNat, 13), (i.toNat, 8), (k.toNat, 5)])
  | .vori s d a i k => some (layWord 0x98000003 [(s.toNat, 23), (d.toNat, 18), (a.toNat, 13), (i.toNat, 8), (k.toNat, 5)])
  | .vxori s d a i k => some (layWord 0x98000004 [(s.toNat, 23), (d.toNat, 18), (a.toNat, 13), (i.toNat, 8), (k.toNat, 5)])
  | .vslli s d a i k => some (layWord 0x98000005 [(s.toNat, 23), (d.toNat, 18), (a.toNat, 13), (i.toNat, 8), (k.toNat, 5)])
  | .vsrli s d a i k => some (layWord 0x98000006 [(s.toNat, 23), (d.toNat, 18), (a.toNat, 13), (i.toNat, 8), (k.toNat, 5)])
  | .vsrai s d a i k => some (layWord 0x98000007 [(s.toNat, 23), (d.toNat, 18), (a.toNat, 13), (i.toNat, 8), (k.toNat, 5)])
  | .vfadd s d a b k l => some (layWord 0x9C000000 [(s.toNat, 23), (d.toNat, 18), (a.toNat, 13), (b.toNat, 8), (k.toNat, 5), (l.toNat, 4)])
  | .vfsub s d a b k l => some (layWord 0x9C000001 [(s.toNat, 23), (d.toNat, 18), (a.toNat, 13), (b.toNat, 8), (k.toNat, 5), (l.toNat, 4)])
  | .vfmul s d a b k l => some (layWord 0x9C000002 [(s.toNat, 23), (d.toNat, 18), (a.toNat, 13), (b.toNat, 8), (k.toNat, 5), (l.toNat, 4)])
  | .vfdiv s d a b k l => some (layWord 0x9C000003 [(s.toNat, 23), (d.toNat, 18), (a.toNat, 13), (b.toNat, 8), (k.toNat, 5), (l.toNat, 4)])
  | .vfsqrt s d a k l => some (layWord 0x9C000004 [(s.toNat, 23), (d.toNat, 18), (a.toNat, 13), (k.toNat, 5), (l.toNat, 4)])
  | .vfmin s d a b k l => some (layWord 0x9C000005 [(s.toNat, 23), (d.toNat, 18), (a.toNat, 13), (b.toNat, 8), (k.toNat, 5), (l.toNat, 4)])
  | .vfmax s d a b k l => some (layWord 0x9C000006 [(s.toNat, 23), (d.toNat, 18), (a.toNat, 13), (b.toNat, 8), (k.toNat, 5), (l.toNat, 4)])
  | .vfsgnj s d a b k l => some (layWord 0x9C000007 [(s.toNat, 23), (d.toNat, 18), (a.toNat, 13), (b.toNat, 8), (k.toNat, 5), (l.toNat, 4)])
  | .vfsgnjn s d a b k l => some (layWord 0x9C000008 [(s.toNat, 23), (d.toNat, 18), (a.toNat, 13), (b.toNat, 8), (k.toNat, 5), (l.toNat, 4)])
  | .vfsgnjx s d a b k l => some (layWord 0x9C000009 [(s.toNat, 23), (d.toNat, 18), (a.toNat, 13), (b.toNat, 8), (k.toNat, 5), (l.toNat, 4)])
  | .vfexp2 s d a k l => some (layWord 0x9C00000A [(s.toNat, 23), (d.toNat, 18), (a.toNat, 13), (k.toNat, 5), (l.toNat, 4)])
  | .vflog2 s d a k l => some (layWord 0x9C00000B [(s.toNat, 23), (d.toNat, 18), (a.toNat, 13), (k.toNat, 5), (l.toNat, 4)])
  | .vfrece s d a k l => some (layWord 0x9C00000C [(s.toNat, 23), (d.toNat, 18), (a.toNat, 13), (k.toNat, 5), (l.toNat, 4)])
  | .vfrsqe s d a k l => some (layWord 0x9C00000D [(s.toNat, 23), (d.toNat, 18), (a.toNat, 13), (k.toNat, 5), (l.toNat, 4)])
  | .vfkind s d a k l => some (layWord 0x9C00000E [(s.toNat, 23), (d.toNat, 18), (a.toNat, 13), (k.toNat, 5), (l.toNat, 4)])
  | .vfma s d a b k l => some (layWord 0xA0000000 [(s.toNat, 23), (d.toNat, 18), (a.toNat, 13), (b.toNat, 8), (k.toNat, 5), (l.toNat, 4)])
  | .vfms s d a b k l => some (layWord 0xA0000001 [(s.toNat, 23), (d.toNat, 18), (a.toNat, 13), (b.toNat, 8), (k.toNat, 5), (l.toNat, 4)])
  | .vfnma s d a b k l => some (layWord 0xA0000002 [(s.toNat, 23), (d.toNat, 18), (a.toNat, 13), (b.toNat, 8), (k.toNat, 5), (l.toNat, 4)])
  | .vfnms s d a b k l => some (layWord 0xA0000003 [(s.toNat, 23), (d.toNat, 18), (a.toNat, 13), (b.toNat, 8), (k.toNat, 5), (l.toNat, 4)])
  | .vmac s d a b k => some (layWord 0xA0000004 [(s.toNat, 23), (d.toNat, 18), (a.toNat, 13), (b.toNat, 8), (k.toNat, 5)])
  | .vnmsac s d a b k => some (layWord 0xA0000005 [(s.toNat, 23), (d.toNat, 18), (a.toNat, 13), (b.toNat, 8), (k.toNat, 5)])
  | .vdot s d a b k c => some (layWord 0xA4000000 [(s.toNat, 23), (d.toNat, 18), (a.toNat, 13), (b.toNat, 8), (k.toNat, 5), (c.toNat, 3)])
  | .vdistIp s d a b k c => some (layWord 0xA4000001 [(s.toNat, 23), (d.toNat, 18), (a.toNat, 13), (b.toNat, 8), (k.toNat, 5), (c.toNat, 3)])
  | .vdistL2 s d a b k c => some (layWord 0xA4000002 [(s.toNat, 23), (d.toNat, 18), (a.toNat, 13), (b.toNat, 8), (k.toNat, 5), (c.toNat, 3)])
  | .vdistHam s d a b k c => some (layWord 0xA4000003 [(s.toNat, 23), (d.toNat, 18), (a.toNat, 13), (b.toNat, 8), (k.toNat, 5), (c.toNat, 3)])
  | .vqdec s d a k c => some (layWord 0xA4000004 [(s.toNat, 23), (d.toNat, 18), (a.toNat, 13), (k.toNat, 5), (c.toNat, 3)])
  | .vqenc s d a k c => some (layWord 0xA4000005 [(s.toNat, 23), (d.toNat, 18), (a.toNat, 13), (k.toNat, 5), (c.toNat, 3)])
  | .vqenco s d a k c => some (layWord 0xA4000006 [(s.toNat, 23), (d.toNat, 18), (a.toNat, 13), (k.toNat, 5), (c.toNat, 3)])
  | .vcvt s d a u k t => some (layWord 0xA8000000 [(s.toNat, 23), (d.toNat, 18), (a.toNat, 13), (u.toNat, 8), (k.toNat, 5), (t.toNat, 0)])
  | .vunpk s d a w g k => some (layWord 0xA8000012 [(s.toNat, 23), (d.toNat, 18), (a.toNat, 13), (w.toNat, 10), (g.toNat, 8), (k.toNat, 5)])
  | .vlut s d a b k => some (layWord 0xA8000013 [(s.toNat, 23), (d.toNat, 18), (a.toNat, 13), (b.toNat, 8), (k.toNat, 5)])
  | .vexpand s d a k => some (layWord 0xA8000014 [(s.toNat, 23), (d.toNat, 18), (a.toNat, 13), (k.toNat, 5)])
  | .vcompress s d a k => some (layWord 0xA8000015 [(s.toNat, 23), (d.toNat, 18), (a.toNat, 13), (k.toNat, 5)])
  | .vperm s d a b k => some (layWord 0xAC000000 [(s.toNat, 23), (d.toNat, 18), (a.toNat, 13), (b.toNat, 8), (k.toNat, 5)])
  | .vlift s d a b k => some (layWord 0xAC000001 [(s.toNat, 23), (d.toNat, 18), (a.toNat, 13), (b.toNat, 8), (k.toNat, 5)])
  | .vdrop s d a b k => some (layWord 0xAC000002 [(s.toNat, 23), (d.toNat, 18), (a.toNat, 13), (b.toNat, 8), (k.toNat, 5)])
  | .vbcast s d a b k => some (layWord 0xAC000003 [(s.toNat, 23), (d.toNat, 18), (a.toNat, 13), (b.toNat, 8), (k.toNat, 5)])
  | .vrev s d a k => some (layWord 0xAC000004 [(s.toNat, 23), (d.toNat, 18), (a.toNat, 13), (k.toNat, 5)])
  | .vzip s d a b k => some (layWord 0xAC000005 [(s.toNat, 23), (d.toNat, 18), (a.toNat, 13), (b.toNat, 8), (k.toNat, 5)])
  | .vunzip s d a b k => some (layWord 0xAC000006 [(s.toNat, 23), (d.toNat, 18), (a.toNat, 13), (b.toNat, 8), (k.toNat, 5)])
  | .vrsum s d a b k => some (layWord 0xB0000000 [(s.toNat, 23), (d.toNat, 18), (a.toNat, 13), (b.toNat, 8), (k.toNat, 5)])
  | .vrmin s d a b k => some (layWord 0xB0000001 [(s.toNat, 23), (d.toNat, 18), (a.toNat, 13), (b.toNat, 8), (k.toNat, 5)])
  | .vrmax s d a b k => some (layWord 0xB0000002 [(s.toNat, 23), (d.toNat, 18), (a.toNat, 13), (b.toNat, 8), (k.toNat, 5)])
  | .vrminn s d a b k => some (layWord 0xB0000003 [(s.toNat, 23), (d.toNat, 18), (a.toNat, 13), (b.toNat, 8), (k.toNat, 5)])
  | .vrmaxn s d a b k => some (layWord 0xB0000004 [(s.toNat, 23), (d.toNat, 18), (a.toNat, 13), (b.toNat, 8), (k.toNat, 5)])
  | .vrand s d a b k => some (layWord 0xB0000005 [(s.toNat, 23), (d.toNat, 18), (a.toNat, 13), (b.toNat, 8), (k.toNat, 5)])
  | .vrior s d a b k => some (layWord 0xB0000006 [(s.toNat, 23), (d.toNat, 18), (a.toNat, 13), (b.toNat, 8), (k.toNat, 5)])
  | .vrxor s d a b k => some (layWord 0xB0000007 [(s.toNat, 23), (d.toNat, 18), (a.toNat, 13), (b.toNat, 8), (k.toNat, 5)])
  | .vfrseq s d a b k l => some (layWord 0xB0000008 [(s.toNat, 23), (d.toNat, 18), (a.toNat, 13), (b.toNat, 8), (k.toNat, 5), (l.toNat, 4)])
  | .vfrpair s d a b k l => some (layWord 0xB0000009 [(s.toNat, 23), (d.toNat, 18), (a.toNat, 13), (b.toNat, 8), (k.toNat, 5), (l.toNat, 4)])
  | .vfrmin s d a b k l => some (layWord 0xB000000A [(s.toNat, 23), (d.toNat, 18), (a.toNat, 13), (b.toNat, 8), (k.toNat, 5), (l.toNat, 4)])
  | .vfrmax s d a b k l => some (layWord 0xB000000B [(s.toNat, 23), (d.toNat, 18), (a.toNat, 13), (b.toNat, 8), (k.toNat, 5), (l.toNat, 4)])
  | .vmseq s d a b k => some (layWord 0xB4000000 [(s.toNat, 23), (d.toNat, 18), (a.toNat, 13), (b.toNat, 8), (k.toNat, 5)])
  | .vmsne s d a b k => some (layWord 0xB4000001 [(s.toNat, 23), (d.toNat, 18), (a.toNat, 13), (b.toNat, 8), (k.toNat, 5)])
  | .vmslt s d a b k => some (layWord 0xB4000002 [(s.toNat, 23), (d.toNat, 18), (a.toNat, 13), (b.toNat, 8), (k.toNat, 5)])
  | .vmsle s d a b k => some (layWord 0xB4000003 [(s.toNat, 23), (d.toNat, 18), (a.toNat, 13), (b.toNat, 8), (k.toNat, 5)])
  | .vmsltn s d a b k => some (layWord 0xB4000004 [(s.toNat, 23), (d.toNat, 18), (a.toNat, 13), (b.toNat, 8), (k.toNat, 5)])
  | .vmslen s d a b k => some (layWord 0xB4000005 [(s.toNat, 23), (d.toNat, 18), (a.toNat, 13), (b.toNat, 8), (k.toNat, 5)])
  | .vmfeq s d a b k l => some (layWord 0xB4000006 [(s.toNat, 23), (d.toNat, 18), (a.toNat, 13), (b.toNat, 8), (k.toNat, 5), (l.toNat, 4)])
  | .vmflt s d a b k l => some (layWord 0xB4000007 [(s.toNat, 23), (d.toNat, 18), (a.toNat, 13), (b.toNat, 8), (k.toNat, 5), (l.toNat, 4)])
  | .vmfle s d a b k l => some (layWord 0xB4000008 [(s.toNat, 23), (d.toNat, 18), (a.toNat, 13), (b.toNat, 8), (k.toNat, 5), (l.toNat, 4)])
  | .kand s d a b => some (layWord 0xB4000009 [(s.toNat, 23), (d.toNat, 18), (a.toNat, 13), (b.toNat, 8)])
  | .kor s d a b => some (layWord 0xB400000A [(s.toNat, 23), (d.toNat, 18), (a.toNat, 13), (b.toNat, 8)])
  | .kxor s d a b => some (layWord 0xB400000B [(s.toNat, 23), (d.toNat, 18), (a.toNat, 13), (b.toNat, 8)])
  | .kandn s d a b => some (layWord 0xB400000C [(s.toNat, 23), (d.toNat, 18), (a.toNat, 13), (b.toNat, 8)])
  | .knot s d a => some (layWord 0xB400000D [(s.toNat, 23), (d.toNat, 18), (a.toNat, 13)])
  | .kpopc s d a k => some (layWord 0xB400000E [(s.toNat, 23), (d.toNat, 18), (a.toNat, 13), (k.toNat, 5)])
  | .kfirst s d a k => some (layWord 0xB400000F [(s.toNat, 23), (d.toNat, 18), (a.toNat, 13), (k.toNat, 5)])
  | .vsel s d a b k => some (layWord 0xB4000010 [(s.toNat, 23), (d.toNat, 18), (a.toNat, 13), (b.toNat, 8), (k.toNat, 5)])
  | .vmv s d a k => some (layWord 0xB8000000 [(s.toNat, 23), (d.toNat, 18), (a.toNat, 13), (k.toNat, 5)])
  | .vmvx s d a b => some (layWord 0xB8000001 [(s.toNat, 23), (d.toNat, 18), (a.toNat, 13), (b.toNat, 8)])
  | .vins s d a b k => some (layWord 0xB8000002 [(s.toNat, 23), (d.toNat, 18), (a.toNat, 13), (b.toNat, 8), (k.toNat, 5)])
  | .vmvvk s d a k => some (layWord 0xB8000003 [(s.toNat, 23), (d.toNat, 18), (a.toNat, 13), (k.toNat, 5)])
  | .vmvkv s d a k => some (layWord 0xB8000004 [(s.toNat, 23), (d.toNat, 18), (a.toNat, 13), (k.toNat, 5)])
  | .mopF64 s t a b i k => some (layWord 0xC0000000 [(s.toNat, 23), (t.toNat, 21), (a.toNat, 16), (b.toNat, 11), (i.toNat, 6), (k.toNat, 3)])
  | .mopF32 s t a b i k => some (layWord 0xC0000001 [(s.toNat, 23), (t.toNat, 21), (a.toNat, 16), (b.toNat, 11), (i.toNat, 6), (k.toNat, 3)])
  | .mopBf16 s t a b i k => some (layWord 0xC0000002 [(s.toNat, 23), (t.toNat, 21), (a.toNat, 16), (b.toNat, 11), (i.toNat, 6), (k.toNat, 3)])
  | .mopE4m3 s t a b i k => some (layWord 0xC0000003 [(s.toNat, 23), (t.toNat, 21), (a.toNat, 16), (b.toNat, 11), (i.toNat, 6), (k.toNat, 3)])
  | .mopE5m2 s t a b i k => some (layWord 0xC0000004 [(s.toNat, 23), (t.toNat, 21), (a.toNat, 16), (b.toNat, 11), (i.toNat, 6), (k.toNat, 3)])
  | .mopQ4x s t a b i k => some (layWord 0xC0000005 [(s.toNat, 23), (t.toNat, 21), (a.toNat, 16), (b.toNat, 11), (i.toNat, 6), (k.toNat, 3)])
  | .mopI4 s t a b i k => some (layWord 0xC0000006 [(s.toNat, 23), (t.toNat, 21), (a.toNat, 16), (b.toNat, 11), (i.toNat, 6), (k.toNat, 3)])
  | .halfRateWindow _ => none
  | .mzero s t => some (layWord 0xC4000000 [(s.toNat, 23), (t.toNat, 21)])
  | .mrd s t d r k => some (layWord 0xC4000001 [(s.toNat, 23), (t.toNat, 21), (d.toNat, 16), (r.toNat, 6), (k.toNat, 3)])
  | .mwr s t a r k => some (layWord 0xC4000002 [(s.toNat, 23), (t.toNat, 21), (a.toNat, 16), (r.toNat, 6), (k.toNat, 3)])
  | .mld s t a => some (layWord 0xC4000003 [(s.toNat, 23), (t.toNat, 21), (a.toNat, 16)])
  | .mst s t a => some (layWord 0xC4000004 [(s.toNat, 23), (t.toNat, 21), (a.toNat, 16)])
  | .padd s d a b w t => some (layWord 0xD0000000 [(s.toNat, 23), (d.toNat, 19), (a.toNat, 15), (b.toNat, 11), (w.toNat, 6), (t.toNat, 5)])
  | .psub s d a b w t => some (layWord 0xD0000001 [(s.toNat, 23), (d.toNat, 19), (a.toNat, 15), (b.toNat, 11), (w.toNat, 6), (t.toNat, 5)])
  | .pmul s d a b w t => some (layWord 0xD0000002 [(s.toNat, 23), (d.toNat, 19), (a.toNat, 15), (b.toNat, 11), (w.toNat, 6), (t.toNat, 5)])
  | .pcmpeq s d a b w t => some (layWord 0xD0000003 [(s.toNat, 23), (d.toNat, 19), (a.toNat, 15), (b.toNat, 11), (w.toNat, 6), (t.toNat, 5)])
  | .pcmplt s d a b w t => some (layWord 0xD0000004 [(s.toNat, 23), (d.toNat, 19), (a.toNat, 15), (b.toNat, 11), (w.toNat, 6), (t.toNat, 5)])
  | .pcmpltn s d a b w t => some (layWord 0xD0000005 [(s.toNat, 23), (d.toNat, 19), (a.toNat, 15), (b.toNat, 11), (w.toNat, 6), (t.toNat, 5)])
  | .ptdot s d a b w t => some (layWord 0xD0000006 [(s.toNat, 23), (d.toNat, 19), (a.toNat, 15), (b.toNat, 11), (w.toNat, 6), (t.toNat, 5)])
  | .pcred s d a g w t => some (layWord 0xD0000007 [(s.toNat, 23), (d.toNat, 19), (a.toNat, 15), (g.toNat, 11), (w.toNat, 6), (t.toNat, 5)])
  | .pneg s d a w t => some (layWord 0xD0000008 [(s.toNat, 23), (d.toNat, 19), (a.toNat, 15), (w.toNat, 6), (t.toNat, 5)])
  | .pand s d a b w t => some (layWord 0xD4000000 [(s.toNat, 23), (d.toNat, 19), (a.toNat, 15), (b.toNat, 11), (w.toNat, 6), (t.toNat, 5)])
  | .por s d a b w t => some (layWord 0xD4000001 [(s.toNat, 23), (d.toNat, 19), (a.toNat, 15), (b.toNat, 11), (w.toNat, 6), (t.toNat, 5)])
  | .pxor s d a b w t => some (layWord 0xD4000002 [(s.toNat, 23), (d.toNat, 19), (a.toNat, 15), (b.toNat, 11), (w.toNat, 6), (t.toNat, 5)])
  | .pnot s d a w t => some (layWord 0xD4000003 [(s.toNat, 23), (d.toNat, 19), (a.toNat, 15), (w.toNat, 6), (t.toNat, 5)])
  | .pmaj s d a b w t => some (layWord 0xD4000004 [(s.toNat, 23), (d.toNat, 19), (a.toNat, 15), (b.toNat, 11), (w.toNat, 6), (t.toNat, 5)])
  | .psel s d a b w t => some (layWord 0xD4000005 [(s.toNat, 23), (d.toNat, 19), (a.toNat, 15), (b.toNat, 11), (w.toNat, 6), (t.toNat, 5)])
  | .pshl s d a k w t => some (layWord 0xD4000006 [(s.toNat, 23), (d.toNat, 19), (a.toNat, 15), (k.toNat, 11), (w.toNat, 6), (t.toNat, 5)])
  | .pshr s d a k w t => some (layWord 0xD4000007 [(s.toNat, 23), (d.toNat, 19), (a.toNat, 15), (k.toNat, 11), (w.toNat, 6), (t.toNat, 5)])
  | .pcopy s d a w t => some (layWord 0xD4000008 [(s.toNat, 23), (d.toNat, 19), (a.toNat, 15), (w.toNat, 6), (t.toNat, 5)])
  | .prun s d a b w t => some (layWord 0xD8000000 [(s.toNat, 23), (d.toNat, 19), (a.toNat, 15), (b.toNat, 11), (w.toNat, 6), (t.toNat, 5)])
  | .plock s a m => some (layWord 0xD8000001 [(s.toNat, 23), (a.toNat, 15), (m.toNat, 6)])
  | .lockPlaced _ _ => none
  | .punlock s a => some (layWord 0xD8000002 [(s.toNat, 23), (a.toNat, 15)])
  | .lockRelease _ _ => none
  | .pfence s => some (layWord 0xD8000003 [(s.toNat, 23)])
  | .phset s d a b => some (layWord 0xD8000004 [(s.toNat, 23), (d.toNat, 19), (a.toNat, 14), (b.toNat, 9)])
  | .phget s d p => some (layWord 0xD8000005 [(s.toNat, 23), (d.toNat, 18), (p.toNat, 14)])
  | .microprogramStart _ => none
  | .rowOperation _ => none
  | .syncWindow _ => none
  | .refresh _ _ => none
  | .dwcfg s a => some (layWord 0xE0000000 [(s.toNat, 23), (a.toNat, 13)])
  | .dwlaunch s e a b k => some (layWord 0xE0000001 [(s.toNat, 23), (e.toNat, 18), (a.toNat, 13), (b.toNat, 8), (k.toNat, 5)])
  | .dwlaunchAt s e a b k => some (layWord 0xE0000002 [(s.toNat, 23), (e.toNat, 18), (a.toNat, 13), (b.toNat, 8), (k.toNat, 5)])
  | .raceBegin _ _ => none
  | .raceEnd _ _ => none
  | .dwcap s d a k => some (layWord 0xE0000003 [(s.toNat, 23), (d.toNat, 18), (a.toNat, 13), (k.toNat, 5)])
  | .dwrd s d l k => some (layWord 0xE0000004 [(s.toNat, 23), (d.toNat, 18), (l.toNat, 13), (k.toNat, 5)])
  | .dwldw s a l k => some (layWord 0xE0000005 [(s.toNat, 23), (a.toNat, 13), (l.toNat, 8), (k.toNat, 5)])
  | .dwmpMin s d a k => some (layWord 0xE0000006 [(s.toNat, 23), (d.toNat, 18), (a.toNat, 13), (k.toNat, 5)])
  | .dwmpMax s d a k => some (layWord 0xE0000007 [(s.toNat, 23), (d.toNat, 18), (a.toNat, 13), (k.toNat, 5)])
  | .dwrst s => some (layWord 0xE0000008 [(s.toNat, 23)])
  | .dwwin s a => some (layWord 0xE0000009 [(s.toNat, 23), (a.toNat, 13)])
  | .meridianAlarm _ _ => none
  | .waitmExpiry _ _ => none
  | .asynchronousTrap _ _ => none
  | .sliceExpiry _ _ => none
  | .waitingSwitchOut _ _ => none
  | .switchIn _ _ => none
  | .waitConditionObserved _ _ => none
  | .nestHandoff _ _ _ => none
  | .wayConversion _ _ => none
  | .engineCopy _ => none
  | .engineCturn _ => none
  | .enginePref _ => none
  | .engineSnap _ => none
  | .engineFill _ => none
  | .startRoot _ _ => none
  | .configure _ _ => none
  | .unconfigure _ => none
  | .swapOut _ => none
  | .restorePart _ => none
  | .freezeSet _ => none
  | .freezeClear _ => none
  | .resumeMaster _ => none
  | .abortMaster _ => none
  | .logRead _ => none
  | .logClear _ => none
  | .attest _ _ => none
  | .imageTransfer _ => none
  | .cxlMemRead _ _ _ => none
  | .cxlMemWrite _ _ _ => none
  | .completionTimeout _ => none
  | .hostSnoop _ => none
  | .transferRepeat _ _ _ _ => none
  | .laneDiagnosis _ _ _ _ => none
  | .unitLoss _ => none
  | .moduleReset => none
  | .coolantPressureLoss => none
  | .powerWindow _ => none
  | .illegalInstruction _ => none
  | .temperatureThrottle _ _ => none
  | .softError _ _ => none

/-- The word of an instruction; none for an event. -/
def encode (i : Instr) : Option (BitVec 32) := (encodeNat i).map (BitVec.ofNat 32)

/-- Major 0x02 of Table 6 (R65). -/
def rawInt (n : Nat) : Option Instr :=
  match n % 256 with
  | 0 => some (.addR (bits n 23 3) (bits n 18 5) (bits n 13 5) (bits n 8 5))
  | 1 => some (.subR (bits n 23 3) (bits n 18 5) (bits n 13 5) (bits n 8 5))
  | 2 => some (.andR (bits n 23 3) (bits n 18 5) (bits n 13 5) (bits n 8 5))
  | 3 => some (.orR (bits n 23 3) (bits n 18 5) (bits n 13 5) (bits n 8 5))
  | 4 => some (.xorR (bits n 23 3) (bits n 18 5) (bits n 13 5) (bits n 8 5))
  | 5 => some (.sll (bits n 23 3) (bits n 18 5) (bits n 13 5) (bits n 8 5))
  | 6 => some (.srl (bits n 23 3) (bits n 18 5) (bits n 13 5) (bits n 8 5))
  | 7 => some (.sra (bits n 23 3) (bits n 18 5) (bits n 13 5) (bits n 8 5))
  | 8 => some (.slt (bits n 23 3) (bits n 18 5) (bits n 13 5) (bits n 8 5))
  | 9 => some (.sltn (bits n 23 3) (bits n 18 5) (bits n 13 5) (bits n 8 5))
  | 10 => some (.minR (bits n 23 3) (bits n 18 5) (bits n 13 5) (bits n 8 5))
  | 11 => some (.maxR (bits n 23 3) (bits n 18 5) (bits n 13 5) (bits n 8 5))
  | 12 => some (.minn (bits n 23 3) (bits n 18 5) (bits n 13 5) (bits n 8 5))
  | 13 => some (.maxn (bits n 23 3) (bits n 18 5) (bits n 13 5) (bits n 8 5))
  | 14 => some (.addS (bits n 23 3) (bits n 18 5) (bits n 13 5) (bits n 8 5))
  | 15 => some (.subS (bits n 23 3) (bits n 18 5) (bits n 13 5) (bits n 8 5))
  | 16 => some (.clz (bits n 23 3) (bits n 18 5) (bits n 13 5))
  | 17 => some (.ctz (bits n 23 3) (bits n 18 5) (bits n 13 5))
  | 18 => some (.popc (bits n 23 3) (bits n 18 5) (bits n 13 5))
  | _ => none

/-- Major 0x0A of Table 6 (R65). -/
def rawMulDiv (n : Nat) : Option Instr :=
  match n % 256 with
  | 0 => some (.mul (bits n 23 3) (bits n 18 5) (bits n 13 5) (bits n 8 5))
  | 1 => some (.mulh (bits n 23 3) (bits n 18 5) (bits n 13 5) (bits n 8 5))
  | 2 => some (.mulhn (bits n 23 3) (bits n 18 5) (bits n 13 5) (bits n 8 5))
  | 3 => some (.mulhsn (bits n 23 3) (bits n 18 5) (bits n 13 5) (bits n 8 5))
  | 4 => some (.div (bits n 23 3) (bits n 18 5) (bits n 13 5) (bits n 8 5))
  | 5 => some (.divn (bits n 23 3) (bits n 18 5) (bits n 13 5) (bits n 8 5))
  | 6 => some (.rem (bits n 23 3) (bits n 18 5) (bits n 13 5) (bits n 8 5))
  | 7 => some (.remn (bits n 23 3) (bits n 18 5) (bits n 13 5) (bits n 8 5))
  | _ => none

/-- Major 0x0B of Table 6 (R65). -/
def rawFp (n : Nat) : Option Instr :=
  match n % 16 with
  | 0 => some (.fadd (bits n 23 3) (bits n 18 5) (bits n 13 5) (bits n 8 5) (bits n 7 1) (bits n 4 3))
  | 1 => some (.fsub (bits n 23 3) (bits n 18 5) (bits n 13 5) (bits n 8 5) (bits n 7 1) (bits n 4 3))
  | 2 => some (.fmul (bits n 23 3) (bits n 18 5) (bits n 13 5) (bits n 8 5) (bits n 7 1) (bits n 4 3))
  | 3 => some (.fdiv (bits n 23 3) (bits n 18 5) (bits n 13 5) (bits n 8 5) (bits n 7 1) (bits n 4 3))
  | 4 => some (.fsqrt (bits n 23 3) (bits n 18 5) (bits n 13 5) (bits n 7 1) (bits n 4 3))
  | 5 => some (.fma (bits n 23 3) (bits n 18 5) (bits n 13 5) (bits n 8 5) (bits n 7 1) (bits n 4 3))
  | 6 => some (.fmin (bits n 23 3) (bits n 18 5) (bits n 13 5) (bits n 8 5) (bits n 7 1) (bits n 4 3))
  | 7 => some (.fmax (bits n 23 3) (bits n 18 5) (bits n 13 5) (bits n 8 5) (bits n 7 1) (bits n 4 3))
  | 8 => some (.feq (bits n 23 3) (bits n 18 5) (bits n 13 5) (bits n 8 5) (bits n 7 1) (bits n 4 3))
  | 9 => some (.flt (bits n 23 3) (bits n 18 5) (bits n 13 5) (bits n 8 5) (bits n 7 1) (bits n 4 3))
  | 10 => some (.fle (bits n 23 3) (bits n 18 5) (bits n 13 5) (bits n 8 5) (bits n 7 1) (bits n 4 3))
  | 11 => some (.fkind (bits n 23 3) (bits n 18 5) (bits n 13 5) (bits n 7 1) (bits n 4 3))
  | 12 => some (.fcvt (bits n 23 3) (bits n 18 5) (bits n 13 5) (bits n 8 5) (bits n 7 1) (bits n 4 3))
  | 13 => some (.fcvtf (bits n 23 3) (bits n 18 5) (bits n 13 5) (bits n 8 5) (bits n 7 1) (bits n 4 3))
  | _ => none

/-- Major 0x0C of Table 6 (R65). -/
def rawLoad (n : Nat) : Option Instr :=
  match n / 2 ^ 10 % 8 with
  | 0 => some (.lb (bits n 23 3) (bits n 18 5) (bits n 13 5) (bits n 8 2) (bits n 0 8))
  | 1 => some (.lh (bits n 23 3) (bits n 18 5) (bits n 13 5) (bits n 8 2) (bits n 0 8))
  | 2 => some (.lw (bits n 23 3) (bits n 18 5) (bits n 13 5) (bits n 8 2) (bits n 0 8))
  | 3 => some (.ld (bits n 23 3) (bits n 18 5) (bits n 13 5) (bits n 8 2) (bits n 0 8))
  | 4 => some (.lbn (bits n 23 3) (bits n 18 5) (bits n 13 5) (bits n 8 2) (bits n 0 8))
  | 5 => some (.lhn (bits n 23 3) (bits n 18 5) (bits n 13 5) (bits n 8 2) (bits n 0 8))
  | 6 => some (.lwn (bits n 23 3) (bits n 18 5) (bits n 13 5) (bits n 8 2) (bits n 0 8))
  | 7 => some (.pref (bits n 23 3) (bits n 18 2) (bits n 13 5) (bits n 0 8))
  | _ => none

/-- Major 0x0D of Table 6 (R65). -/
def rawStore (n : Nat) : Option Instr :=
  match n / 2 ^ 10 % 8 with
  | 0 => some (.sb (bits n 23 3) (bits n 18 5) (bits n 13 5) (bits n 8 2) (bits n 0 8))
  | 1 => some (.sh (bits n 23 3) (bits n 18 5) (bits n 13 5) (bits n 8 2) (bits n 0 8))
  | 2 => some (.sw (bits n 23 3) (bits n 18 5) (bits n 13 5) (bits n 8 2) (bits n 0 8))
  | 3 => some (.sd (bits n 23 3) (bits n 18 5) (bits n 13 5) (bits n 8 2) (bits n 0 8))
  | _ => none

/-- Major 0x0E of Table 6 (R65). -/
def rawRef (n : Nat) : Option Instr :=
  match n % 512 with
  | 0 => some (.mkref (bits n 23 3) (bits n 18 5) (bits n 13 5))
  | 1 => some (.rtag (bits n 23 3) (bits n 18 5) (bits n 13 5))
  | 2 => some (.pub (bits n 23 3) (bits n 18 5) (bits n 13 5) (bits n 9 4))
  | _ => none

/-- Major 0x0F of Table 6 (R65). -/
def rawAtomic (n : Nat) : Option Instr :=
  match n % 16 with
  | 0 => some (.amoswap (bits n 23 3) (bits n 18 5) (bits n 13 5) (bits n 9 4) (bits n 6 3) (bits n 4 1))
  | 1 => some (.amoadd (bits n 23 3) (bits n 18 5) (bits n 13 5) (bits n 9 4) (bits n 6 3) (bits n 4 1))
  | 2 => some (.amoand (bits n 23 3) (bits n 18 5) (bits n 13 5) (bits n 9 4) (bits n 6 3) (bits n 4 1))
  | 3 => some (.amoor (bits n 23 3) (bits n 18 5) (bits n 13 5) (bits n 9 4) (bits n 6 3) (bits n 4 1))
  | 4 => some (.amoxor (bits n 23 3) (bits n 18 5) (bits n 13 5) (bits n 9 4) (bits n 6 3) (bits n 4 1))
  | 5 => some (.amomin (bits n 23 3) (bits n 18 5) (bits n 13 5) (bits n 9 4) (bits n 6 3) (bits n 4 1))
  | 6 => some (.amomax (bits n 23 3) (bits n 18 5) (bits n 13 5) (bits n 9 4) (bits n 6 3) (bits n 4 1))
  | 7 => some (.amominn (bits n 23 3) (bits n 18 5) (bits n 13 5) (bits n 9 4) (bits n 6 3) (bits n 4 1))
  | 8 => some (.amomaxn (bits n 23 3) (bits n 18 5) (bits n 13 5) (bits n 9 4) (bits n 6 3) (bits n 4 1))
  | 9 => some (.amocas (bits n 23 3) (bits n 18 5) (bits n 13 5) (bits n 9 4) (bits n 6 3) (bits n 4 1))
  | _ => none

/-- Major 0x1A of Table 6 (R65). -/
def rawEngine (n : Nat) : Option Instr :=
  match n % 512 with
  | 0 => some (.epush (bits n 23 3) (bits n 18 5) (bits n 13 5))
  | 1 => some (.epushT (bits n 23 3) (bits n 18 5) (bits n 13 5))
  | 2 => some (.epop (bits n 23 3) (bits n 18 5) (bits n 13 5))
  | 3 => some (.epopT (bits n 23 3) (bits n 18 5) (bits n 13 5))
  | 4 => some (.epushAt (bits n 23 3) (bits n 18 5) (bits n 13 5))
  | _ => none

/-- Major 0x1B of Table 6 (R65). -/
def rawNest (n : Nat) : Option Instr :=
  match n % 512 with
  | 0 => some (.nest (bits n 23 3) (bits n 18 5) (bits n 13 5))
  | 1 => some (.nestAt (bits n 23 3) (bits n 18 5) (bits n 13 5))
  | 2 => some (.doneH (bits n 23 3))
  | 3 => some (.yieldH (bits n 23 3))
  | _ => none

/-- Major 0x07 of Table 6 (R65). -/
def rawShiftImm (n : Nat) : Option Instr :=
  match n / 2 ^ 11 % 4 with
  | 0 => some (.slli (bits n 23 3) (bits n 18 5) (bits n 13 5) (bits n 0 6))
  | 1 => some (.srli (bits n 23 3) (bits n 18 5) (bits n 13 5) (bits n 0 6))
  | 2 => some (.srai (bits n 23 3) (bits n 18 5) (bits n 13 5) (bits n 0 6))
  | _ => none

/-- Major 0x08 of Table 6 (R65). -/
def rawSetImm (n : Nat) : Option Instr :=
  match n / 2 ^ 12 % 2 with
  | 0 => some (.slti (bits n 23 3) (bits n 18 5) (bits n 13 5) (bits n 0 12))
  | 1 => some (.sltin (bits n 23 3) (bits n 18 5) (bits n 13 5) (bits n 0 12))
  | _ => none

/-- Major 0x09 of Table 6 (R65). -/
def rawLi (n : Nat) : Option Instr :=
  match n / 2 ^ 17 % 2 with
  | 0 => some (.li (bits n 23 3) (bits n 18 5) (bits n 0 17))
  | 1 => some (.lih (bits n 23 3) (bits n 18 5) (bits n 0 16))
  | _ => none

/-- Major 0x20 of Table 6 (R65). -/
def rawSetvl (n : Nat) : Option Instr :=
  match n / 2 ^ 11 % 4 with
  | 0 => some (.setvl (bits n 23 3) (bits n 18 5) (bits n 13 5) (bits n 0 5))
  | 1 => some (.setvlm (bits n 23 3) (bits n 18 5) (bits n 13 5) (bits n 0 5))
  | _ => none

/-- Major 0x21 of Table 6 (R65). -/
def rawVLoad (n : Nat) : Option Instr :=
  match n % 8 with
  | 0 => some (.vld (bits n 23 3) (bits n 18 5) (bits n 13 5) (bits n 5 3) (bits n 3 2))
  | 1 => some (.vlds (bits n 23 3) (bits n 18 5) (bits n 13 5) (bits n 8 5) (bits n 5 3) (bits n 3 2))
  | 2 => some (.vldl (bits n 23 3) (bits n 18 5) (bits n 13 5) (bits n 5 3) (bits n 3 2))
  | 3 => some (.vldp (bits n 23 3) (bits n 18 5) (bits n 13 4) (bits n 8 5) (bits n 5 3))
  | 4 => some (.vlm (bits n 23 3) (bits n 18 5) (bits n 13 5) (bits n 8 5) (bits n 3 2))
  | 5 => some (.vlmn (bits n 23 3) (bits n 13 5) (bits n 8 5) (bits n 3 2))
  | _ => none

/-- Major 0x22 of Table 6 (R65). -/
def rawVStore (n : Nat) : Option Instr :=
  match n % 8 with
  | 0 => some (.vst (bits n 23 3) (bits n 18 5) (bits n 13 5) (bits n 5 3) (bits n 3 2))
  | 1 => some (.vsts (bits n 23 3) (bits n 18 5) (bits n 13 5) (bits n 8 5) (bits n 5 3) (bits n 3 2))
  | 2 => some (.vstl (bits n 23 3) (bits n 18 5) (bits n 13 5) (bits n 5 3) (bits n 3 2))
  | 4 => some (.vsm (bits n 23 3) (bits n 18 5) (bits n 13 5) (bits n 8 5) (bits n 3 2))
  | 5 => some (.vsmn (bits n 23 3) (bits n 13 5) (bits n 8 5) (bits n 3 2))
  | _ => none

/-- Major 0x23 of Table 6 (R65). -/
def rawVGather (n : Nat) : Option Instr :=
  match n % 8 with
  | 0 => some (.vldx (bits n 23 3) (bits n 18 5) (bits n 13 5) (bits n 8 5) (bits n 5 3) (bits n 3 2))
  | 1 => some (.vstx (bits n 23 3) (bits n 18 5) (bits n 13 5) (bits n 8 5) (bits n 5 3) (bits n 3 2))
  | _ => none

/-- Major 0x24 of Table 6 (R65). -/
def rawStream (n : Nat) : Option Instr :=
  match n % 8 with
  | 0 => some (.vbind (bits n 23 3) (bits n 18 5) (bits n 13 5))
  | 1 => some (.vunbind (bits n 23 3) (bits n 18 5) (bits n 13 5))
  | 2 => some (.vpref (bits n 23 3) (bits n 13 5) (bits n 5 3) (bits n 3 2))
  | 3 => some (.vprefs (bits n 23 3) (bits n 13 5) (bits n 8 5) (bits n 5 3) (bits n 3 2))
  | _ => none

/-- Major 0x25 of Table 6 (R65). -/
def rawVInt (n : Nat) : Option Instr :=
  match n % 32 with
  | 0 => some (.vadd (bits n 23 3) (bits n 18 5) (bits n 13 5) (bits n 8 5) (bits n 5 3))
  | 1 => some (.vsub (bits n 23 3) (bits n 18 5) (bits n 13 5) (bits n 8 5) (bits n 5 3))
  | 2 => some (.vaddSI (bits n 23 3) (bits n 18 5) (bits n 13 5) (bits n 8 5) (bits n 5 3))
  | 3 => some (.vaddSN (bits n 23 3) (bits n 18 5) (bits n 13 5) (bits n 8 5) (bits n 5 3))
  | 4 => some (.vsubSI (bits n 23 3) (bits n 18 5) (bits n 13 5) (bits n 8 5) (bits n 5 3))
  | 5 => some (.vsubSN (bits n 23 3) (bits n 18 5) (bits n 13 5) (bits n 8 5) (bits n 5 3))
  | 6 => some (.vmul (bits n 23 3) (bits n 18 5) (bits n 13 5) (bits n 8 5) (bits n 5 3))
  | 7 => some (.vmulh (bits n 23 3) (bits n 18 5) (bits n 13 5) (bits n 8 5) (bits n 5 3))
  | 8 => some (.vmulhn (bits n 23 3) (bits n 18 5) (bits n 13 5) (bits n 8 5) (bits n 5 3))
  | 9 => some (.vand (bits n 23 3) (bits n 18 5) (bits n 13 5) (bits n 8 5) (bits n 5 3))
  | 10 => some (.vor (bits n 23 3) (bits n 18 5) (bits n 13 5) (bits n 8 5) (bits n 5 3))
  | 11 => some (.vxor (bits n 23 3) (bits n 18 5) (bits n 13 5) (bits n 8 5) (bits n 5 3))
  | 12 => some (.vsll (bits n 23 3) (bits n 18 5) (bits n 13 5) (bits n 8 5) (bits n 5 3))
  | 13 => some (.vsrl (bits n 23 3) (bits n 18 5) (bits n 13 5) (bits n 8 5) (bits n 5 3))
  | 14 => some (.vsra (bits n 23 3) (bits n 18 5) (bits n 13 5) (bits n 8 5) (bits n 5 3))
  | 15 => some (.vmin (bits n 23 3) (bits n 18 5) (bits n 13 5) (bits n 8 5) (bits n 5 3))
  | 16 => some (.vmax (bits n 23 3) (bits n 18 5) (bits n 13 5) (bits n 8 5) (bits n 5 3))
  | 17 => some (.vminn (bits n 23 3) (bits n 18 5) (bits n 13 5) (bits n 8 5) (bits n 5 3))
  | 18 => some (.vmaxn (bits n 23 3) (bits n 18 5) (bits n 13 5) (bits n 8 5) (bits n 5 3))
  | 19 => some (.vdiv (bits n 23 3) (bits n 18 5) (bits n 13 5) (bits n 8 5) (bits n 5 3))
  | 20 => some (.vdivn (bits n 23 3) (bits n 18 5) (bits n 13 5) (bits n 8 5) (bits n 5 3))
  | 21 => some (.vrem (bits n 23 3) (bits n 18 5) (bits n 13 5) (bits n 8 5) (bits n 5 3))
  | 22 => some (.vremn (bits n 23 3) (bits n 18 5) (bits n 13 5) (bits n 8 5) (bits n 5 3))
  | _ => none

/-- Major 0x26 of Table 6 (R65). -/
def rawVIntImm (n : Nat) : Option Instr :=
  match n % 32 with
  | 0 => some (.vaddi (bits n 23 3) (bits n 18 5) (bits n 13 5) (bits n 8 5) (bits n 5 3))
  | 1 => some (.vrsubi (bits n 23 3) (bits n 18 5) (bits n 13 5) (bits n 8 5) (bits n 5 3))
  | 2 => some (.vandi (bits n 23 3) (bits n 18 5) (bits n 13 5) (bits n 8 5) (bits n 5 3))
  | 3 => some (.vori (bits n 23 3) (bits n 18 5) (bits n 13 5) (bits n 8 5) (bits n 5 3))
  | 4 => some (.vxori (bits n 23 3) (bits n 18 5) (bits n 13 5) (bits n 8 5) (bits n 5 3))
  | 5 => some (.vslli (bits n 23 3) (bits n 18 5) (bits n 13 5) (bits n 8 5) (bits n 5 3))
  | 6 => some (.vsrli (bits n 23 3) (bits n 18 5) (bits n 13 5) (bits n 8 5) (bits n 5 3))
  | 7 => some (.vsrai (bits n 23 3) (bits n 18 5) (bits n 13 5) (bits n 8 5) (bits n 5 3))
  | _ => none

/-- Major 0x27 of Table 6 (R65). -/
def rawVFp (n : Nat) : Option Instr :=
  match n % 16 with
  | 0 => some (.vfadd (bits n 23 3) (bits n 18 5) (bits n 13 5) (bits n 8 5) (bits n 5 3) (bits n 4 1))
  | 1 => some (.vfsub (bits n 23 3) (bits n 18 5) (bits n 13 5) (bits n 8 5) (bits n 5 3) (bits n 4 1))
  | 2 => some (.vfmul (bits n 23 3) (bits n 18 5) (bits n 13 5) (bits n 8 5) (bits n 5 3) (bits n 4 1))
  | 3 => some (.vfdiv (bits n 23 3) (bits n 18 5) (bits n 13 5) (bits n 8 5) (bits n 5 3) (bits n 4 1))
  | 4 => some (.vfsqrt (bits n 23 3) (bits n 18 5) (bits n 13 5) (bits n 5 3) (bits n 4 1))
  | 5 => some (.vfmin (bits n 23 3) (bits n 18 5) (bits n 13 5) (bits n 8 5) (bits n 5 3) (bits n 4 1))
  | 6 => some (.vfmax (bits n 23 3) (bits n 18 5) (bits n 13 5) (bits n 8 5) (bits n 5 3) (bits n 4 1))
  | 7 => some (.vfsgnj (bits n 23 3) (bits n 18 5) (bits n 13 5) (bits n 8 5) (bits n 5 3) (bits n 4 1))
  | 8 => some (.vfsgnjn (bits n 23 3) (bits n 18 5) (bits n 13 5) (bits n 8 5) (bits n 5 3) (bits n 4 1))
  | 9 => some (.vfsgnjx (bits n 23 3) (bits n 18 5) (bits n 13 5) (bits n 8 5) (bits n 5 3) (bits n 4 1))
  | 10 => some (.vfexp2 (bits n 23 3) (bits n 18 5) (bits n 13 5) (bits n 5 3) (bits n 4 1))
  | 11 => some (.vflog2 (bits n 23 3) (bits n 18 5) (bits n 13 5) (bits n 5 3) (bits n 4 1))
  | 12 => some (.vfrece (bits n 23 3) (bits n 18 5) (bits n 13 5) (bits n 5 3) (bits n 4 1))
  | 13 => some (.vfrsqe (bits n 23 3) (bits n 18 5) (bits n 13 5) (bits n 5 3) (bits n 4 1))
  | 14 => some (.vfkind (bits n 23 3) (bits n 18 5) (bits n 13 5) (bits n 5 3) (bits n 4 1))
  | _ => none

/-- Major 0x28 of Table 6 (R65). -/
def rawVFma (n : Nat) : Option Instr :=
  match n % 16 with
  | 0 => some (.vfma (bits n 23 3) (bits n 18 5) (bits n 13 5) (bits n 8 5) (bits n 5 3) (bits n 4 1))
  | 1 => some (.vfms (bits n 23 3) (bits n 18 5) (bits n 13 5) (bits n 8 5) (bits n 5 3) (bits n 4 1))
  | 2 => some (.vfnma (bits n 23 3) (bits n 18 5) (bits n 13 5) (bits n 8 5) (bits n 5 3) (bits n 4 1))
  | 3 => some (.vfnms (bits n 23 3) (bits n 18 5) (bits n 13 5) (bits n 8 5) (bits n 5 3) (bits n 4 1))
  | 4 => some (.vmac (bits n 23 3) (bits n 18 5) (bits n 13 5) (bits n 8 5) (bits n 5 3))
  | 5 => some (.vnmsac (bits n 23 3) (bits n 18 5) (bits n 13 5) (bits n 8 5) (bits n 5 3))
  | _ => none

/-- Major 0x29 of Table 6 (R65). -/
def rawNarrow (n : Nat) : Option Instr :=
  match n % 8 with
  | 0 => some (.vdot (bits n 23 3) (bits n 18 5) (bits n 13 5) (bits n 8 5) (bits n 5 3) (bits n 3 2))
  | 1 => some (.vdistIp (bits n 23 3) (bits n 18 5) (bits n 13 5) (bits n 8 5) (bits n 5 3) (bits n 3 2))
  | 2 => some (.vdistL2 (bits n 23 3) (bits n 18 5) (bits n 13 5) (bits n 8 5) (bits n 5 3) (bits n 3 2))
  | 3 => some (.vdistHam (bits n 23 3) (bits n 18 5) (bits n 13 5) (bits n 8 5) (bits n 5 3) (bits n 3 2))
  | 4 => some (.vqdec (bits n 23 3) (bits n 18 5) (bits n 13 5) (bits n 5 3) (bits n 3 2))
  | 5 => some (.vqenc (bits n 23 3) (bits n 18 5) (bits n 13 5) (bits n 5 3) (bits n 3 2))
  | 6 => some (.vqenco (bits n 23 3) (bits n 18 5) (bits n 13 5) (bits n 5 3) (bits n 3 2))
  | _ => none

/-- Major 0x2A of Table 6 (R65). -/
def rawTrans (n : Nat) : Option Instr :=
  match n % 32 with
  | 0 => some (.vcvt (bits n 23 3) (bits n 18 5) (bits n 13 5) (bits n 8 5) (bits n 5 3) (bits n 0 5))
  | 1 => some (.vcvt (bits n 23 3) (bits n 18 5) (bits n 13 5) (bits n 8 5) (bits n 5 3) (bits n 0 5))
  | 2 => some (.vcvt (bits n 23 3) (bits n 18 5) (bits n 13 5) (bits n 8 5) (bits n 5 3) (bits n 0 5))
  | 3 => some (.vcvt (bits n 23 3) (bits n 18 5) (bits n 13 5) (bits n 8 5) (bits n 5 3) (bits n 0 5))
  | 4 => some (.vcvt (bits n 23 3) (bits n 18 5) (bits n 13 5) (bits n 8 5) (bits n 5 3) (bits n 0 5))
  | 5 => some (.vcvt (bits n 23 3) (bits n 18 5) (bits n 13 5) (bits n 8 5) (bits n 5 3) (bits n 0 5))
  | 6 => some (.vcvt (bits n 23 3) (bits n 18 5) (bits n 13 5) (bits n 8 5) (bits n 5 3) (bits n 0 5))
  | 7 => some (.vcvt (bits n 23 3) (bits n 18 5) (bits n 13 5) (bits n 8 5) (bits n 5 3) (bits n 0 5))
  | 8 => some (.vcvt (bits n 23 3) (bits n 18 5) (bits n 13 5) (bits n 8 5) (bits n 5 3) (bits n 0 5))
  | 9 => some (.vcvt (bits n 23 3) (bits n 18 5) (bits n 13 5) (bits n 8 5) (bits n 5 3) (bits n 0 5))
  | 10 => some (.vcvt (bits n 23 3) (bits n 18 5) (bits n 13 5) (bits n 8 5) (bits n 5 3) (bits n 0 5))
  | 11 => some (.vcvt (bits n 23 3) (bits n 18 5) (bits n 13 5) (bits n 8 5) (bits n 5 3) (bits n 0 5))
  | 12 => some (.vcvt (bits n 23 3) (bits n 18 5) (bits n 13 5) (bits n 8 5) (bits n 5 3) (bits n 0 5))
  | 13 => some (.vcvt (bits n 23 3) (bits n 18 5) (bits n 13 5) (bits n 8 5) (bits n 5 3) (bits n 0 5))
  | 14 => some (.vcvt (bits n 23 3) (bits n 18 5) (bits n 13 5) (bits n 8 5) (bits n 5 3) (bits n 0 5))
  | 15 => some (.vcvt (bits n 23 3) (bits n 18 5) (bits n 13 5) (bits n 8 5) (bits n 5 3) (bits n 0 5))
  | 16 => some (.vcvt (bits n 23 3) (bits n 18 5) (bits n 13 5) (bits n 8 5) (bits n 5 3) (bits n 0 5))
  | 17 => some (.vcvt (bits n 23 3) (bits n 18 5) (bits n 13 5) (bits n 8 5) (bits n 5 3) (bits n 0 5))
  | 18 => some (.vunpk (bits n 23 3) (bits n 18 5) (bits n 13 5) (bits n 10 3) (bits n 8 1) (bits n 5 3))
  | 19 => some (.vlut (bits n 23 3) (bits n 18 5) (bits n 13 5) (bits n 8 5) (bits n 5 3))
  | 20 => some (.vexpand (bits n 23 3) (bits n 18 5) (bits n 13 5) (bits n 5 3))
  | 21 => some (.vcompress (bits n 23 3) (bits n 18 5) (bits n 13 5) (bits n 5 3))
  | _ => none

/-- Major 0x2B of Table 6 (R65). -/
def rawPerm (n : Nat) : Option Instr :=
  match n % 32 with
  | 0 => some (.vperm (bits n 23 3) (bits n 18 5) (bits n 13 5) (bits n 8 5) (bits n 5 3))
  | 1 => some (.vlift (bits n 23 3) (bits n 18 5) (bits n 13 5) (bits n 8 5) (bits n 5 3))
  | 2 => some (.vdrop (bits n 23 3) (bits n 18 5) (bits n 13 5) (bits n 8 5) (bits n 5 3))
  | 3 => some (.vbcast (bits n 23 3) (bits n 18 5) (bits n 13 5) (bits n 8 5) (bits n 5 3))
  | 4 => some (.vrev (bits n 23 3) (bits n 18 5) (bits n 13 5) (bits n 5 3))
  | 5 => some (.vzip (bits n 23 3) (bits n 18 5) (bits n 13 5) (bits n 8 5) (bits n 5 3))
  | 6 => some (.vunzip (bits n 23 3) (bits n 18 5) (bits n 13 5) (bits n 8 5) (bits n 5 3))
  | _ => none

/-- Major 0x2C of Table 6 (R65). -/
def rawReduce (n : Nat) : Option Instr :=
  match n % 32 with
  | 0 => some (.vrsum (bits n 23 3) (bits n 18 5) (bits n 13 5) (bits n 8 5) (bits n 5 3))
  | 1 => some (.vrmin (bits n 23 3) (bits n 18 5) (bits n 13 5) (bits n 8 5) (bits n 5 3))
  | 2 => some (.vrmax (bits n 23 3) (bits n 18 5) (bits n 13 5) (bits n 8 5) (bits n 5 3))
  | 3 => some (.vrminn (bits n 23 3) (bits n 18 5) (bits n 13 5) (bits n 8 5) (bits n 5 3))
  | 4 => some (.vrmaxn (bits n 23 3) (bits n 18 5) (bits n 13 5) (bits n 8 5) (bits n 5 3))
  | 5 => some (.vrand (bits n 23 3) (bits n 18 5) (bits n 13 5) (bits n 8 5) (bits n 5 3))
  | 6 => some (.vrior (bits n 23 3) (bits n 18 5) (bits n 13 5) (bits n 8 5) (bits n 5 3))
  | 7 => some (.vrxor (bits n 23 3) (bits n 18 5) (bits n 13 5) (bits n 8 5) (bits n 5 3))
  | 8 => some (.vfrseq (bits n 23 3) (bits n 18 5) (bits n 13 5) (bits n 8 5) (bits n 5 3) (bits n 4 1))
  | 9 => some (.vfrpair (bits n 23 3) (bits n 18 5) (bits n 13 5) (bits n 8 5) (bits n 5 3) (bits n 4 1))
  | 10 => some (.vfrmin (bits n 23 3) (bits n 18 5) (bits n 13 5) (bits n 8 5) (bits n 5 3) (bits n 4 1))
  | 11 => some (.vfrmax (bits n 23 3) (bits n 18 5) (bits n 13 5) (bits n 8 5) (bits n 5 3) (bits n 4 1))
  | 24 => some (.vfrseq (bits n 23 3) (bits n 18 5) (bits n 13 5) (bits n 8 5) (bits n 5 3) (bits n 4 1))
  | 25 => some (.vfrpair (bits n 23 3) (bits n 18 5) (bits n 13 5) (bits n 8 5) (bits n 5 3) (bits n 4 1))
  | 26 => some (.vfrmin (bits n 23 3) (bits n 18 5) (bits n 13 5) (bits n 8 5) (bits n 5 3) (bits n 4 1))
  | 27 => some (.vfrmax (bits n 23 3) (bits n 18 5) (bits n 13 5) (bits n 8 5) (bits n 5 3) (bits n 4 1))
  | _ => none

/-- Major 0x2D of Table 6 (R65). -/
def rawMaskOps (n : Nat) : Option Instr :=
  match n % 32 with
  | 0 => some (.vmseq (bits n 23 3) (bits n 18 3) (bits n 13 5) (bits n 8 5) (bits n 5 3))
  | 1 => some (.vmsne (bits n 23 3) (bits n 18 3) (bits n 13 5) (bits n 8 5) (bits n 5 3))
  | 2 => some (.vmslt (bits n 23 3) (bits n 18 3) (bits n 13 5) (bits n 8 5) (bits n 5 3))
  | 3 => some (.vmsle (bits n 23 3) (bits n 18 3) (bits n 13 5) (bits n 8 5) (bits n 5 3))
  | 4 => some (.vmsltn (bits n 23 3) (bits n 18 3) (bits n 13 5) (bits n 8 5) (bits n 5 3))
  | 5 => some (.vmslen (bits n 23 3) (bits n 18 3) (bits n 13 5) (bits n 8 5) (bits n 5 3))
  | 6 => some (.vmfeq (bits n 23 3) (bits n 18 3) (bits n 13 5) (bits n 8 5) (bits n 5 3) (bits n 4 1))
  | 7 => some (.vmflt (bits n 23 3) (bits n 18 3) (bits n 13 5) (bits n 8 5) (bits n 5 3) (bits n 4 1))
  | 8 => some (.vmfle (bits n 23 3) (bits n 18 3) (bits n 13 5) (bits n 8 5) (bits n 5 3) (bits n 4 1))
  | 9 => some (.kand (bits n 23 3) (bits n 18 3) (bits n 13 3) (bits n 8 3))
  | 10 => some (.kor (bits n 23 3) (bits n 18 3) (bits n 13 3) (bits n 8 3))
  | 11 => some (.kxor (bits n 23 3) (bits n 18 3) (bits n 13 3) (bits n 8 3))
  | 12 => some (.kandn (bits n 23 3) (bits n 18 3) (bits n 13 3) (bits n 8 3))
  | 13 => some (.knot (bits n 23 3) (bits n 18 3) (bits n 13 3))
  | 14 => some (.kpopc (bits n 23 3) (bits n 18 5) (bits n 13 3) (bits n 5 3))
  | 15 => some (.kfirst (bits n 23 3) (bits n 18 5) (bits n 13 3) (bits n 5 3))
  | 16 => some (.vsel (bits n 23 3) (bits n 18 5) (bits n 13 5) (bits n 8 5) (bits n 5 3))
  | 22 => some (.vmfeq (bits n 23 3) (bits n 18 3) (bits n 13 5) (bits n 8 5) (bits n 5 3) (bits n 4 1))
  | 23 => some (.vmflt (bits n 23 3) (bits n 18 3) (bits n 13 5) (bits n 8 5) (bits n 5 3) (bits n 4 1))
  | 24 => some (.vmfle (bits n 23 3) (bits n 18 3) (bits n 13 5) (bits n 8 5) (bits n 5 3) (bits n 4 1))
  | _ => none

/-- Major 0x2E of Table 6 (R65). -/
noncomputable def rawMove (n : Nat) : Option Instr :=
  match n % 32 with
  | 0 => some (.vmv (bits n 23 3) (bits n 18 5) (bits n 13 5) (bits n 5 3))
  | 1 => some (.vmvx (bits n 23 3) (bits n 18 5) (bits n 13 5) (bits n 8 5))
  | 2 => some (.vins (bits n 23 3) (bits n 18 5) (bits n 13 5) (bits n 8 5) (bits n 5 3))
  | 3 => some (.vmvvk (bits n 23 3) (bits n 18 3) (bits n 13 5) (bits n 5 3))
  | 4 => some (.vmvkv (bits n 23 3) (bits n 18 5) (bits n 13 3) (bits n 5 3))
  | _ => none

/-- Major 0x30 of Table 6 (R65). -/
noncomputable def rawMop (n : Nat) : Option Instr :=
  match n % 8 with
  | 0 => some (.mopF64 (bits n 23 3) (bits n 21 2) (bits n 16 5) (bits n 11 5) (bits n 6 5) (bits n 3 3))
  | 1 => some (.mopF32 (bits n 23 3) (bits n 21 2) (bits n 16 5) (bits n 11 5) (bits n 6 5) (bits n 3 3))
  | 2 => some (.mopBf16 (bits n 23 3) (bits n 21 2) (bits n 16 5) (bits n 11 5) (bits n 6 5) (bits n 3 3))
  | 3 => some (.mopE4m3 (bits n 23 3) (bits n 21 2) (bits n 16 5) (bits n 11 5) (bits n 6 5) (bits n 3 3))
  | 4 => some (.mopE5m2 (bits n 23 3) (bits n 21 2) (bits n 16 5) (bits n 11 5) (bits n 6 5) (bits n 3 3))
  | 5 => some (.mopQ4x (bits n 23 3) (bits n 21 2) (bits n 16 5) (bits n 11 5) (bits n 6 5) (bits n 3 3))
  | 6 => some (.mopI4 (bits n 23 3) (bits n 21 2) (bits n 16 5) (bits n 11 5) (bits n 6 5) (bits n 3 3))
  | _ => none

/-- Major 0x31 of Table 6 (R65). -/
noncomputable def rawTile (n : Nat) : Option Instr :=
  match n % 8 with
  | 0 => some (.mzero (bits n 23 3) (bits n 21 2))
  | 1 => some (.mrd (bits n 23 3) (bits n 21 2) (bits n 16 5) (bits n 6 5) (bits n 3 3))
  | 2 => some (.mwr (bits n 23 3) (bits n 21 2) (bits n 16 5) (bits n 6 5) (bits n 3 3))
  | 3 => some (.mld (bits n 23 3) (bits n 21 2) (bits n 16 5))
  | 4 => some (.mst (bits n 23 3) (bits n 21 2) (bits n 16 5))
  | _ => none

/-- Major 0x34 of Table 6 (R65). -/
noncomputable def rawPlaneArith (n : Nat) : Option Instr :=
  match n % 32 with
  | 0 => some (.padd (bits n 23 3) (bits n 19 4) (bits n 15 4) (bits n 11 4) (bits n 6 5) (bits n 5 1))
  | 1 => some (.psub (bits n 23 3) (bits n 19 4) (bits n 15 4) (bits n 11 4) (bits n 6 5) (bits n 5 1))
  | 2 => some (.pmul (bits n 23 3) (bits n 19 4) (bits n 15 4) (bits n 11 4) (bits n 6 5) (bits n 5 1))
  | 3 => some (.pcmpeq (bits n 23 3) (bits n 19 4) (bits n 15 4) (bits n 11 4) (bits n 6 5) (bits n 5 1))
  | 4 => some (.pcmplt (bits n 23 3) (bits n 19 4) (bits n 15 4) (bits n 11 4) (bits n 6 5) (bits n 5 1))
  | 5 => some (.pcmpltn (bits n 23 3) (bits n 19 4) (bits n 15 4) (bits n 11 4) (bits n 6 5) (bits n 5 1))
  | 6 => some (.ptdot (bits n 23 3) (bits n 19 4) (bits n 15 4) (bits n 11 4) (bits n 6 5) (bits n 5 1))
  | 7 => some (.pcred (bits n 23 3) (bits n 19 4) (bits n 15 4) (bits n 11 4) (bits n 6 5) (bits n 5 1))
  | 8 => some (.pneg (bits n 23 3) (bits n 19 4) (bits n 15 4) (bits n 6 5) (bits n 5 1))
  | _ => none

/-- Major 0x35 of Table 6 (R65). -/
noncomputable def rawPlaneLogic (n : Nat) : Option Instr :=
  match n % 32 with
  | 0 => some (.pand (bits n 23 3) (bits n 19 4) (bits n 15 4) (bits n 11 4) (bits n 6 5) (bits n 5 1))
  | 1 => some (.por (bits n 23 3) (bits n 19 4) (bits n 15 4) (bits n 11 4) (bits n 6 5) (bits n 5 1))
  | 2 => some (.pxor (bits n 23 3) (bits n 19 4) (bits n 15 4) (bits n 11 4) (bits n 6 5) (bits n 5 1))
  | 3 => some (.pnot (bits n 23 3) (bits n 19 4) (bits n 15 4) (bits n 6 5) (bits n 5 1))
  | 4 => some (.pmaj (bits n 23 3) (bits n 19 4) (bits n 15 4) (bits n 11 4) (bits n 6 5) (bits n 5 1))
  | 5 => some (.psel (bits n 23 3) (bits n 19 4) (bits n 15 4) (bits n 11 4) (bits n 6 5) (bits n 5 1))
  | 6 => some (.pshl (bits n 23 3) (bits n 19 4) (bits n 15 4) (bits n 11 4) (bits n 6 5) (bits n 5 1))
  | 7 => some (.pshr (bits n 23 3) (bits n 19 4) (bits n 15 4) (bits n 11 4) (bits n 6 5) (bits n 5 1))
  | 8 => some (.pcopy (bits n 23 3) (bits n 19 4) (bits n 15 4) (bits n 6 5) (bits n 5 1))
  | _ => none

/-- Major 0x36 of Table 6 (R65). -/
noncomputable def rawPlaneCtl (n : Nat) : Option Instr :=
  match n % 32 with
  | 0 => some (.prun (bits n 23 3) (bits n 19 4) (bits n 15 4) (bits n 11 4) (bits n 6 5) (bits n 5 1))
  | 1 => some (.plock (bits n 23 3) (bits n 15 4) (bits n 6 2))
  | 2 => some (.punlock (bits n 23 3) (bits n 15 4))
  | 3 => some (.pfence (bits n 23 3))
  | 4 => some (.phset (bits n 23 3) (bits n 19 4) (bits n 14 5) (bits n 9 5))
  | 5 => some (.phget (bits n 23 3) (bits n 18 5) (bits n 14 4))
  | _ => none

/-- Major 0x38 of Table 6 (R65). -/
noncomputable def rawDawn (n : Nat) : Option Instr :=
  match n % 32 with
  | 0 => some (.dwcfg (bits n 23 3) (bits n 13 5))
  | 1 => some (.dwlaunch (bits n 23 3) (bits n 18 1) (bits n 13 5) (bits n 8 5) (bits n 5 3))
  | 2 => some (.dwlaunchAt (bits n 23 3) (bits n 18 1) (bits n 13 5) (bits n 8 5) (bits n 5 3))
  | 3 => some (.dwcap (bits n 23 3) (bits n 18 5) (bits n 13 5) (bits n 5 3))
  | 4 => some (.dwrd (bits n 23 3) (bits n 18 5) (bits n 13 5) (bits n 5 3))
  | 5 => some (.dwldw (bits n 23 3) (bits n 13 5) (bits n 8 5) (bits n 5 3))
  | 6 => some (.dwmpMin (bits n 23 3) (bits n 18 5) (bits n 13 5) (bits n 5 3))
  | 7 => some (.dwmpMax (bits n 23 3) (bits n 18 5) (bits n 13 5) (bits n 5 3))
  | 8 => some (.dwrst (bits n 23 3))
  | 9 => some (.dwwin (bits n 23 3) (bits n 13 5))
  | _ => none

/-- Major 0x00 of Table 6: the selector sub and fn (R65, R89). The words of sysw that name vown and wpart have rows of
their own in the opcode table. -/
def rawSystem (n : Nat) : Option Instr :=
  match n / 2 ^ 9 % 16 with
  | 0 =>
    match n % 512 with
    | 0 => some (.ecall (bits n 23 3) (bits n 18 5))
    | 1 => some (.eret (bits n 23 3) (bits n 18 5) (bits n 13 5))
    | 2 => some (.wfi (bits n 23 3))
    | 3 => some (.brk (bits n 23 3) (bits n 18 5))
    | 4 => some (.tlbi (bits n 23 3) (bits n 13 5))
    | 5 => some (.tlbia (bits n 23 3))
    | 6 => some (.vname (bits n 23 3) (bits n 18 5) (bits n 13 5))
    | 7 => some (.fencei (bits n 23 3))
    | _ => none
  | 14 => some (.sysr (bits n 23 3) (bits n 18 5) (bits n 0 9))
  | 15 =>
    match n % 512 with
    | 25 => some (.syswVown (bits n 23 3) (bits n 13 5))
    | 48 => some (.syswWpart (bits n 23 3) (bits n 13 5))
    | _ => some (.sysw (bits n 23 3) (bits n 13 5) (bits n 0 9))
  | _ => none

/-- Major 0x19 of Table 6 (R65, R201, R202, R210). -/
def rawSync (n : Nat) : Option Instr :=
  match n / 2 ^ 7 % 4 with
  | 0 =>
    match n / 2 ^ 3 % 2 with
    | 0 => some (.orderedLoad (bits n 23 3) (bits n 18 5) (bits n 13 5) (bits n 9 4) (bits n 4 3) (bits n 0 3))
    | _ => some (.orderedStore (bits n 23 3) (bits n 18 5) (bits n 13 5) (bits n 9 4) (bits n 4 3) (bits n 0 3))
  | 1 => some (.fence (bits n 23 3) (bits n 9 4) (bits n 4 3))
  | 2 =>
    match n % 128 with
    | 0 => some (.barinit (bits n 23 3) (bits n 18 5) (bits n 13 5))
    | 1 => some (.barbind (bits n 23 3) (bits n 18 5) (bits n 13 5))
    | 2 => some (.bararr (bits n 23 3) (bits n 18 5) (bits n 13 5) (bits n 9 4))
    | 3 => some (.barwait (bits n 23 3) (bits n 18 5) (bits n 13 5) (bits n 9 4))
    | 4 => some (.barsync (bits n 23 3) (bits n 13 5) (bits n 9 4))
    | 5 => some (.joinSet (bits n 23 3) (bits n 13 5))
    | 6 => some (.leaveSet (bits n 23 3) (bits n 13 5))
    | 7 => some (.wmset (bits n 23 3) (bits n 18 5) (bits n 13 5))
    | 8 => some (.wmadv (bits n 23 3) (bits n 18 5) (bits n 13 5) (bits n 9 4))
    | 9 => some (.wmrd (bits n 23 3) (bits n 18 5) (bits n 13 5))
    | 10 => some (.waitm (bits n 23 3) (bits n 13 5))
    | _ => none
  | _ => none

/-- The instruction that the major opcode and the selectors of a word name (R63, R65), none for an unallocated code.
Fields stated zero are not looked at here. -/
noncomputable def rawDecode (n : Nat) : Option Instr :=
  match n / 2 ^ 26 with
  | 0 => rawSystem n
  | 1 => some (.pfx (bits n 23 3) (bits n 22 1) (bits n 21 1) (bits n 19 2) (bits n 14 5))
  | 2 => rawInt n
  | 3 => some (.addi (bits n 23 3) (bits n 18 5) (bits n 13 5) (bits n 0 13))
  | 4 => some (.andi (bits n 23 3) (bits n 18 5) (bits n 13 5) (bits n 0 13))
  | 5 => some (.ori (bits n 23 3) (bits n 18 5) (bits n 13 5) (bits n 0 13))
  | 6 => some (.xori (bits n 23 3) (bits n 18 5) (bits n 13 5) (bits n 0 13))
  | 7 => rawShiftImm n
  | 8 => rawSetImm n
  | 9 => rawLi n
  | 10 => rawMulDiv n
  | 11 => rawFp n
  | 12 => rawLoad n
  | 13 => rawStore n
  | 14 => rawRef n
  | 15 => rawAtomic n
  | 16 => some (.beq (bits n 23 3) (bits n 18 5) (bits n 13 5) (bits n 0 13))
  | 17 => some (.bne (bits n 23 3) (bits n 18 5) (bits n 13 5) (bits n 0 13))
  | 18 => some (.blt (bits n 23 3) (bits n 18 5) (bits n 13 5) (bits n 0 13))
  | 19 => some (.bge (bits n 23 3) (bits n 18 5) (bits n 13 5) (bits n 0 13))
  | 20 => some (.bltn (bits n 23 3) (bits n 18 5) (bits n 13 5) (bits n 0 13))
  | 21 => some (.bgen (bits n 23 3) (bits n 18 5) (bits n 13 5) (bits n 0 13))
  | 22 => some (.jump (bits n 23 3) (bits n 0 18))
  | 23 => some (.jal (bits n 23 3) (bits n 18 5) (bits n 0 18))
  | 24 => some (.jalr (bits n 23 3) (bits n 18 5) (bits n 13 5) (bits n 0 13))
  | 25 => rawSync n
  | 26 => rawEngine n
  | 27 => rawNest n
  | 32 => rawSetvl n
  | 33 => rawVLoad n
  | 34 => rawVStore n
  | 35 => rawVGather n
  | 36 => rawStream n
  | 37 => rawVInt n
  | 38 => rawVIntImm n
  | 39 => rawVFp n
  | 40 => rawVFma n
  | 41 => rawNarrow n
  | 42 => rawTrans n
  | 43 => rawPerm n
  | 44 => rawReduce n
  | 45 => rawMaskOps n
  | 46 => rawMove n
  | 48 => rawMop n
  | 49 => rawTile n
  | 52 => rawPlaneArith n
  | 53 => rawPlaneLogic n
  | 54 => rawPlaneCtl n
  | 56 => rawDawn n
  | _ => none

/-- Table 4: the allocated major opcodes (R63). -/
def majorAllocated (m : Nat) : Bool := m ∈ [0, 1, 2, 3, 4, 5, 6, 7, 8, 9, 10, 11, 12, 13, 14, 15, 16, 17, 18, 19, 20, 21, 22, 23, 24, 25, 26, 27, 32, 33, 34, 35, 36, 37, 38, 39, 40, 41, 42, 43, 44, 45, 46, 48, 49, 52, 53, 54, 56]
/-- The words that are permanently illegal (R68). -/
def permanentlyIllegalWord (w : BitVec 32) : Bool := w == 0#32 || w == 0xFFFFFFFF#32

/-- Decoding of a word (R50, R53, R63 to R68): the instruction, or why the word is none. A word is an instruction only if
the encoding of what its selectors and fields name gives the word back, so a nonzero field stated zero is rejected. -/
noncomputable def decode (w : BitVec 32) : Except Reject Instr :=
  if permanentlyIllegalWord w then .error .permanentlyIllegal
  else if majorAllocated (w.toNat / 2 ^ 26) then
    match rawDecode w.toNat with
    | none => .error .unallocated
    | some i =>
      if encodeNat i = some w.toNat then
        match i.check with
        | none => .ok i
        | some r => .error r
      else .error .fieldNotZero
  else .error .reservedMajor

/-- The detail code of the illegal-instruction trap of a rejected word (R68). -/
def Reject.cause : Reject → Nat
  | .permanentlyIllegal => 0x001
  | _ => 0x000

/-- A word from its four bytes in ascending address order, little-endian (R50). -/
def wordOfBytes (b0 b1 b2 b3 : Byte) : BitVec 32 := b3 ++ b2 ++ b1 ++ b0

/-- Byte k of a word as it is stored (R50). -/
def byteOfWord (w : BitVec 32) (k : Nat) : Byte := BitVec.ofNat 8 (w.toNat / 2 ^ (8 * k))

/-- Decoding of instruction bytes: the first four are the word; fewer are no instruction. -/
noncomputable def decodeBytes : List Byte → Except Reject (Instr × List Byte)
  | b0 :: b1 :: b2 :: b3 :: rest => (decode (wordOfBytes b0 b1 b2 b3)).map (·, rest)
  | _ => .error .unallocated

/-- The instruction whose word has the value w, with the bits above nbits zero; the word's bytes are laid out
little-endian and decoded. -/
noncomputable def decodeTableWord (nbits w : Nat) : Option Instr :=
  let v : BitVec 32 := BitVec.ofNat 32 (w % 2 ^ nbits)
  match decodeBytes [byteOfWord v 0, byteOfWord v 1, byteOfWord v 2, byteOfWord v 3] with
  | .ok (i, _) => some i
  | .error _ => none

end Sys2Proof
end

