-- ==== Sys2Proof/Machine/Bits.lean ====
section
/-! DEFINITION. Bit fields, byte order and small list operations that the other files use. -/

namespace Sys2Proof.Machine

/-- The value of bits [lo + len - 1 : lo]. -/
def fieldOf {n : Nat} (w : BitVec n) (lo len : Nat) : Nat := (w.extractLsb' lo len).toNat

/-- w with bits [lo + len - 1 : lo] replaced by the low bits of v. -/
def setField {n : Nat} (w : BitVec n) (lo len v : Nat) : BitVec n :=
  (w &&& ~~~((BitVec.ofNat n (2 ^ len - 1)) <<< lo)) ||| (BitVec.ofNat n (v % 2 ^ len) <<< lo)

/-- Whether bit i is 1. -/
def bitAt {n : Nat} (w : BitVec n) (i : Nat) : Bool := w.getLsbD i

/-- A 64-bit word from a natural number, modulo 2^64. -/
def xOf (n : Nat) : X := BitVec.ofNat 64 n

/-- 1 for true, 0 for false. -/
def b2n (b : Bool) : Nat := if b then 1 else 0

/-- The value of bytes in ascending address order, little-endian (R50, R81). -/
def leNat : List Byte → Nat
  | [] => 0
  | b :: r => b.toNat + 256 * leNat r

/-- The n bytes of a value in ascending address order, little-endian. -/
def leBytes : Nat → Nat → List Byte
  | 0, _ => []
  | n + 1, v => BitVec.ofNat 8 v :: leBytes n (v / 256)

/-- The value of an unsigned field of `len` bits read as two's complement. -/
def sextNat (len v : Nat) : Int := if v % 2 ^ len < 2 ^ (len - 1) then (v % 2 ^ len : Nat) else (v % 2 ^ len : Nat) - (2 ^ len : Nat)

/-- The two's complement pattern of `len` bits of an integer. -/
def ofIntBits (len : Nat) (i : Int) : Nat := (i % (2 ^ len : Nat)).toNat

/-- i clamped to [lo, hi]. -/
def clampInt (lo hi i : Int) : Int := if i < lo then lo else if hi < i then hi else i

/-- A list of natural numbers as a list without a named member. -/
def without {α : Type} [DecidableEq α] (l : List α) (a : α) : List α := l.filter (· ≠ a)

/-- l with a added at the end unless it is a member. -/
def insertNew {α : Type} [DecidableEq α] (l : List α) (a : α) : List α := if a ∈ l then l else l ++ [a]

/-- Two vectors combined entry by entry. -/
def zipVec {α β γ : Type} {n : Nat} (f : α → β → γ) (a : Vector α n) (b : Vector β n) : Vector γ n :=
  ⟨(List.zipWith f a.toList b.toList).toArray, by simp⟩

/-- The vector of n entries that a function gives. -/
def vecGen {α : Type} (n : Nat) (f : Nat → α) : Vector α n := ⟨((List.range n).map f).toArray, by simp⟩

/-- The number of leading zero bits of the n-bit value v. -/
def leadingZeros (n v : Nat) : Nat := if v = 0 then n else n - 1 - Nat.log2 v

/-- The number of trailing zero bits among n. -/
def trailingZeros : Nat → Nat → Nat
  | 0, _ => 0
  | n + 1, v => if v % 2 = 1 then 0 else 1 + trailingZeros n (v / 2)

/-- The number of 1 bits among n. -/
def popCount : Nat → Nat → Nat
  | 0, _ => 0
  | n + 1, v => v % 2 + popCount n (v / 2)

/-- The 48-bit CRC of R250 stepped over one bit. -/
def crcBit (c : BitVec 48) (b : Bool) : BitVec 48 :=
  if Bool.xor (c.getLsbD 47) b then (c <<< 1) ^^^ 0x6A5D39AE1B27#48 else c <<< 1

/-- The 48-bit CRC of R250 stepped over one byte, most significant bit first. -/
def crcByte (c : BitVec 48) (y : Byte) : BitVec 48 :=
  [7, 6, 5, 4, 3, 2, 1, 0].foldl (fun c b => crcBit c (y.getLsbD b)) c

/-- The 48-bit CRC of a byte string in ascending offset order (R250, R327). -/
def crc48 (bytes : List Byte) : BitVec 48 := bytes.foldl crcByte 0

/-- The better of two candidates by a rank; the first of equals. -/
def bestBy {α : Type} (rank : α → Nat) : List α → Option α
  | [] => none
  | a :: rest =>
    match bestBy rank rest with
    | none => some a
    | some b => if rank a ≤ rank b then some a else some b

end Sys2Proof.Machine
end

