-- ==== Sys2Proof/Machine/Mem.lean ====
section
/-! DEFINITION. The bytes of physical memory as a sorted list of cells (R309), the word tags and the ECC overlay, without
translation. -/

namespace Sys2Proof.Machine

/-- The row field, bits [30:21], of a DRAM address (R160). -/
def rowOf (pa : Nat) : Nat := pa / 2 ^ 21 % 1024

/-- Whether an address is in the range of stacked DRAM (R309). -/
def isDram (pa : Nat) : Bool := pa < 2 ^ 39

/-- What an address that nothing has written reads as: row o holds ones at all times (R159); every other byte reads as 0,
DESIGN CHOICE (log entry 2). -/
def memDefault (pa : Nat) : Byte := if isDram pa && rowOf pa == 1022 then 0xFF else 0

/-- One byte of physical memory. -/
def memRead (m : List Host.Cell) (a : Nat) : Byte :=
  match m.find? (fun c => c.1 == a) with
  | some c => c.2
  | none => memDefault a

/-- The cells of a run of bytes from a on: those that differ from what an unlisted address reads as. -/
def cellsOf (a : Nat) : List Byte → List Host.Cell
  | [] => []
  | b :: r => if b = memDefault a then cellsOf (a + 1) r else (a, b) :: cellsOf (a + 1) r

/-- Memory with a run of bytes written from a on: the one operation that changes memory. -/
def memWrite (m : List Host.Cell) (a : Nat) (bytes : List Byte) : List Host.Cell :=
  m.filter (fun c => c.1 < a) ++ cellsOf a bytes ++ m.filter (fun c => a + bytes.length ≤ c.1)

/-- The bytes from a on, read along the sorted cells. -/
def readAlong : List Host.Cell → Nat → Nat → List Byte
  | _, _, 0 => []
  | [], a, n + 1 => memDefault a :: readAlong [] (a + 1) n
  | c :: r, a, n + 1 => if c.1 = a then c.2 :: readAlong r (a + 1) n else memDefault a :: readAlong (c :: r) (a + 1) n

/-- The n bytes from a on. -/
def memBytes (m : List Host.Cell) (a n : Nat) : List Byte := readAlong (m.filter (fun c => a ≤ c.1)) a n

/-- The canonical form of memory: addresses strictly rising and no entry equal to what an unlisted address reads as. -/
abbrev Memory.wf (m : List Host.Cell) : Prop :=
  m.Pairwise (fun c d => c.1 < d.1) ∧ ∀ c ∈ m, c.2 ≠ memDefault c.1

/-- The tag of the 64-bit word at index w, 00 where none is listed (R81). -/
def tagAt (t : List (Nat × BitVec 2)) (w : Nat) : BitVec 2 :=
  match t.find? (fun c => c.1 == w) with
  | some c => c.2
  | none => 0

/-- The tags with those of the n words from w on set to v; tags are listed only where they are not 00. -/
def tagSet (t : List (Nat × BitVec 2)) (w n : Nat) (v : BitVec 2) : List (Nat × BitVec 2) :=
  t.filter (fun c => c.1 < w) ++ (if v = 0 then [] else (List.range n).map (fun i => (w + i, v))) ++
    t.filter (fun c => w + n ≤ c.1)

/-- The flipped bits of the codeword of granule g (R330). -/
def flipsAt (f : List (Nat × List Nat)) (g : Nat) : List Nat :=
  match f.find? (fun c => c.1 == g) with
  | some c => c.2
  | none => []

/-- The flips with those of granule g replaced. -/
def flipsSet (f : List (Nat × List Nat)) (g : Nat) (bits : List Nat) : List (Nat × List Nat) :=
  f.filter (fun c => c.1 != g) ++ (if bits = [] then [] else [(g, bits)])

end Sys2Proof.Machine
end

