-- ==== Sys2Proof/Machine/State.lean ====
section
/-! DEFINITION. The state of the LV-4800 as plain data: harts, vector states of slots, cores, stacks, engines, barriers,
partitions, memory, the error and firmware state, and the state right after module reset (R22, R159, R340). -/

namespace Sys2Proof.Machine

/-- Why a step stops. -/
inductive Fault where
  /-- exec of a hart's instruction is asked for while no hart is resident in the slot in focus (R6, R22). Safe: the manual
  gives an instruction an effect only in a hart. Raised by the guard of every hart meaning; `step` never asks for it. -/
  | noHart
deriving DecidableEq, Repr

/-- Why a step is refused. -/
inductive Refusal where
  /-- an instruction whose arm has no meaning yet. Safe. Raised by no arm of this model. -/
  | notModelled (mnemonic : String)
deriving DecidableEq, Repr

/-- A plane handle register: its 64-bit value and the start of its virtual range (R161, R165, R369). -/
structure Handle where
  word : X
  va : X
deriving DecidableEq, Repr

/-- A register whose value a result in flight replaces, with the value before (R55 to R57). -/
inductive RegVal where
  | x (n : BitVec 5) (v : X)
  | v (n : BitVec 5) (img : Img)
  | k (n : BitVec 3) (m : Mask)
deriving DecidableEq, Repr

/-- A result in flight: the register with its value before the producer, the first cycle in which the result is current,
and whether its latency is fixed (read early) or scoreboarded (waited for) (R55, R57). -/
structure Pend where
  before : RegVal
  ready : Nat
  fixed : Bool
deriving DecidableEq, Repr

/-- What a hart waits for: the wait kinds of R265 (Table 2) with their operand. -/
inductive Wait where
  /-- kind 1: a barrier, with the phase waited past and whether only its low 16 bits are known (R210) -/
  | barrier (n : Nat) (token : BitVec 32) (short : Bool)
  /-- kind 2: a watermark element -/
  | watermark (w : Nat) (count : Nat)
  /-- kind 3: waitm -/
  | meridian (t : X)
  /-- kind 4: a full engine port -/
  | epush (e : Nat)
  /-- kind 5: an empty completion queue -/
  | epop (e : Nat)
  /-- kind 6: wfi -/
  | wfi
  /-- kind 7: plock, with its reserved entry and the value of its handle -/
  | plock (lock : Nat) (handle : X)
  /-- kind 8: dwlaunch.at -/
  | race (t : X)
  /-- kind 9: a full walker queue -/
  | walker (stack : Nat)
  /-- kind 9: a full sequencer queue -/
  | sequencer (stack : Nat)
  /-- no wait of Table 2: the hart's plane instructions (R180) -/
  | planes
  /-- no wait of Table 2: the plane instructions, by number, that an invalidation found accepted and covers (R95, R165) -/
  | drain (ops : List Nat)
  /-- no wait of Table 2: a bank, a way or a row-lock that holds back a word-path access (R169, R171, R178, R315); `firm` where its
  instruction completes before an asynchronous trap or a switch-out is taken (R287) -/
  | bank (pa : Nat) (firm : Bool)
  /-- no wait of Table 2: the banks and rows of a handle that vldp reads (R110) -/
  | rows (handle : X)
deriving DecidableEq, Repr

/-- An asynchronous cause pending for a hart, with its tval and frame information (R285, R286). -/
structure Async where
  code : Nat
  tval : X
  info0 : X
  info1 : X
deriving DecidableEq, Repr

/-- The scalar state of a hart (R6, R9 to R14, R21, R22) and where it stands in issue (R54 to R57, R265). -/
structure Hart where
  hid : BitVec 32
  pid : Nat
  pc : X
  x : Vector X 32
  xtag : BitVec 32
  p : Vector Handle 16
  es : BitVec 18
  pv : Bool
  pword : BitVec 32
  /-- the word under issue, which some causes report (R68, R120, R146; log entry 16) -/
  word : BitVec 32
  status : X
  cause : X
  epc : X
  tval : X
  tvec : X
  mcmp : X
  lanesReq : BitVec 5
  cnt : Vector X 8
  cntev : Vector X 8
  /-- first cycle in which the hart may issue (R54, R283) -/
  readyAt : Nat
  /-- the cycles, from the first up to the second, in which the hart stalls on its stall count or its scoreboard (R21, R54, R55) -/
  stall : Nat × Nat
  /-- the last attempt to issue the instruction at pc found it not ready: it waits for a source, a unit or a bank (R272) -/
  held : Bool
  /-- the instruction at pc stands interrupted at a boundary within it (R287) -/
  paused : Bool
  /-- results in flight, oldest first (R55) -/
  pend : List Pend
  /-- the values that early reads of the instruction at pc chose (R57); empty between instructions -/
  overrides : List RegVal
  wait : Option Wait
  waitSince : Nat
  /-- addresses whose banks the instruction under way has waited for, the latest first (R169; log entry 19) -/
  reached : List Nat
  /-- asynchronous causes pending, in order of arrival (R285) -/
  async : List Async
  /-- stopped for good by 0x3C2 (R284) -/
  stopped : Bool
  /-- the trap frame whose write waits for a bank of its address (R169, R178, R284) -/
  frame : Option (List X)
  /-- handle registers whose phset is not ready yet, with the cycle in which it is (R163) -/
  pready : List (Nat × Nat)
  /-- where the vector load under way has waited for a bank with elements already read: es, the destination register and the register of its
  PFX copy as they were when it was first issued (R105, R169; log entry 19) -/
  begun : Option (BitVec 18 × Img × Img)
deriving DecidableEq, Repr

/-- A live physical register of the slot: its index, its contents and, if it is named, its CRC and variant (R249 to R253). -/
structure PReg where
  id : Nat
  img : Img
  name : Option (BitVec 48 × Nat)
deriving DecidableEq, Repr

/-- A stream binding and its progress (R114 to R117): the fields of the record of Table 5 as they stand. -/
structure Stream where
  reg : BitVec 5
  data : X
  scale : X
  /-- strips remaining; of no meaning where the binding is unbounded -/
  count : X
  bounded : Bool
  /-- the word at offset 0x18 of the record: depth, hint, dec, bl and stype -/
  ctl : X
  /-- bytes captured by read-ahead, by virtual address (R117) -/
  ahead : List Host.Cell
deriving DecidableEq, Repr

/-- The Dawn state of a slot's vector state (R187). -/
structure Dawn where
  gs : BitVec 4
  mode : Bool
  rdy : Bool
  /-- delay from crossbar input i to output j, at 32 * i + j -/
  w : Vector (BitVec 6) 1024
  /-- group results -/
  r : Vector (BitVec 10) 1024
  /-- capture entries in the layout of Table 2 of 09_dawn_instructions -/
  c : Vector (BitVec 32) 64
deriving DecidableEq, Repr

/-- The vector state of a slot: it stays with the slot and names its owner (R9, R11, R18, R271). -/
structure Vec where
  owner : BitVec 32
  ownerPid : Nat
  lz : Bool
  v : Vector Img 32
  /-- physical register of each v register (R249) -/
  phys : Vector Nat 32
  pregs : List PReg
  k : Vector Mask 8
  kgen : Vector Nat 8
  a : Vector Tile 4
  tilesHeld : Bool
  /-- rows whose chaining bit is clear, as 32 * tile + row, with the cycle in which it is set (R149, R156) -/
  chain : List (Nat × Nat)
  vl : X
  vill : Bool
  bl : BitVec 2
  sew : BitVec 3
  kf : Mask
  msr : BitVec 5
  dwin : BitVec 10
  /-- granted physical lane groups, ascending (R23, R25) -/
  groups : List Nat
  dawn : Dawn
  dawnHeld : Bool
  /-- cycle in which the race under way ends (R193) -/
  raceEnd : Option Nat
  /-- first cycle in which what the last Dawn instruction wrote to the array or dwin is ready (R191, R197) -/
  dawnAt : Nat
  streams : List Stream
  vdirty : X
deriving DecidableEq, Repr

/-- A hart slot of a core (R268): its resident hart, if live, and its vector state. -/
structure Slot where
  core : Nat
  idx : Nat
  live : Bool
  hart : Hart
  vec : Vec
  /-- cycle in which the slice timer of the resident started; in a slot that was switched out, the cycle from which a hart can issue in it
  again (R269) -/
  since : Nat
  /-- freed for an iteration that the walker hands out (R270) -/
  forWalker : Bool
deriving DecidableEq, Repr

/-- The key of a Fife-table entry (R256, Table 1 of 12_register_naming_and_reuse). -/
structure FifeKey where
  op : Nat
  srcs : List (BitVec 48 × Nat)
  prior : Option (BitVec 48 × Nat)
  xs : List X
  vl : X
  vtype : Nat
  mask : Nat × Nat
  /-- the k register that is read as a source, with its generation -/
  ksrc : Option (Nat × Nat)
  pred : Option (Nat × Bool × Nat)
  rm : Nat
deriving DecidableEq, Repr

/-- The load record of a Fife-table entry: its range of virtual addresses and class (R259). -/
structure LoadRecord where
  lo : Nat
  hi : Nat
  isPrivate : Bool
  /-- the pages of 512 KiB that it read: virtual and physical page numbers -/
  pages : List (Nat × Nat)
deriving DecidableEq, Repr

/-- An entry of a core's Fife table (R255): most recently used first in the list that holds it. -/
structure FifeEntry where
  core : Nat
  slot : Nat
  key : FifeKey
  result : Nat
  flags : BitVec 5
  load : Option LoadRecord
deriving DecidableEq, Repr

/-- Issue and unit state of a core (R157, R272). -/
structure CoreSt where
  id : Nat
  lastSlot : Nat
  lastCycle : Option Nat
  /-- cycle in which the core last issued a MOP (R157) -/
  lastMop : Option Nat
  /-- first cycle in which the matrix unit takes another MOP after one of a half-rate window (R157) -/
  mopFree : Nat := 0
  /-- first cycle after the half-rate window; 0 for none (R157) -/
  halfUntil : Nat
deriving DecidableEq, Repr

/-- A translation held by a core or an engine: the pages of a partition from va on (R304, R305). -/
structure TlbEntry where
  core : Nat
  /-- which of the TLBs of Table 7 of 14_traps_and_translation: 0 instruction, 1 data, 2 second level; 3 for a unit that is no core -/
  tlb : Nat
  pid : Nat
  va : Nat
  size : Nat
  pte : X
deriving DecidableEq, Repr

/-- The condition of a data row of a bank: rows absent from the list are checked (R168). -/
inductive RowCond where
  | unchecked
  | scratch
deriving DecidableEq, Repr

/-- A source of a row operation: a row, or the negation of dual-contact row d0 or d1 (R159, R167). -/
inductive RowSrc where
  | row (n : Nat)
  | neg (n : Nat)
deriving DecidableEq, Repr

/-- A row operation of Table 4 of 08_plane_instructions, over row numbers of a subarray. `scratch` says whether the destination
is a plane of a handle with the scratch bit (R168). -/
inductive RowOp where
  | fin
  | aap (src : RowSrc) (dst : Nat) (scratch : Bool)
  | tra
  | ap (src : RowSrc)
  | shl (src : RowSrc) (dst : Nat) (scratch : Bool)
  | shr (src : RowSrc) (dst : Nat) (scratch : Bool)
  | chk (src : Nat)
  | sync
deriving DecidableEq, Repr

/-- An access that waits for banks of a set (R169): since when, for which rows of which banks, whose it is, and, once a window has admitted it,
which of its rows the window has still to serve. A hart is known by its partition and hid, copy engine n as 1000 + n, the sequencer of stack st as
2000 + st, the record of a hart as 3000 + its partition with its hid, and request n of CXL.mem as 5000 with n. -/
structure Waiter where
  since : Nat
  rows : List (Nat × Nat)
  /-- none only where the scheduler asks what it would reach but for the windows -/
  who : Option (Nat × BitVec 32)
  left : List (Nat × Nat)
deriving DecidableEq, Repr

/-- An accepted plane instruction (R166, R182): who issued it, where it acts and what is left of its microprogram. -/
structure SeqOp where
  id : Nat
  pid : Nat
  hid : BitVec 32
  /-- a handle value that gives the stack, the bank set and the subarray -/
  geo : X
  /-- the handles that it carries (R165) -/
  handles : List Handle
  /-- data rows that it reads or writes, and those that it writes (R178, R179) -/
  rows : List Nat
  writes : List Nat
  /-- first cycle at which it has been accepted (R166) -/
  accepted : Nat
  /-- start time of a timed form (R181) -/
  start : Option X
  running : Bool
  /-- row operations still to perform -/
  prog : List RowOp
  /-- rows left unchecked since the last window (R168) -/
  unchecked : List Nat
  /-- cycle from which the next row operation runs -/
  nextAt : Nat
  /-- a SYNC window is open until nextAt, or for as long as the sequencer is frozen (R169, R294) -/
  window : Bool
  /-- row operations since the last SYNC (R169) -/
  sinceSync : Nat
  /-- dies of the set that owe a refresh (R170) -/
  owed : List Nat
  /-- the accesses that the open window serves, in order of arrival (R169) -/
  admitted : List Waiter
  /-- the cycle in which the window opened, the refreshes and rewrites of each bank in it, and the rows of the accesses that it serves, by bank
  (R169, R355) -/
  opened : Nat := 0
  items : List (Nat × Nat) := []
  served : List (Nat × Nat) := []
  /-- the addresses whose banks or row-locks the check of the next run has waited for, the latest first, and since when it waits for that
  one (R294, R301) -/
  waitsOn : Option (List Nat × Nat) := none
  /-- the refused access of a frozen microprogram: its virtual address (R294) -/
  refused : Option X
deriving DecidableEq, Repr

/-- A refresh that fell due in a microprogram's last window and is performed when the microprogram has ended (R170): the bank set, the die,
and the cycle in which it is done. -/
structure LateRefresh where
  geo : X
  die : Nat
  doneAt : Nat
deriving DecidableEq, Repr

/-- A row-lock entry of a stack (R178, R179). -/
structure LockEntry where
  stack : Nat
  id : Nat
  pid : Nat
  hid : BitVec 32
  handle : X
  mode : BitVec 2
  placed : Bool
  releasing : Bool
  /-- plane instructions accepted before the lock or release, which it waits for -/
  after : List Nat
  /-- the cycle in which the sequencer accepts the punlock that releases it (R179) -/
  from_ : Nat := 0
deriving DecidableEq, Repr

/-- A watermark of a partition (R212, R213). -/
structure Watermark where
  pid : Nat
  n : Nat
  base : X
  elems : X
  esz : X
  scope : BitVec 4
  count : X
deriving DecidableEq, Repr

/-- A nest record accepted by a walker (R218, R219). -/
structure WalkerRec where
  id : Nat
  stack : Nat
  pid : Nat
  hid : BitVec 32
  prv : Bool
  tvec : X
  /-- address of the record, and its eight words -/
  addr : X
  words : List X
  start : Option X
  /-- the cycle in which the walker has accepted it (R219) -/
  accepted : Nat
  /-- next ordinal to hand out -/
  next : Nat
deriving DecidableEq, Repr

/-- A hart that waits at plock (R178): its partition, its hid and the value of its handle. -/
structure Plocker where
  pid : Nat
  hid : BitVec 32
  handle : X
deriving DecidableEq, Repr

/-- A hart that waits at the port of an engine, to push or to pop (R216, R217). -/
structure PortWait where
  engine : Nat
  pop : Bool
  pid : Nat
  hid : BitVec 32
deriving DecidableEq, Repr

/-- An access of the scheduler or a walker to the record of a hart that waits for a bank or a row-lock, and since when (R169, R263). -/
structure RecordWait where
  pid : Nat
  hid : BitVec 32
  since : Nat
deriving DecidableEq, Repr

/-- A record in a stack's runnable queue (R268). -/
structure Runnable where
  stack : Nat
  pid : Nat
  hid : BitVec 32
deriving DecidableEq, Repr

/-- The handles that the last switch-out of a hart wrote to its handle area, and the address of that area (R369). -/
structure Spill where
  pid : Nat
  hid : BitVec 32
  area : Nat
  handles : List Handle
deriving DecidableEq, Repr

/-- A barrier: expected count, arrivals, phase and bound set (R209, R210), with who arrived in the phase (R211). -/
structure Barrier where
  n : Nat
  pid : Nat
  expect : BitVec 32
  arrived : BitVec 32
  phase : BitVec 32
  bound : BitVec 16
  who : List (BitVec 32)
  /-- barinit has set the phase, and none has completed since: no waiter is woken (R210) -/
  renewed : Bool := false
deriving DecidableEq, Repr

/-- A pushed engine command (R216, R322). -/
structure Command where
  w0 : X
  w1 : X
  w2 : X
  w3 : X
  pid : Nat
  hid : BitVec 32
  prv : Bool
  start : Option X
  /-- cycle in which the port accepted the command -/
  accepted : Nat
deriving DecidableEq, Repr

/-- An engine port (R216): commands and completions oldest first, the freeze of R294 and how far the head command is (R300). -/
structure EngineSt where
  n : Nat
  cmds : List Command
  done : List X
  /-- the virtual address of the refused access of a frozen engine (R294) -/
  frozen : Option X
  /-- parts of the head command already performed: elements, blocks or bytes -/
  progress : Nat
  /-- blocks that a SNAP has emitted (R327) -/
  emitted : Nat
  /-- the head command has met poison or an uncorrectable word (R322) -/
  bad : Bool
  /-- first cycle at which the head command goes on after a wait for a bank -/
  readyAt : Nat
  /-- the head command has started (R292) -/
  started : Bool := false
  /-- the words that the head command has poisoned, by physical address divided by 8 (R322) -/
  spoiled : List Nat := []
  /-- the addresses whose banks, ways or row-locks the element under way has waited for, the latest first, and the cycle in which the head
  command reached that one (R169) -/
  waitsOn : Option (List Nat × Nat)
deriving DecidableEq, Repr

/-- The condition of a configured partition (R344, R345): configured, running, running until a requested swap-out has halted
it (R298), or swapped out. A partition that is not listed is unconfigured. -/
inductive PartCond where
  | idle
  | running
  | halting
  | swapped
deriving DecidableEq, Repr

/-- A partition: its configuration, condition and shared state (R165, R211, R292, R344, R345). -/
structure Part where
  pid : Nat
  cond : PartCond
  cfg : PartCfg
  frozen : Bool
  invCount : BitVec 64
  /-- the cores that it has been granted, each with a number that orders the grants of all partitions (R209, R278) -/
  granted : List (Nat × Nat)
  /-- members of the hart sets: set number and hid (R211) -/
  sets : List (BitVec 16 × BitVec 32)
  /-- slots halted into the image of a swap (R299) -/
  image : List Slot
  /-- plane instructions that had not started at the swap, in acceptance order (R182, R281) -/
  heldSeq : List SeqOp
  /-- nest records that had not been handed out at the swap, in acceptance order (R281) -/
  heldWalk : List WalkerRec
deriving DecidableEq, Repr

/-- The way partition of a core position (R313). -/
structure Wpart where
  stack : Nat
  pos : Nat
  req : Nat
  cur : Nat
  /-- the way that is being converted: cur after it, and the cycle in which it is done -/
  way : Option (Nat × Nat)
deriving DecidableEq, Repr

/-- A line held by a column bank, or the halves of a T3 line held by the bridge (R312, R317, R318), most recently used first in the list
that holds it. -/
structure Line where
  pa : Nat
  /-- the way of its set that it occupies (R312 to R314) -/
  way : Nat
  lowHalf : Bool
  highHalf : Bool
  dirtyLow : Bool
  dirtyHigh : Bool
deriving DecidableEq, Repr

/-- A directory entry of a column bank: which L1 data and L1 instruction caches hold the line, by core, and which halves of it the one data
cache that then holds it has modified (R316, R318). -/
structure DirEntry where
  pa : Nat
  data : List Nat
  instr : List Nat
  modLow : Bool
  modHigh : Bool
deriving DecidableEq, Repr

/-- A place that holds a word of memory: its DRAM codeword, its column bank or scratch, the L1 data cache of a core, or its L1 instruction
cache (R330, R334). -/
inductive ErrorSite where
  | dram
  | bank
  | l1 (core : Nat)
  | l1i (core : Nat)
deriving DecidableEq, Repr

/-- The flipped bits of a 64-bit word of SRAM that no read has met yet: its physical address, a multiple of 8, its place, and the bits
(R334). -/
structure SramFlip where
  pa : Nat
  site : ErrorSite
  bits : List Nat
deriving DecidableEq, Repr

/-- A line of scratch that an L1 holds modified, as its bank still holds it: its bytes and tags (R315, R366). -/
structure UnderLine where
  pa : Nat
  bytes : List Byte
  tags : List (BitVec 2)
deriving DecidableEq, Repr

/-- An entry of an error log (R339, Table 1 of 16_reliability). -/
structure LogEntry where
  stack : Nat
  time : X
  word : X
  pa : X
  agent : X
deriving DecidableEq, Repr

/-- A CXL.mem request that is not yet served, or waits at a bank (R343). -/
structure Request where
  id : Nat
  who : Requester
  pa : Nat
  size : Nat
  write : Option (List Byte)
  since : Nat
deriving DecidableEq, Repr

/-- What the module has sent to the outside: management responses by the code of the command (Table 3 of 17_host_platform), read data, error
responses (R343 to R351). -/
inductive Reply where
  | status (command : Nat) (code : Nat)
  | data (request : Nat) (bytes : List Byte)
  | poisoned (request : Nat)
  | abort (request : Nat)
  | writeOk (request : Nat)
  | writeRefused (request : Nat)
  | bytes (b : List Byte)
  | report (unit : String) (value : Nat)
deriving DecidableEq, Repr

/-- A management command (R347, Table 3 of 17_host_platform) with its operands. -/
inductive HostCommand where
  | configure (pid : Nat) (cfg : PartCfg)
  | unconfigure (pid : Nat)
  | swapOut (pid : Nat)
  | restorePart (pid : Nat)
  | freezeSet (pid : Nat)
  | freezeClear (pid : Nat)
  | resumeMaster (m : BusMaster)
  | abortMaster (m : BusMaster)
  | logRead (stack : Nat)
  | logClear (stack : Nat)
  | attest (pid : Nat) (nonce : List (BitVec 8))
  | imageTransfer (image : FwImage)
deriving DecidableEq, Repr

/-- Firmware, security and power state (R340, R349 to R352). -/
structure Firmware where
  image : FwImage
  pending : Option FwImage
  minVersion : Nat
  recovery : Bool
  inReset : Bool
  lost : List ModuleUnit
  /-- units lost since the last restart, mapped out at the next (R340) -/
  losing : List ModuleUnit
  laneSwaps : List (ColumnRef × Nat)
  /-- buses on which a fourth repeat has failed, which await the diagnosis of a parity group: column and group (R337) -/
  diagnosing : List (ColumnRef × Nat)
  /-- distinct rows of a bank in which uncorrectable granules were found: stack, die, column, and row within the bank's subarrays (R340) -/
  badRows : List (Nat × Nat × Nat × Nat)
  /-- cycle by which the module resets after a fatal loss (R340) -/
  resetAt : Option Nat
  /-- coolant pressure has been lost: the module stays in reset (R340) -/
  coolantLost : Bool
  /-- the power of the last window, or a temperature, holds back starts (R352) -/
  powerHigh : Bool
  tempHigh : Bool
deriving DecidableEq, Repr

/-- The state of the module. The slot in focus is `me`; the slots of the other harts are in `others` (log entry 1). -/
structure State where
  me : Slot
  others : List Slot
  cores : List CoreSt
  fife : List FifeEntry
  tlb : List TlbEntry
  mem : List Host.Cell
  /-- memory tags of 64-bit words, by physical address divided by 8; 3 is poison (R81, R330) -/
  tags : List (Nat × BitVec 2)
  /-- flipped bits of codewords, by physical address divided by 16 (R330) -/
  flips : List (Nat × List Nat)
  /-- flipped bits of words in column banks, scratch and L1 caches (R334) -/
  sram : List SramFlip
  /-- what the banks hold under the scratch lines that L1s have modified (R366) -/
  under : List UnderLine
  /-- column buses that carry no other transfer before a cycle, while one is repeated or diagnosed (R337) -/
  buses : List (ColumnRef × Nat)
  /-- conditions of bank rows that are not checked, by physical address divided by 1024 (R168) -/
  rows : List (Nat × RowCond)
  cycle : Nat
  seq : List SeqOp
  locks : List LockEntry
  /-- harts that wait at plock, in order of arrival (R178) -/
  plockers : List Plocker
  /-- harts that wait at the ports of engines, in order of arrival (R217) -/
  portWaits : List PortWait
  /-- accesses of the scheduler and the walkers to records that wait (R169, R263) -/
  recWaits : List RecordWait
  /-- START writes whose record waits for a bank or a row-lock, by partition, in order of arrival (R171, R345) -/
  starts : List (Nat × X)
  /-- management commands that wait for a swap-out to end, in order of arrival, and whether each came over I3C (R347, R353) -/
  commands : List (Bool × HostCommand)
  /-- for the management commands that are still to come, next first: whether each comes over I3C; by the mailbox beyond the end (R347, R353;
  log entry 39) -/
  i3c : List Bool
  /-- for each stack, the refreshes that have fallen due: number j is that of die j mod 16, at mtime 312 × j (R170, R338) -/
  refreshes : Vector Nat 8
  /-- refreshes under way on banks that a microprogram has left (R170) -/
  lateRefreshes : List LateRefresh
  watermarks : List Watermark
  walkers : List WalkerRec
  /-- by stack, the first cycle in which its walker may hand out another iteration (R274) -/
  handoffs : List (Nat × Nat)
  queue : List Runnable
  /-- harts whose records are in state 4, with the stack that they left (R265) -/
  waiting : List Runnable
  /-- what the switch-outs of harts that are not resident wrote to handle areas (R369) -/
  spills : List Spill
  barriers : List Barrier
  engines : List EngineSt
  parts : List Part
  /-- results of the last START processed, by partition (R345) -/
  stats : List (Nat × Nat)
  wparts : List Wpart
  lines : List Line
  /-- directories of the column banks, most recently used entry first (R316) -/
  dir : List DirEntry
  /-- asynchronous causes pending for harts that are not resident: partition, hart and cause (R285) -/
  asyncs : List (Nat × BitVec 32 × Async)
  /-- 64-byte halves that the host holds, by physical address divided by 64 (R317) -/
  hostHeld : List Nat
  /-- those of them that no module read has made shared since the host took them (R317) -/
  hostOwned : List Nat
  logs : List LogEntry
  logLost : List (Nat × BitVec 32)
  requests : List Request
  replies : List Reply
  peersFrozen : List Nat
  fw : Firmware
  /-- counter of identifiers of accepted operations and requests -/
  nextId : Nat
  /-- tickets drawn by .sc operations (R237) -/
  tickets : Nat
  /-- uses of free values so far (log entry 6) -/
  fresh : Nat
  /-- events that the environment offers, next first (log entry 1) -/
  inputs : List Instr
  /-- cycles in which something from outside the harts arrives that may interrupt an instruction under way (R287; log entry 32) -/
  arrivals : List Nat
deriving DecidableEq, Repr

/-- The Dawn state at creation and after every release (R187, Table 1 of 09_dawn_instructions). -/
def Dawn.creation : Dawn :=
  { gs := 10, mode := false, rdy := false, w := Vector.replicate 1024 63, r := Vector.replicate 1024 1023,
    c := Vector.replicate 64 0x800003FF }

/-- The vector state of R22 with grant 0, owned by the given hart (R22, R271, R296). -/
def Vec.creation (pid : Nat) (hid : BitVec 32) : Vec :=
  { owner := hid, ownerPid := pid, lz := false, v := Vector.replicate 32 0, phys := Vector.replicate 32 0,
    pregs := [{ id := 0, img := 0, name := some (0, 0) }], k := Vector.replicate 8 0, kgen := Vector.replicate 8 0,
    a := Vector.replicate 4 0, tilesHeld := false, chain := [], vl := 0, vill := false, bl := 0, sew := 5, kf := 0, msr := 0,
    dwin := 1023, groups := [], dawn := Dawn.creation, dawnHeld := false, raceEnd := none, dawnAt := 0, streams := [], vdirty := 0 }

/-- The null handle (R161). -/
def Handle.null : Handle := { word := 0, va := 0 }

/-- The scalar state of R22: a hart made resident from a new record, before the record's fields are put in. status has ie
and ru set (Table 3). -/
def Hart.creation (pid : Nat) (hid : BitVec 32) : Hart :=
  { hid := hid, pid := pid, pc := 0, x := Vector.replicate 32 0, xtag := 0, p := Vector.replicate 16 Handle.null, es := 0,
    pv := false, pword := 0, word := 0, status := 0x20002, cause := 0, epc := 0, tval := 0, tvec := 0, mcmp := 0, lanesReq := 0,
    cnt := Vector.replicate 8 0, cntev := Vector.replicate 8 0, readyAt := 0, stall := (0, 0), held := false, paused := false, pend := [], overrides := [], wait := none,
    waitSince := 0, reached := [], async := [], stopped := false, frame := none, pready := [], begun := none }

/-- A slot without a resident; its fields hold the creation values, and its vector state has no owner, which the partition number
64 stands for (log entry 8). -/
def Slot.empty (core idx : Nat) : Slot :=
  { core := core, idx := idx, live := false, hart := Hart.creation 0 0, vec := Vec.creation 64 0, since := 0, forWalker := false }

/-- Firmware after a boot whose image verified (R350; log entry 28). -/
def Firmware.boot : Firmware :=
  { image := Config.factoryImage, pending := none, minVersion := Config.factoryImage.version, recovery := false, inReset := false, lost := [], losing := [],
    laneSwaps := [], diagnosing := [], badRows := [], resetAt := none, coolantLost := false, powerHigh := false, tempHigh := false }

/-- The module right after reset: no hart exists (R22), no partition is configured (R340, R349), every queue is empty, memory
lists nothing (R159; log entry 2). -/
def State.reset : State :=
  { me := Slot.empty 0 0, others := [], cores := [], fife := [], tlb := [], mem := [], tags := [], flips := [], sram := [], under := [], buses := [], rows := [],
    cycle := 0, seq := [], locks := [], plockers := [], portWaits := [], recWaits := [], starts := [], commands := [], i3c := [], refreshes := Vector.replicate 8 0, lateRefreshes := [], watermarks := [], walkers := [], handoffs := [], queue := [], waiting := [],
    spills := [], barriers := [],
    engines := [], parts := [], stats := [], wparts := [], lines := [], dir := [], asyncs := [], hostHeld := [], hostOwned := [], logs := [], logLost := [], requests := [],
    replies := [], peersFrozen := [], fw := Firmware.boot, nextId := 0, tickets := 0, fresh := 0, inputs := [], arrivals := [] }

end Sys2Proof.Machine
end

