-- ==== Sys2Proof/Machine/Access.lean ====
section
/-! DEFINITION. Access to the slot in focus, the fields of status and vtype (R12 to R18), counters (R21), the hardware's own
stores and the error logs (R339). -/

namespace Sys2Proof.Machine

/-- Whether starts of MOPs, microprograms and engine commands are held back in a cycle (R352): under throttling, every other cycle (log
entry 29). -/
def State.heldBack (s : State) : Bool := (s.fw.powerHigh || s.fw.tempHigh) && s.cycle % 2 == 1

/-! ### Access to the slot in focus -/

/-- s with the hart in focus changed. -/
def State.modHart (f : Hart → Hart) (s : State) : State := { s with me := { s.me with hart := f s.me.hart } }

/-- s with the vector state in focus changed. -/
def State.modVec (f : Vec → Vec) (s : State) : State := { s with me := { s.me with vec := f s.me.vec } }

/-- The program counter of the hart in focus. -/
def State.pc (s : State) : X := s.me.hart.pc

/-- The hart id of the hart in focus as a number. -/
def State.hid (s : State) : Nat := s.me.hart.hid.toNat

/-- The partition of the hart in focus. -/
def State.pid (s : State) : Nat := s.me.hart.pid

/-- The stack of a core (R209). -/
def stackOf (core : Nat) : Nat := core / 16

/-- The position of a core within its stack (R209, R308). -/
def positionOf (core : Nat) : Nat := core % 8

/-- A partition by its number. -/
def State.part? (s : State) (pid : Nat) : Option Part := s.parts.find? (fun p => p.pid == pid)

/-- s with the partition of the same number replaced. -/
def State.modPart (pid : Nat) (f : Part → Part) (s : State) : State :=
  { s with parts := s.parts.map (fun p => if p.pid = pid then f p else p) }

/-- Whether a partition runs: its harts issue and its units start work (R298, R344). -/
def State.runs (s : State) (pid : Nat) : Bool := (s.part? pid).any fun p => p.cond == .running

/-- Whether a partition runs until a swap has halted it (R298). -/
def State.halting (s : State) (pid : Nat) : Bool := (s.part? pid).any fun p => p.cond == .halting

/-- The slots that a partition is granted in a stack, by core and index. -/
def Part.slotsIn (p : Part) (stack : Nat) : List (Nat × Nat) :=
  (p.cfg.cores.filter (fun c => stackOf c.core == stack)).flatMap fun c =>
    ((List.range 4).filter (fun i => c.mask.getLsbD i)).map (fun i => (c.core, i))

/-- The number of the grant of a core to a partition: of two partitions that share a core, the one granted first has the lower
(R209, R278). -/
def Part.grantNo (p : Part) (core : Nat) : Nat := (p.granted.lookup core).getD 0

/-- The issue state of a core; a core that has not issued has last issued from slot 3 (log entry 9). -/
def State.coreSt (s : State) (c : Nat) : CoreSt :=
  (s.cores.find? (fun k => k.id == c)).getD { id := c, lastSlot := 3, lastCycle := none, lastMop := none, halfUntil := 0 }

/-- s with the issue state of a core replaced. -/
def State.setCore (k : CoreSt) (s : State) : State := { s with cores := s.cores.filter (fun o => o.id != k.id) ++ [k] }

/-- Every slot, the one in focus first. -/
def State.slots (s : State) : List Slot := s.me :: s.others

/-- The slot of a core and index; one that is not listed is empty. -/
def State.slotAt (s : State) (core idx : Nat) : Slot :=
  (s.slots.find? (fun o => o.core == core && o.idx == idx)).getD (Slot.empty core idx)

/-- The slots in the images of the partitions that are swapped out (R299). -/
def State.images (s : State) : List Slot := s.parts.flatMap (·.image)

/-- s with every slot changed. -/
def State.mapSlots (f : Slot → Slot) (s : State) : State := { s with me := f s.me, others := s.others.map f }

/-- s with the given slot in focus; a slot that is not listed yet is an empty one. -/
def State.focus (core idx : Nat) (s : State) : State :=
  if s.me.core = core ∧ s.me.idx = idx then s
  else
    let here := fun o : Slot => o.core == core && o.idx == idx
    { s with me := (s.others.find? here).getD (Slot.empty core idx),
             others := s.me :: s.others.filter (fun o => !here o) }

/-! ### Status fields (Table 3 of 01_machine_state) -/

/-- status.sc. -/
def Hart.sc (h : Hart) : Bool := h.status.getLsbD 0

/-- status.ru. -/
def Hart.ru (h : Hart) : Bool := h.status.getLsbD 1

/-- status.rm. -/
def Hart.rm (h : Hart) : Nat := fieldOf h.status 2 3

/-- status.ff, NV in bit 4 to NX in bit 0. -/
def Hart.ff (h : Hart) : BitVec 5 := h.status.extractLsb' 5 5

/-- status.fen, in the order of ff. -/
def Hart.fen (h : Hart) : BitVec 5 := h.status.extractLsb' 10 5

/-- status.prv: supervisor level. -/
def Hart.prv (h : Hart) : Bool := h.status.getLsbD 15

/-- status.pp. -/
def Hart.pp (h : Hart) : Bool := h.status.getLsbD 16

/-- status.ie. -/
def Hart.ie (h : Hart) : Bool := h.status.getLsbD 17

/-- status.pie. -/
def Hart.pie (h : Hart) : Bool := h.status.getLsbD 18

/-- status.ss. -/
def Hart.ss (h : Hart) : Bool := h.status.getLsbD 19

/-- status.prio. -/
def Hart.prio (h : Hart) : Nat := fieldOf h.status 20 3

/-- status.me. -/
def Hart.me (h : Hart) : Bool := h.status.getLsbD 23

/-- status.fm. -/
def Hart.fm (h : Hart) : Bool := h.status.getLsbD 24

/-- A hart with bits [lo + len - 1 : lo] of status replaced. -/
def Hart.setStatus (lo len v : Nat) (h : Hart) : Hart := { h with status := setField h.status lo len v }

/-- Flags ORed into status.ff (R38). -/
def Hart.raise (f : BitVec 5) (h : Hart) : Hart := h.setStatus 5 5 (h.ff ||| f).toNat

/-- Counters of a hart that select event e, advanced by n (R21). For event 0x06 the words of vlm, vsm, vsmn, vlmn, mld and mst, the entries of a
MOP those of the Dawn instructions and the lines of vpref and vprefs are no elements (DESIGN CHOICE, log entry 44). -/
def Hart.count (e n : Nat) (h : Hart) : Hart :=
  { h with cnt := zipVec (fun c ev => if ev.toNat % 256 = e then c + xOf n else c) h.cnt h.cntev }

/-- Counters of a hart that select event e, taken back by one. -/
def Hart.uncount (e : Nat) (h : Hart) : Hart :=
  { h with cnt := zipVec (fun c ev => if ev.toNat % 256 = e then c - 1 else c) h.cnt h.cntev }

/-- The value of vtype (Table 4 of 01_machine_state). -/
def Vec.vtype (v : Vec) : X := xOf (b2n v.vill * 2 ^ 63 + v.bl.toNat * 8 + v.sew.toNat)

/-- The element width in bits that a sew code names (Table 4 of 01_machine_state); 0 for a reserved code. -/
def sewBits (c : Nat) : Nat :=
  match c with
  | 0 => 2
  | 1 => 4
  | 2 => 8
  | 3 => 16
  | 4 => 32
  | 5 => 64
  | _ => 0

/-- The block length that a bl code names; 0 for unblocked. -/
def blockLen (c : Nat) : Nat :=
  match c with
  | 1 => 16
  | 2 => 32
  | 3 => 64
  | _ => 0

/-- SEW of the vector state in bits. -/
def Vec.width (v : Vec) : Nat := sewBits v.sew.toNat

/-- The number of granted lane groups G. -/
def Vec.grant (v : Vec) : Nat := v.groups.length

/-- VLMAXE = min(vlmax / SEW, 4096) (R15). -/
def Vec.vlmaxe (v : Vec) : Nat := if v.width = 0 then 0 else min (v.grant * 1024 / v.width) 4096

/-- Whether the hart in focus owns the vector state of its slot (R18). -/
def State.owns (s : State) : Bool := s.me.vec.owner == s.me.hart.hid && s.me.vec.ownerPid == s.me.hart.pid

/-- Whether an instruction of R18 traps: the vector state is another hart's, and access is not borrowed (R18, R295). -/
def State.vecDenied (s : State) : Bool := !s.owns && (s.me.vec.lz || !s.me.hart.prv)

/-- The lane groups that the hart in focus holds, or that it acts on in borrowed access: none while the vector state is held for another
(Table 5 of 01_machine_state, R18, R363). -/
def State.myGrant (s : State) : Nat := if s.vecDenied then 0 else s.me.vec.grant

/-- The cycle by which the MOPs and the race of a vector state have ended (R156, R193, R296). -/
def Vec.busyUntil (v : Vec) : Nat := (v.chain.map (fun c => c.2) ++ v.raceEnd.toList).foldl max 0

/-- The bits of vdirty set (R17). -/
def State.markDirty (bit : Nat) (s : State) : State :=
  s.modVec fun v => { v with vdirty := v.vdirty ||| xOf (2 ^ bit) }

/-! ### Physical stores of the hardware and error logs -/

/-- Words written by the hardware itself as plain words: their tags become 00, a codeword is written anew, as is a word of
SRAM, and a half that the host holds is taken back (R263, R284, R317, R334). -/
def State.physWrite (pa : Nat) (bytes : List Byte) (s : State) : State :=
  let n := bytes.length
  { s with mem := memWrite s.mem pa bytes, tags := tagSet s.tags (pa / 8) ((pa + n + 7) / 8 - pa / 8) 0,
           flips := s.flips.filter (fun g => !(pa / 16 ≤ g.1 && g.1 < (pa + n + 15) / 16)),
           sram := s.sram.filter (fun f => !(decide (f.site = .bank) && decide (pa ≤ f.pa) && decide (f.pa + 8 ≤ pa + n))),
           hostHeld := s.hostHeld.filter (fun h => !(pa / 64 ≤ h && h < (pa + n + 63) / 64)),
           hostOwned := s.hostOwned.filter (fun h => !(pa / 64 ≤ h && h < (pa + n + 63) / 64)) }

/-- A 64-bit word of physical memory. -/
def State.physWord (s : State) (pa : Nat) : X := xOf (leNat (memBytes s.mem pa 8))

/-- A 64-bit word written by the hardware. -/
def State.physPut (pa : Nat) (w : X) (s : State) : State := s.physWrite pa (leBytes 8 w.toNat)

/-- Who meets an error: the agent code and id of a log entry (Table 1 of 16_reliability). -/
structure Agent where
  code : Nat
  id : Nat
deriving DecidableEq, Repr

/-- The hart in focus as an agent. -/
def State.hartAgent (s : State) : Agent := { code := 0, id := s.hid }

/-- The word at offset 0x08 of a log entry for an error at a DRAM address (Table 1 of 16_reliability). -/
def logWord (kind action pa pos count : Nat) : X :=
  if isDram pa then
    xOf (kind * 2 ^ 56 + action * 2 ^ 52 + pa / 2 ^ 36 % 8 * 2 ^ 48 + pa / 2 ^ 17 % 16 * 2 ^ 44 + pa / 2 ^ 10 % 128 * 2 ^ 37
      + pa / 2 ^ 31 % 32 * 2 ^ 32 + rowOf pa * 2 ^ 22 + pa % 1024 / 16 * 2 ^ 16 + pos * 2 ^ 8 + count)
  else xOf (kind * 2 ^ 56 + action * 2 ^ 52 + pa / 2 ^ 36 % 8 * 2 ^ 48 + pa / 2 ^ 10 % 128 * 2 ^ 37 + pos * 2 ^ 8 + count)

/-- An error logged by a stack (R339): the newest entry is first in the list; an entry of the same kind and location has its
count raised, and a full ring loses its oldest entry. -/
def State.logError (stack : Nat) (word pa agent : X) (s : State) : State :=
  let mine := s.logs.filter (fun e => e.stack == stack)
  let rest := s.logs.filter (fun e => e.stack != stack)
  let fresh : LogEntry := { stack := stack, time := xOf s.cycle, word := word, pa := pa, agent := agent }
  match mine with
  | e :: older =>
    if e.word >>> 8 = word >>> 8 ∧ e.pa = pa then
      let c := fieldOf e.word 0 8
      { s with logs := { e with word := setField e.word 0 8 (min 255 (c + 1)) } :: older ++ rest }
    else if mine.length < 1024 then { s with logs := fresh :: mine ++ rest }
    else
      let n := ((s.logLost.find? (fun l => l.1 == stack)).map (·.2)).getD 0
      { s with logs := fresh :: mine.dropLast ++ rest,
               logLost := s.logLost.filter (fun l => l.1 != stack) ++ [(stack, n + 1)] }
  | [] => { s with logs := fresh :: rest }

/-- An error at a physical address logged for an agent (R331, R339). -/
def State.logAt (kind action pa pos : Nat) (a : Agent) (s : State) : State :=
  s.logError (pa / 2 ^ 36 % 8) (logWord kind action pa pos 1) (xOf (pa / 8 * 8))
    (xOf (a.code * 2 ^ 28 + a.id % 2 ^ 28)) 

end Sys2Proof.Machine
end

