-- ==== Sys2Proof/Machine/Geometry.lean ====
section
/-! DEFINITION. The geometry of plane handles and DRAM addresses (R160 to R162). -/

namespace Sys2Proof.Machine

/-- valid and stale of a handle value (Table 3 of 08_plane_instructions). -/
def hValid (w : X) : Bool := bitAt w 63
/-- stale. -/
def hStale (w : X) : Bool := bitAt w 16
/-- stack. -/
def hStack (w : X) : Nat := fieldOf w 60 3
/-- scratch. -/
def hScratch (w : X) : Bool := bitAt w 59
/-- col_lo. -/
def hColLo (w : X) : Nat := fieldOf w 52 7
/-- col_hi. -/
def hColHi (w : X) : Nat := fieldOf w 45 7
/-- die_lo. -/
def hDieLo (w : X) : Nat := fieldOf w 41 4
/-- die_hi. -/
def hDieHi (w : X) : Nat := fieldOf w 37 4
/-- sub. -/
def hSub (w : X) : Nat := fieldOf w 32 5
/-- base. -/
def hBase (w : X) : Nat := fieldOf w 22 10
/-- The width, wm1 + 1. -/
def hWidth (w : X) : Nat := fieldOf w 17 5 + 1
/-- Columns of the bank set. -/
def hCols (w : X) : Nat := hColHi w + 1 - hColLo w
/-- Dies of the bank set. -/
def hDies (w : X) : Nat := hDieHi w + 1 - hDieLo w

/-- The length in bytes of a handle's virtual range (R165). -/
def handleLen (w : X) : Nat := hWidth w * hDies w * 2 ^ 17

/-- Stack, die, column and subarray of a DRAM address (R160). -/
def paStack (pa : Nat) : Nat := pa / 2 ^ 36 % 8
/-- The die. -/
def paDie (pa : Nat) : Nat := pa / 2 ^ 17 % 16
/-- The column. -/
def paCol (pa : Nat) : Nat := pa / 2 ^ 10 % 128
/-- The subarray. -/
def paSub (pa : Nat) : Nat := pa / 2 ^ 31 % 32

/-- Whether a DRAM address lies in a bank of a handle's set. -/
def inBanks (w : X) (pa : Nat) : Bool :=
  hStack w == paStack pa && decide (hColLo w ≤ paCol pa) && decide (paCol pa ≤ hColHi w) && decide (hDieLo w ≤ paDie pa) &&
    decide (paDie pa ≤ hDieHi w)

/-- The bank of an address, as a number. -/
def bankNum (pa : Nat) : Nat := paStack pa * 2 ^ 11 + paDie pa * 2 ^ 7 + paCol pa

/-- The address of row 0 of each bank of a handle's set, in its subarray. -/
def bankBases (w : X) : List Nat :=
  ((List.range 16).filter (fun d => decide (hDieLo w ≤ d) && decide (d ≤ hDieHi w))).flatMap fun d =>
    ((List.range 128).filter (fun c => decide (hColLo w ≤ c) && decide (c ≤ hColHi w))).map fun c =>
      hStack w * 2 ^ 36 + hSub w * 2 ^ 31 + d * 2 ^ 17 + c * 2 ^ 10

/-- The address of a row of a bank. -/
def rowPa (bank row : Nat) : Nat := bank + row * 2 ^ 21

/-- The data rows of planes 0 to n − 1 of a handle. -/
def planeRows (w : X) (n : Nat) : List Nat := (List.range n).map (hBase w + ·)

/-- Whether the bank sets of two handles share a bank. -/
def banksMeet (a b : X) : Bool :=
  hStack a == hStack b && decide (hColLo a ≤ hColHi b) && decide (hColLo b ≤ hColHi a) && decide (hDieLo a ≤ hDieHi b) &&
    decide (hDieLo b ≤ hDieHi a)

/-- Whether rows of a subarray in a bank set meet the rows of a handle. -/
def rowsMeet (geo : X) (rows : List Nat) (h : X) : Bool :=
  banksMeet geo h && hSub geo == hSub h && rows.any (fun r => decide (r ∈ planeRows h (hWidth h)))

/-- Whether a DRAM address lies in a row of a handle. -/
def inRows (h : X) (pa : Nat) : Bool :=
  inBanks h pa && hSub h == paSub pa && decide (hBase h ≤ rowOf pa) && decide (rowOf pa < hBase h + hWidth h)

/-- Stacks that neighbour in the 2 × 4 grid (R319). -/
def gridNear (a b : Nat) : Bool :=
  (a / 4 == b / 4 && (a % 4 + 1 == b % 4 || b % 4 + 1 == a % 4)) || (a % 4 == b % 4 && a / 4 != b / 4)

/-- The stacks that some stacks reach in n hops among those of a list. -/
def reach (alive : List Nat) : Nat → List Nat → List Nat
  | 0, l => l
  | n + 1, l => reach alive n (alive.filter fun a => decide (a ∈ l) || l.any (gridNear a))

/-- The stacks that are not mapped out (R340). -/
def aliveStacks (lost : List ModuleUnit) : List Nat := (List.range 8).filter fun st => decide (ModuleUnit.baseDie st ∉ lost)

/-- The bank and bit column of a lane of a handle: die, column and bit (R162). -/
def laneOf (h : X) (l : Nat) : Nat × Nat × Nat :=
  (hDieLo h + l / 8192 / hCols h, hColLo h + l / 8192 % hCols h, l % 8192)

/-- Lanes of a handle (R162). -/
def laneCount (h : X) : Nat := hCols h * hDies h * 8192

end Sys2Proof.Machine
end

