-- ==== Sys2Proof/Machine/Banks.lean ====
section
/-! DEFINITION. The physical address map (R309 to R311, R315), the ECC decode of a granule (R330 to R333), and the banks and row-locks
that hold an access back (R169 to R171, R178). -/

namespace Sys2Proof.Machine

/-! ### The physical address map -/

/-- Whether a DRAM address is mapped out with a lost unit (Table 3 of 16_reliability). -/
def State.dramLost (s : State) (pa : Nat) : Bool :=
  s.fw.lost.any fun u =>
    match u with
    | .bank st d _ => st == pa / 2 ^ 36 % 8 && d / 4 == pa / 2 ^ 17 % 16 / 4
    | .die st d => st == pa / 2 ^ 36 % 8 && d / 4 == pa / 2 ^ 17 % 16 / 4
    | .bus st _ => st == pa / 2 ^ 36 % 8
    | .sramLayer st => st == pa / 2 ^ 36 % 8
    | .baseDie st => st == pa / 2 ^ 36 % 8
    | .computeLayer _ _ => false
    | .core _ => false

/-- Whether an address is in the range of SRAM scratch (Table 1 of 15_memory_system_and_engines). -/
def isScratch (pa : Nat) : Bool := 2 ^ 40 ≤ pa && pa < 2 ^ 40 + 2 ^ 39 && pa / 2 ^ 27 % 2 ^ 9 == 0

/-- Whether a column bank is mapped out with a lost unit (Table 3 of 16_reliability). -/
def State.bankLost (s : State) (stack column : Nat) : Bool :=
  s.fw.lost.any fun u =>
    match u with
    | .bus st c => st == stack && c == column
    | .sramLayer st => st == stack
    | .baseDie st => st == stack
    | _ => false

/-- Whether an address is one of CXL-attached memory (R309). -/
def inT3 (pa : Nat) : Bool := decide (2 ^ 51 ≤ pa)

/-- Whether a scratch address lies in a column bank that is mapped out, and so backs nothing (R340). -/
def State.scratchLost (s : State) (pa : Nat) : Bool := s.bankLost (pa / 2 ^ 36 % 8) (pa / 2 ^ 10 % 128)

/-- The stack of CXL port 0 to 3 (R342; DESIGN CHOICE, log entry 50: the ports are numbered in the order in which R342 names their
stacks). -/
def portStack (port : Nat) : Nat := [0, 3, 4, 7].getD port 0

/-- Whether a CXL port works: a stack that is mapped out takes its port with it (Table 3 of 16_reliability). -/
def State.portWorks (s : State) (port : Nat) : Bool := decide (port < 4) && decide (ModuleUnit.baseDie (portStack port) ∉ s.fw.lost)

/-- The stack that homes a line: that of its DRAM or scratch address, or that of the port that decodes it (R312). -/
def State.homeStack (s : State) (pa : Nat) : Nat :=
  if inT3 pa then
    portStack (((s.parts.flatMap (fun p => p.cfg.t3)).find? (fun r => decide (r.base ≤ pa) && decide (pa < r.base + r.size))).map (fun r => r.port) |>.getD 0)
  else pa / 2 ^ 36 % 8

/-- The T3 ranges of a partition whose port works (R309). -/
def State.t3Ranges (s : State) (pid : Nat) : List T3Range :=
  (((s.part? pid).map (fun p => p.cfg.t3)).getD []).filter fun r => decide (2 ^ 51 ≤ r.base) && decide (r.base + r.size ≤ 2 ^ 52) && s.portWorks r.port

/-- The end of the run of addresses from pa on that some ranges cover, n of them followed. -/
def coveredTo (rs : List T3Range) : Nat → Nat → Nat
  | 0, pa => pa
  | n + 1, pa =>
    match rs.find? (fun r => decide (r.base ≤ pa) && decide (pa < r.base + r.size)) with
    | some r => coveredTo rs n (r.base + r.size)
    | none => pa

/-- Whether n bytes from pa on lie in T3 ranges of a partition. -/
def State.isT3 (s : State) (pid pa n : Nat) : Bool :=
  let rs := s.t3Ranges pid
  decide (pa + n ≤ coveredTo rs rs.length pa)

/-- Whether the tier of a page-table entry matches the row of the address map that its frame of n bytes lies in (R302, R309): a frame
that runs into addresses of no row, or into mapped-out dies, or that lies in the scratch of a stack whose SRAM layer or base die is mapped
out, matches none. A frame of scratch spans all columns of its stack, so that single mapped-out columns are met by the access (log entry 50). -/
def State.tierMatches (s : State) (pid pa n tier : Nat) : Bool :=
  if isDram pa then decide (tier ≤ 1) && !s.dramLost pa && (n != 2 ^ 31 || (List.range 4).all fun g => !s.dramLost (pa + g * 2 ^ 19))
  else if isScratch pa then
    let st := pa / 2 ^ 36 % 8
    tier == 3 && isScratch (pa + n - 1) && decide (n ≤ 2 ^ 27) && !s.fw.lost.any fun u => u == .sramLayer st || u == .baseDie st
  else tier == 2 && s.isT3 pid pa n

/-- Whether the row of an address is scratch-marked (R168). -/
def State.scratchMarked (s : State) (pa : Nat) : Bool :=
  isDram pa && (s.rows.find? (fun r => r.1 == pa / 1024)).any (fun r => r.2 == .scratch)

/-- The way partition of a core position; req and cur are 0 where none has been written (Table 3 of
15_memory_system_and_engines). -/
def State.wpart (s : State) (stack pos : Nat) : Wpart :=
  (s.wparts.find? (fun w => w.stack == stack && w.pos == pos)).getD
    { stack := stack, pos := pos, req := 0, cur := 0, way := none }

/-- busy of wpart (R313, R314). -/
def Wpart.busy (w : Wpart) : Bool := w.way.isSome

/-- The conversion of the next way toward req, if any (R314): at most 2,560 cycles for a way that becomes scratch, 512 for one that
leaves; the number of cycles is a free choice (log entry 6). -/
def State.nextWay (s : State) (req cur : Nat) : Option (Nat × Nat) :=
  if cur < req then some (cur + 1, s.cycle + 1 + Config.freeChoice s.fresh 0 % 2560)
  else if req < cur then some (cur - 1, s.cycle + 1 + Config.freeChoice s.fresh 0 % 512)
  else none

/-- Rows 1008 to 1023 back no memory (R310). -/
def reservedRow (pa : Nat) : Bool := isDram pa && decide (1008 ≤ rowOf pa)

/-! ### ECC (R330 to R333) -/

/-- The line of 128 bytes at an address poisoned: every word has tag 11, and its codewords are written (R331). A granule holds the poison
pattern where both of its words have tag 11 (log entry 25). -/
def State.poisonLine (pa : Nat) (s : State) : State :=
  { s with tags := tagSet s.tags (pa / 128 * 16) 16 3,
           flips := s.flips.filter (fun g => g.1 / 8 != pa / 128) }

/-- Whether an access meets poison at an address (R81, R330): in a managed page the tag of the word, elsewhere the pattern of the
granule. -/
def State.poisonedAt (s : State) (managed : Bool) (pa : Nat) : Bool :=
  tagAt s.tags (pa / 8) == 3 && (managed || tagAt s.tags (pa / 16 * 2) == 3 && tagAt s.tags (pa / 16 * 2 + 1) == 3)

/-- The data of a granule with named bits flipped: bits 0 to 127 of its codeword. -/
def flipData (bytes : List Byte) (bits : List Nat) : List Byte :=
  bits.foldl (fun l b => if b < 128 then l.modify (b / 8) (fun y => y ^^^ BitVec.ofNat 8 (2 ^ (b % 8))) else l) bytes

/-- The tag of word j of a granule with named bits flipped: bits 128 and 129 of its codeword for word 0, 130 and 131 for word 1; the
rest are check bits (DESIGN CHOICE, log entry 25). -/
def flipTag (tag : BitVec 2) (j : Nat) (bits : List Nat) : BitVec 2 :=
  bits.foldl (fun t b => if b / 2 = 64 + j then t ^^^ BitVec.ofNat 2 (2 ^ (b % 2)) else t) tag

/-- The address that a log entry gives for bit b of a granule's codeword: the word that the bit belongs to (Table 1 and the worked read
of 16_reliability), and the first word for a check bit. -/
def bitAddr (pa b : Nat) : Nat :=
  pa / 16 * 16 + (if b < 128 then b / 64 * 8 else if b / 2 = 65 then 8 else 0)

/-- A granule stored with bits of its codeword flipped and taken for valid (R330). -/
def State.keepFlips (pa : Nat) (bits : List Nat) (s : State) : State :=
  let g := pa / 16
  { s with mem := memWrite s.mem (16 * g) (flipData (memBytes s.mem (16 * g) 16) bits),
           tags := tagSet (tagSet s.tags (2 * g) 1 (flipTag (tagAt s.tags (2 * g)) 0 bits)) (2 * g + 1) 1
             (flipTag (tagAt s.tags (2 * g + 1)) 1 bits),
           flips := flipsSet s.flips g [] }

/-- Flipped bits among the data of n bytes from pa on gone: the bytes are written, while the rest of their codewords stays. -/
def State.unflip (pa n : Nat) (s : State) : State :=
  let hit := fun (g b : Nat) => decide (b < 128) && decide (pa ≤ 16 * g + b / 8) && decide (16 * g + b / 8 < pa + n)
  { s with flips := (s.flips.map fun g => (g.1, g.2.filter fun b => !hit g.1 b)).filter fun g => !g.2.isEmpty }

/-! ### Words of SRAM (R312, R316, R334) -/

/-- The line at an address as its bank holds it (R312). -/
def State.lineAt (s : State) (pa : Nat) : Option Line := s.lines.find? (fun k => k.pa == pa / 128 * 128)

/-- The directory entry of a line; one that is not listed names no copy (R316). -/
def State.dirAt (s : State) (pa : Nat) : DirEntry :=
  (s.dir.find? (fun e => e.pa == pa / 128 * 128)).getD { pa := pa / 128 * 128, data := [], instr := [], modLow := false, modHigh := false }

/-- Whether an L1 data cache holds a line modified. -/
def DirEntry.modified (e : DirEntry) : Bool := e.modLow || e.modHigh

/-- Whether a word of DRAM is served at its home from a copy of its line, in its column bank or recalled from the L1 that has it modified, so
that no DRAM bank is reached (R312, R331, R333). -/
def State.lineHeld (s : State) (pa : Nat) : Bool := (s.lineAt pa).isSome || (s.dirAt pa).modified

/-- The place that serves a word to a reader: the L1 of the core whose L1 it reads through, where that holds the line, the column bank or
scratch, or DRAM. -/
def State.servedBy (s : State) (l1 : Option Nat) (pa : Nat) : ErrorSite :=
  match l1.filter (fun c => decide (c ∈ (s.dirAt pa).data)) with
  | some c => .l1 c
  | none => if isScratch pa || (s.lineAt pa).isSome then .bank else .dram

/-- Whether the copy at a place is the only one that is up to date (R334). -/
def State.siteDirty (s : State) (pa : Nat) : ErrorSite → Bool
  | .dram => true
  | .bank => isScratch pa || (s.lineAt pa).any (fun k => k.dirtyLow || k.dirtyHigh)
  | .l1 _ => (s.dirAt pa).modified
  | .l1i _ => false

/-- A directory without a copy of a line in one L1; an entry that names none goes. -/
def dropCopy (pa : Nat) (ok : DirEntry → DirEntry) (l : List DirEntry) : List DirEntry :=
  (l.map fun e => if e.pa = pa / 128 * 128 then ok e else e).filter fun e => !(e.data.isEmpty && e.instr.isEmpty)

/-- A clean copy discarded, to be fetched again (R334); the L1 copies of a T3 line go with the line of its bank (R316, R318). -/
def State.discardCopy (pa : Nat) (site : ErrorSite) (s : State) : State :=
  match site with
  | .dram => s
  | .bank =>
    { s with lines := s.lines.filter (fun k => k.pa != pa / 128 * 128),
             dir := if inT3 pa then dropCopy pa (fun e => { e with data := [], instr := [] }) s.dir else s.dir }
  | .l1 c => { s with dir := dropCopy pa (fun e => { e with data := e.data.filter (· != c), modLow := false, modHigh := false }) s.dir }
  | .l1i c => { s with dir := dropCopy pa (fun e => { e with instr := e.instr.filter (· != c) }) s.dir }

/-- An error of a word of SRAM logged by the stack that detects it, that of the core whose L1 it is or of its home: the entry names the
column and no DRAM location (R339). -/
def State.logSram (kind action pa pos : Nat) (site : ErrorSite) (a : Agent) (s : State) : State :=
  let st := match site with
    | .l1 c => stackOf c
    | .l1i c => stackOf c
    | _ => s.homeStack pa
  s.logError st (xOf (kind * 2 ^ 56 + action * 2 ^ 52 + st * 2 ^ 48 + pa / 2 ^ 10 % 128 * 2 ^ 37 + pos * 2 ^ 8 + 1)) (xOf (pa / 8 * 8))
    (xOf (a.code * 2 ^ 28 + a.id % 2 ^ 28))

/-- The flips of the word at an address in one place, and of no other, forgotten: the word is written anew or its copy is gone. -/
def State.dropSram (pa : Nat) (site : ErrorSite) (s : State) : State :=
  { s with sram := s.sram.filter fun f => !(f.pa == pa / 8 * 8 && decide (f.site = site)) }

/-- The flips of a new copy of a line: it has none. -/
def State.newCopy (pa : Nat) (site : ErrorSite) (s : State) : State :=
  { s with sram := s.sram.filter fun f => !(f.pa / 128 == pa / 128 && decide (f.site = site)) }

/-- Whether an uncorrectable word is found by a partial write that its column bank merges, which is then refused with kind 0x03 (R333). -/
def refusesWrite (kind pa : Nat) (site : ErrorSite) : Bool := kind == 0x03 && decide (site = .bank) && !isScratch pa

/-- A word of SRAM read for an agent (R333, R334): one flipped bit is corrected and logged, two poison scratch or a line whose copy is dirty, and
a clean copy is fetched again; three or more may be found uncorrectable or be corrected wrongly, which a free choice decides (log entry 25). An
instruction line is fetched again in any case. `kind` is that of an uncorrectable granule for the reader; the answer is whether a partial
write is refused. -/
def State.readSram (kind pa : Nat) (site : ErrorSite) (a : Agent) (s : State) : Bool × State :=
  match s.sram.find? (fun f => f.pa == pa / 8 * 8 && decide (f.site = site)) with
  | none => (false, s)
  | some f =>
    let s1 := s.dropSram pa site
    let refused := refusesWrite kind pa site
    let lose := fun (t : State) =>
      if t.siteDirty pa site then (refused, (t.poisonLine pa).logSram (if refused then 0x03 else 0x08) 2 pa 0 site a)
      else (false, t.discardCopy pa site)
    match site, f.bits with
    | _, [] => (false, s1)
    | .l1i c, _ => (false, s1.discardCopy pa (.l1i c))
    | k, [b] => (false, s1.logSram 0x07 1 pa b k a)
    | _, [_, _] => lose s1
    | _, bits =>
      let s2 : State := { s1 with fresh := s1.fresh + 1 }
      if Config.freeChoice s.fresh 0 % 2 = 0 then lose s2
      else
        let bytes := flipData (memBytes s2.mem (pa / 16 * 16) 16) (bits.map (fun b => pa / 8 % 2 * 64 + b % 64))
        (false, { s2 with mem := memWrite s2.mem (pa / 16 * 16) bytes })

/-- A word of SRAM read for an agent that writes no part of it. -/
def State.decodeSram (pa : Nat) (site : ErrorSite) (a : Agent) (s : State) : State := (s.readSram 0x02 pa site a).2

/-- The words of a line of SRAM at one place that have flipped bits read in order, as the line is read out whole. -/
def State.decodeLine (pa : Nat) (site : ErrorSite) (a : Agent) (s : State) : State :=
  ((s.sram.filter fun f => f.pa / 128 == pa / 128 && decide (f.site = site)).map (·.pa)).foldl (fun t w => t.decodeSram w site a) s

/-- A line that an L1 other than the reader's has modified read out of it, before what it held is used (R316, R334). -/
def State.meetRemote (l1 : Option Nat) (pa : Nat) (a : Agent) (s : State) : State :=
  if (s.dirAt pa).modified then ((s.dirAt pa).data.filter fun c => some c != l1).foldl (fun t c => t.decodeLine pa (.l1 c) a) s else s

/-- What the bank finds when it decodes a granule. -/
inductive Decoded where
  | good
  | poisoned
  | uncorrectable
deriving DecidableEq, Repr

/-- The bank remembers a row, of a subarray, in which an uncorrectable granule was found (R340, Table 3 of 16_reliability). -/
def State.noteBadRow (pa : Nat) (s : State) : State :=
  let rows := insertNew s.fw.badRows (pa / 2 ^ 36 % 8, pa / 2 ^ 17 % 16, pa / 2 ^ 10 % 128, pa / 2 ^ 31 % 32 * 1024 + rowOf pa)
  { s with fw := { s.fw with badRows := rows } }

/-- An uncorrectable granule found by a reader (R331, R333): the line is poisoned and the error logged. -/
def State.foundBad (kind pa b : Nat) (a : Agent) (s : State) : State :=
  ((s.poisonLine pa).logAt kind 2 (bitAddr pa b) b a).noteBadRow pa

/-- A granule decoded for a reader (R331): one flipped bit is corrected and written back, two poison the line, and three or
more may be found uncorrectable, may be corrected wrongly or may pass undetected, which is left to a free choice (log entry 25). -/
def State.decodeGranule (kind : Nat) (pa : Nat) (a : Agent) (s : State) : Decoded × State :=
  if s.poisonedAt false pa then (.poisoned, s)
  else
    match flipsAt s.flips (pa / 16) with
    | [] => (.good, s)
    | [b] => (.good, ({ s with flips := flipsSet s.flips (pa / 16) [] }).logAt 0x01 1 (bitAddr pa b) b a)
    | [b, c] => (.uncorrectable, s.foundBad kind pa (min b c) a)
    | b :: bits =>
      let s1 : State := { s with fresh := s.fresh + 1 }
      let how := Config.freeChoice s.fresh 0 % 3
      if how = 0 then (.uncorrectable, s1.foundBad kind pa (bits.foldl min b) a)
      else (.good, s1.keepFlips pa (if how = 1 then b :: bits else (Config.freeChoice s.fresh 1 % 144) :: b :: bits))

/-- Whether a half of 64 bytes lies among those that n bytes from an address on touch. -/
def touchesHalf (pa n h : Nat) : Bool := decide (pa / 64 ≤ h) && decide (h ≤ (pa + n - 1) / 64)

/-- What an access of the module does to the halves that the host holds (R245, R317): a read leaves the host a shared copy, a write
removes the host's copy. The module's one memory holds what the host has written to its copy (log entry 51). -/
def State.unhold (pa n : Nat) (write : Bool) (s : State) : State :=
  { s with hostHeld := if write then s.hostHeld.filter (fun h => !touchesHalf pa n h) else s.hostHeld,
           hostOwned := s.hostOwned.filter (fun h => !touchesHalf pa n h) }

/-- A granule met at its home by a reader of plain words, or by a partial write of them: a copy of its line serves it, its words being read, and
where there is none the bank decodes it (R331, R333, R334). -/
def State.meetHome (kind pa : Nat) (a : Agent) (s : State) : Decoded × State :=
  let g := pa / 16 * 16
  let s0 := s.meetRemote none pa a
  let k := s0.servedBy none pa
  let (b0, s1) := if k = .dram then (false, s0) else s0.readSram kind g k a
  let (b1, s2) := if k = .dram then (false, s1) else s1.readSram kind (g + 8) k a
  if b0 || b1 then (.uncorrectable, s2)
  else if s2.lineHeld pa && !s2.poisonedAt false pa then (.good, s2)
  else s2.decodeGranule kind pa a

/-- A granule met at its home by the module, of which the host keeps a shared copy at most (R317). -/
def State.meetPlain (kind pa : Nat) (a : Agent) (s : State) : Decoded × State := (s.unhold (pa / 16 * 16) 16 false).meetHome kind pa a

/-- A 64-bit word as the hardware reads it for its own use, its granule having been decoded: a free value where none is delivered (R331;
log entry 6). -/
def State.plainWord (s : State) (pa : Nat) : X :=
  if s.poisonedAt false pa then Config.freeWord (s.fresh + pa / 8) else s.physWord pa

/-- A 64-bit word stored by the hardware as a plain word: a write that does not cover its granule, which is decoded first, and which is not
performed where that is uncorrectable or poisoned (R263, R333). -/
def State.putPlain (a : Agent) (pa : Nat) (w : X) (s : State) : State :=
  match s.meetPlain 0x03 pa a with
  | (.good, s1) => (s1.dropSram pa .bank).physPut pa w
  | (_, s1) => s1

/-- Every granule of a list met in order by a reader: whether all are good (R331, R333). A word with tag 11 is poison to the readers
that see no pages. -/
def meetEach (meet : Nat → State → Decoded × State) : List Nat → State → Bool × State
  | [], s => (true, s)
  | g :: rest, s =>
    let (d, s1) := meet g s
    let (ok, s2) := meetEach meet rest s1
    (ok && d == .good && tagAt s.tags (g / 8) != 3 && tagAt s.tags (g / 8 + 1) != 3, s2)

/-- The addresses of the granules that n bytes from pa on touch. -/
def granules (pa n : Nat) : List Nat :=
  (List.range ((pa + n + 15) / 16 - pa / 16)).map fun i => (pa / 16 + i) * 16

/-! ### Banks that are busy -/

/-- Whether a sequencer's work for a partition is frozen (R294). -/
def State.seqFrozen (s : State) (stack pid : Nat) : Bool :=
  s.seq.any fun o => o.refused.isSome && o.pid == pid && hStack o.geo == stack

/-- The row that an address lies in, of its bank, as a window counts it. -/
def rowItem (pa : Nat) : Nat × Nat := (bankNum pa, pa / 1024)

/-- The rows that an open window serves in a bank. -/
def SeqOp.servedIn (o : SeqOp) (bank : Nat) : Nat := (o.served.filter fun q => q.1 == bank).length

/-- The cycle in which the window of a microprogram closes: when the bank with the most items has served them, each in a row time (R169,
R355). -/
def SeqOp.windowEnd (o : SeqOp) : Nat :=
  o.opened + 48 * ((o.items.map (·.2) ++ o.served.map fun q => (o.items.lookup q.1).getD 0 + o.servedIn q.1).foldl max 0)

/-- Whether a wait is one for banks. -/
def Wait.onBank : Wait → Bool
  | .bank _ _ => true
  | .rows _ => true
  | _ => false

/-- Whether an access that a window has admitted is still awaited by its agent, which may have been interrupted (R287) or timed out (R343). -/
def State.stillWaits (s : State) (w : Waiter) : Bool :=
  w.who.any fun a =>
    if a.1 < 1000 then s.slots.any fun o => o.live && o.hart.pid == a.1 && o.hart.hid == a.2 && o.hart.wait.any Wait.onBank
    else if a.1 < 2000 then s.engines.any fun k => 1000 + k.n == a.1 && k.waitsOn.isSome
    else if a.1 < 3000 then s.seq.any fun o => 2000 + hStack o.geo == a.1 && o.waitsOn.isSome
    else if a.1 < 5000 then s.recWaits.any fun r => 3000 + r.pid == a.1 && r.hid == a.2
    else s.requests.any fun r => (5000, BitVec.ofNat 32 r.id) == a

/-- Whether a window serves an agent's access to a row now, of the accesses that it admitted (R169): it is one of them, and no earlier one has
still to be served by the bank. -/
def State.admits (s : State) (who : Option (Nat × BitVec 32)) (item : Nat × Nat) : List Waiter → Bool
  | [] => false
  | w :: rest =>
    w.who.isNone || (w.who == who && decide (item ∈ w.rows)) ||
      ((w.who == who || !s.stillWaits w || w.left.all (fun q => q.1 != item.1)) && s.admits who item rest)

/-- Whether an open window serves an agent's access to a row (R169): the access waited when the window opened, and its turn has come. -/
def State.windowServes (s : State) (o : SeqOp) (who : Option (Nat × BitVec 32)) (pa : Nat) : Bool :=
  o.window && decide (s.cycle < o.nextAt) && who.isSome && s.admits who (rowItem pa) o.admitted

/-- Whether a microprogram holds its banks in a cycle against an agent's access: it runs, and no window is open that serves it (R169). A
frozen sequencer serves every access in the banks of its stopped microprograms (R294), and the check of a microprogram's own next run reads
them before that run begins (R294, R301). -/
def State.holdsBanks (s : State) (o : SeqOp) (who : Option (Nat × BitVec 32)) (pa : Nat) : Bool :=
  o.running && !(o.window && s.seqFrozen (hStack o.geo) o.pid) && !s.windowServes o who pa &&
    !(o.sinceSync == 0 && who.any (fun w => w.1 == 2000 + hStack o.geo))

/-- An admitted access of an agent with one of its rows served. -/
def Waiter.serve (who : Option (Nat × BitVec 32)) (item : Nat × Nat) (w : Waiter) : Waiter :=
  if w.who = who then { w with left := w.left.filter fun q => q != item } else w

/-- A row served to an agent in the open windows that have admitted it (R169, R171). -/
def State.chargeRow (pa : Nat) (who : Option (Nat × BitVec 32)) (s : State) : State :=
  if isDram pa ∧ !s.lineHeld pa then
    { s with seq := s.seq.map fun o =>
        if o.running && inBanks o.geo pa && s.windowServes o who pa then { o with admitted := o.admitted.map (Waiter.serve who (rowItem pa)) }
        else o }
  else s

/-- The cycles in which a die performs a refresh on its idle banks: the row time after the refresh falls due (R170). -/
def refreshing (die cycle : Nat) : Bool := decide (312 * die ≤ cycle) && decide ((cycle - 312 * die) % 4992 < 48)

/-- The cycles for which an access that reaches an idle bank of a die waits for the rest of a refresh there (R170). -/
def refreshRest (die cycle : Nat) : Nat := if refreshing die cycle then 48 - (cycle - 312 * die) % 4992 else 0

/-- Whether a refresh occupies the bank of a DRAM address while it runs no microprogram (R170). -/
def State.refreshAt (s : State) (pa : Nat) : Bool :=
  (decide (0 < refreshRest (paDie pa) s.cycle) ||
    s.lateRefreshes.any fun r => decide (s.cycle < r.doneAt) && r.die == paDie pa && inBanks r.geo pa) &&
  !s.seq.any fun o => o.running && inBanks o.geo pa

/-- Whether the bank of a DRAM address, which an agent's access reaches, is busy with a microprogram or a refresh (R169 to R171). -/
def State.bankBusy (s : State) (pa : Nat) (who : Option (Nat × BitVec 32)) : Bool :=
  isDram pa && !s.lineHeld pa && (s.refreshAt pa || s.seq.any fun o => s.holdsBanks o who pa && inBanks o.geo pa)

/-- Whether a .w row-lock of a hart other than the one given holds an access back (R178). -/
def State.rowLocked (s : State) (pa : Nat) (who : Option (Nat × BitVec 32)) : Bool :=
  isDram pa && s.locks.any fun l =>
    l.placed && l.mode.getLsbD 0 && decide (who ≠ some (l.pid, l.hid)) && inRows l.handle pa

/-- Whether an access of an agent to a DRAM address must wait (R169, R171, R178). -/
def State.dramWaits (s : State) (pa : Nat) (who : Option (Nat × BitVec 32)) : Bool := s.bankBusy pa who || s.rowLocked pa who

/-! ### Hart records (R263) -/

/-- The physical address of the record of a hart (R263). -/
def State.recordAddr (s : State) (pid : Nat) (hid : BitVec 32) : Nat :=
  ((s.part? pid).map (fun p => p.cfg.pool)).getD 0 + 512 * hid.toNat

/-- How banks know a request of CXL.mem. -/
def requestAsker (id : Nat) : Nat × BitVec 32 := (5000, BitVec.ofNat 32 id)

/-- The addresses that an access under way has waited for, with a further one first, and since when it waits for that one. -/
def waitAt (pa cycle : Nat) (w : Option (List Nat × Nat)) : Option (List Nat × Nat) :=
  let old := (w.map (·.1)).getD []
  some (pa :: without old pa, if old.head? = some pa then (w.map (·.2)).getD cycle else cycle)

/-- How banks know an access of the scheduler or a walker to the record of a hart. -/
def recordAsker (pid : Nat) (hid : BitVec 32) : Nat × BitVec 32 := (3000 + pid, hid)

/-- Whether a word-path access to an address must wait: for a bank or a row-lock, or for a way of scratch that is being converted (R169,
R171, R178, R315). -/
def State.wordWaits (s : State) (pa : Nat) (who : Option (Nat × BitVec 32)) : Bool :=
  s.dramWaits pa who ||
    (isScratch pa && (let w := s.wpart (pa / 2 ^ 36 % 8) (pa / 2 ^ 14 % 8)
      decide (64 * w.cur ≤ pa / 2 ^ 17 % 1024) && decide (pa / 2 ^ 17 % 1024 < 64 * w.req)))

/-- The addresses at which a switch or a hand-off reaches the record of a hart, and its handle area (R263, R369). -/
def State.recordLines (s : State) (pid : Nat) (hid : BitVec 32) : List Nat :=
  let a := s.recordAddr pid hid
  let area := (s.physWord (a + 0x70)).toNat
  (List.range 4).map (fun i => a + 128 * i) ++ (if area = 0 then [] else (List.range 4).map (fun i => area + 128 * i))

/-- The first of those addresses at which an access by an agent must wait (R169, R171, R178, R263, R315). -/
def State.recordWait (s : State) (pid : Nat) (hid : BitVec 32) (who : Nat × BitVec 32) : Option Nat :=
  (s.recordLines pid hid).find? fun a => s.wordWaits a (some who)

/-- Whether the scheduler must wait for the record of a hart. -/
def State.recordBusy (s : State) (pid : Nat) (hid : BitVec 32) : Bool := (s.recordWait pid hid (recordAsker pid hid)).isSome

/-- Whether the scheduler must wait for the first words of a record, which say what it is for. -/
def State.headBusy (s : State) (pid : Nat) (hid : BitVec 32) : Bool := s.wordWaits (s.recordAddr pid hid) (some (recordAsker pid hid))

/-- The record of a hart reached by the scheduler or a walker: its rows are served in the windows that are open (R169), and each granule of it
and of its handle area is decoded, for the hart (R331). -/
def State.readRecord (pid : Nat) (hid : BitVec 32) (s : State) : State :=
  let ls := s.recordLines pid hid
  let t := (ls.flatMap fun a => granules a 128).foldl (fun u g => (u.meetPlain 0x02 g { code := 0, id := hid.toNat }).2) s
  ls.foldl (fun u a => u.chargeRow a (some (recordAsker pid hid))) t

end Sys2Proof.Machine
end

