-- ==== Sys2Proof/Machine/Float.lean ====
section
/-! DEFINITION. Number formats, rounding and exact arithmetic (R28 to R36): values are exact dyadic numbers, and one rounding
function serves every format. -/

namespace Sys2Proof.Machine

/-- Flags in the order of status.ff: NV bit 4, DZ bit 3, OF bit 2, UF bit 1, NX bit 0. -/
abbrev Flags := BitVec 5

/-- NV. -/
def flagNV : Flags := 0x10
/-- DZ. -/
def flagDZ : Flags := 0x08
/-- OF. -/
def flagOF : Flags := 0x04
/-- UF. -/
def flagUF : Flags := 0x02
/-- NX. -/
def flagNX : Flags := 0x01

/-- A floating-point format of Table 1 of 02_number_formats. -/
inductive Fmt where
  | f64
  | f32
  | f16
  | bf16
  | e4m3
  | e5m2
  | e2m1
deriving DecidableEq, Repr

/-- Exponent bits. -/
def Fmt.ebits : Fmt → Nat
  | .f64 => 11
  | .f32 => 8
  | .f16 => 5
  | .bf16 => 8
  | .e4m3 => 4
  | .e5m2 => 5
  | .e2m1 => 2

/-- Fraction bits. -/
def Fmt.fbits : Fmt → Nat
  | .f64 => 52
  | .f32 => 23
  | .f16 => 10
  | .bf16 => 7
  | .e4m3 => 3
  | .e5m2 => 2
  | .e2m1 => 1

/-- Bits of the format. -/
def Fmt.bits (f : Fmt) : Nat := 1 + f.ebits + f.fbits

/-- Exponent bias. -/
def Fmt.bias (f : Fmt) : Nat := 2 ^ (f.ebits - 1) - 1

/-- Whether the format has infinities. -/
def Fmt.hasInf : Fmt → Bool
  | .e4m3 => false
  | .e2m1 => false
  | _ => true

/-- The exponent of the unit in the last place of subnormal numbers. -/
def Fmt.qmin (f : Fmt) : Int := 1 - (f.bias : Int) - (f.fbits : Int)

/-- The encoding of the largest finite magnitude. -/
def Fmt.maxBits (f : Fmt) : Nat :=
  match f with
  | .e4m3 => 0x7E
  | .e2m1 => 0x7
  | _ => (2 ^ f.ebits - 1) * 2 ^ f.fbits - 1

/-- The encoding of +∞ in a format that has it. -/
def Fmt.infBits (f : Fmt) : Nat := (2 ^ f.ebits - 1) * 2 ^ f.fbits

/-- The canonical quiet NaN (R29). E2M1 has none: a NaN converted to it gives +0 (R30). -/
def Fmt.nanBits (f : Fmt) : Nat :=
  match f with
  | .e4m3 => 0x7F
  | .e2m1 => 0
  | _ => f.infBits + 2 ^ (f.fbits - 1)

/-- A floating-point value: a NaN, signalling or not, an infinity, or (−1)^neg × m × 2^e exactly. -/
inductive FV where
  | nan (signalling : Bool)
  | inf (neg : Bool)
  | fin (neg : Bool) (m : Nat) (e : Int)
deriving DecidableEq, Repr

/-- The value of an encoding (R28, R29). -/
def Fmt.decode (f : Fmt) (bits : Nat) : FV :=
  let neg := bits / 2 ^ (f.bits - 1) % 2 == 1
  let ex := bits / 2 ^ f.fbits % 2 ^ f.ebits
  let fr := bits % 2 ^ f.fbits
  if f == .e4m3 && ex == 15 && fr == 7 then .nan false
  else if f.hasInf && ex == 2 ^ f.ebits - 1 then
    if fr = 0 then .inf neg else .nan (fr / 2 ^ (f.fbits - 1) % 2 == 0)
  else if ex = 0 then .fin neg fr f.qmin
  else .fin neg (2 ^ f.fbits + fr) (f.qmin + ((ex : Int) - 1))

/-- The sign bit put on a magnitude. -/
def Fmt.signed (f : Fmt) (neg : Bool) (mag : Nat) : Nat := mag + b2n neg * 2 ^ (f.bits - 1)

/-- Whether a rounding goes up in magnitude (Table 4 of 02_number_formats), from the sign, the parity of the truncated
significand, and the remainder compared with one half: 0 zero, 1 below, 2 equal, 3 above. -/
def roundsUp (mode : Nat) (neg odd : Bool) (r : Nat) : Bool :=
  match mode with
  | 0 => r == 3 || (r == 2 && odd)
  | 1 => false
  | 2 => neg && r != 0
  | 3 => !neg && r != 0
  | _ => 2 ≤ r

/-- m × 2^e, or something above it and below (m + 1) × 2^e when `sticky`, rounded to a multiple of 2^q: the multiple, and
whether it differs. -/
def roundAt (mode : Nat) (neg : Bool) (m : Nat) (e : Int) (sticky : Bool) (q : Int) : Nat × Bool :=
  if q ≤ e then (m * 2 ^ (e - q).toNat + b2n (sticky && roundsUp mode neg false 1), sticky)
  else
    let sh := (q - e).toNat
    let n := m / 2 ^ sh
    let rem := m % 2 ^ sh
    let r := if rem = 0 then b2n sticky
      else if rem < 2 ^ (sh - 1) then 1
      else if rem = 2 ^ (sh - 1) && !sticky then 2
      else 3
    (n + b2n (roundsUp mode neg (n % 2 == 1) r), r != 0)

/-- The result of an overflow (R30, R35). -/
def Fmt.overflow (f : Fmt) (mode : Nat) (sat neg : Bool) : Nat :=
  let toInf := match mode with
    | 1 => false
    | 2 => neg
    | 3 => !neg
    | _ => true
  if toInf then
    match f with
    | .e4m3 => if sat then f.signed neg f.maxBits else f.nanBits
    | .e2m1 => f.signed neg f.maxBits
    | _ => f.signed neg f.infBits
  else f.signed neg f.maxBits

/-- round_to of R35 for (−1)^neg × m × 2^e, with `sticky` for a value slightly above in magnitude. -/
def Fmt.round (f : Fmt) (mode : Nat) (sat neg : Bool) (m : Nat) (e : Int) (sticky : Bool) : Nat × Flags :=
  if m = 0 && !sticky then (f.signed neg 0, 0)
  else
    let top : Int := e + (Nat.log2 m : Int)
    let q0 : Int := top - (f.fbits : Int)
    let q : Int := max q0 f.qmin
    let (n, inexact) := roundAt mode neg m e sticky q
    let bits := (q - f.qmin).toNat * 2 ^ f.fbits + n
    if f.maxBits < bits then (f.overflow mode sat neg, flagOF ||| flagNX)
    else
      let (n0, _) := roundAt mode neg m e sticky q0
      let tiny := q0 < f.qmin && !(q0 == f.qmin - 1 && n0 == 2 ^ (f.fbits + 1))
      (f.signed neg bits, (if inexact then flagNX else 0) ||| (if inexact && tiny then flagUF else 0))

/-- The zero that an exact zero sum gives (R35). -/
def zeroSign (mode : Nat) (a b : Bool) : Bool := if a == b then a else mode == 2

/-- The exact sum of two finite values as sign, significand and exponent; the sign of a zero result follows R35. -/
def exactAdd (mode : Nat) (an : Bool) (am : Nat) (ae : Int) (bn : Bool) (bm : Nat) (be : Int) : Bool × Nat × Int :=
  let e := min ae be
  let x : Int := (if an then -1 else 1) * (am * 2 ^ (ae - e).toNat : Nat)
  let y : Int := (if bn then -1 else 1) * (bm * 2 ^ (be - e).toNat : Nat)
  let z := x + y
  if z = 0 then (if am = 0 && bm = 0 then zeroSign mode an bn else mode == 2, 0, e) else (decide (z < 0), z.natAbs, e)

/-- Whether a value is a signalling NaN. -/
def FV.isSNaN : FV → Bool
  | .nan s => s
  | _ => false

/-- NV where any operand is a signalling NaN (R29). -/
def snanFlag (l : List FV) : Flags := if l.any FV.isSNaN then flagNV else 0

/-- The NaN result of an operation. -/
def Fmt.nanResult (f : Fmt) (fl : Flags) : Nat × Flags := (f.nanBits, fl)

/-- The value with its sign changed. -/
def FV.negate : FV → FV
  | .nan s => .nan s
  | .inf n => .inf (!n)
  | .fin n m e => .fin (!n) m e

/-- round_to(fmt, mode, A + B). -/
def Fmt.add (f : Fmt) (mode : Nat) (a b : FV) : Nat × Flags :=
  match a, b with
  | .nan _, _ => f.nanResult (snanFlag [a, b])
  | _, .nan _ => f.nanResult (snanFlag [a, b])
  | .inf x, .inf y => if x = y then (f.signed x f.infBits, 0) else f.nanResult flagNV
  | .inf x, .fin _ _ _ => (f.signed x f.infBits, 0)
  | .fin _ _ _, .inf y => (f.signed y f.infBits, 0)
  | .fin an am ae, .fin bn bm be =>
    let (n, m, e) := exactAdd mode an am ae bn bm be
    f.round mode false n m e false

/-- The exact product of two values, a NaN for an invalid one. -/
def FV.mul (a b : FV) : FV × Flags :=
  match a, b with
  | .nan _, _ => (.nan false, snanFlag [a, b])
  | _, .nan _ => (.nan false, snanFlag [a, b])
  | .inf x, .inf y => (.inf (Bool.xor x y), 0)
  | .inf x, .fin y m _ => if m = 0 then (.nan false, flagNV) else (.inf (Bool.xor x y), 0)
  | .fin x m _, .inf y => if m = 0 then (.nan false, flagNV) else (.inf (Bool.xor x y), 0)
  | .fin x m e, .fin y n g => (.fin (Bool.xor x y) (m * n) (e + g), 0)

/-- A value rounded into a format. -/
def Fmt.ofFV (f : Fmt) (mode : Nat) (sat : Bool) (a : FV) : Nat × Flags :=
  match a with
  | .nan _ => f.nanResult 0
  | .inf n => (f.signed n f.infBits, 0)
  | .fin n m e => f.round mode sat n m e false

/-- round_to(fmt, mode, A × B). -/
def Fmt.mulTo (f : Fmt) (mode : Nat) (a b : FV) : Nat × Flags :=
  let (p, fl) := a.mul b
  let (r, g) := f.ofFV mode false p
  (r, fl ||| g)

/-- round_to(fmt, mode, A × B + C) with one rounding. The product of 0 and infinity raises NV for a quiet NaN addend too, which IEEE 754-2019
leaves to the implementation (R79; DESIGN CHOICE, log entry 46). -/
def Fmt.fma (f : Fmt) (mode : Nat) (a b c : FV) : Nat × Flags :=
  let (p, fl) := a.mul b
  let (r, g) := f.add mode p c
  (r, fl ||| g)

/-- round_to(fmt, mode, A / B). -/
def Fmt.div (f : Fmt) (mode : Nat) (a b : FV) : Nat × Flags :=
  match a, b with
  | .nan _, _ => f.nanResult (snanFlag [a, b])
  | _, .nan _ => f.nanResult (snanFlag [a, b])
  | .inf _, .inf _ => f.nanResult flagNV
  | .inf x, .fin y _ _ => (f.signed (Bool.xor x y) f.infBits, 0)
  | .fin x _ _, .inf y => (f.signed (Bool.xor x y) 0, 0)
  | .fin x m e, .fin y n g =>
    let s := Bool.xor x y
    if n = 0 then (if m = 0 then f.nanResult flagNV else (f.signed s f.infBits, flagDZ))
    else if m = 0 then (f.signed s 0, 0)
    else
      let k := f.fbits + 4 + Nat.log2 n - Nat.log2 m
      f.round mode false s (m * 2 ^ k / n) (e - g - (k : Int)) (m * 2 ^ k % n != 0)

/-- The integer square root below 2^b, bit by bit. -/
def isqrt (n : Nat) : Nat → Nat → Nat
  | 0, r => r
  | b + 1, r => isqrt n b (if (r + 2 ^ b) * (r + 2 ^ b) ≤ n then r + 2 ^ b else r)

/-- round_to(fmt, mode, √A) (R79). -/
def Fmt.sqrt (f : Fmt) (mode : Nat) (a : FV) : Nat × Flags :=
  match a with
  | .nan s => f.nanResult (if s then flagNV else 0)
  | .inf n => if n then f.nanResult flagNV else (f.infBits, 0)
  | .fin n m e =>
    if m = 0 then (f.signed n 0, 0)
    else if n then f.nanResult flagNV
    else
      let odd : Nat := if e % 2 = 0 then 0 else 1
      let sh := 2 * (f.fbits + 3) + odd
      let v := m * 2 ^ sh
      let r := isqrt v (Nat.log2 v / 2 + 1) 0
      f.round mode false false r ((e - (sh : Int)) / 2) (r * r != v)

/-- Order of two values that are not NaNs, zeros being equal: −1, 0 or 1. -/
def FV.cmp (a b : FV) : Int :=
  match a, b with
  | .inf x, .inf y => if x = y then 0 else if x then -1 else 1
  | .inf x, _ => if x then -1 else 1
  | _, .inf y => if y then 1 else -1
  | .fin an am ae, .fin bn bm be =>
    let e := min ae be
    let x : Int := (if an then -1 else 1) * (am * 2 ^ (ae - e).toNat : Nat)
    let y : Int := (if bn then -1 else 1) * (bm * 2 ^ (be - e).toNat : Nat)
    if x < y then -1 else if x = y then 0 else 1
  | .nan _, _ => 0
  | _, .nan _ => 0

/-- Whether a value is a NaN. -/
def FV.isNaN : FV → Bool
  | .nan _ => true
  | _ => false

/-- The sign of a value. -/
def FV.neg : FV → Bool
  | .nan _ => false
  | .inf n => n
  | .fin n _ _ => n

/-- minimumNumber or maximumNumber of two encodings (R29). -/
def Fmt.minMax (f : Fmt) (isMax : Bool) (x y : Nat) : Nat × Flags :=
  let a := f.decode x
  let b := f.decode y
  let fl := snanFlag [a, b]
  if a.isNaN && b.isNaN then (f.nanBits, fl)
  else if a.isNaN then (y, fl)
  else if b.isNaN then (x, fl)
  else
    let c := a.cmp b
    let aLess := c == -1 || (c == 0 && a.neg && !b.neg)
    (if Bool.xor aLess isMax then x else y, fl)

/-- A compare: 0 for equal (quiet), 1 for less, 2 for less or equal (ordered) (R79). -/
def FV.compare (op : Nat) (a b : FV) : Bool × Flags :=
  if a.isNaN || b.isNaN then (false, if op = 0 then snanFlag [a, b] else flagNV)
  else
    match op with
    | 0 => (a.cmp b == 0, 0)
    | 1 => (a.cmp b == -1, 0)
    | _ => (a.cmp b != 1, 0)

/-- The kind code and sign of an encoding (Table 5 of 04_scalar_instructions). -/
def Fmt.kind (f : Fmt) (bits : Nat) : Nat :=
  let sign := bits / 2 ^ (f.bits - 1) % 2 * 8
  sign + match f.decode bits with
    | .nan s => if s then 5 else 4
    | .inf _ => 3
    | .fin _ m _ => if m = 0 then 0 else if m < 2 ^ f.fbits then 1 else 2

/-! ### Types and conversions (R31 to R33, R36) -/

/-- An element type (Table 5 of 03_instruction_words). -/
inductive Ty where
  | int (w : Nat)
  | nat (w : Nat)
  | flt (f : Fmt)
  | t2
deriving DecidableEq, Repr

/-- The type of a type code; none for .q4x and the reserved codes. -/
def tyOfCode (c : Nat) : Option Ty :=
  match c with
  | 0 => some (.int 8)
  | 1 => some (.int 16)
  | 2 => some (.int 32)
  | 3 => some (.int 64)
  | 4 => some (.nat 8)
  | 5 => some (.nat 16)
  | 6 => some (.nat 32)
  | 7 => some (.nat 64)
  | 8 => some (.flt .f16)
  | 9 => some (.flt .bf16)
  | 10 => some (.flt .f32)
  | 11 => some (.flt .f64)
  | 12 => some (.flt .e4m3)
  | 13 => some (.flt .e5m2)
  | 14 => some (.flt .e2m1)
  | 15 => some (.int 4)
  | 17 => some .t2
  | _ => none

/-- Bits of a type. -/
def Ty.bits : Ty → Nat
  | .int w => w
  | .nat w => w
  | .flt f => f.bits
  | .t2 => 2

/-- The value of a T2 code with the flag of its decoding (R33). -/
def t2Value (c : Nat) : Int × Flags :=
  match c % 4 with
  | 1 => (1, 0)
  | 3 => (-1, 0)
  | 2 => (0, flagNV)
  | _ => (0, 0)

/-- The code of a T2 value. -/
def t2Code (v : Int) : Nat := if v = 0 then 0 else if v < 0 then 3 else 1

/-- A finite value rounded to an integer in a mode: the integer and whether it differs. -/
def roundInt (mode : Nat) (neg : Bool) (m : Nat) (e : Int) : Int × Bool :=
  let (n, ix) := roundAt mode neg m e false 0
  ((if neg then -1 else 1) * (n : Int), ix)

/-- Floating point to an integer range (R36): the integer and its flags. -/
def FV.toRange (mode : Nat) (lo hi : Int) (a : FV) : Int × Flags :=
  match a with
  | .nan _ => (0, flagNV)
  | .inf n => (if n then lo else hi, flagNV)
  | .fin n m e =>
    let (v, ix) := roundInt mode n m e
    if v < lo then (lo, flagNV)
    else if hi < v then (hi, flagNV)
    else (v, if ix then flagNX else 0)

/-- Least value of an integer, natural or ternary type. -/
def Ty.lo : Ty → Int
  | .int w => -(2 ^ (w - 1) : Nat)
  | .nat _ => 0
  | .flt _ => 0
  | .t2 => -1

/-- Greatest value of an integer, natural or ternary type. -/
def Ty.hi : Ty → Int
  | .int w => (2 ^ (w - 1) : Nat) - 1
  | .nat w => (2 ^ w : Nat) - 1
  | .flt _ => 0
  | .t2 => 1

/-- The encoding of an integer in a type, from an integer in its range (or wrapped to it). -/
def Ty.ofInt (t : Ty) (v : Int) : Nat :=
  match t with
  | .t2 => t2Code v
  | _ => ofIntBits t.bits v

/-- The integer that an encoding of an integer, natural or ternary type stands for, with its flags. -/
def Ty.toInt (t : Ty) (bits : Nat) : Int × Flags :=
  match t with
  | .int w => (sextNat w bits, 0)
  | .nat w => ((bits % 2 ^ w : Nat), 0)
  | .t2 => t2Value bits
  | .flt _ => (0, 0)

/-- Floating point to floating point (R30, R36). An infinity encoded to .e2m1 raises no flag (DESIGN CHOICE, log entry 68). -/
def Fmt.convert (f : Fmt) (mode : Nat) (sat : Bool) (a : FV) : Nat × Flags :=
  match a with
  | .nan s => (f.nanBits, if s || f == .e2m1 then flagNV else 0)
  | .inf n =>
    match f with
    | .e4m3 => (if sat then f.signed n f.maxBits else f.nanBits, flagNV)
    | .e2m1 => (f.signed n f.maxBits, 0)
    | _ => (f.signed n f.infBits, 0)
  | .fin n m e => f.round mode sat n m e false

/-- A conversion between types (R36): the destination's encoding and the flags. `sat` is the .s form. -/
def convertTy (src dst : Ty) (mode : Nat) (sat : Bool) (bits : Nat) : Nat × Flags :=
  match src with
  | .flt g =>
    let a := g.decode bits
    match dst with
    | .flt f => f.convert mode sat a
    | _ =>
      let (v, fl) := a.toRange mode dst.lo dst.hi
      (dst.ofInt v, fl)
  | _ =>
    let (v, fl) := src.toInt bits
    match dst with
    | .flt f =>
      let (r, g) := f.round mode sat (decide (v < 0)) v.natAbs 0 false
      (r, fl ||| g)
    | .t2 => (t2Code (clampInt (-1) 1 v), fl ||| (if v < -1 ∨ 1 < v then flagNV else 0))
    | _ => (dst.ofInt (if sat then clampInt dst.lo dst.hi v else v), fl)

end Sys2Proof.Machine
end

