-- ==== Sys2Proof/Machine/Narrow.lean ====
section
/-! DEFINITION. Narrow and block-scaled elements (R31 to R33, R40 to R45), exact sums of products (R47), and the functions of R127
and R128. Element types are named by their code of Table 5 of 03_instruction_words. -/

namespace Sys2Proof.Machine

/-! ### Element values -/

/-- Bits of a stored type code; 0 for a reserved code. -/
def tyBits (c : Nat) : Nat := if c = 16 then 4 else ((tyOfCode c).map Ty.bits).getD 0

/-- The type code that a format class of major 0x29 names at an element width (R66). -/
def classCode (w cls : Nat) : Option Nat :=
  match w, cls with
  | 4, 0 => some 15
  | 4, 1 => some 16
  | 4, 2 => some 14
  | 8, 0 => some 0
  | 8, 1 => some 12
  | 8, 2 => some 13
  | 8, 3 => some 4
  | 2, 0 => some 17
  | _, _ => none

/-- Whether a class is scaled by headers while vtype.bl is nonzero (R130). -/
def scaledCode (c : Nat) : Bool := c == 16 || c == 14 || c == 12 || c == 13 || c == 0

/-- Whether a class exists only inside blocks (R40). -/
def blockOnly (c : Nat) : Bool := c == 16 || c == 14

/-- Whether the elements of a class count as integers, block scaling being in force or not (R131). -/
def integerCode (c : Nat) (blocked : Bool) : Bool := c == 15 || c == 4 || c == 17 || (c == 0 && !blocked)

/-- The value of an integer. -/
def FV.ofInt (v : Int) : FV := .fin (decide (v < 0)) v.natAbs 0

/-- The scale of a header: its value as significand and exponent, none for a NaN scale (R41, Table 8). -/
def headerScale (h : Nat) : Option (Nat × Int) :=
  let e := h / 65536 % 256
  if e = 255 then none
  else if e = 0 then some (0, 0)
  else some (65536 + h % 65536, (e : Int) - 127 - 16)

/-- A value times the scale of a header (R42, R43). -/
def FV.scaled (h : Nat) (v : FV) (fl : Flags) : FV × Flags :=
  match v, headerScale h with
  | .nan _, _ => (.nan false, fl)
  | .inf _, some (0, _) => (.nan false, fl ||| flagNV)
  | .inf n, _ => (.inf n, fl)
  | .fin _ _ _, none => (.nan false, fl)
  | .fin _ _ _, some (0, _) => (.fin false 0 0, fl)
  | .fin n m e, some (k, g) => (.fin n (m * k) (e + g), fl)

/-- The value of a Q4X nibble, first marker or not, under its header (R42). -/
def q4xValue (h : Nat) (first : Bool) (code : Nat) : FV × Flags :=
  if code % 16 = 8 then
    if first then (Fmt.e4m3.decode (h / 2 ^ 24 % 256)).scaled h 0
    else (FV.ofInt 0).scaled h flagNV
  else (FV.ofInt (sextNat 4 code)).scaled h 0

/-- The exact value of a narrow element with its flags, under a header where one applies; `first` marks the block's first Q4X
marker (R33, R42, R43). -/
def narrowValue (c code : Nat) (header : Option Nat) (first : Bool) : FV × Flags :=
  if c = 16 then q4xValue (header.getD 0x7F0000) first code
  else
    match tyOfCode c with
    | some (.flt f) =>
      let v := f.decode code
      let fl := snanFlag [v]
      match header with
      | some h => v.scaled h fl
      | none => (v, fl)
    | some t =>
      let (i, fl) := t.toInt code
      match header with
      | some h => (FV.ofInt i).scaled h fl
      | none => (FV.ofInt i, fl)
    | none => (.fin false 0 0, 0)

/-! ### Exact sums -/

/-- The exact sum of two values (R35, R131): opposite infinities are invalid. -/
def exactSum2 (mode : Nat) (a b : FV) : FV × Flags :=
  match a, b with
  | .nan _, _ => (.nan false, snanFlag [a, b])
  | _, .nan _ => (.nan false, snanFlag [a, b])
  | .inf x, .inf y => if x = y then (.inf x, 0) else (.nan false, flagNV)
  | .inf x, .fin _ _ _ => (.inf x, 0)
  | .fin _ _ _, .inf y => (.inf y, 0)
  | .fin an am ae, .fin bn bm be =>
    let (n, m, e) := exactAdd mode an am ae bn bm be
    (.fin n m e, 0)

/-- The exact sum of a list of values added to a first one, with the flags of all. Opposite infinities raise NV where they meet before a
quiet NaN of the list (R47; DESIGN CHOICE, log entry 46). -/
def exactSum (mode : Nat) : FV → List (FV × Flags) → FV × Flags
  | acc, [] => (acc, 0)
  | acc, (v, fl) :: rest =>
    let (s, f) := exactSum2 mode acc v
    let (r, g) := exactSum mode s rest
    (r, fl ||| f ||| g)

/-! ### Quantisation -/

/-- A finite value divided by a nonzero scale: sign, truncated quotient, its exponent and whether a remainder is left. -/
def quotient (neg : Bool) (m : Nat) (e : Int) (k : Nat) (g : Int) : Bool × Nat × Int × Bool :=
  let sh := (e - g).toNat + Nat.log2 k + 40
  (neg, m * 2 ^ sh / k, e - g - (sh : Int), m * 2 ^ sh % k != 0)

/-- A truncated value rounded to an integer of a range by the rule of R36. -/
def toRangeSticky (mode : Nat) (lo hi : Int) (neg : Bool) (m : Nat) (e : Int) (sticky : Bool) : Int × Flags :=
  let (n, ix) := roundAt mode neg m e sticky 0
  let v : Int := if neg then -(n : Int) else n
  if v < lo then (lo, flagNV) else if hi < v then (hi, flagNV) else (v, if ix then flagNX else 0)

/-- A binary32 value quantised to Q4X under a nonzero scale (R45), with whether the rounded quotient leaves [−7, 7]. -/
def quantiseQ4x (mode : Nat) (x : FV) (k : Nat) (g : Int) : Nat × Flags × Bool :=
  match x with
  | .nan _ => (0, flagNV, false)
  | .inf n => (if n then 9 else 7, flagOF ||| flagNX, true)
  | .fin n m e =>
    let (_, qm, qe, st) := quotient n m e k g
    let (r, ix) := roundAt mode n qm qe st 0
    if 7 < r then (if n then 9 else 7, flagOF ||| flagNX, true)
    else (ofIntBits 4 (if n then -(r : Int) else r), if ix then flagNX else 0, false)

/-- A binary32 code quantised to a class under a scale, none for a NaN scale (R45, R133). E4M3 saturates. -/
def quantise (c mode x : Nat) (scale : Option (Nat × Int)) : Nat × Flags :=
  let v := Fmt.f32.decode x
  match scale with
  | none => (0, 0)
  | some (0, _) => (0, 0)
  | some (k, g) =>
    if c = 16 then
      let (r, fl, _) := quantiseQ4x mode v k g
      (r, fl)
    else
      match tyOfCode c with
      | some (.flt f) =>
        match v with
        | .fin n m e =>
          let (_, qm, qe, st) := quotient n m e k g
          f.round mode (f == .e4m3) n qm qe st
        | _ => f.convert mode (f == .e4m3) v
      | some t =>
        match v with
        | .fin n m e =>
          let (_, qm, qe, st) := quotient n m e k g
          let (r, fl) := toRangeSticky mode t.lo t.hi n qm qe st
          (t.ofInt r, fl)
        | _ =>
          let (r, fl) := v.toRange mode t.lo t.hi
          (t.ofInt r, fl)
      | none => (0, 0)

/-- Whether the rounded quotient of a binary32 code and a scale exceeds 7 in magnitude: the set Y of R133. -/
def exceedsQ4x (mode x : Nat) (scale : Option (Nat × Int)) : Bool :=
  match scale with
  | none => false
  | some (0, _) => false
  | some (k, g) => (quantiseQ4x mode (Fmt.f32.decode x) k g).2.2

/-! ### 2^A, logarithm and reciprocals (R127, R128) -/

/-- One Newton step after another towards the integer square root of n, from above. -/
def newtonSqrt (n : Nat) : Nat → Nat → Nat
  | 0, x => x
  | k + 1, x => if x = 0 then 0 else newtonSqrt n k (min x ((x + n / x) / 2))

/-- Bits of working precision for 2^A and log2 A (log entry 17). -/
def workBits : Nat := 320

/-- The product, in units of 2^−workBits and truncated, of 2^(2^−j) over the bits j of a fraction that are 1; `r` is 2^(2^−j)
for the bit under way, and bits are taken from the most significant of n. -/
def exp2Bits (f : Nat) : Nat → Nat → Nat → Nat
  | 0, _, acc => acc
  | n + 1, r, acc =>
    let root := newtonSqrt (r * 2 ^ workBits) 12 (r + 2)
    exp2Bits f n root (if f / 2 ^ n % 2 = 1 then acc * root / 2 ^ workBits else acc)

/-- vfexp2 (R127). A non-integer power is irrational: it is computed to workBits bits, below the true value (log entry 17). -/
def Fmt.exp2 (f : Fmt) (mode : Nat) (a : FV) : Nat × Flags :=
  match a with
  | .nan s => f.nanResult (if s then flagNV else 0)
  | .inf n => (if n then 0 else f.infBits, 0)
  | .fin neg m e =>
    if m = 0 then f.round mode false false 1 0 false
    else if 0 ≤ e then
      let v := min (m * 2 ^ (min e 64).toNat) 8192
      f.round mode false false 1 (if neg then -(v : Int) else v) false
    else if (Nat.log2 m : Int) + e < -66 then
      if neg then f.round mode false false (2 ^ 64 - 1) (-64) true else f.round mode false false (2 ^ 64) (-64) true
    else
      let d := (-e).toNat
      let whole : Int := if neg then -((m / 2 ^ d : Nat) : Int) - (if m % 2 ^ d = 0 then 0 else 1) else (m / 2 ^ d : Nat)
      let frac := if neg then (2 ^ d - m % 2 ^ d) % 2 ^ d else m % 2 ^ d
      let w : Int := clampInt (-8192) 8192 whole
      if frac = 0 then f.round mode false false 1 w false
      else f.round mode false false (exp2Bits frac d (2 * 2 ^ workBits) (2 ^ workBits)) (w - (workBits : Int)) true

/-- The first n bits of log2 y for y in [1, 2), given in units of 2^−workBits. -/
def log2Bits : Nat → Nat → Nat → Nat
  | 0, _, acc => acc
  | n + 1, y, acc =>
    let q := y * y / 2 ^ workBits
    if 2 * 2 ^ workBits ≤ q then log2Bits n (q / 2) (2 * acc + 1) else log2Bits n q (2 * acc)

/-- A value truncated to q significant bits in the exponent range of a format (R128). -/
def Fmt.truncTo (f : Fmt) (q : Nat) (neg : Bool) (m : Nat) (e : Int) (sticky : Bool) : Nat × Flags :=
  let top : Int := e + (Nat.log2 m : Int)
  let lsb : Int := max (top - ((q : Int) - 1)) (1 - (f.bias : Int) - ((q : Int) - 1))
  let (n, inexact) := roundAt 1 neg m e sticky lsb
  if (f.bias : Int) < top then ((f.round 1 false neg (2 ^ q - 1) ((f.bias : Int) - ((q : Int) - 1)) false).1, flagOF ||| flagNX)
  else
    ((f.round 1 false neg n lsb false).1,
      (if inexact then flagNX else 0) ||| (if inexact && top < 1 - (f.bias : Int) then flagUF else 0))

/-- vflog2 (R128): the logarithm of a number that is no power of two is irrational; 128 of its fraction bits are computed
(log entry 17). -/
def Fmt.log2 (f : Fmt) (a : FV) : Nat × Flags :=
  match a with
  | .nan s => f.nanResult (if s then flagNV else 0)
  | .inf n => if n then f.nanResult flagNV else (f.infBits, 0)
  | .fin neg m e =>
    if m = 0 then (f.signed true f.infBits, flagDZ)
    else if neg then f.nanResult flagNV
    else
      let k := Nat.log2 m
      let whole : Int := e + (k : Int)
      let q := min (f.fbits + 1) 16
      if m = 2 ^ k then
        if whole = 0 then (0, 0) else f.truncTo q (decide (whole < 0)) whole.natAbs 0 false
      else
        let l := log2Bits 128 (m * 2 ^ workBits / 2 ^ k) 0
        if 0 ≤ whole then f.truncTo q false (whole.natAbs * 2 ^ 128 + l) (-128) true
        else f.truncTo q true (whole.natAbs * 2 ^ 128 - l - 1) (-128) true

/-- vfrece (R128). -/
def Fmt.recip (f : Fmt) (a : FV) : Nat × Flags :=
  match a with
  | .nan s => f.nanResult (if s then flagNV else 0)
  | .inf n => (f.signed n 0, 0)
  | .fin neg m e =>
    if m = 0 then (f.signed neg f.infBits, flagDZ)
    else
      let k := Nat.log2 m + 20
      f.truncTo (min (f.fbits + 1) 12) neg (2 ^ k / m) (-e - (k : Int)) (2 ^ k % m != 0)

/-- vfrsqe (R128). -/
def Fmt.rsqrt (f : Fmt) (a : FV) : Nat × Flags :=
  match a with
  | .nan s => f.nanResult (if s then flagNV else 0)
  | .inf n => if n then f.nanResult flagNV else (0, 0)
  | .fin neg m e =>
    if m = 0 then (f.signed neg f.infBits, flagDZ)
    else if neg then f.nanResult flagNV
    else
      let odd : Nat := if e % 2 = 0 then 0 else 1
      let v := m * 2 ^ odd
      let k := Nat.log2 v / 2 + 20
      let n := 2 ^ (2 * k) / v
      let r := isqrt n (Nat.log2 n / 2 + 1) 0
      f.truncTo (min (f.fbits + 1) 12) false r (-((e - (odd : Int)) / 2) - (k : Int)) (r * r * v != 2 ^ (2 * k))

end Sys2Proof.Machine
end

