-- ==== Sys2Proof/Machine/Ops.lean ====
section
/-! DEFINITION. The shared operations of every meaning: register access (R9, R10), what a store and an acquire end (R117, R260),
taking a trap and returning from one (R92, R283, R284), early reads (R57), prefixes (R58 to R62) and the
completion of an instruction (R7, R54, R290). -/

namespace Sys2Proof.Machine

/-- What a step answers. -/
abbrev Res := Host.Outcome State Fault Refusal

/-- A cause to take: its code, tval and frame information (R284, R286). -/
structure Trap where
  code : Nat
  tval : X := 0
  info0 : X := 0
  info1 : X := 0
  info2 : X := 0
deriving DecidableEq, Repr

/-- Why an instruction does not complete now. -/
inductive Stop where
  /-- it traps -/
  | trap (t : Trap)
  /-- it waits on a condition and issues again when it holds (R265, R287) -/
  | wait (w : Wait)
  /-- it is not ready before a cycle, for a scoreboarded source (R55, R272) -/
  | hold (cycle : Nat)
  /-- it is not ready before a cycle, for a unit in use (R272) -/
  | unit (cycle : Nat)
  /-- it has begun, and is interrupted until a cycle in which what interrupts it is due (R287) -/
  | pause (cycle : Nat)
deriving DecidableEq, Repr

/-- A meaning under way: it may stop, and what it did before stays done. -/
abbrev M (α : Type) := ExceptT Stop (StateM State) α

/-! ### Registers -/

/-- A register: its class and number. -/
inductive Reg where
  | x (n : BitVec 5)
  | v (n : BitVec 5)
  | k (n : BitVec 3)
deriving DecidableEq, Repr

/-- The register of a value. -/
def RegVal.reg : RegVal → Reg
  | .x n _ => .x n
  | .v n _ => .v n
  | .k n _ => .k n

/-- The current value of a register. -/
def State.regVal (s : State) : Reg → RegVal
  | .x n => .x n s.me.hart.x[n.toNat]
  | .v n => .v n s.me.vec.v[n.toNat]
  | .k n => .k n s.me.vec.k[n.toNat]

/-- The value of an early read that was chosen for the instruction under way (R57). -/
def State.chosen (s : State) (r : Reg) : Option RegVal := s.me.hart.overrides.find? (fun o => o.reg = r)

/-- x[n]; x0 reads zero (R9). -/
def State.rX (s : State) (n : BitVec 5) : X :=
  if n = 0 then 0
  else match s.chosen (.x n) with
    | some (.x _ v) => v
    | _ => s.me.hart.x[n.toNat]

/-- The reference tag of x[n]; that of x0 is 0 (R9, R10). With a value of x[n] that is read early goes the tag of the latest write (R57, R81;
DESIGN CHOICE, log entry 47). -/
def State.rTag (s : State) (n : BitVec 5) : Bool := n != 0 && s.me.hart.xtag.getLsbD n.toNat

/-- v[n] (R9). -/
def State.rV (s : State) (n : BitVec 5) : Img :=
  match s.chosen (.v n) with
  | some (.v _ i) => i
  | _ => s.me.vec.v[n.toNat]

/-- k[n]; k0 reads all ones (R9). -/
def State.rK (s : State) (n : BitVec 3) : Mask :=
  if n = 0 then BitVec.allOnes 4096
  else match s.chosen (.k n) with
    | some (.k _ m) => m
    | _ => s.me.vec.k[n.toNat]

/-- The results of a list, oldest first, that still matter in a cycle: those that are not current, and those that an earlier one of
the same register which is not current precedes, since each entry holds the result of the one before it (R57). -/
def stillPending (cycle : Nat) (l : List Pend) : List Pend :=
  l.foldl (fun kept p =>
    if decide (cycle < p.ready) || kept.any (fun q => decide (q.before.reg = p.before.reg)) then kept ++ [p] else kept) []

/-- The results in flight after a write of register r whose result is current from cycle `ready` on (R55, R56). One that is current at
once is kept only behind an earlier one of r that is not, whose result it replaces (R57). -/
def State.inFlight (r : Reg) (ready : Nat) (fixed : Bool) (s : State) : State :=
  let old := s.regVal r
  let kept := stillPending s.cycle s.me.hart.pend
  s.modHart fun h =>
    { h with pend := if ready ≤ s.cycle + 1 ∧ (kept.filter fun p => p.before.reg = r) = [] then kept
                     else kept ++ [{ before := old, ready := ready, fixed := fixed }] }

/-- A write of x[d] with its tag (R9, R10): a write to x0 is discarded. -/
def State.wX (d : BitVec 5) (v : X) (tag : Bool) (s : State) : State :=
  if d = 0 then s
  else s.modHart fun h => { h with x := h.x.set d.toNat v, xtag := setField h.xtag d.toNat 1 (b2n tag) }

/-- A write of x[d] whose result has the given latency. -/
def State.wXat (d : BitVec 5) (v : X) (tag : Bool) (lat : Nat) (fixed : Bool) (s : State) : State :=
  if d = 0 then s else (s.inFlight (.x d) (s.cycle + lat) fixed).wX d v tag

/-- Whether an entry belongs to the vector state of a slot (R255). -/
def FifeEntry.inSlot (e : FifeEntry) (core idx : Nat) : Bool := e.core == core && e.slot == idx

/-- The Fife table and a vector state after the registers that nothing refers to have been freed: entries whose key holds the name of a
freed register die, and what they held is freed in turn (R253). A meaning reads its sources at its issue, so that no instruction in
flight has still to read one (DEDUCED, log entry 42). -/
def settleRegs (core idx : Nat) : Nat → List FifeEntry → Vec → List FifeEntry × Vec
  | 0, f, v => (f, v)
  | n + 1, f, v =>
    let live := v.phys.toList ++ ((f.filter (fun e => e.inSlot core idx)).map (fun e => e.result))
    let dead := v.pregs.filter (fun p => decide (p.id ∉ live))
    if dead.isEmpty then (f, v)
    else
      let names := dead.filterMap (fun p => p.name)
      let holds := fun (e : FifeEntry) => e.inSlot core idx && (e.key.srcs ++ e.key.prior.toList).any (fun q => decide (q ∈ names))
      settleRegs core idx n (f.filter (fun e => !holds e)) { v with pregs := v.pregs.filter (fun p => decide (p.id ∈ live)) }

/-- The unreferenced registers of the slot in focus freed (R253). -/
def State.freeRegs (s : State) : State :=
  let r := settleRegs s.me.core s.me.idx 128 s.fife s.me.vec
  { s with fife := r.1, me := { s.me with vec := r.2 } }

/-- The unreferenced registers of some slots freed, with the table that remains. -/
def settleSlots : List Slot → List FifeEntry → List Slot × List FifeEntry
  | [], f => ([], f)
  | o :: rest, f =>
    let r := settleRegs o.core o.idx 128 f o.vec
    let (l, g) := settleSlots rest r.1
    ({ o with vec := r.2 } :: l, g)

/-- The unreferenced registers of every slot freed (R253). -/
def State.freeAllRegs (s : State) : State :=
  let t := s.freeRegs
  let r := settleSlots t.others t.fife
  { t with others := r.1, fife := r.2 }

/-- The entries of the slot in focus that satisfy a condition die, and the registers that they held are freed (R253, R260). -/
def State.dropEntries (dead : FifeEntry → Bool) (s : State) : State :=
  if s.fife.any (fun e => e.inSlot s.me.core s.me.idx && dead e) then
    ({ s with fife := s.fife.filter (fun e => !(e.inSlot s.me.core s.me.idx && dead e)) } : State).freeRegs
  else s

/-- Whether a key holds a generation of k register n (R256). -/
def FifeKey.holdsK (q : FifeKey) (n : Nat) : Bool :=
  q.mask.1 == n || (q.ksrc.map (fun p => p.1)) == some n || (q.pred.map (fun p => p.1)) == some n

/-- A write of k[d], its dirty bit and its generation (R9, R17, R256): entries whose key holds the earlier generation
die. A write to k0 is discarded. -/
def State.wK (d : BitVec 3) (m : Mask) (s : State) : State :=
  if d = 0 then s
  else
    (s.dropEntries (fun e => e.key.holdsK d.toNat)).modVec fun v =>
      { v with k := v.k.set d.toNat m, kgen := v.kgen.set d.toNat (v.kgen[d.toNat] + 1),
               vdirty := v.vdirty ||| xOf (2 ^ (32 + d.toNat)) }

/-- A write of k[d] whose result has the given latency. -/
def State.wKat (d : BitVec 3) (m : Mask) (lat : Nat) (fixed : Bool) (s : State) : State :=
  if d = 0 then s else (s.inFlight (.k d) (s.cycle + lat) fixed).wK d m

/-! ### What a store and an acquire end -/

/-- stype of a binding. -/
def Stream.stype (b : Stream) : Nat := fieldOf b.ctl 0 5

/-- The stored element width of a binding in bits. -/
def Stream.width (b : Stream) : Nat := tyBits b.stype

/-- Bytes that hold a stored element. -/
def Stream.bytes (b : Stream) : Nat := max (b.width / 8) 1

/-- The number of the element of the strips to come that a read-ahead byte belongs to. -/
def Stream.elemOf (b : Stream) (c : Host.Cell) : Nat := (xOf c.1 - b.data).toNat / b.bytes

/-- A stream with the read-ahead elements dropped of which a byte does not satisfy a condition: an element is read whole (R117). -/
def Stream.keep (ok : Host.Cell → Bool) (b : Stream) : Stream :=
  { b with ahead := b.ahead.filter fun c => b.ahead.all fun e => b.elemOf e != b.elemOf c || ok e }

/-- A stream with the read-ahead bytes of n addresses from lo on dropped. -/
def Stream.keepFrom (lo n : Nat) (b : Stream) : Stream := b.keep (fun c => !(decide (lo ≤ c.1) && decide (c.1 < lo + n)))

/-- The streams of the hart in focus with read-ahead bytes dropped; those that the slot holds for another hart stay (R117). -/
def State.keepAhead (ok : Host.Cell → Bool) (s : State) : State :=
  if s.owns then s.modVec fun v => { v with streams := v.streams.map (Stream.keep ok) } else s

/-- The load entries of the hart in focus whose record satisfies a condition die (R260); the entries that the slot holds for another
hart stay (R261). -/
def State.dropLoads (dead : LoadRecord → Bool) (s : State) : State :=
  if s.owns then s.dropEntries (fun e => e.load.any dead) else s

/-- Whether n bytes at a virtual address overlap the range of a load record (R259, R260). -/
def LoadRecord.overlaps (l : LoadRecord) (va : X) (n : Nat) : Bool := decide (l.lo < va.toNat + n) && decide (va.toNat < l.hi)

/-- Whether a load read any of n bytes from a physical address on, within one page (R259, R260): a store under another virtual address
overlaps it there. -/
def LoadRecord.meets (l : LoadRecord) (pa n : Nat) : Bool :=
  l.pages.any fun q =>
    let va := q.1 * 2 ^ 19 + pa % 2 ^ 19
    q.2 == pa / 2 ^ 19 && decide (l.lo < va + n) && decide (va < l.hi)

/-- What a store of the hart in focus to n bytes at a physical address ends: its load entries that overlap (R260), and the bytes that
its streams have read ahead at the same places of their pages, which are then read again (R117, R229). -/
def State.noteStore (pa n : Nat) (s : State) : State :=
  (s.dropLoads (fun l => l.meets pa n)).keepAhead (fun c => !(decide (pa % 2 ^ 19 ≤ c.1 % 2 ^ 19) && decide (c.1 % 2 ^ 19 < pa % 2 ^ 19 + n)))

/-- What a store or atomic of the hart in focus to n bytes at a virtual address, translated to pa, ends (R260). -/
def State.noteStoreAt (va : X) (pa n : Nat) (s : State) : State := (s.dropLoads (fun l => l.overlaps va n)).noteStore pa n

/-- What an acquire of the hart in focus ends: its published load entries (R260) and its read-ahead strips (R117). -/
def State.acquire (s : State) : State := (s.dropLoads (fun l => !l.isPrivate)).keepAhead (fun _ => false)

/-! ### Taking a trap and returning from one -/

/-- The frame of a hart (R284). -/
def State.frameOf (s : State) (h : Hart) : Nat := ((s.part? h.pid).map (fun p => p.cfg.frames)).getD 0 + 64 * h.hid.toNat

/-- Whether the frame of a trap cannot be written (R284): its address backs no memory, or a codeword of the frame, which is written word
by word, is found uncorrectable (DEDUCED, log entry 53). -/
def State.frameFails (s : State) (frame : Nat) : Bool × State :=
  if reservedRow frame || (isDram frame && s.dramLost frame) || (isScratch frame && s.scratchLost frame) then (true, s)
  else if s.lineHeld frame then (false, s)
  else
    (granules frame 64).foldl (fun acc g =>
      let (d, t) := acc.2.decodeGranule 0x03 g s.hartAgent
      (acc.1 || d == .uncorrectable, t)) (false, s)

/-- The words of a trap frame stored, as stores of the hart (R229, R284). A frame that cannot be written stops the hart, with 0x3C2
logged. -/
def State.putFrame (words : List X) (s : State) : State :=
  let frame := s.frameOf s.me.hart
  match s.frameFails frame with
  | (true, s1) => (s1.logAt 0x0A 0 frame 0 s.hartAgent).modHart fun h => { h with stopped := true, wait := none, frame := none }
  | (false, s1) =>
    ((s1.physWrite frame (words.flatMap (fun w => leBytes 8 w.toNat))).noteStore frame 64).modHart fun h => { h with frame := none }

/-- The trap sequence of R283 for the hart in focus, with the frame of R284: a race in flight, which none but the resident can have launched, ends first (R193), and the handler waits
for a frame whose bank or row-lock holds it back (R169, R178, R284). -/
def State.enterTrap (isAsync : Bool) (epc : X) (t : Trap) (s : State) : State :=
  let h := s.me.hart
  let causeWord := xOf (b2n isAsync * 2 ^ 63 + t.code)
  let words := [causeWord, epc, t.tval, xOf (b2n h.pv * 2 ^ 63 + h.pword.toNat), xOf h.es.toNat, t.info0, t.info1, t.info2]
  let race := s.me.vec.raceEnd.getD 0
  let frame := s.frameOf h
  let busy := s.dramWaits frame (some (h.pid, h.hid))
  let s1 := s.modHart fun h =>
    let st := setField h.status 16 3 (b2n h.prv + b2n h.ie * 4)
    { h with cause := causeWord, epc := epc, tval := t.tval, status := setField st 15 1 1, es := 0, pv := false,
             pword := 0, begun := none, reached := [], pc := (h.tvec >>> 2) <<< 2, readyAt := max s.cycle race + 16, stall := (0, 0), pend := [],
             overrides := [], held := false, paused := false,
             wait := if busy then some (.bank frame true) else none, waitSince := s.cycle, frame := if busy then some words else none }
  if busy then s1 else s1.putFrame words

/-- Return from a trap: the state that R92 gives, with the position that its operands supply. The resumed instruction
issues 8 cycles later (R283), and a hart that leaves borrowed access arms the lazy switch (R295). -/
def State.returnFromTrap (esWord pfxWord : X) (s : State) : State :=
  let h := s.me.hart
  let st := setField h.status 15 4 (b2n h.pp + b2n h.pie * 4 + 8)
  let s1 := s.modHart fun h =>
    { h with status := st, pc := h.epc, es := esWord.extractLsb' 0 18, pv := pfxWord.getLsbD 63,
             pword := pfxWord.extractLsb' 0 32, readyAt := s.cycle + 8, stall := (0, 0), overrides := [], reached := [] }
  if !h.pp && !s.owns then s1.modVec fun v => { v with lz := true } else s1

/-! ### Completion -/

/-- A completed instruction (R7, R21, R54): es and pfxs.pv cleared, pc at the next instruction, the next issue after the stall
count and `delay` cycles. -/
def State.retire (st : BitVec 3) (delay : Nat) (npc : X) (s : State) : State :=
  s.modHart fun h =>
    { h with es := 0, pv := false, begun := none, reached := [], pc := npc, overrides := [], readyAt := s.cycle + max (1 + st.toNat) delay,
             stall := (s.cycle + 1, s.cycle + 1 + st.toNat) }.count 3 1

/-- The step trap after a completed instruction, where status.ss asks for it at user level (R290); tval is the completed
instruction's address. -/
def State.stepTrap (old : X) (s : State) : State :=
  if s.me.hart.ss && !s.me.hart.prv then s.enterTrap false s.pc { code := 0x341, tval := old } else s

/-- Completion of an instruction with its step trap (R7, R54, R290). -/
def State.complete (st : BitVec 3) (delay : Nat) (npc : X) (s : State) : State := (s.retire st delay npc).stepTrap s.pc

/-- The completion of the instruction that the hart in focus waits in, which is not issued again. -/
def State.completeWait (s : State) : State :=
  (s.modHart fun h => { h with wait := none }).complete (s.me.hart.word.extractLsb' 23 3) 0 (s.pc + 4)

/-- Whether a wait is one of an instruction that could not issue yet, and none of Table 2 of 13_execution_and_scheduling (R272). -/
def Wait.unready : Wait → Bool
  | .planes => true
  | .drain _ => false
  | .bank _ _ => true
  | .rows _ => true
  | _ => false

/-- Whether the instruction of a wait completes before an asynchronous trap, a switch-out or a swap halt is taken (R287): an access that it has
begun, an invalidation, a fence of planes and vldp wait on memory alone. -/
def Wait.firm : Wait → Bool
  | .planes => true
  | .drain _ => true
  | .bank _ f => f
  | .rows _ => true
  | _ => false

/-- The addresses whose banks an instruction has waited for, with that of a further wait first. -/
def Wait.reach (w : Wait) (l : List Nat) : List Nat :=
  match w with
  | .bank pa _ => pa :: without l pa
  | _ => l

/-- The state in which an instruction that stopped leaves its hart. Event 0x07 counts the cycles of a wait for a source, and none for a unit
(R21; DESIGN CHOICE, log entry 65). -/
def State.stopBy (r : Stop) (s : State) : State :=
  match r with
  | .trap t => s.enterTrap false s.pc t
  | .wait w =>
    s.modHart fun h =>
      { h with wait := some w, waitSince := s.cycle, held := w.unready, overrides := [], reached := w.reach h.reached }
  | .hold c =>
    s.modHart fun h => { h with readyAt := max c (s.cycle + 1), stall := (s.cycle, max c (s.cycle + 1)), held := true, overrides := [] }
  | .unit c => s.modHart fun h => { h with readyAt := max c (s.cycle + 1), stall := (0, 0), held := true, overrides := [] }
  | .pause c => s.modHart fun h => { h with readyAt := max c (s.cycle + 1), stall := (0, 0), paused := true, overrides := [] }

/-- Runs a meaning in the slot in focus. -/
def runM (m : M Unit) (s : State) : Res :=
  if s.me.live then
    match m s with
    | (.ok _, t) => .next t
    | (.error r, t) => .next (t.stopBy r)
  else .fault .noHart

/-- Traps with a cause and its tval. -/
def trap {α : Type} (code : Nat) (tval : X := 0) : M α := throw (.trap { code := code, tval := tval })

/-- Traps unless the condition holds. -/
def require (ok : Bool) (code : Nat) (tval : X := 0) : M Unit := if ok then pure () else trap code tval

/-! ### Early reads (R55, R57) -/

/-- The results of those producers of a list, oldest first, that are not current in a cycle; `cur` is the register. -/
def lateResults (cycle : Nat) (cur : RegVal) : List Pend → List RegVal
  | [] => []
  | p :: rest =>
    (if p.ready ≤ cycle then [] else [match rest with | [] => cur | q :: _ => q.before]) ++ lateResults cycle cur rest

/-- The values that an early read may return (R57): the value before the earliest producer that is not current, or the
result of any such producer. -/
def earlyValues (cycle : Nat) (cur : RegVal) (l : List Pend) : List RegVal :=
  match l.dropWhile (fun p => decide (p.ready ≤ cycle)) with
  | [] => [cur]
  | p :: rest => p.before :: lateResults cycle cur (p :: rest)

/-- The choice with index i among the images of a list, field by field of w bits (R57: each element independently). -/
def mixImages (use w : Nat) (opts : List Img) (cur : Img) : Img :=
  (List.range (if w = 0 then 0 else 16384 / w)).foldl (fun acc i =>
    let o := opts.getD (Config.freeChoice use i % opts.length) cur
    setField acc (w * i) w (fieldOf o (w * i) w)) cur

/-- The value that an early read returns, one of those of R57, chosen by a free choice (log entry 6). -/
def chooseEarly (use w : Nat) (opts : List RegVal) (cur : RegVal) : RegVal :=
  match cur with
  | .x _ _ => opts.getD (Config.freeChoice use 0 % opts.length) cur
  | .v n c => .v n (mixImages use w (opts.filterMap (fun o => match o with | .v _ i => some i | _ => none)) c)
  | .k n c =>
    let ms := opts.filterMap (fun o => match o with | .k _ m => some m | _ => none)
    .k n ((List.range 4096).foldl (fun acc i =>
      setField acc i 1 (b2n ((ms.getD (Config.freeChoice use i % ms.length) c).getLsbD i))) c)

/-- The cause of an early read of a register (R57). -/
def Reg.earlyCause : Reg → Nat
  | .x _ => 0x040
  | .v _ => 0x041
  | .k _ => 0x042

/-- The number of a register. -/
def Reg.num : Reg → Nat
  | .x n => n.toNat
  | .v n => n.toNat
  | .k n => n.toNat

/-- The result of a register that is not current yet, where the latest one is in flight (R55, R56). -/
def State.inFlightOf (s : State) (r : Reg) : Option Pend :=
  if r = .x 0 ∨ r = .k 0 then none
  else ((s.me.hart.pend.filter (fun p => p.before.reg = r)).getLast?).filter (fun p => decide (s.cycle < p.ready))

/-- The cycle by which the scoreboarded results that some registers wait for are ready (R55); 0 for none. -/
def State.scoreboard (s : State) (l : List Reg) : Nat :=
  (l.filterMap (fun r => (s.inFlightOf r).bind (fun p => if p.fixed then none else some p.ready))).foldl max 0

/-- Waits until every scoreboarded result of some registers is ready (R55): the reader issues in no earlier cycle, so that whether a
fixed-latency result is read early is asked only then. -/
def awaitReads (l : List Reg) : M Unit := do
  let s ← get
  if s.cycle < s.scoreboard l then throw (.hold (s.scoreboard l)) else pure ()

/-- Waits until the result of a register is current, whether its latency is fixed or not (R96). -/
def awaitResult (r : Reg) : M Unit := do
  let s ← get
  match s.inFlightOf r with
  | some p => throw (.hold p.ready)
  | none => pure ()

/-- A read of a register at issue (R57), in elements of w bits where it is a v register: an early read traps under status.sc, and
otherwise takes one of the values of R57. -/
def checkRead (w : Nat) (r : Reg) : M Unit := do
  let s ← get
  match s.inFlightOf r with
  | none => pure ()
  | some p =>
    if s.me.hart.sc then trap r.earlyCause (xOf (r.num + (p.ready - s.cycle) % 256 * 256))
    else
      let mine := s.me.hart.pend.filter (fun p => p.before.reg = r)
      let v := chooseEarly s.fresh w (earlyValues s.cycle (s.regVal r) mine) (s.regVal r)
      set { s.modHart (fun h => { h with overrides := h.overrides ++ [v] }) with fresh := s.fresh + 1 }

/-- Waits until every earlier instruction of the hart has completed: its results in flight are current, those in the Dawn array among them,
and its MOPs and its race have ended (R13). -/
def awaitAll : M Unit := do
  let s ← get
  let c := max ((s.me.hart.pend.map (fun p => p.ready)).foldl max 0) (max s.me.vec.busyUntil s.me.vec.dawnAt)
  if s.cycle < c then throw (.hold c) else pure ()

/-- Early reads of several registers: the first of the list that is read early gives the cause and the tval, and the lists of `gate` begin
with the predicate register (R57; DESIGN CHOICE, log entry 56); `wid` names the v registers that are read in elements of another width than SEW. -/
def checkEarly (wid : List (BitVec 5 × Nat)) : List Reg → M Unit
  | [] => pure ()
  | r :: rest => do
    let s ← get
    checkRead (match r with | .v n => (wid.lookup n).getD s.me.vec.width | _ => 64) r
    checkEarly wid rest

/-- Reads of several registers at issue (R55, R57): their scoreboarded results are waited for, and then early reads are found. -/
def checkReads (wid : List (BitVec 5 × Nat)) (l : List Reg) : M Unit := do
  awaitReads l
  checkEarly wid l

/-! ### Prefixes (R58 to R62) -/

/-- The predicate register of the pending prefix. -/
def Hart.predK (h : Hart) : BitVec 3 := h.pword.extractLsb' 23 3

/-- pred(i) of the pending prefix; every element is enabled without one (R59). -/
def State.pred (s : State) (i : Nat) : Bool :=
  !s.me.hart.pv || Bool.xor ((s.rK s.me.hart.predK).getLsbD i) (s.me.hart.pword.getLsbD 22)

/-- The copy register of the pending prefix: its class and number (R58, R60). -/
def Hart.copyReg (h : Hart) : Option (Nat × BitVec 5) :=
  if h.pv && h.pword.getLsbD 21 then some (fieldOf h.pword 19 2, h.pword.extractLsb' 14 5) else none

/-- Whether the pending prefix is pfx k0 with polarity 1, which makes its successor a no-op (R59). -/
def Hart.nullified (h : Hart) : Bool := h.pv && h.predK == 0 && h.pword.getLsbD 22

/-- Whether the pending prefix marks its successor .nr (R61). -/
def Hart.noReuse (h : Hart) : Bool := h.pv && !h.pword.getLsbD 21 && fieldOf h.pword 19 2 == 3

/-- The destination of an instruction for R60. -/
inductive Dst where
  /-- no register, or several -/
  | none
  | x (d : BitVec 5)
  | v (d : BitVec 5)
  | k (d : BitVec 3)
deriving DecidableEq, Repr

/-- What the checks before an instruction look at (R285). -/
structure Req where
  st : BitVec 3
  srcs : List Reg := []
  dst : Dst := .none
  /-- the majors that take a prefix (R62) -/
  pfxOk : Bool := true
  /-- no predicate but k0 with polarity 0 may precede it (R111) -/
  noPred : Bool := false
  /-- supervisor only: cause 0x002 -/
  sup : Bool := false
  /-- the instruction is one of R18 -/
  first : Bool := false
  /-- it reads or writes a v register: R24 -/
  grant : Bool := false
  /-- it reads or writes a v register, a mask of elements, or vl: R16 -/
  cfg : Bool := false
  /-- the width, class and register checks of the instruction hold: cause 0x183 -/
  shape : Bool := true
  /-- it changes the configuration, which a hart may not do in borrowed access (R295) -/
  config : Bool := false
  /-- the predicate of a prefix is pred(0) (R59) -/
  scalar : Bool := true
  /-- v registers that it reads in elements of another width than SEW -/
  wid : List (BitVec 5 × Nat) := []
  /-- the trap that the bindings of its v sources take, cause and tval: 0x187, then 0x183 (R116) -/
  strips : Option (Nat × X) := none
deriving DecidableEq, Repr

/-- Whether the pending prefix may precede the instruction (R60, R62). -/
def Hart.pairs (h : Hart) (q : Req) : Bool :=
  !h.pv || (q.pfxOk && !(q.noPred && (h.predK != 0 || h.pword.getLsbD 22)) &&
    match h.copyReg with
    | none => true
    | some (c, _) =>
      match q.dst with
      | .none => false
      | .x _ => c == 0
      | .v _ => c == 1
      | .k _ => c == 2)

/-- The checks before an instruction, in the order of R285: privilege, pairing, R18, R24, R16, the instruction's own width
checks and those of its bound sources, early reads. The answer is whether the predicate lets it have an effect: pred(0) for a scalar successor, and for a vector
successor any predicate but that of pfx k0 with polarity 1, which leaves a no-op: nothing is read and no trap but those of the words
alone is taken (R59; DEDUCED, log entry 40). A scalar instruction that an early predicate may enable waits for its own sources
before the predicate is read. -/
def gate (q : Req) : M Bool := do
  let s ← get
  let h := s.me.hart
  let predReads := h.pv && h.predK != 0
  let denied := s.vecDenied || (q.config && !s.owns)
  require (!(q.sup && !h.prv)) 0x002
  require (h.pairs q) 0x004 (xOf h.word.toNat)
  require (!(predReads && s.vecDenied)) 0x180
  if q.scalar then
    let pk : List Reg := if predReads then [.k h.predK] else []
    awaitReads pk
    if predReads && (s.inFlightOf (.k h.predK)).isSome then awaitReads q.srcs
    checkEarly [] pk
    let s1 ← get
    if s1.pred 0 then
      require (!(q.first && denied)) 0x180
      checkReads q.wid q.srcs
      pure true
    else pure false
  else if h.nullified then pure false
  else
    require (!(q.first && denied)) 0x180
    require (!(q.grant && s.me.vec.grant == 0)) 0x182
    require (!(q.cfg && s.me.vec.vill)) 0x183
    require q.shape 0x183
    match q.strips with
    | some (c, v) => trap c v
    | none => pure ()
    checkReads q.wid ((if predReads then [.k h.predK] else []) ++ q.srcs)
    pure true

/-- Completes the instruction (R7, R54). -/
def done (st : BitVec 3) (delay : Nat) (npc : X) : M Unit := modify (State.complete st delay npc)

/-- A scalar instruction: its checks, and either its body, which answers the next pc, or, where its predicate is 0,
completion with no effect (R59). -/
def runScalar (q : Req) (body : M X) (s : State) : Res :=
  runM (do
    if ← gate q then
      let npc ← body
      done q.st 0 npc
    else
      let t ← get
      done q.st 0 (t.pc + 4)) s

/-- Writes an x result and its PFX copy (R60). -/
def putX (d : BitVec 5) (v : X) (tag : Bool) (lat : Nat) (fixed : Bool) : M Unit :=
  modify fun s =>
    let t := s.wXat d v tag lat fixed
    match s.me.hart.copyReg with
    | some (0, c) => if c = d then t else t.wXat c v tag lat fixed
    | _ => t

/-- An instruction that computes x[d] from its sources: pc + 4 is next. -/
def computeX (st : BitVec 3) (d : BitVec 5) (srcs : List (BitVec 5)) (lat : Nat) (fixed : Bool) (f : State → X)
    (s : State) : Res :=
  runScalar { st := st, srcs := srcs.map .x, dst := .x d } (do
    let t ← get
    putX d (f t) false lat fixed
    pure (t.pc + 4)) s

end Sys2Proof.Machine
end

