-- ==== Sys2Proof/Machine/Translate.lean ====
section
/-! DEFINITION. Address translation (R301 to R305) and the checks of a word-path access (R81, R169, R303, R310, R311, R315). -/

namespace Sys2Proof.Machine

/-! ### Translation (R301 to R305) -/

/-- The kind of an access, as info1 records it (Table 2 of 14_traps_and_translation). -/
inductive Access where
  | fetch
  | load
  | store
  | vload
  | vstore
  | gather
  | scatter
  | otherRead
  | otherWrite
deriving DecidableEq, Repr

/-- The kind code of info1[27:24]. -/
def Access.code : Access → Nat
  | .fetch => 0
  | .load => 1
  | .store => 2
  | .vload => 3
  | .vstore => 4
  | .gather => 5
  | .scatter => 6
  | .otherRead => 7
  | .otherWrite => 8

/-- 0 for a fetch, 1 for a read, 2 for a write: the offset in the causes of R311. -/
def Access.cls : Access → Nat
  | .fetch => 0
  | .load => 1
  | .vload => 1
  | .gather => 1
  | .otherRead => 1
  | .store => 2
  | .vstore => 2
  | .scatter => 2
  | .otherWrite => 2

/-- Whether the instruction of an access that must wait completes before anything asynchronous is taken (R287): not a fetch, whose instruction
has not issued, and not a vector transfer, which is left at an element, word or row boundary. -/
def Access.firm : Access → Bool
  | .load => true
  | .store => true
  | .otherRead => true
  | .otherWrite => true
  | .fetch => false
  | .vload => false
  | .vstore => false
  | .gather => false
  | .scatter => false

/-- A translation that failed: its cause, the walk level and the last entry read (Table 2 of 14_traps_and_translation). -/
structure XFault where
  code : Nat
  level : Nat
  entry : Nat
  /-- the word of the log entry that a first detection wrote (R284) -/
  syndrome : X := 0
deriving DecidableEq, Repr

/-- Why a translation, or the access behind it, is not served now: a fault, or a bank, row-lock or way that it must wait for (R169, R171,
R178, R301, R315). -/
inductive XStop where
  | fault (f : XFault)
  | busy (pa : Nat)
deriving DecidableEq, Repr

/-- A translated address with the attributes of its page (R302). -/
structure Phys where
  pa : Nat
  managed : Bool
  plane : Bool
  cached : Bool
  /-- the cycles that its translation adds (R303, R305) -/
  delay : Nat := 0
  /-- the core through whose L1 data cache it is accessed (R84) -/
  l1 : Option Nat := none
deriving DecidableEq, Repr

/-- Whether a virtual address is canonical (R82, R301). -/
def canonical (va : X) : Bool := fieldOf va 54 10 == 0 || fieldOf va 54 10 == 1023

/-- The index of a virtual address at a level: 0 top, 1 middle, 2 bottom (R301). -/
def vaIndex (va : X) (level : Nat) : Nat := fieldOf va (43 - 12 * level) 12

/-- The bytes that a leaf maps at a level (R301). -/
def leafSize (level : Nat) : Nat := if level = 1 then 2 ^ 31 else 2 ^ 19

/-- The physical address field of an entry. -/
def ptePa (e : X) : Nat := fieldOf e 12 40 * 4096

/-- Whether a valid entry is invalid at a level (R302, R309, R310): the tier of a pointer is 00, so that its table must lie in DRAM. -/
def State.pteInvalid (s : State) (pid : Nat) (e : X) (level : Nat) : Bool :=
  let pa := ptePa e
  let leaf := bitAt e 1
  fieldOf e 52 12 != 0 ||
  (if leaf then
     level == 0 || (bitAt e 3 && !bitAt e 2) || pa % leafSize level != 0 ||
     (bitAt e 8 && (level == 1 || bitAt e 9 || bitAt e 4)) || (bitAt e 6 && level != 2) ||
     !s.tierMatches pid pa (leafSize level) (fieldOf e 10 2) || (level == 2 && reservedRow pa)
   else
     level == 2 || fieldOf e 2 10 != 0 || pa % 2 ^ 15 != 0 || reservedRow pa || !s.tierMatches pid pa (2 ^ 15) 0)

/-- How banks and row-locks know an agent: a hart by its partition and hid (R178), a copy engine as 1000 + its number, a sequencer as 2000 + its
stack, any other agent not at all. -/
def Agent.asker (a : Agent) (pid : Nat) : Option (Nat × BitVec 32) :=
  if a.code = 0 then some (pid, BitVec.ofNat 32 a.id) else if a.code = 1 then some (1000 + a.id, 0)
  else if a.code = 2 then some (2000 + a.id, 0) else none

/-- Whether an address is in a block of scratch that wpart does not grant, which backs no access (R315). -/
def State.scratchOff (s : State) (pa : Nat) : Bool :=
  isScratch pa && decide (64 * (s.wpart (pa / 2 ^ 36 % 8) (pa / 2 ^ 14 % 8)).req ≤ pa / 2 ^ 17 % 1024)

/-- The word of the log entry that an error met by an access wrote (R284, R339): the newest one, or none where the word was `poisoned`
already. -/
def State.syndrome (s : State) (poisoned : Bool) : X := if poisoned then 0 else (s.logs.head?.map (fun l => l.word)).getD 0

/-- The leaf that a walk finds, with its level and the address of the entry (R303). Each entry is read by a word-path access, which may
have to wait (R301), and which a block of scratch that is not granted refuses (R315). -/
def State.walk (s : State) (pid : Nat) (cls : Nat) (va : X) (a : Agent) : Nat → Nat → Nat → Except XStop (X × Nat × Nat) × State
  | 0, level, t => (.error (.fault { code := 0x087, level := level, entry := t }), s)
  | n + 1, level, t =>
    let at_ := t + 8 * vaIndex va level
    if s.scratchOff at_ then (.error (.fault { code := 0x086, level := 3, entry := 0 }), s)
    else if s.wordWaits at_ (a.asker pid) then (.error (.busy at_), s)
    else
      match s.meetPlain 0x02 at_ a with
      | (.good, s0) =>
        let s1 := s0.chargeRow at_ (a.asker pid)
        let e := s1.physWord at_
        if !bitAt e 0 then (.error (.fault { code := 0x080 + cls, level := level, entry := at_ }), s1)
        else if s1.pteInvalid pid e level then (.error (.fault { code := 0x087, level := level, entry := at_ }), s1)
        else if bitAt e 1 then (.ok (e, level, at_), s1)
        else s1.walk pid cls va a n (level + 1) (ptePa e)
      | (_, s1) => (.error (.fault { code := 0x305, level := level, entry := at_, syndrome := s1.syndrome (s.poisonedAt false at_) }), s1)

/-- Whether a leaf permits an access (R303). -/
def ptePermits (e : X) (k : Access) (prv : Bool) : Bool :=
  (prv || bitAt e 5) &&
    (match k.cls with
     | 0 => bitAt e 4
     | 1 => bitAt e 2
     | _ => bitAt e 2 && bitAt e 3)

/-- The physical address and attributes that a leaf gives for an address. -/
def leafPhys (e : X) (size : Nat) (va : X) : Phys :=
  { pa := ptePa e / size * size + va.toNat % size, managed := bitAt e 9, plane := bitAt e 8, cached := bitAt e 7 && !bitAt e 8 }

/-- Whether the 64 leaves of an aligned group of bottom-level entries, the first of them at an address, make one page of 32 MiB
(R304). -/
def State.groupJoins (s : State) (pid first : Nat) : Bool :=
  let e := fun (j : Nat) => s.physWord (first + 8 * j)
  ptePa (e 0) % 2 ^ 25 == 0 && (List.range 64).all fun j =>
    tagAt s.tags (first / 8 + j) != 3 && bitAt (e j) 0 && bitAt (e j) 6 && !s.pteInvalid pid (e j) 2 && setField (e j) 12 40 0 == setField (e 0) 12 40 0 &&
      ptePa (e j) == ptePa (e 0) + j * 2 ^ 19

/-- The size of the translation that a walk installs for the leaf e at an address (R304): for a bottom-level leaf with ct = 1, the walker
reads the group, and where it joins the entry may be one of 32 MiB, which a free choice decides (log entry 12). -/
def State.installSize (s : State) (pid : Nat) (e : X) (level at_ : Nat) (a : Agent) : Nat × State :=
  if level = 2 ∧ bitAt e 6 then
    let first := at_ / 512 * 512
    if (granules first 512).any (fun g => s.dramWaits g (a.asker pid)) then (2 ^ 19, s)
    else
      let (ok, s1) := meetEach (fun g t => t.meetPlain 0x02 g a) (granules first 512) s
      let joins := ok && s1.groupJoins pid first && decide (Config.freeChoice s1.fresh 0 % 2 = 1)
      (if joins then 2 ^ 25 else 2 ^ 19, { s1 with fresh := s1.fresh + 1 })
  else (leafSize level, s)

/-- The translations that a unit holds first: 0 for the instruction TLB of a core, 1 for its data TLB, 3 for the translations of an engine,
a walker or a sequencer; 2 is the second level of a core (R305, R322; log entry 12 on unit numbers). -/
def firstTlb (unit : Nat) (k : Access) : Nat := if 1000 ≤ unit then 3 else if k.cls = 0 then 0 else 1

/-- The entries of a TLB (Table 7 of 14_traps_and_translation, R322). -/
def tlbSize : Nat → Nat
  | 0 => 32
  | 1 => 64
  | 2 => 1024
  | _ => 16

/-- Whether an entry of a unit's TLB covers an address of a partition (R304, R305). -/
def TlbEntry.covers (e : TlbEntry) (unit tlb pid v : Nat) : Bool :=
  e.core == unit && e.tlb == tlb && e.pid == pid && e.va == v / e.size

/-- A translation installed in a TLB, which loses its oldest where it is full (log entry 12). -/
def State.holdTlb (e : TlbEntry) (s : State) : State :=
  let same := fun (t : TlbEntry) => t.core == e.core && t.tlb == e.tlb
  { s with tlb := e :: (s.tlb.filter same).take (tlbSize e.tlb - 1) ++ s.tlb.filter (fun t => !same t) }

/-- Translation of an address for a partition by a unit that holds translations of its own (R303 to R305): a hit needs no
walk, a hit in the second level of a core adds 4 cycles, and a walk, of three reads, that serves an access installs its leaf. -/
def State.translate (s : State) (unit pid : Nat) (prv : Bool) (k : Access) (va : X) (a : Agent) : Except XStop Phys × State :=
  if !canonical va then (.error (.fault { code := 0x080 + k.cls, level := 0, entry := 0 }), s)
  else
    let v := va.toNat
    let f := firstTlb unit k
    match s.tlb.find? (fun e => e.covers unit f pid v) with
    | some e =>
      if ptePermits e.pte k prv then (.ok (leafPhys e.pte e.size va), s)
      else (.error (.fault { code := 0x083 + k.cls, level := 3, entry := 0 }), s)
    | none =>
      match s.tlb.find? (fun e => e.covers unit 2 pid v) with
      | some e =>
        if ptePermits e.pte k prv then (.ok { leafPhys e.pte e.size va with delay := 4 }, s.holdTlb { e with tlb := f })
        else (.error (.fault { code := 0x083 + k.cls, level := 3, entry := 0 }), s)
      | none =>
        match s.part? pid with
        | none => (.error (.fault { code := 0x080 + k.cls, level := 0, entry := 0 }), s)
        | some p =>
          match s.walk pid k.cls va a 3 0 p.cfg.root with
          | (.error f, s1) => (.error f, s1)
          | (.ok (e, level, at_), s1) =>
            if ptePermits e k prv then
              let (size, s2) := s1.installSize pid e level at_ a
              let t : TlbEntry := { core := unit, tlb := f, pid := pid, va := v / size, size := size, pte := e }
              (.ok { leafPhys e size va with delay := 120 },
                (if f = 3 then s2 else s2.holdTlb { t with tlb := 2 }).holdTlb t)
            else (.error (.fault { code := 0x083 + k.cls, level := level, entry := at_ }), s1)

/-! ### A hart's word-path access -/

/-- The trap of a class 0x2 fault with its frame (Table 2 of 14_traps_and_translation); 0x305 and 0x20B carry no such
information. -/
def XFault.trap (f : XFault) (k : Access) (va : X) (stride : X) (remaining pages : Nat) : Trap :=
  if f.code / 64 = 2 then
    { code := f.code, tval := va, info0 := stride,
      info1 := xOf (remaining % 2 ^ 32 * 2 ^ 32 + f.level * 2 ^ 28 + k.code * 2 ^ 24 + min 15 pages * 2 ^ 20),
      info2 := xOf f.entry }
  else if f.code / 64 = 12 then { code := f.code, tval := va, info0 := xOf (f.entry / 8 * 8), info1 := f.syndrome }
  else { code := f.code, tval := va }

/-- What the unit behind a physical address says to a hart's access (R159, R168, R310, R315): a fault, a wait until a cycle
in which it may be asked again, or none. -/
inductive Unit? where
  | serve
  | refuse (code : Nat)
  | later
deriving DecidableEq, Repr

/-- The way in which an address is served to a hart (R169, R310, R315, R340). -/
def State.unitOf (s : State) (pa : Nat) (hid : BitVec 32) (pid : Nat) : Unit? :=
  if isDram pa then
    if reservedRow pa then .refuse 0x20B
    else if s.dramWaits pa (some (pid, hid)) then .later
    else if s.scratchMarked pa then .refuse 0x20B
    else .serve
  else if isScratch pa then
    let w := s.wpart (pa / 2 ^ 36 % 8) (pa / 2 ^ 14 % 8)
    let j := pa / 2 ^ 17 % 1024
    if s.scratchLost pa then .refuse 0x087
    else if 64 * w.req ≤ j then .refuse 0x086
    else if 64 * w.cur ≤ j then .later
    else .serve
  else .serve

/-- Whether the L1 of the core in focus holds the line that a scalar access or a fetch reaches, so that no bank is reached (R84, R316). -/
def State.nearCopy (s : State) (k : Access) (pa : Nat) : Bool :=
  match k with
  | .fetch => decide (s.me.core ∈ (s.dirAt pa).instr)
  | .load => decide (s.me.core ∈ (s.dirAt pa).data)
  | .store => decide (s.me.core ∈ (s.dirAt pa).data)
  | _ => false

/-- Translation, by a unit that holds translations, and unit checks of one word-path access of the hart in focus, as a pure answer. -/
def State.locateBy (s : State) (unit : Nat) (k : Access) (va : X) : Except XStop Phys × State :=
  match s.translate unit s.me.hart.pid s.me.hart.prv k va s.hartAgent with
  | (.error f, s1) => (.error f, s1)
  | (.ok p, s1) =>
    match s1.unitOf p.pa s1.me.hart.hid s1.me.hart.pid with
    | .refuse c => (.error (.fault { code := c, level := 3, entry := 0 }), s1)
    | .later =>
      if s1.nearCopy k p.pa && !s1.rowLocked p.pa (some (s1.me.hart.pid, s1.me.hart.hid)) then (.ok p, s1) else (.error (.busy p.pa), s1)
    | .serve => (.ok p, s1.chargeRow p.pa (some (s1.me.hart.pid, s1.me.hart.hid)))

/-- The same through the translations of the hart's core. -/
def State.locate (s : State) (k : Access) (va : X) : Except XStop Phys × State := s.locateBy s.me.core k va

/-- One word-path access of the hart in focus through the translations of a unit: it traps with its frame, waits while its bank or way, or that
of a page table, is not served, and answers its physical address. -/
def accessBy (unit : Nat) (k : Access) (va : X) (stride : X) (remaining : Nat) : M Phys := do
  let s ← get
  match s.locateBy unit k va with
  | (.error (.fault f), s1) =>
    set s1
    throw (.trap (f.trap k va stride remaining 1))
  | (.error (.busy pa), s1) =>
    set s1
    throw (.wait (.bank pa k.firm))
  | (.ok p, s1) =>
    set s1
    pure p

/-- One word-path access of the hart in focus through the translations of its core. -/
def access (k : Access) (va : X) (stride : X) (remaining : Nat) : M Phys := do
  let s ← get
  accessBy s.me.core k va stride remaining

end Sys2Proof.Machine
end

