-- ==== Sys2Proof/Machine/Data.lean ====
section
/-! DEFINITION. Reads and writes of data at a translated address, with tags, poison and ECC (R81, R330 to R333), the lines of
the column banks (R312, R316 to R318, R321). -/

namespace Sys2Proof.Machine

/-! ### Lines of the column banks -/

/-- The home of a line: stack, column and set (R312). -/
def State.homeOf (s : State) (pa : Nat) : Nat × Nat × Nat :=
  (s.homeStack pa, pa / 2 ^ 10 % 128, pa / 2 ^ 17 % 64 * 8 + pa / 2 ^ 7 % 8)

/-- The halves of its line that n bytes at an address touch: low and high (R317). -/
def halvesOf (pa n : Nat) : Bool × Bool := (decide (pa % 128 < 64), decide (64 ≤ (pa + n - 1) % 128))

/-- Whether a line has a dirty half. -/
def Line.dirty (k : Line) : Bool := k.dirtyLow || k.dirtyHigh

/-- A line that leaves its bank or is made clean is written back where it is dirty (R312, R318): whole codewords are written, without a
read (R333). -/
def State.writeBack (k : Line) (s : State) : State :=
  if k.dirty then { s with flips := s.flips.filter (fun g => g.1 / 8 != k.pa / 128) } else s

/-- The line that its bank holds made dirty, in the halves that are present, by a write or by the return of a modified copy. -/
def State.dirtyLine (pa : Nat) (low high : Bool) (s : State) : State :=
  { s with lines := s.lines.map fun k =>
      if k.pa = pa / 128 * 128 then { k with dirtyLow := k.dirtyLow || (low && k.lowHalf), dirtyHigh := k.dirtyHigh || (high && k.highHalf) }
      else k }

/-- No agent in particular (Table 1 of 16_reliability). -/
def noAgent : Agent := { code := 4, id := 0 }

/-- A modified L1 copy, read out of its cache, written back to its home in the halves that it has modified, or to its memory where the bank
does not hold the line (R316, R318, R334). -/
def State.recall (e : DirEntry) (s : State) : State :=
  if e.modified then
    let s1 := e.data.foldl (fun t c => t.decodeLine e.pa (.l1 c) noAgent) s
    match s1.lineAt e.pa with
    | some _ => s1.dirtyLine e.pa e.modLow e.modHigh
    | none => { s1 with flips := s1.flips.filter (fun g => g.1 / 8 != e.pa / 128), under := s1.under.filter (fun u => u.pa != e.pa) }
  else s

/-- A directory entry replaced: a bank keeps 16,384 of them, and one that is evicted has its L1 copies recalled first (R316). -/
def State.putDir (e : DirEntry) (s : State) : State :=
  let rest := s.dir.filter (fun d => d.pa != e.pa)
  if e.data.isEmpty && e.instr.isEmpty then { s with dir := rest }
  else
    let home := s.homeOf e.pa
    let mine := rest.filter (fun d => (s.homeOf d.pa).1 == home.1 && (s.homeOf d.pa).2.1 == home.2.1)
    if mine.length < 16384 then { s with dir := e :: rest }
    else
      match mine.getLast? with
      | some v => ({ s with dir := e :: rest.filter (fun d => d.pa != v.pa) } : State).recall v
      | none => { s with dir := e :: rest }

/-- The probe before an access that is served at the home past the L1s (R101, R316): a modified copy is written back; a read leaves it
shared, a write invalidates every copy. -/
def State.probe (pa : Nat) (write : Bool) (s : State) : State :=
  let e := s.dirAt pa
  let s1 := s.recall e
  if write then s1.putDir { e with data := [], instr := [], modLow := false, modHigh := false }
  else if e.modified then s1.putDir { e with modLow := false, modHigh := false }
  else s1

/-- The granules of a line of DRAM decoded when the line is fetched into its bank (R331; log entry 25). -/
def State.fillLine (pa : Nat) (a : Agent) (s : State) : State :=
  if isDram pa ∧ s.flips.any (fun g => g.1 / 8 == pa / 128) then (meetEach (fun g t => t.decodeGranule 0x02 g a) (granules (pa / 128 * 128) 128) s).2 else s

/-- A line of a set that gives its way up, written back where it is dirty; L1 copies of a DRAM line stay, those of a T3 line are recalled,
since no L1 holds one whose halves are not both present (R312, R316, R318). What is written back is read out of the bank (R334). -/
def State.evictLine (k : Line) (s : State) : State :=
  let s0 := if inT3 k.pa then s.probe k.pa true else s
  let s1 := if ((s0.lineAt k.pa).getD k).dirty then s0.decodeLine k.pa .bank noAgent else s0
  let k1 := (s1.lineAt k.pa).getD k
  { s1.writeBack k1 with lines := s1.lines.filter (fun l => l.pa != k.pa) }

/-- The lines of a home, most recently used first. -/
def State.setOf (s : State) (home : Nat × Nat × Nat) : List Line := s.lines.filter (fun k => s.homeOf k.pa = home)

/-- A line placed or touched at its home by an access to n bytes (R312, R318, R321): it becomes most recently used, or, where `cold`, a
line that is new becomes least recently used. A new line takes the lowest free way that wpart leaves to the cache, or that of the least
recently used line; `whole` says that both halves are fetched, and a write makes the halves that it touches dirty. A bank that is mapped
out holds nothing (R340). -/
def State.placeLine (pa n : Nat) (whole write cold : Bool) (a : Agent) (s : State) : State :=
  let base := pa / 128 * 128
  let (low, high) := halvesOf pa n
  match s.lineAt pa with
  | some k =>
    let k1 := { k with lowHalf := k.lowHalf || whole || low, highHalf := k.highHalf || whole || high,
                       dirtyLow := k.dirtyLow || (write && low), dirtyHigh := k.dirtyHigh || (write && high) }
    { s with lines := k1 :: s.lines.filter (fun l => l.pa != base) }
  | none =>
    let home := s.homeOf base
    if s.bankLost home.1 home.2.1 then s
    else
      let ways := 16 - (s.wpart home.1 (home.2.1 / 16)).cur
      let mine := s.setOf home
      let free := (List.range ways).find? fun w => !mine.any (fun k => k.way == w)
      let victim := mine.getLast?
      let (way, s1) := match free, victim with
        | some w, _ => (w, s)
        | none, some v => (v.way, s.evictLine v)
        | none, none => (0, s)
      let s2 := (s1.fillLine pa a).newCopy pa .bank
      let k : Line := { pa := base, way := way, lowHalf := whole || low, highHalf := whole || high, dirtyLow := write && low,
                        dirtyHigh := write && high }
      { s2 with lines := if cold then s2.lines ++ [k] else k :: s2.lines }

/-- Whether the lines of a page may be held in caches: cacheable word-mode DRAM, T3, and, in the L1s alone, scratch (R312, R315). -/
def Phys.cacheable (p : Phys) : Bool := p.cached && !p.plane

/-- An access served at the home column bank (R101, R102, R312, R316): the L1s are probed; h = 00 allocates the line, h = 01 and an
uncached access are served from a line that is present, which keeps its state, and allocate none, and h = 10 writes that line back and drops
it. -/
def State.touchHome (p : Phys) (n : Nat) (write : Bool) (hint : Nat) (a : Agent) (s : State) : State :=
  let s1 := (s.unhold p.pa n write).probe p.pa write
  if isScratch p.pa ∨ p.plane then s1
  else
    match s1.lineAt p.pa with
    | some k =>
      if hint = 1 then { s1 with lines := k :: s1.lines.filter (fun l => l.pa != k.pa) }
      else
        let s2 := s1.placeLine p.pa n false write false a
        if hint = 2 then s2.evictLine k else s2
    | none => if p.cacheable ∧ (hint = 0 ∨ hint = 3) then s1.placeLine p.pa n (isDram p.pa) write false a else s1

/-- Whether an L1 may hold a line: a T3 line only where both halves are present at its home (R316, R318). -/
def State.l1MayHold (s : State) (pa : Nat) : Bool := !inT3 pa || (s.lineAt pa).any fun k => k.lowHalf && k.highHalf

/-- A scalar access of a core with a hint (R84, R316, R318). A hit is served from the L1 copy: a store invalidates every other copy, and
dirties the line with no hint; .na leaves the copy in its state and .by gives it up. A miss is served at the home, and with no hint the line
is then held in the L1. -/
def State.touch (p : Phys) (n : Nat) (write : Bool) (hint : Nat) (core : Nat) (a : Agent) (s : State) : State :=
  let e := s.dirAt p.pa
  let (low, high) := halvesOf p.pa n
  let s1 := s.unhold p.pa n write
  if !p.cacheable then s1.touchHome p n write 1 a
  else if core ∈ e.data then
    if hint = 0 then
      if write then
        (if inT3 p.pa then s1.dirtyLine p.pa low high else s1).putDir
          { e with data := [core], instr := [], modLow := e.modLow || low, modHigh := e.modHigh || high }
      else s1
    else
      let s2 := if write then
          (if e.modified then s1 else s1.dirtyLine p.pa low high).putDir
            { e with data := [core], instr := [], modLow := e.modified && (e.modLow || low), modHigh := e.modified && (e.modHigh || high) }
        else s1
      if hint = 2 then
        (s2.recall (s2.dirAt p.pa)).putDir { e with data := if write then [] else e.data.filter (· != core), modLow := false, modHigh := false,
                                                    instr := if write then [] else e.instr }
      else s2
  else
    let t := s1.touchHome p n (write && (hint != 0 || inT3 p.pa)) 0 a
    if hint = 0 then
      let s2 := ((t.probe p.pa write).decodeLine p.pa .bank a).newCopy p.pa (.l1 core)
      if s2.l1MayHold p.pa then
        s2.putDir (if write then { pa := p.pa / 128 * 128, data := [core], instr := [], modLow := low, modHigh := high }
          else { s2.dirAt p.pa with data := insertNew (s2.dirAt p.pa).data core })
      else s2
    else t

/-- What an instruction fetch of a core does to the lines (R316): a cacheable line is held in its L1 instruction cache. -/
def State.touchFetch (p : Phys) (core : Nat) (a : Agent) (s : State) : State :=
  if core ∈ (s.dirAt p.pa).instr then s
  else
    let s1 := ((s.touchHome p 4 false 0 a).decodeLine p.pa .bank a).newCopy p.pa (.l1i core)
    if p.cacheable ∧ s1.l1MayHold p.pa then s1.putDir { s1.dirAt p.pa with instr := insertNew (s1.dirAt p.pa).instr core } else s1

/-! ### Data -/

/-- The trap of an error met by a hart's access (R332, R333, Table 2 of 14_traps_and_translation): info1 is the word of the
log entry that the error wrote, where the access has detected it; `poisoned` says that the word was poisoned before. -/
def State.errorTrap (s : State) (code : Nat) (va : X) (pa : Nat) (poisoned : Bool) : Trap :=
  { code := code, tval := va, info0 := xOf (pa / 8 * 8), info1 := s.syndrome poisoned }

/-- A granule met by an access (R331, R333, R334): a line that another L1 has modified is read out of it; the word of a copy that serves it is
read there; poison first; then the codeword in DRAM is decoded, where no copy of the line serves the access. -/
def State.meetGranule (kind : Nat) (p : Phys) (a : Agent) (s : State) : Decoded × State :=
  let s0 := s.meetRemote p.l1 p.pa a
  let (refused, s1) := s0.readSram kind p.pa (s0.servedBy p.l1 p.pa) a
  if refused then (.uncorrectable, s1)
  else if s1.poisonedAt p.managed p.pa then (.poisoned, s1)
  else if s1.lineHeld p.pa || s1.servedBy p.l1 p.pa != .dram then (.good, s1)
  else s1.decodeGranule kind p.pa a

/-- A read of n bytes within an aligned 64-bit word at a translated address, lines aside: the value and the memory tag, 00
outside managed pages (R81, R331, R332). -/
def State.readRaw (s : State) (p : Phys) (va : X) (n : Nat) (a : Agent) : Except Trap (Nat × BitVec 2) × State :=
  match s.meetGranule 0x02 p a with
  | (.poisoned, s1) => (.error (s1.errorTrap 0x300 va p.pa (s.poisonedAt p.managed p.pa)), s1)
  | (.uncorrectable, s1) => (.error (s1.errorTrap 0x302 va p.pa false), s1)
  | (.good, s1) => (.ok (leNat (memBytes s1.mem p.pa n), if p.managed then tagAt s1.tags (p.pa / 8) else 0), s1)

/-- A write of n bytes within an aligned 64-bit word at a translated address, lines aside, with the tag that the word takes
(R81, R333): a write to poison that does not clear it, and one to an uncorrectable codeword, is not performed. In a managed page the write
of a whole word clears the poison of that word (R81, R101); elsewhere only one of the whole granule does (R333; log entry 25). -/
def State.writeRaw (s : State) (p : Phys) (va : X) (n : Nat) (v : Nat) (tag : BitVec 2) (a : Agent) : Except Trap Unit × State :=
  let put := fun (t : State) =>
    { t with mem := memWrite t.mem p.pa (leBytes n v), tags := tagSet t.tags (p.pa / 8) 1 (if p.managed then tag else 0) }
  let s0 := s.meetRemote p.l1 p.pa a
  let was := s.poisonedAt p.managed p.pa
  if s0.poisonedAt p.managed p.pa then
    if p.managed && n == 8 then (.ok (), put s0)
    else (.error (s0.errorTrap 0x301 va p.pa was), s0)
  else
    match (if n = 8 then s0.dropSram p.pa (s0.servedBy p.l1 p.pa) else s0).meetGranule 0x03 p a with
    | (.uncorrectable, s1) => (.error (s1.errorTrap 0x303 va p.pa false), s1)
    | (.poisoned, s1) => (.error (s1.errorTrap 0x301 va p.pa was), s1)
    | (.good, s1) => (.ok (), put s1)

/-- The state of an access that was performed changed. -/
def onOk {α : Type} (f : State → State) (r : Except Trap α × State) : Except Trap α × State :=
  match r with
  | (.ok a, s) => (.ok a, f s)
  | (.error e, s) => (.error e, s)

/-- A scalar read with a hint, through the hart's L1 (R81, R84, R368). -/
def State.readAt (s : State) (p : Phys) (va : X) (n hint : Nat) (a : Agent) : Except Trap (Nat × BitVec 2) × State :=
  onOk (fun t => t.touch p n false hint t.me.core a) (s.readRaw { p with l1 := some s.me.core } va n a)

/-- What the bank of a scratch line holds kept beside the copy that an L1 has just modified (R366); `before` is the state before the write. -/
def State.keepUnder (before : State) (pa : Nat) (s : State) : State :=
  let base := pa / 128 * 128
  if isScratch pa && (s.dirAt pa).modified && !s.under.any (fun u => u.pa == base) then
    { s with under := { pa := base, bytes := memBytes before.mem base 128,
                        tags := (List.range 16).map fun j => tagAt before.tags (base / 8 + j) } :: s.under }
  else s

/-- A scratch line as its bank holds it, what an L1 has written to it being discarded (R366). -/
def State.restoreUnder (u : UnderLine) (s : State) : State :=
  { s with mem := memWrite s.mem u.pa u.bytes,
           tags := (List.range 16).foldl (fun t j => tagSet t (u.pa / 8 + j) 1 (u.tags.getD j 0)) s.tags,
           under := s.under.filter (fun o => o.pa != u.pa) }

/-- A scalar write with a hint, through the hart's L1 (R81, R84, R368). -/
def State.writeAt (s : State) (p : Phys) (va : X) (n : Nat) (v : Nat) (tag : BitVec 2) (hint : Nat) (a : Agent) :
    Except Trap Unit × State :=
  onOk (fun t => (State.keepUnder s p.pa (t.touch p n true hint t.me.core a))) (s.writeRaw { p with l1 := some s.me.core } va n v tag a)

/-- The T3 lines made whole (R246, R318): modified L1 copies are recalled, and every dirty half is written back, having been read out of its
bank (R334). -/
def State.wholeT3 (s : State) : State :=
  let s1 := (s.dir.filter fun e => inT3 e.pa && e.modified).foldl (fun t e => t.probe e.pa false) s
  let s2 := (s1.lines.filter fun k => inT3 k.pa && k.dirty).foldl (fun t k => t.decodeLine k.pa .bank noAgent) s1
  { s2 with lines := s2.lines.map (fun k => if inT3 k.pa then { k with dirtyLow := false, dirtyHigh := false } else k) }

/-- What a release at a scope does in a model that performs every access in program order (log entry 3): at POD, SYSTEM and HOST it is
performed only when the host and the peers have every write, so that what the bridge holds is written back (R246). -/
def State.release (scope : Nat) (s : State) : State := if scope = 7 ∨ scope = 8 ∨ scope = 11 then s.wholeT3 else s

/-- Runs a pure access in a meaning. -/
def liftRead {α : Type} (f : State → Except Trap α × State) : M α := do
  let s ← get
  match f s with
  | (.ok a, t) =>
    set t
    pure a
  | (.error e, t) =>
    set t
    throw (.trap e)

/-- n 64-bit words of a record or descriptor read from an address on, through the translations of a unit (R212, R219, R305). -/
def readWordsBy (unit : Nat) (va : X) : Nat → M (List X)
  | 0 => pure []
  | n + 1 => do
    let p ← accessBy unit .otherRead va 0 1
    let (v, _) ← liftRead (fun t => t.readAt p va 8 0 t.hartAgent)
    let rest ← readWordsBy unit (va + 8) n
    pure (xOf v :: rest)

/-- n 64-bit words read through the translations of the hart's core. -/
def readWords (va : X) (n : Nat) : M (List X) := do
  let s ← get
  readWordsBy s.me.core va n

/-! ### Interruption inside an instruction (R287) -/

/-- The runnable queue of a partition in a stack (R268). -/
def State.queueOf (s : State) (stack pid : Nat) : List Runnable := s.queue.filter fun r => r.stack == stack && r.pid == pid

/-- The cycles, at most 65,536 away, in which the hart in focus may have to be interrupted: the Meridian alarm comes due (R20), its slice
ends while a hart waits for the slot (R269), or something arrives from outside (R287, R298; log entry 32). Only the last is heeded while
status.ie = 0: a swap halts a hart whatever status.ie holds (R298). -/
def State.interrupts (s : State) : List Nat :=
  let h := s.me.hart
  let slice := ((s.part? h.pid).toList.filter (fun _ => !(s.queueOf (stackOf s.me.core) h.pid).isEmpty)).map
    (fun p => s.me.since + 2 ^ p.cfg.slice)
  ((if h.ie then (if h.me then [h.mcmp.toNat] else []) ++ slice else []) ++ s.arrivals).filter
    (fun c => decide (s.cycle < c) && decide (c ≤ s.cycle + 65536))

/-- The first of those cycles. -/
def State.interruptAhead (s : State) : Option Nat := bestBy id s.interrupts

/-- A trap point inside an instruction (R287): where an interruption may come while the instruction is in progress, it may be
interrupted here, which a free choice decides (log entries 6 and 32). -/
def trapPoint (i : Nat) : M Unit := do
  let s ← get
  match s.interruptAhead with
  | none => pure ()
  | some c => do
    set { s with fresh := s.fresh + 1 }
    if Config.freeChoice s.fresh i % 2 = 1 then throw (.pause c) else pure ()

/-! ### Headers of managed objects (R204, R205) -/

/-- The rank of a scope code: −1 for private (R204). -/
def scopeRank (c : Nat) : Int := if c = 15 then -1 else c

/-- Whether a header word is valid (R204). -/
def headerValid (h : X) : Bool := (fieldOf h 36 4 ≤ 8 || fieldOf h 36 4 == 15) && fieldOf h 1 3 == 0

/-- The nearest word with tag 10 at or below a word, by physical word index (R204). -/
def State.headerBelow (s : State) (w : Nat) : Option Nat :=
  ((s.tags.filter (fun t => t.2 == 2 && decide (t.1 ≤ w))).map (·.1)).getLast?

/-- The header of the object that may contain a word read at its home (R204, R317, R331): whether it is good, with its physical address. -/
def State.seeHeader (pa : Nat) (a : Agent) (s : State) : (Bool × Nat) × State :=
  match s.headerBelow (pa / 8) with
  | some h => let (d, t) := s.meetPlain 0x02 (8 * h) a; ((d == .good, 8 * h), t)
  | none => ((true, pa), s)

/-- The containing object of a physical word: its header's address and value; none for a word in no object, an error with the
header's address where that header is invalid (R204). -/
def State.containing (s : State) (pa : Nat) : Except Nat (Option (Nat × X)) :=
  match s.headerBelow (pa / 8) with
  | none => .ok none
  | some h =>
    let v := s.physWord (8 * h)
    if !headerValid v then .error (8 * h)
    else if h < pa / 8 && decide (pa / 8 ≤ h + fieldOf v 40 24) then .ok (some (8 * h, v))
    else .ok none

/-- The header that a reference names, read with the checks of R205: the physical address and the value. -/
def readHeader (ref : X) : M (Phys × X) := do
  let p ← access .otherRead ref 0 1
  let s ← get
  if ref.toNat % 8 = 0 && p.managed && tagAt s.tags (p.pa / 8) == 2 then
    let (v, _) ← liftRead (fun t => t.readAt p ref 8 0 t.hartAgent)
    require (headerValid (xOf v)) 0x142 ref
    pure (p, xOf v)
  else trap 0x142 ref

/-- The escape check of R205 for a store of a tagged reference at an address that is already translated: it traps with 0x140
where the reference escapes. Header addresses are given in the virtual space of the word, at the same distance (log
entry 13). -/
def escapeCheck (p : Phys) (va ref : X) (reg : BitVec 5) : M Unit := do
  let (_, u) ← readHeader ref
  let virt := fun (h : Nat) => va / 8 * 8 - xOf (p.pa / 8 * 8 - h)
  let t ← get
  let ((good, at_), s) := t.seeHeader p.pa t.hartAgent
  set s
  if !good then throw (.trap (s.errorTrap 0x302 (virt at_) at_ false))
  match s.containing p.pa with
  | .error h => trap 0x142 (virt h)
  | .ok c =>
    let t := match c with | some (_, v) => fieldOf v 36 4 | none => 8
    if t ≠ 15 ∧ (scopeRank (fieldOf u 36 4) < scopeRank t ∨ bitAt u 0) then
      throw (.trap { code := 0x140, tval := va, info0 := xOf (t + reg.toNat * 256),
                     info1 := (match c with | some (h, _) => virt h | none => 0) })
    else pure ()

end Sys2Proof.Machine
end

