-- ==== Sys2Proof/Machine/Lanes.lean ====
section
/-! DEFINITION. Lane groups and their grant (R15, R16, R23, R25, R278), and the release of a slot's vector state (R296). -/

namespace Sys2Proof.Machine

/-- The lane groups of a core that are not mapped out (R278, R340). -/
def State.workGroups (s : State) (core : Nat) : List Nat :=
  (List.range 16).filter fun g => !s.fw.lost.any fun u =>
    match u with
    | .bus st c => st == stackOf core && c == 16 * positionOf core + g
    | _ => false

/-- The lane groups that a partition's configuration grants on a core. -/
def Part.groupsOn (p : Part) (core : Nat) : Nat :=
  ((p.cfg.cores.find? (fun c => c.core == core)).map (·.part)).getD 0

/-- The physical lane groups of a partition on a core: the partition granted first holds the lowest (R278). -/
def State.shareOf (s : State) (pid core : Nat) : List Nat :=
  let mine := ((s.part? pid).map (fun p => p.grantNo core)).getD 0
  let before := ((s.parts.filter (fun p => p.pid != pid && decide (p.grantNo core < mine))).map (fun p => p.groupsOn core)).sum
  let own := ((s.part? pid).map (fun p => p.groupsOn core)).getD 0
  ((s.workGroups core).drop before).take own

/-- The groups held on a core by the vector states of the other slots (R23). -/
def State.heldByOthers (s : State) (core : Nat) : List Nat :=
  (s.others.filter (fun o => o.core == core)).flatMap (fun o => o.vec.groups)

/-- The value of lanes (Table 5 of 01_machine_state). -/
def State.lanes (s : State) : X :=
  let c := s.me.core
  xOf ((s.workGroups c).length * 2 ^ 24 + (((s.part? s.pid).map (fun p => p.groupsOn c)).getD 0) * 2 ^ 16
    + s.myGrant * 2 ^ 8 + s.me.hart.lanesReq.toNat)

/-- Whether a vector configuration is illegal (R16). -/
def Vec.illegal (v : Vec) : Bool :=
  let bl := blockLen v.bl.toNat
  decide (6 ≤ v.sew.toNat) || (v.bl != 0 && v.sew != 1 && v.sew != 2) || decide (v.vlmaxe < v.vl.toNat) ||
    (v.bl != 0 && v.vl.toNat % bl != 0)

/-- The vector state with vill evaluated again (R16). -/
def Vec.check (v : Vec) : Vec := { v with vill := v.illegal }

/-- Every Fife-table entry of a slot dies (R261). -/
def State.dropFife (core slot : Nat) (s : State) : State :=
  { s with fife := s.fife.filter (fun e => !(e.core == core && e.slot == slot)) }

/-- The vector state in focus released and set to the values of R22 for a new owner (R261, R271, R296). -/
def State.releaseVec (pid : Nat) (hid : BitVec 32) (lz : Bool) (s : State) : State :=
  (s.dropFife s.me.core s.me.idx).modVec fun _ => { Vec.creation pid hid with lz := lz }

/-- A v register file of zeros under a new grant: every register maps onto one zero register (R23, R249). -/
def Vec.regrant (groups : List Nat) (v : Vec) : Vec :=
  { v with groups := groups, v := Vector.replicate 32 0, phys := Vector.replicate 32 0,
           pregs := [{ id := 0, img := 0, name := some (0, 0) }] }

end Sys2Proof.Machine
end

