-- ==== Sys2Proof/Machine/Records.lean ====
section
/-! DEFINITION. Hart records (R263, R264), switch-out and switch-in (R271, R369), and the creation of a hart (R22, R220, R266). -/

namespace Sys2Proof.Machine

/-- A hart that leaves its slot by its own instruction waits until its record can be written. -/
def awaitRecord : M Unit := do
  let s ← get
  match s.recordWait s.pid s.me.hart.hid (s.pid, s.me.hart.hid) with
  | some a => throw (.wait (.bank a true))
  | none => pure ()

/-- A hart as the agent of the errors that its record meets (Table 1 of 16_reliability). -/
def recordAgent (hid : BitVec 32) : Agent := { code := 0, id := hid.toNat }

/-- The first granule of a record, which holds its state, met by the scheduler or a walker (R331). -/
def State.meetHead (pid : Nat) (hid : BitVec 32) (s : State) : State := (s.meetPlain 0x02 (s.recordAddr pid hid) (recordAgent hid)).2

/-- A word of a record as the scheduler or a walker reads it, its granule having been decoded (R263, R331). -/
def State.recordWord (s : State) (pid : Nat) (hid : BitVec 32) (off : Nat) : X :=
  (s.meetPlain 0x02 (s.recordAddr pid hid + off) (recordAgent hid)).2.plainWord (s.recordAddr pid hid + off)

/-- The state field of a record (Table 1 of 13_execution_and_scheduling). -/
def State.recordState (s : State) (pid : Nat) (hid : BitVec 32) : Nat := fieldOf (s.recordWord pid hid 0) 44 4

/-- The hart whose record a START of a partition names, where it is one of the pool (R266, R345). -/
def State.startRecord (s : State) (pid : Nat) (rec : X) : Option (BitVec 32) :=
  (s.part? pid).bind fun p =>
    let a := fieldOf rec 0 52
    if decide (p.cfg.pool ≤ a) && decide (a < p.cfg.pool + 512 * p.cfg.count) && (a - p.cfg.pool) % 512 == 0 then
      some (BitVec.ofNat 32 ((a - p.cfg.pool) / 512))
    else none

/-- Whether a START must wait for the record that it names (R171, R263). -/
def State.startBusy (s : State) (pid : Nat) (rec : X) : Bool := (s.startRecord pid rec).any (s.headBusy pid)

/-- A record with its state field written. -/
def State.setRecordState (pid : Nat) (hid : BitVec 32) (v : Nat) (s : State) : State :=
  let a := s.recordAddr pid hid
  s.putPlain (recordAgent hid) a (setField (s.recordWord pid hid 0) 44 4 v)

/-- The wait word of a record: the kind in bits [3:0] and the operand above (Table 2 of 13_execution_and_scheduling); the layout
of the operand is DESIGN CHOICE (log entry 14). -/
def Wait.word : Wait → X
  | .barrier n t short => xOf (1 + 16 * (n + 2 ^ 16 * t.toNat + 2 ^ 48 * b2n short))
  | .watermark w c => xOf (2 + 16 * (w + 2 ^ 8 * c))
  | .meridian t => xOf (3 + 16 * min t.toNat (2 ^ 60 - 1))
  | .epush e => xOf (4 + 16 * e)
  | .epop e => xOf (5 + 16 * e)
  | .wfi => 6
  | .plock _ h => xOf (7 + 16 * fieldOf h 17 46)
  | .race t => xOf (8 + 16 * min t.toNat (2 ^ 60 - 1))
  | .walker st => xOf (9 + 16 * st)
  | .sequencer st => xOf (9 + 16 * (st + 8))
  | .planes => 0
  | .drain _ => 0
  | .bank _ _ => 0
  | .rows _ => 0

/-- The wait that a record's wait word names. -/
def waitOfWord (w : X) : Option Wait :=
  let o := fieldOf w 4 60
  match fieldOf w 0 4 with
  | 1 => some (.barrier (o % 2 ^ 16) (BitVec.ofNat 32 (o / 2 ^ 16)) (o / 2 ^ 48 % 2 == 1))
  | 2 => some (.watermark (o % 256) (o / 256))
  | 3 => some (.meridian (xOf o))
  | 4 => some (.epush o)
  | 5 => some (.epop o)
  | 6 => some .wfi
  | 7 => some (.plock 0 (xOf (2 ^ 63 + o % 2 ^ 46 * 2 ^ 17)))
  | 8 => some (.race (xOf o))
  | 9 => some (if o < 8 then .walker o else .sequencer (o - 8))
  | _ => none

/-- Plain words written one after the other from an address on, each a write of 8 bytes (R263, R333). -/
def State.putWords (g : Agent) : Nat → List X → State → State
  | _, [], s => s
  | a, w :: rest, s => (s.putPlain g a w).putWords g (a + 8) rest

/-- The handle area of R369 written: each handle with the start of its range, and the partition's invalidation count. -/
def State.spillHandles (area : Nat) (h : Hart) (s : State) : State :=
  let count := ((s.part? h.pid).map (fun p => p.invCount)).getD 0
  let g := recordAgent h.hid
  (s.putWords g area (h.p.toList.flatMap (fun q => [q.word, q.va]))).putPlain g (area + 0x100) count

/-- The H fields of a hart written to its record, with the given state, and its handles to their area (R264, R271, R369). -/
def State.saveRecord (h : Hart) (state : Nat) (s : State) : State :=
  let a := s.recordAddr h.pid h.hid
  let g := recordAgent h.hid
  let w0 := setField (setField (setField (s.plainWord a) 44 4 state) 32 5 h.lanesReq.toNat) 0 32 h.hid.toNat
  let waitW := match h.wait with | some w => w.word | none => 0
  let s1 := s.putWords g a [w0, h.pc]
  let s2 := s1.putWords g (a + 0x18) [xOf (b2n h.pv * 2 ^ 63 + h.pword.toNat), xOf h.es.toNat, h.status, h.cause, h.epc, h.tval,
    h.tvec, h.mcmp, xOf (h.xtag.toNat / 2 * 2)]
  let s3 := (s2.putPlain g (a + 0x68) waitW).putWords g (a + 0x80) (h.cnt.toList ++ h.cntev.toList)
  let s4 := s3.putWords g (a + 0x100) (0 :: h.x.toList.tail)
  let area := (s4.plainWord (a + 0x70)).toNat
  if area = 0 then s4 else s4.spillHandles area h

/-- The hart in focus leaves its slot for its record, in state 2 or 4 (R271): a runnable record enters the queue of the stack
(R268), and asynchronous causes stay pending for it. -/
def State.switchOut (state : Nat) (s : State) : State :=
  let h := s.me.hart
  let s1 := (s.readRecord h.pid h.hid).saveRecord h state
  let area := (s1.plainWord (s1.recordAddr h.pid h.hid + 0x70)).toNat
  { s1 with me := { s1.me with live := false },
            spills := (if area = 0 then [] else [{ pid := h.pid, hid := h.hid, area := area, handles := h.p.toList }]) ++
              s1.spills.filter (fun q => !(q.pid == h.pid && q.hid == h.hid)),
            asyncs := s1.asyncs ++ h.async.map (fun a => (h.pid, h.hid, a)),
            queue := if state = 2 then s1.queue ++ [{ stack := stackOf s1.me.core, pid := h.pid, hid := h.hid }]
              else s1.queue,
            waiting := if state = 4 then s1.waiting ++ [{ stack := stackOf s1.me.core, pid := h.pid, hid := h.hid }]
              else s1.waiting }

/-- An entry of a handle area as a switch-in restores it (R369): what the area holds, and what the switch-out wrote there where software has
written only half of the entry since. -/
def restoredHandle (now : Handle) (before : Option Handle) : Handle :=
  match before with
  | none => now
  | some b => if now.word ≠ b.word ∧ now.va ≠ b.va then now else b

/-- The handles that a switch-in reads back: stale where the invalidation count has changed (R165, R369). -/
def State.readHandles (s : State) (pid : Nat) (hid : BitVec 32) (area : Nat) : Vector Handle 16 :=
  let old := ((s.spills.find? (fun q => q.pid == pid && q.hid == hid && q.area == area)).map (fun q => q.handles)).getD []
  let count := ((s.part? pid).map (fun p => p.invCount)).getD 0
  let changed := area != 0 && s.plainWord (area + 0x100) != count
  Vector.ofFn fun (i : Fin 16) =>
    if area = 0 then Handle.null
    else
      let q := restoredHandle { word := s.plainWord (area + 16 * i.val), va := s.plainWord (area + 16 * i.val + 8) } old[i.val]?
      if bitAt q.word 63 && changed then { q with word := setField q.word 16 1 1 } else q

/-- The scalar state that a record in state 2 holds (R264, R271): reserved bits of registers read as zero, whatever the record holds there
(R3). A hart that waits at wfi resumes still waiting (R93). -/
def State.loadRecord (s : State) (pid : Nat) (hid : BitVec 32) : Hart :=
  let a := s.recordAddr pid hid
  let w := fun (o : Nat) => s.plainWord (a + o)
  { hid := hid, pid := pid, pc := w 0x08,
    x := Vector.ofFn (fun (i : Fin 32) => if i.val = 0 then 0 else w (0x100 + 8 * i.val)),
    xtag := BitVec.ofNat 32 ((w 0x58).toNat % 2 ^ 32 / 2 * 2),
    p := s.readHandles pid hid (w 0x70).toNat, es := (w 0x20).extractLsb' 0 18, pv := bitAt (w 0x18) 63,
    pword := (w 0x18).extractLsb' 0 32, word := 0, status := w 0x28 &&& 0x1FFFFFF#64,
    cause := w 0x30 &&& 0x80000000000003FF#64, epc := w 0x38, tval := w 0x40, tvec := (w 0x48 >>> 2) <<< 2,
    mcmp := w 0x50, lanesReq := (w 0x00).extractLsb' 32 5,
    cnt := Vector.ofFn (fun (i : Fin 8) => w (0x80 + 8 * i.val)),
    cntev := Vector.ofFn (fun (i : Fin 8) => w (0xC0 + 8 * i.val) &&& 0xFF), readyAt := s.cycle + 192, stall := (0, 0), held := false, paused := false, pend := [], overrides := [],
    wait := if waitOfWord (w 0x68) = some .wfi then some .wfi else none, waitSince := s.cycle, reached := [],
    async := (s.asyncs.filter (fun q => q.1 == pid && q.2.1 == hid)).map (fun q => q.2.2), stopped := false,
    frame := none, pready := [], begun := none }

/-- The hart that a new record makes (R22, R264): creation values with the record's pc, prv, prio and lanes; tvec is given by
the caller (R283). -/
def State.newHart (s : State) (pid : Nat) (hid : BitVec 32) (pc tvec : X) (prv prio lanes : Nat) : Hart :=
  { (((Hart.creation pid hid).setStatus 15 1 prv).setStatus 20 3 prio) with
    pc := pc, tvec := (tvec >>> 2) <<< 2, lanesReq := BitVec.ofNat 5 (min lanes 16), readyAt := s.cycle + 20 }

/-- vs of a record set (R364). -/
def State.markSaved (pid : Nat) (hid : BitVec 32) (s : State) : State :=
  let a := s.recordAddr pid hid
  s.putPlain (recordAgent hid) a (setField (s.recordWord pid hid 0) 48 1 1)

/-- The vector state of a slot when a hart comes in (R271): its own state held there, another live owner's state that is not
saved or a state to restore, which arms the lazy switch, or the values of R22. A live owner whose state is then discarded gets
vs = 1 where it has a grant (R364). -/
def State.vecSwitchIn (pid : Nat) (hid : BitVec 32) (isNew : Bool) (s0 : State) : State :=
  let v := s0.me.vec
  let s1 := s0.meetHead pid hid
  let s := if (s1.part? v.ownerPid).isSome then s1.meetHead v.ownerPid v.owner else s1
  let vs := bitAt (s.recordWord pid hid 0) 48
  let ownerLive := s.recordState v.ownerPid v.owner != 0 && (s.part? v.ownerPid).isSome
  if v.owner = hid ∧ v.ownerPid = pid ∧ !isNew then s.modVec fun v => { v with lz := false }
  else if (ownerLive && v.vdirty != 0 && !(v.owner == hid && v.ownerPid == pid)) || vs then
    s.modVec fun v => { v with lz := true }
  else
    (if ownerLive && v.vdirty == 0 && v.grant != 0 && !(v.owner == hid && v.ownerPid == pid) then s.markSaved v.ownerPid v.owner
     else s).releaseVec pid hid false

/-- A hart placed in the slot in focus, resident from now on (R269, R271): its slice starts, and it issues no earlier than the end of the
switch-out that went before. -/
def State.placeHart (h : Hart) (isNew : Bool) (s : State) : State :=
  let s1 := (s.vecSwitchIn h.pid h.hid isNew).setRecordState h.pid h.hid 3
  let start := max s1.cycle s1.me.since
  { s1 with me := { s1.me with live := true, hart := { h with readyAt := max h.readyAt start }, since := s1.cycle, forWalker := false },
            asyncs := s1.asyncs.filter (fun q => !(q.1 == h.pid && q.2.1 == h.hid)),
            spills := s1.spills.filter (fun q => !(q.pid == h.pid && q.hid == h.hid)) }

end Sys2Proof.Machine
end

