-- ==== Sys2Proof/Machine/Agents.lean ====
section
/-! DEFINITION. Accesses of agents other than harts: asynchronous causes posted to harts (R285), CXL.mem requests served at the
home (R245, R317, R343, R348), and the service of requests that waited (R169, R171). -/

namespace Sys2Proof.Machine

/-! ### Asynchronous causes -/

/-- Whether a hart is live: its record is not free (R271). One that is queued or waits is known to be so while its record cannot be read
(R171). -/
def State.hartLive (s : State) (pid : Nat) (hid : BitVec 32) : Bool :=
  (s.part? pid).isSome && ((s.queue ++ s.waiting).any (fun r => r.pid == pid && r.hid == hid) ||
    (!s.headBusy pid hid && s.recordState pid hid != 0))

/-- An asynchronous cause made pending for a live hart, resident or not (R285). The manual states no tval for these causes: it is
a free value (log entry 6). -/
def State.postAsync (pid : Nat) (hid : BitVec 32) (code : Nat) (info0 info1 : X) (s : State) : State :=
  let a : Async := { code := code, tval := Config.freeWord s.fresh, info0 := info0, info1 := info1 }
  let s1 : State := { s with fresh := s.fresh + 1 }
  let here := fun (o : Slot) => o.live && o.hart.pid == pid && o.hart.hid == hid
  if s.slots.any here then
    s1.mapSlots fun o => if here o then { o with hart := { o.hart with async := o.hart.async ++ [a] } } else o
  else if s.hartLive pid hid then { s1 with asyncs := s1.asyncs ++ [(pid, hid, a)] }
  else s

/-- A cause posted to every resident hart that satisfies a condition. -/
def State.postAll (who : Hart → Bool) (code : Nat) (s : State) : State :=
  (s.slots.filter (fun o => o.live && who o.hart)).foldl (fun t o => t.postAsync o.hart.pid o.hart.hid code 0 0) s

/-! ### CXL.mem -/

/-- The requester as an agent of a log entry. -/
def requesterAgent : Requester → Agent
  | .host p => { code := 3, id := p }
  | .peer i => { code := 3, id := i }

/-- Whether an address of the module's range backs nothing (R310, R340, R343). -/
def State.backsNothing (s : State) (pa : Nat) : Bool := s.dramLost pa || reservedRow pa

/-- The addresses of the lines that n bytes from pa on touch. -/
def linesOf (pa n : Nat) : List Nat := (List.range ((pa + n + 127) / 128 - pa / 128)).map fun i => (pa / 128 + i) * 128

/-- The L1s probed for every line of a range before its home serves a request (R245, R316). -/
def State.probeAll (write : Bool) : List Nat → State → State
  | [], s => s
  | a :: rest, s => State.probeAll write rest (s.probe a write)

/-- Granules met at their home for a CXL.mem request: whether all are good (R331, R333, R334). -/
def State.decodeHome (kind : Nat) (a : Agent) (gs : List Nat) (s : State) : Bool × State := meetEach (fun g t => t.meetHome kind g a) gs s

/-- The halves of 64 bytes that n bytes from pa on touch. -/
def halvesFrom (pa n : Nat) : List Nat := (List.range ((pa + n + 63) / 64 - pa / 64)).map (pa / 64 + ·)

/-- A CXL.mem read served (R343): poisoned where an address backs nothing, a row is scratch-marked or a granule is poisoned or
uncorrectable. A half that the host reads is taken to be held by it from then on (R317). -/
def State.cxlRead (r : Request) (s : State) : State :=
  let gs := granules r.pa r.size
  let put := fun (t : State) (y : Reply) => { t with replies := t.replies ++ [y] }
  if gs.any (fun g => s.backsNothing g || s.scratchMarked g) then put s (.poisoned r.id)
  else
    match (s.probeAll false (linesOf r.pa r.size)).decodeHome 0x02 (requesterAgent r.who) gs with
    | (false, s1) => put s1 (.poisoned r.id)
    | (true, s1) =>
      let s2 := match r.who with
        | .host _ =>
          { s1 with hostHeld := (halvesFrom r.pa r.size).foldl insertNew s1.hostHeld,
                    hostOwned := (halvesFrom r.pa r.size).foldl insertNew s1.hostOwned }
        | .peer _ => s1.unhold r.pa r.size false
      put s2 (.data r.id (memBytes s1.mem r.pa r.size))

/-- Whether n bytes from pa on cover a granule whole. -/
def coversGranule (pa n g : Nat) : Bool := decide (pa ≤ g) && decide (g + 16 ≤ pa + n)

/-- The lines that their banks hold take a write of n bytes (R317): they become dirty in the halves that it touches. -/
def State.mergeLines (pa n : Nat) (s : State) : State :=
  { s with lines := s.lines.map fun k =>
      { k with dirtyLow := k.dirtyLow || (k.lowHalf && touchesHalf pa n (k.pa / 64)),
               dirtyHigh := k.dirtyHigh || (k.highHalf && touchesHalf pa n (k.pa / 64 + 1)) } }

/-- A CXL.mem write served (R245, R317, R333, R343): it is performed whole or not at all, after any modified L1 copy has been recalled; it is
merged into a line that its bank holds, and into a scratch-marked row without a decode. A peer's write takes the host's copy away first; the host keeps its own. -/
def State.cxlWrite (r : Request) (bytes : List Byte) (s : State) : State :=
  let n := bytes.length
  let gs := granules r.pa n
  let put := fun (t : State) (y : Reply) => { t with replies := t.replies ++ [y] }
  let partials := gs.filter (fun g => !coversGranule r.pa n g && !s.scratchMarked g)
  if gs.any s.backsNothing then put s (.writeRefused r.id)
  else
    match (s.probeAll true (linesOf r.pa n)).decodeHome 0x03 (requesterAgent r.who) partials with
    | (false, s1) => put s1 (.writeRefused r.id)
    | (true, s1) =>
      let whole := gs.filter (fun g => coversGranule r.pa n g && !s1.lineHeld g)
      let s2 : State :=
        { s1 with mem := memWrite s1.mem r.pa bytes, tags := tagSet s1.tags (r.pa / 8) ((r.pa + n + 7) / 8 - r.pa / 8) 0,
                  flips := (s1.unflip r.pa n).flips.filter (fun f => !decide (f.1 * 16 ∈ whole)),
                  sram := s1.sram.filter (fun f => !(decide (f.site = .bank) && decide (r.pa ≤ f.pa) && decide (f.pa + 8 ≤ r.pa + n))) }
      let s3 := match r.who with
        | .host _ => s2
        | .peer _ => s2.unhold r.pa n true
      put (s3.mergeLines r.pa n) (.writeOk r.id)

/-- Whether a request must wait at its home: a bank that a microprogram holds or a .w row-lock (R169, R178). -/
def State.requestWaits (s : State) (r : Request) : Bool :=
  (granules r.pa r.size).any fun g => s.dramWaits g (some (requestAsker r.id))

/-- A request served. -/
def State.serve (r : Request) (s : State) : State :=
  match r.write with
  | some bytes => s.cxlWrite r bytes
  | none => s.cxlRead r

/-- A waiting request taken out of the queue and served, with its rows in the windows that admitted it (R169). -/
def State.serveOne (r : Request) (s : State) : State :=
  let t := (granules r.pa r.size).foldl (fun u g => u.chargeRow g (some (requestAsker r.id))) s
  (({ t with requests := t.requests.filter (fun q => q.id != r.id) } : State)).serve r

/-- The requests that wait no longer served in arrival order, at most n of them (R169). -/
def State.serveWaiting : Nat → State → State
  | 0, s => s
  | n + 1, s =>
    match s.requests.find? (fun r => !s.requestWaits r) with
    | none => s
    | some r => (s.serveOne r).serveWaiting n

/-- What the host's own access to its memory takes from the module (R225, R318): the halves that it touches are snooped away from the
bridge, with the L1 copies of their lines; a dirty half is read out of its bank (R334) and written back whole, which changes no value of the one
memory. -/
def State.snoopAway (pa n : Nat) (s : State) : State :=
  let s0 := s.probeAll true (linesOf pa n)
  let gone := fun (k : Line) => (k.dirtyLow && touchesHalf pa n (k.pa / 64)) || (k.dirtyHigh && touchesHalf pa n (k.pa / 64 + 1))
  let s1 := (s0.lines.filter gone).foldl (fun t k => t.decodeLine k.pa .bank noAgent) s0
  { s1 with lines := (s1.lines.map fun k =>
      let lo := touchesHalf pa n (k.pa / 64)
      let hi := touchesHalf pa n (k.pa / 64 + 1)
      { k with lowHalf := k.lowHalf && !lo, dirtyLow := k.dirtyLow && !lo, highHalf := k.highHalf && !hi,
               dirtyHigh := k.dirtyHigh && !hi }).filter fun k => k.lowHalf || k.highHalf }

/-- The host's own access to T3 memory, as the module sees it over CXL.cache (R225, R318): a write takes its bytes, with tag 00. -/
def State.hostOwnAccess (r : Request) (s : State) : State :=
  let s1 := s.snoopAway r.pa r.size
  match r.write with
  | none => { s1 with replies := s1.replies ++ [.data r.id (memBytes s1.mem r.pa r.size)] }
  | some b =>
    { s1 with mem := memWrite s1.mem r.pa b, tags := tagSet s1.tags (r.pa / 8) ((r.pa + b.length + 7) / 8 - r.pa / 8) 0,
              replies := s1.replies ++ [.writeOk r.id] }

/-- Whether a peer's grant in a running partition, one that halts for a swap included (R298), covers n bytes from pa on (R348). -/
def State.peerGranted (s : State) (peer pa n : Nat) : Bool :=
  s.parts.any fun p => (p.cond == .running || p.cond == .halting) && p.cfg.peers.any fun g =>
    g.peer == peer && decide (g.base ≤ pa) && decide (pa + n ≤ g.base + g.size)

/-- Whether the port that a requester comes by works: peers are routed to any port that does (R340, R342, R348). -/
def State.reachable (s : State) : Requester → Bool
  | .host p => s.portWorks p
  | .peer _ => (List.range 4).any s.portWorks

/-- A request of the host or of a peer (R342, R343, R348): one by a port that is mapped out reaches nothing; that of a frozen peer is
aborted, and one outside every grant freezes the peer; any other is served, or waits. The host's accesses to its own memory are
those to T3 addresses (R225). An address of the host outside both reaches nothing. -/
def State.cxlRequest (who : Requester) (pa n : Nat) (write : Option (List Byte)) (s : State) : State :=
  let r : Request := { id := s.nextId, who := who, pa := pa, size := n, write := write, since := s.cycle }
  let s1 : State := { s with nextId := s.nextId + 1 }
  let aborted := fun (t : State) => { t with replies := t.replies ++ [.abort r.id] }
  if n = 0 ∨ s.fw.inReset ∨ !s.reachable who then s
  else
    let go := if s1.requestWaits r then { s1 with requests := s1.requests ++ [r] } else s1.serve r
    match who with
    | .host _ =>
      if inT3 pa then (if pa + n ≤ 2 ^ 52 then s1.hostOwnAccess r else s)
      else if 2 ^ 39 < pa + n then s
      else go
    | .peer i =>
      if i ∈ s1.peersFrozen then aborted s1
      else if !s1.peerGranted i pa n then aborted { s1 with peersFrozen := insertNew s1.peersFrozen i }
      else go

/-- CXL_MEM_READ (R343). -/
def execCxlMemRead (who : Requester) (pa size : Nat) (s : State) : Res := .next (s.cxlRequest who pa size none)

/-- CXL_MEM_WRITE (R245, R343). -/
def execCxlMemWrite (who : Requester) (pa : Nat) (bytes : List Byte) (s : State) : Res :=
  .next (s.cxlRequest who pa bytes.length (some bytes))

/-- COMPLETION_TIMEOUT (R343): a request that has waited 1,300,000 cycles is answered as poisoned or refused, and is never
performed afterwards. -/
def execCompletionTimeout (request : Nat) (s : State) : Res :=
  match s.requests.find? (fun r => r.id == request && decide (r.since + 1300000 ≤ s.cycle)) with
  | some r =>
    .next { s with requests := s.requests.filter (fun q => q.id != r.id),
                   replies := s.replies ++ [if r.write.isSome then .writeRefused r.id else .poisoned r.id] }
  | none => .next s

/-- HOST_SNOOP (R318): a T3 half that the host takes away: any L1 copy of the line is recalled, the half is written back where it is dirty,
and becomes absent. The other half is unaffected. -/
def execHostSnoop (pa : Nat) (s : State) : Res :=
  if inT3 pa then .next (s.snoopAway (pa / 64 * 64) 64) else .next s

end Sys2Proof.Machine
end

