-- ==== Sys2Proof/Machine/Operands.lean ====
section
/-! DEFINITION. Operand forms: immediates, displacements and branch targets (R52, R65, R76, R81, R86 to R88). -/

namespace Sys2Proof.Machine

/-- An immediate sign-extended to 64 bits (R52). -/
def simm {n : Nat} (i : BitVec n) : X := i.signExtend 64

/-- An immediate zero-extended to 64 bits. -/
def zimm {n : Nat} (i : BitVec n) : X := i.setWidth 64

/-- The target of a branch or jump at pc: pc + 4 × the sign-extended offset (R52). -/
def branchTarget {n : Nat} (pc : X) (off : BitVec n) : X := pc + 4 * simm off

/-- The address of a scalar access of 2^l bytes: x[a] + sext(disp8) × size (R81). -/
def scalarAddr (base : X) (disp : BitVec 8) (l : Nat) : X := base + simm disp * xOf (2 ^ l)

/-- a < b as int64. -/
def ltS (a b : X) : Bool := decide (a.toInt < b.toInt)

/-- a < b as n64. -/
def ltN (a b : X) : Bool := decide (a.toNat < b.toNat)

/-- 1 for true and 0 for false as a 64-bit value. -/
def xBool (b : Bool) : X := if b then 1 else 0

/-- An integer clamped to int64 (R75). -/
def clampX (i : Int) : X := BitVec.ofInt 64 (clampInt (-2 ^ 63) (2 ^ 63 - 1) i)

end Sys2Proof.Machine
end

