-- ==== Sys2Proof/Machine/Branch.lean ====
section
/-! DEFINITION. PFX (R58) and the branches and jumps of majors 0x10 to 0x18 (R86 to R88). -/

namespace Sys2Proof.Machine

/-- PFX: the prefix becomes pending for the next word (R8, R58). A prefix under a prefix traps (R62). It has no stall count
and takes one issue cycle, and no counter counts it as a completed instruction (event 0x03 of R21; DESIGN CHOICE, log entry 44). -/
def execPfx (k : BitVec 3) (p e : BitVec 1) (c : BitVec 2) (r : BitVec 5) (s : State) : Res :=
  runM (do
    let t ← get
    require (!t.me.hart.pv) 0x004 (xOf t.me.hart.word.toNat)
    let w : BitVec 32 := BitVec.ofNat 32 ((encodeNat (.pfx k p e c r)).getD 0)
    set (t.modHart fun h =>
      { h with pv := true, pword := w, es := 0, pc := h.pc + 4, readyAt := t.cycle + 1, overrides := [] })) s

/-- A conditional branch (R86): a taken branch delays the next issue to at least 2 cycles after it (R88). -/
def branchIf (st : BitVec 3) (a b : BitVec 5) (off : BitVec 13) (cond : X → X → Bool) (s : State) : Res :=
  runM (do
    if ← gate { st := st, srcs := [.x a, .x b] } then
      let t ← get
      if cond (t.rX a) (t.rX b) then done st 2 (branchTarget t.pc off) else done st 0 (t.pc + 4)
    else
      let t ← get
      done st 0 (t.pc + 4)) s

/-- beq (R86). -/
def execBeq (st : BitVec 3) (a b : BitVec 5) (i : BitVec 13) (s : State) : Res := branchIf st a b i (fun x y => x == y) s

/-- bne (R86). -/
def execBne (st : BitVec 3) (a b : BitVec 5) (i : BitVec 13) (s : State) : Res := branchIf st a b i (fun x y => x != y) s

/-- blt (R86). -/
def execBlt (st : BitVec 3) (a b : BitVec 5) (i : BitVec 13) (s : State) : Res := branchIf st a b i (fun x y => ltS x y) s

/-- bge (R86). -/
def execBge (st : BitVec 3) (a b : BitVec 5) (i : BitVec 13) (s : State) : Res := branchIf st a b i (fun x y => !ltS x y) s

/-- bltn (R86). -/
def execBltn (st : BitVec 3) (a b : BitVec 5) (i : BitVec 13) (s : State) : Res := branchIf st a b i (fun x y => ltN x y) s

/-- bgen (R86). -/
def execBgen (st : BitVec 3) (a b : BitVec 5) (i : BitVec 13) (s : State) : Res := branchIf st a b i (fun x y => !ltN x y) s

/-- A jump that writes its link (R87, R88): the target is computed, checked and then the link written. -/
def jumpLink (st : BitVec 3) (dst : Dst) (link : Option (BitVec 5)) (srcs : List Reg) (target : State → X) (s : State) : Res :=
  runM (do
    if ← gate { st := st, srcs := srcs, dst := dst } then
      let t ← get
      let npc := target t
      require (fieldOf npc 0 2 == 0) 0x0C1 npc
      match link with
      | some d => putX d (t.pc + 4) false 1 true
      | none => pure ()
      done st 2 npc
    else
      let t ← get
      done st 0 (t.pc + 4)) s

/-- j (R87). -/
def execJump (st : BitVec 3) (i : BitVec 18) (s : State) : Res :=
  jumpLink st .none none [] (fun t => branchTarget t.pc i) s

/-- jal (R87). -/
def execJal (st : BitVec 3) (l : BitVec 5) (i : BitVec 18) (s : State) : Res :=
  jumpLink st (.x l) (some l) [] (fun t => branchTarget t.pc i) s

/-- jalr (R88): a target with bits [1:0] nonzero traps and leaves x[d]. -/
def execJalr (st : BitVec 3) (d a : BitVec 5) (i : BitVec 13) (s : State) : Res :=
  jumpLink st (.x d) (some d) [.x a] (fun t => t.rX a + simm i) s

end Sys2Proof.Machine
end

