-- ==== Sys2Proof/Machine/Flags.lean ====
section
/-! DEFINITION. Exception flags and their traps (R37, R38). -/

namespace Sys2Proof.Machine

/-- The cause of the first flag of a set in the order NV, DZ, OF, UF, NX (R38, Table 6 of 02_number_formats). -/
def flagCause (f : Flags) : Nat :=
  if f.getLsbD 4 then 0x100 else if f.getLsbD 3 then 0x101 else if f.getLsbD 2 then 0x102
  else if f.getLsbD 1 then 0x103 else 0x104

/-- ORs flags into status.ff, and traps where one of them is enabled; the flags stay set (R38). -/
def raiseFlags (f : Flags) (tval : X) : M Unit := do
  modify (State.modHart (Hart.raise f))
  let s ← get
  require (f &&& s.me.hart.fen == 0) (flagCause (f &&& s.me.hart.fen)) tval

/-- The rounding mode of a scalar floating-point word: its override, or status.rm (R34, R79). -/
def State.mode (s : State) (o : BitVec 1) (m : BitVec 3) : Nat := if o = 1 then m.toNat else s.me.hart.rm

end Sys2Proof.Machine
end

