-- ==== Sys2Proof/Machine/Names.lean ====
section
/-! DEFINITION. Physical registers and their names (R249 to R254), and the Fife table (R255 to R260). -/

namespace Sys2Proof.Machine

/-- The bytes of a register image of G lane groups, in ascending offset order (R111, R250). -/
def imageBytes (g : Nat) (img : Img) : List Byte :=
  (List.range (16 * g)).flatMap fun w => leBytes 8 (img.extractLsb' (64 * w) 64).toNat

/-- Discards entries of the slot, least recently used first, until one of its 48 physical registers is free (R254). The 32 v registers
hold at most 32 of them, so that one is freed before the entries end, and no write waits. -/
def State.makeRoom : Nat → State → State
  | 0, s => s
  | n + 1, s =>
    if s.me.vec.pregs.length < 48 then s
    else
      match (s.fife.filter (fun e => e.inSlot s.me.core s.me.idx)).getLast? with
      | some e => State.makeRoom n (s.dropEntries (fun o => decide (o = e)))
      | none => s

/-- The lowest number below n that a list does not hold. -/
def lowestFree (l : List Nat) (n : Nat) : Nat := ((List.range n).find? (fun i => decide (i ∉ l))).getD 0

/-- v[d] mapped onto a live physical register, with its contents and its dirty bit (R17, R252, R258). -/
def State.mapV (d : BitVec 5) (id : Nat) (img : Img) (s : State) : State :=
  (s.modVec fun v =>
    { v with v := v.v.set d.toNat img, phys := v.phys.set d.toNat id, vdirty := v.vdirty ||| xOf (2 ^ d.toNat) }).freeRegs

/-- A complete new image written to v[d] (R251, R254): a physical register is free for it, and it is deduplicated onto a live named
register of equal contents (R252), or takes the free register with the lowest free variant of its CRC. -/
def State.wV (d : BitVec 5) (img : Img) (s : State) : State :=
  let crc := crc48 (imageBytes s.me.vec.grant img)
  let s1 := s.makeRoom 128
  let same := s1.me.vec.pregs.filter (fun p => (p.name.map (fun (q : BitVec 48 × Nat) => q.1)) == some crc)
  match same.find? (fun p => p.img == img) with
  | some p => (s1.mapV d p.id p.img).modHart (Hart.count 5 1)
  | none =>
    let id := lowestFree (s1.me.vec.pregs.map (fun p => p.id)) 48
    let taken := same.filterMap (fun p => p.name.map (fun (q : BitVec 48 × Nat) => q.2))
    let name := if taken.length < 4 then some (crc, lowestFree taken 4) else none
    (s1.modVec fun v => { v with pregs := v.pregs ++ [{ id := id, img := img, name := name }] }).mapV d id img

/-- A write of v[d] whose result has the given latency (R55, R56). -/
def State.wVat (d : BitVec 5) (img : Img) (lat : Nat) (fixed : Bool) (s : State) : State :=
  (s.inFlight (.v d) (s.cycle + lat) fixed).wV d img

/-- The name of v[n] as a key holds it (R256). -/
def Vec.regName (v : Vec) (n : BitVec 5) : Option (BitVec 48 × Nat) :=
  (v.pregs.find? (fun p => p.id == v.phys[n.toNat])).bind (fun p => p.name)

/-- What a reusable instruction puts into its key beside the state (R256): the operation, the v sources, vd where its prior
contents belong to the key, the x values with the immediate, and the mask. -/
structure ReuseReq where
  op : Nat
  srcs : List (BitVec 5)
  dst : BitVec 5
  readsDst : Bool
  xs : List X
  k : BitVec 3
  /-- a k register that it reads as a source -/
  ka : Option (BitVec 3) := none
  /-- its mask selects between its sources, so that every element that its predicate enables is processed (R140) -/
  selects : Bool := false
  /-- a load of which an active element is subject to the watermark check, which is neither looked up nor entered (R257) -/
  barred : Bool := false
deriving DecidableEq, Repr

/-- The streams bound to a register (R114). -/
def Vec.stream? (v : Vec) (n : BitVec 5) : Option Stream := v.streams.find? (fun b => b.reg == n)

/-- The key of an instruction, none where it is neither looked up nor entered (R256, R257): a hart in borrowed access has no entries in the
slot, and makes none there (R255, R261; log entry 21). The prior destination is left out only where the elements fill the register: at sew 2
with G above 8 they do not, and a hit is bit-identical (R258; DEDUCED, log entry 21). -/
def State.fifeKey (s : State) (q : ReuseReq) : Option FifeKey :=
  let h := s.me.hart
  let v := s.me.vec
  let names := q.srcs.map v.regName
  let plainWrite := !q.readsDst && q.k == 0 && !(h.pv && (h.predK != 0 || h.pword.getLsbD 22)) && v.vl.toNat == v.vlmaxe &&
    v.vlmaxe * v.width == v.grant * 1024
  let prior := if plainWrite then none else v.regName q.dst
  let priorOk := plainWrite || prior.isSome
  if s.owns && !q.barred && h.ru && !h.noReuse && names.all (fun n => n.isSome) && priorOk && h.es == 0 && !h.fm &&
      (q.dst :: q.srcs).all (fun n => (v.stream? n).isNone) && h.overrides.isEmpty then
    some { op := q.op, srcs := names.filterMap id, prior := prior, xs := q.xs, vl := v.vl,
           vtype := v.vtype.toNat, mask := (q.k.toNat, v.kgen[q.k.toNat]),
           ksrc := q.ka.map (fun n => (n.toNat, v.kgen[n.toNat])),
           pred := if h.pv then some (h.predK.toNat, h.pword.getLsbD 22, v.kgen[h.predK.toNat]) else none, rm := h.rm }
  else none

/-- The entry that an instruction hits: one with its key whose recorded flags are all disabled (R39, R255). -/
def State.fifeHit (s : State) (q : ReuseReq) : Option FifeEntry :=
  (s.fifeKey q).bind fun key =>
    s.fife.find? (fun e => e.inSlot s.me.core s.me.idx && decide (e.key = key) && (e.flags &&& s.me.hart.fen) == 0)

/-- A hit (R258): the destination and its copy are mapped onto the entry's result, its flags are raised, and the entry
becomes the most recently used. -/
def State.useEntry (e : FifeEntry) (d : BitVec 5) (copy : Option (BitVec 5)) (lat : Nat) (fixed : Bool) (s : State) : State :=
  let img := ((s.me.vec.pregs.find? (fun p => p.id == e.result)).map (fun p => p.img)).getD 0
  let s1 : State := { s with fife := e :: s.fife.filter (fun o => o ≠ e) }
  let s2 := (s1.inFlight (.v d) (s.cycle + (if fixed then lat else 2)) fixed).mapV d e.result img
  let s3 := match copy with
    | some c => if c = d then s2 else (s2.inFlight (.v c) (s.cycle + (if fixed then lat else 2)) fixed).mapV c e.result img
    | none => s2
  s3.modHart fun h => (h.raise e.flags).count 4 1

/-- An entry made by an execution (R255, R257): the table holds 128 entries for each core and loses the least recently
used. An unnamed result makes no entry, and neither does a key with the name of a register that is freed by then. -/
def State.addEntry (key : FifeKey) (d : BitVec 5) (flags : BitVec 5) (load : Option LoadRecord) (s : State) : State :=
  if (s.me.vec.regName d).isNone then s
  else
    let e : FifeEntry :=
      { core := s.me.core, slot := s.me.idx, key := key, result := s.me.vec.phys[d.toNat], flags := flags, load := load }
    let mine := s.fife.filter (fun o => o.core == s.me.core && decide (o.key ≠ key ∨ o.slot ≠ s.me.idx))
    let rest := s.fife.filter (fun o => o.core != s.me.core)
    let live := s.me.vec.pregs.filterMap (fun p => p.name)
    if (key.srcs ++ key.prior.toList).all (fun q => decide (q ∈ live)) then
      ({ s with fife := e :: mine.take 127 ++ rest } : State).freeAllRegs
    else s

end Sys2Proof.Machine
end

