-- ==== Sys2Proof/Machine/Vec.lean ====
section
/-! DEFINITION. What every vector instruction shares (R101, R122): the element map (R25), active elements (R5, R19, R59), strip
reads of stream-bound sources (R116, R117), element-wise and whole-destination execution with their traps (R38), writes with
their PFX copy (R60, R251), reuse (R255 to R258) and completion (R7, R19, R370). -/

namespace Sys2Proof.Machine

/-! ### Elements of a register -/

/-- The bit position of element i of width w among g lane groups, in the layout of R111 (R25). -/
def elemPos (g w i : Nat) : Nat := 64 * (i % (16 * g)) + w * (i / (16 * g))

/-- Element i of width w of an image. -/
def getElem (g w : Nat) (img : Img) (i : Nat) : Nat := fieldOf img (elemPos g w i) w

/-- An image with elements replaced. -/
def setElems (g w : Nat) (l : List (Nat × Nat)) (img : Img) : Img :=
  l.foldl (fun m e => setField m (elemPos g w e.1) w e.2) img

/-- A mask with bits replaced. -/
def setBits (l : List (Nat × Nat)) (m : Mask) : Mask := l.foldl (fun m e => setField m e.1 1 e.2) m

/-- The sew code of a width. -/
def sewOf (w : Nat) : BitVec 3 :=
  match w with
  | 2 => 0
  | 4 => 1
  | 8 => 2
  | 16 => 3
  | 32 => 4
  | _ => 5

/-- The block length of the configuration; 0 for unblocked (R40). -/
def Vec.block (v : Vec) : Nat := blockLen v.bl.toNat

/-! ### Active elements -/

/-- Whether element i is active by the mask and the predicate (R5, R59). -/
def State.masked (s : State) (k : BitVec 3) (i : Nat) : Bool := (s.rK k).getLsbD i && s.pred i

/-- Whether kf lets element i be processed (R19). -/
def State.kfOk (s : State) (i : Nat) : Bool := !s.me.hart.fm || s.me.vec.kf.getLsbD i

/-- The active elements from `lo` to vl − 1, in ascending order (R101, R122). -/
def State.actives (s : State) (k : BitVec 3) (lo : Nat) : List Nat :=
  ((List.range s.me.vec.vl.toNat).drop lo).filter fun i => s.masked k i && s.kfOk i

/-- The elements from `lo` to vl − 1 that the mask and the predicate enable, whatever kf holds (R118, R139, R140). -/
def State.enabled (s : State) (k : BitVec 3) (lo : Nat) : List Nat :=
  ((List.range s.me.vec.vl.toNat).drop lo).filter (s.masked k)

/-- es of the hart in focus. -/
def State.es (s : State) : Nat := s.me.hart.es.toNat

/-- Sets es of the position of the instruction under way (R7). -/
def setEs (i : Nat) : M Unit := modify (State.modHart fun h => { h with es := BitVec.ofNat 18 i })

/-! ### Watermarks (R214) -/

/-- The watermarks of the hart's partition whose range an access to n bytes meets. -/
def State.marksOn (s : State) (va : X) (n : Nat) : List Watermark :=
  let held := ((s.part? s.pid).map (fun p => p.cfg.watermarks)).getD []
  s.watermarks.filter fun k =>
    k.pid == s.pid && decide (k.n ∈ held) && decide (va.toNat < k.base.toNat + k.elems.toNat * 2 ^ k.esz.toNat) &&
      decide (k.base.toNat < va.toNat + n)

/-- The count that an element's access to n bytes waits for (R214). -/
def Watermark.need (k : Watermark) (va : X) (n : Nat) : Nat :=
  (va.toNat + n - k.base.toNat + 2 ^ k.esz.toNat - 1) / 2 ^ k.esz.toNat

/-- An element's access waits while a watermark has not passed it (R214). -/
def awaitMarks (va : X) (n : Nat) : M Unit := do
  let s ← get
  match (s.marksOn va n).find? (fun k => decide (k.count.toNat < k.need va n)) with
  | some k => throw (.wait (.watermark k.n (k.need va n)))
  | none => pure ()

/-! ### Reads of data by the vector unit -/

/-- A read of n bytes at a translated address under a hint (R101, R102). -/
def readVec (p : Phys) (va : X) (n hint : Nat) : M Nat := do
  let (v, _) ← liftRead (fun t => onOk (fun u => u.touchHome p n false hint u.hartAgent) (t.readRaw p va n t.hartAgent))
  pure v

/-! ### Strips (R116, R117) -/

/-- The block length of a binding; 0 for unblocked. -/
def Stream.block (b : Stream) : Nat := blockLen (fieldOf b.ctl 5 2)

/-- dec of a binding. -/
def Stream.dec (b : Stream) : Bool := bitAt b.ctl 7

/-- The address of strip element i. -/
def Stream.addr (b : Stream) (i : Nat) : X := b.data + xOf (i * b.width / 8)

/-- n bytes of a stream at an address in memory. The instruction whose element it is counts the elements left of it (R284). An element
that a watermark covers acquires, whether it waited or not (R214, R244). -/
def streamRead (b : Stream) (va : X) (n : Nat) : M Nat := do
  let s ← get
  let p ← access .vload va (xOf b.bytes) 1
  awaitMarks va n
  let v ← readVec p va n (fieldOf b.ctl 8 2)
  if !(s.marksOn va n).isEmpty then modify State.acquire
  pure v

/-- The bytes of the strip element at an address: those that read-ahead has captured, or those of memory. -/
def stripRead (b : Stream) (va : X) : M Nat :=
  let got := (List.range b.bytes).filterMap fun j => (b.ahead.find? (fun c => c.1 == (va + xOf j).toNat)).map (·.2)
  if got.length = b.bytes then pure (leNat got) else streamRead b va b.bytes

/-- The stored code of strip element j (R32). -/
def stripCode (b : Stream) (j : Nat) : M Nat := do
  let raw ← stripRead b (b.addr j)
  pure (if b.width < 8 then raw / 2 ^ (j * b.width % 8) % 2 ^ b.width else raw)

/-- Whether no element of the block from j on, n of them, holds the marker: none of them comes before (R42). -/
def noMarker (b : Stream) : Nat → Nat → M Bool
  | _, 0 => pure true
  | j, n + 1 => do
    let c ← stripCode b j
    if c = 8 then pure false else noMarker b (j + 1) n

/-- Strip element i as its consumer sees it: the stored code, or its binary32 value (R116). -/
def stripElem (b : Stream) (i : Nat) : M (Nat × Flags) := do
  let raw ← stripCode b i
  if !b.dec then pure (raw, 0)
  else
    let h ← streamRead b (b.scale + xOf (4 * (i / b.block))) 4
    let first ← if b.stype = 16 ∧ raw = 8 then noMarker b (i / b.block * b.block) (i % b.block) else pure false
    let s ← get
    let (v, fl) := narrowValue b.stype raw (some h) first
    let (r, g) := Fmt.f32.ofFV s.me.hart.rm false v
    pure (r, fl ||| g)

/-- The trap of a bound source before its strip is read (R116): 0x187 where it is exhausted, then 0x183 where its width does not suit the
consumer's sew. -/
def Vec.stripTrap (v : Vec) (n : BitVec 5) : Option (Nat × X) :=
  match v.stream? n with
  | none => none
  | some b =>
    if b.bounded && b.count == 0 then some (0x187, xOf n.toNat)
    else if (if b.dec then v.width == 32 && v.vl.toNat % b.block == 0 else v.width == b.width) then none
    else some (0x183, 0)

/-- The first such trap of several sources, in field order. -/
def Vec.stripsTrap (v : Vec) (l : List (BitVec 5)) : Option (Nat × X) := (l.filterMap v.stripTrap).head?

/-- A binding after the completion of a consumer of vl elements (R116); what was read ahead of the strip is used up. A binding
without a scale stream keeps none (log entry 18), and the data address of a packed stream moves by the whole bytes of the strip (DESIGN CHOICE,
log entry 67). -/
def Stream.next (vl : Nat) (b : Stream) : Stream :=
  let used := vl * b.width / 8
  let lo := b.data.toNat
  let base : Stream := b.keepFrom lo used
  { base with data := b.data + xOf used,
              scale := if b.scale = 0 ∨ b.block = 0 then b.scale else b.scale + xOf (4 * (vl / b.block)),
              count := if b.bounded then b.count - 1 else b.count }

/-- The bound sources of a completed consumer move on by one strip, each once, which writes their bindings (R17, R116). -/
def State.nextStrips (vl : Nat) (srcs : List (BitVec 5)) (s : State) : State :=
  if s.me.vec.streams.any (fun b => decide (b.reg ∈ srcs)) then
    s.modVec fun v => { v with streams := v.streams.map (fun b => if b.reg ∈ srcs then b.next vl else b),
                               vdirty := v.vdirty ||| xOf (2 ^ 44) }
  else s

/-- Element i of width w of v source n: of the register, or of the strip that it is bound to (R116), of whose element a source narrower than it
takes the low bits (DESIGN CHOICE, log entry 67). -/
def srcElem (n : BitVec 5) (w i : Nat) : M (Nat × Flags) := do
  let s ← get
  match s.me.vec.stream? n with
  | some b =>
    let (v, fl) ← stripElem b i
    pure (v % 2 ^ w, fl)
  | none => pure (getElem s.me.vec.grant w (s.rV n) i, 0)

/-! ### Writes of registers -/

/-- The v register that a PFX copy adds to destination d (R60). -/
def State.copyV (s : State) (d : BitVec 5) : Option (BitVec 5) :=
  match s.me.hart.copyReg with
  | some (1, c) => if c = d then none else some c
  | _ => none

/-- Elements of width w written to v[d] and to its copy, each keeping its own others (R60, R251). Each of the two counts as a write of its own
where it is deduplicated (R21, R252; DESIGN CHOICE, log entry 65). -/
def putElems (d : BitVec 5) (w : Nat) (l : List (Nat × Nat)) (lat : Nat) (fixed : Bool) : M Unit :=
  modify fun s =>
    let g := s.me.vec.grant
    let t := s.wVat d (setElems g w l s.me.vec.v[d.toNat]) lat fixed
    match s.copyV d with
    | some c => t.wVat c (setElems g w l s.me.vec.v[c.toNat]) lat fixed
    | none => t

/-- Bits written to k[d] and to its copy, each keeping its own others (R60, R138). -/
def putBits (d : BitVec 3) (l : List (Nat × Nat)) (lat : Nat) (fixed : Bool) : M Unit :=
  modify fun s =>
    let t := s.wKat d (setBits l s.me.vec.k[d.toNat]) lat fixed
    match s.me.hart.copyReg with
    | some (2, c) =>
      let c3 : BitVec 3 := c.setWidth 3
      if c3 = d then t else t.wKat c3 (setBits l s.me.vec.k[c3.toNat]) lat fixed
    | _ => t

/-- Traps where one of the registers, or the v register of a PFX copy, is bound to a stream (R116, R122). -/
def checkBound (writes : List (BitVec 5)) : M Unit := do
  let s ← get
  let all := writes ++ (match s.me.hart.copyReg with | some (1, c) => [c] | _ => [])
  match all.find? (fun n => (s.me.vec.stream? n).isSome) with
  | some n => trap 0x185 (xOf n.toNat)
  | none => pure ()

/-! ### The frame of a vector instruction -/

/-- What the frame of a vector instruction looks at. -/
structure VReq where
  st : BitVec 3
  /-- the mask register -/
  k : BitVec 3 := 0
  /-- v sources, in field order -/
  vs : List (BitVec 5) := []
  /-- the other registers that it reads -/
  rs : List Reg := []
  dst : Dst := .none
  /-- the v registers that it writes -/
  writes : List (BitVec 5) := []
  /-- its width, class and register checks hold: cause 0x183 -/
  shape : Bool := true
  /-- it reads or writes a v register (R24) -/
  grant : Bool := true
  /-- it is one of the kinds of R19 -/
  kf : Bool := true
  /-- it processes no elements, or ignores es (R370) -/
  anyEs : Bool := false
  noPred : Bool := false
  /-- v registers that it reads in elements of another width than SEW (R25, R57) -/
  wid : List (BitVec 5 × Nat) := []
deriving DecidableEq, Repr

/-- kf and status.fm cleared at the completion of an instruction of R19's kinds. -/
def State.clearKf (s : State) : State :=
  if s.me.hart.fm then
    (s.modHart (Hart.setStatus 24 1 0)).modVec fun v => { v with kf := 0, vdirty := v.vdirty ||| xOf (2 ^ 44) }
  else s

/-- A vector instruction: its checks (R285), those of its bound sources among them and then that of a bound destination (R116), its body
where it has elements to process (R370): one that finds es at or above vl consumes no strip and takes no trap of its bound sources, and
still traps on a bound destination (DEDUCED, log entry 57); the advance of its strips (R116), the end of a fault mask (R19) and its completion (R7). One that the
prefix makes a no-op only completes (R59). -/
def runVector (q : VReq) (body : M Unit) (s : State) : Res :=
  runM (do
    if ← gate { st := q.st, srcs := q.vs.map .v ++ q.rs ++ [.k q.k], dst := q.dst, first := true, grant := q.grant,
                cfg := true, shape := q.shape, scalar := false, noPred := q.noPred, wid := q.wid,
                strips := if q.anyEs || decide (s.es < s.me.vec.vl.toNat) then s.me.vec.stripsTrap q.vs else none } then
      let t ← get
      let busy := q.anyEs || decide (t.es < t.me.vec.vl.toNat)
      checkBound q.writes
      if busy then
        body
        modify (State.nextStrips t.me.vec.vl.toNat q.vs)
      if q.kf then modify State.clearKf
      done q.st 0 (t.pc + 4)
    else
      let t ← get
      done q.st 0 (t.pc + 4)) s

/-! ### Interruption inside an instruction (R287) -/

/-- Whether a stop is the fault of an access: above the element of it a store may be performed (R105, R247). A flag trap (R38) and a
wait are none. -/
def Stop.isFault (r : Stop) : Bool :=
  match r with
  | .trap t => t.code / 64 != 4
  | _ => false

/-! ### Element-wise execution (R38, R122) -/

/-- A meaning observed: how it ended, the state being what it left. -/
def observe {α : Type} (m : M α) : M (Except Stop α) := fun s =>
  match m s with
  | (r, t) => (.ok r, t)

/-- Where a run over elements ended: the element, and why. -/
abbrev ElemStop := Option (Nat × Stop)

/-- The elements of a list, in order, each computed by f: the results below the first element that stops, the flags raised, and
that stop. An element whose enabled flag traps has set its flags and is not written (R38). -/
def elemRun (f : Nat → M (Nat × Flags)) : List Nat → M (List (Nat × Nat) × Flags × ElemStop)
  | [] => pure ([], 0, none)
  | i :: rest => do
    match ← observe (f i) with
    | .error e => pure ([], 0, some (i, e))
    | .ok (v, fl) =>
      modify (State.modHart (Hart.raise fl))
      let s ← get
      let bad := fl &&& s.me.hart.fen
      if bad ≠ 0 then pure ([], fl, some (i, .trap { code := flagCause bad, tval := xOf i }))
      else
        let (l, g, e) ← elemRun f rest
        pure ((i, v) :: l, fl ||| g, e)

/-- A trap of an access with the count of the elements left that a class 0x2 frame records (R284). -/
def Trap.left (n : Nat) (t : Trap) : Trap :=
  if t.code / 64 = 2 then { t with info1 := xOf (n % 2 ^ 32 * 2 ^ 32 + t.info1.toNat % 2 ^ 32) } else t

/-- A stop with that count in the trap that it is, if it is one. -/
def Stop.left (n : Nat) (r : Stop) : Stop :=
  match r with
  | .trap t => .trap (t.left n)
  | r => r

/-- A meaning whose waits for banks are over before an asynchronous trap, a switch-out or a swap halt is taken (R287). -/
def firmly {α : Type} (m : M α) : M α := fun s =>
  match m s with
  | (.error (.wait (.bank pa _)), t) => (.error (.wait (.bank pa true)), t)
  | r => r

/-- The end of an element-wise instruction: its results are written; a trap leaves its element as es, with the elements below
written, and so does a wait for the bank of a strip (R169), without results in flight, which is over before the instruction is interrupted (R287); an
instruction that is not ready for another reason is issued again from where it stood (log entry 19). -/
def endElems (s0 : State) (put : List (Nat × Nat) → M Unit) (l : List (Nat × Nat)) (e : ElemStop) : M Unit :=
  match e with
  | none => put l
  | some (i, .trap t) => do
    if l ≠ [] then put l
    modify (State.modHart (Hart.count 6 l.length))
    setEs i
    throw (.trap (t.left (s0.me.vec.vl.toNat - i)))
  | some (i, .wait (.bank pa _)) => do
    if l ≠ [] then put l
    modify (State.modHart fun h => { h.count 6 l.length with pend := s0.me.hart.pend })
    setEs i
    throw (.wait (.bank pa true))
  | some (_, r) => do
    modify (State.modHart fun h => { h with status := s0.me.hart.status })
    throw r

/-- An element-wise computation over the active elements: the flags that it raised. -/
def elementwise (els : List Nat) (f : Nat → M (Nat × Flags)) (put : List (Nat × Nat) → M Unit) : M Flags := do
  let s0 ← get
  let (l, fl, e) ← elemRun f els
  endElems s0 put l e
  modify (State.modHart (Hart.count 6 els.length))
  pure fl

/-! ### Whole-destination execution (R38) -/

/-- A trap of a whole-destination instruction leaves es at 0, so that the frame of an access of its strips counts vl elements left (R284); one
that is not ready is issued again from the start, with the flags already raised set (R287). -/
def wholeDest {α : Type} (m : M α) : M α := do
  let s0 ← get
  match ← observe m with
  | .ok a => pure a
  | .error (.trap t) => do
    setEs 0
    throw (.trap (t.left s0.me.vec.vl.toNat))
  | .error r => throw r

/-- A whole-destination instruction of majors 0x25 to 0x2E (R38, R287): an interruption abandons it, with its destination unchanged
and the flags already raised still set, and it is executed again. -/
def wholeVector {α : Type} (m : M α) : M α := do
  let s0 ← get
  let a ← wholeDest m
  match ← observe (trapPoint 0) with
  | .ok _ => pure a
  | .error r => do
    modify fun t =>
      let u : State := { t with me := s0.me, others := s0.others, fife := s0.fife }
      u.modHart fun h => { h with status := t.me.hart.status, es := 0 }
    throw r

/-- A source element of a whole-destination instruction: the flags of its decoding trap with tval 0 (R116). -/
def srcWhole (n : BitVec 5) (w i : Nat) : M Nat := do
  let (v, fl) ← srcElem n w i
  raiseFlags fl 0
  pure v

/-- Several source elements with their indices. -/
def srcList (n : BitVec 5) (w : Nat) : List Nat → M (List (Nat × Nat))
  | [] => pure []
  | i :: rest => do
    let v ← srcWhole n w i
    let l ← srcList n w rest
    pure ((i, v) :: l)

/-- The source elements of a list as an instruction that reads them whatever its mask and es finds them: each with the flags of its
decoding, or the trap of its read. Neither is taken here: that of element i belongs to the operation of element i, if it is active
(R37, R38, R116). -/
def srcAll (n : BitVec 5) (w : Nat) : List Nat → M (List (Except Trap (Nat × Flags)))
  | [] => pure []
  | i :: rest => do
    let r ← (do
      match ← observe (srcElem n w i) with
      | .ok x => pure (.ok x)
      | .error (.trap t) => pure (.error t)
      | .error e => throw e)
    let l ← srcAll n w rest
    pure (r :: l)

/-- Element i of what `srcAll` found; 0 beyond its end. -/
def pickSrc (l : List (Except Trap (Nat × Flags))) (i : Nat) : M (Nat × Flags) :=
  match l.getD i (.ok (0, 0)) with
  | .ok x => pure x
  | .error t => throw (.trap t)

/-- The flags of the decoding of element i of several sources; the trap of its read in any of them is taken (R38, R116). -/
def ownFlags (i : Nat) : List (List (Except Trap (Nat × Flags))) → M Flags
  | [] => pure 0
  | l :: rest => do
    let (_, fl) ← pickSrc l i
    let g ← ownFlags i rest
    pure (fl ||| g)

/-! ### Reuse (R255 to R258) -/

/-- Whether a hit may serve a PFX copy: the copy keeps its own other elements (R60), so a write that is not of a whole register
serves it only where both registers hold the same contents (R262; log entry 21). -/
def State.copyFits (s : State) (q : ReuseReq) : Bool :=
  match s.copyV q.dst with
  | none => true
  | some c => ((s.fifeKey q).map (fun k => k.prior.isNone)).getD true ||
      s.me.vec.phys[c.toNat] == s.me.vec.phys[q.dst.toNat]

/-- A reusable instruction: on a hit it takes the recorded result, and the elements that it would process count as processed, since reuse is visible in no
event but 0x04 and 0x05 (R262; DESIGN CHOICE, log entry 44); otherwise it runs, and makes an entry. `run` answers the
flags that it raised, with the load record of a load, or none where it makes no entry. -/
def reusable (q : ReuseReq) (lat : Nat) (fixed : Bool) (run : M (Option (Flags × Option LoadRecord))) : M Unit := do
  let s ← get
  match if s.copyFits q then s.fifeHit q else none with
  | some e => set ((s.useEntry e q.dst (s.copyV q.dst) lat fixed).modHart (Hart.count 6 (s.actives (if q.selects then 0 else q.k) 0).length))
  | none =>
    match s.fifeKey q, ← run with
    | some key, some (fl, load) => modify (State.addEntry key q.dst fl load)
    | _, _ => pure ()

end Sys2Proof.Machine
end

