-- ==== Sys2Proof/Machine/Dawn.lean ====
section
/-! DEFINITION. The Dawn array, major 0x38 (R186 to R198). -/

namespace Sys2Proof.Machine

/-! ### The frame of a Dawn instruction -/

/-- The other slot of the core whose vector state holds the array (R188). -/
def State.dawnElsewhere (s : State) : Option Slot :=
  (s.others ++ s.images).find? (fun o => o.core == s.me.core && o.vec.dawnHeld)

/-- What distinguishes the frame of a Dawn instruction. -/
structure DawnReq where
  st : BitVec 3
  srcs : List Reg := []
  /-- it names a v register (R189) -/
  vec : Bool := true
  /-- the width that it needs, 0 for any -/
  width : Nat := 0
  /-- its v source, where it has one -/
  vs : List (BitVec 5) := []
  /-- its v destination -/
  dst : Option (BitVec 5) := none
  /-- the cycles after which what it writes to the array is ready (R191, R197) -/
  ready : Nat := 0

/-- The array state changed, which sets vdirty.cfg (R17, R187). -/
def setDawn (f : Dawn → Dawn) : M Unit :=
  modify (State.modVec fun v => { v with dawn := f v.dawn, vdirty := v.vdirty ||| xOf (2 ^ 44) })

/-- A Dawn instruction: the wait for a race in flight and for the array, in borrowed access too (R189, R295), its checks (R189, in the order of R285), its body, the end of a fault mask
(R19) and its completion. From its first instruction of the major on, the hart holds the array (R188). -/
def runDawn (q : DawnReq) (body : M Unit) (s : State) : Res :=
  runM (do
    let v := s.me.vec
    let race := v.raceEnd.getD 0
    if !s.vecDenied && decide (s.cycle < race) then throw (.unit race)
    if !s.vecDenied && decide (s.cycle < v.dawnAt) then throw (.hold v.dawnAt)
    let _ ← gate { st := q.st, srcs := q.vs.map .v ++ q.srcs, pfxOk := false, first := true, grant := q.vec, cfg := q.vec,
                   shape := (q.width == 0 || v.width == q.width) && q.vs.all (fun n => (v.stream? n).isNone),
                   scalar := false }
    let t ← get
    match t.dawnElsewhere with
    | some o => trap 0x241 (xOf o.vec.owner.toNat)
    | none => pure ()
    checkBound q.dst.toList
    body
    modify (State.modVec fun v => { v with dawnHeld := true, dawnAt := t.cycle + q.ready })
    modify State.clearKf
    done q.st 0 (t.pc + 4)) s

/-! ### Configuration (R191) -/

/-- dwcfg. -/
def execDwcfg (st : BitVec 3) (a : BitVec 5) (s : State) : Res :=
  runDawn { st := st, srcs := [.x a], vec := false, ready := 2 } (do
    let t ← get
    let x := t.rX a
    require (decide (fieldOf x 0 4 ≤ 10) && fieldOf x 5 59 == 0) 0x242 x
    setDawn fun d => { d with gs := x.extractLsb' 0 4, mode := bitAt x 4 }) s

/-- dwrst. -/
def execDwrst (st : BitVec 3) (s : State) : Res :=
  runDawn { st := st, vec := false, ready := 2 } (setDawn fun d => { d with rdy := true }) s

/-- dwwin. -/
def execDwwin (st : BitVec 3) (a : BitVec 5) (s : State) : Res :=
  runDawn { st := st, srcs := [.x a], vec := false, ready := 2 } (do
    let t ← get
    let x := t.rX a
    require (decide (1 ≤ x.toNat) && decide (x.toNat ≤ 1023)) 0x242 x
    modify (State.modVec fun v => { v with dwin := x.extractLsb' 0 10, vdirty := v.vdirty ||| xOf (2 ^ 44) })) s

/-! ### Races (R192, R193) -/

/-- The sum of a value and a delay under a window (R186). -/
def dawnSum (win a d : Nat) : Nat := if 1023 ≤ a ∨ win ≤ a + d then 1023 else a + d

/-- The cycles of a race (R193). -/
def raceCycles (win : Nat) : Nat := (win + 7) / 8 + 16

/-- A lane and its tick put into a list that is ordered by tick, behind those of the same tick. -/
def insertTick (x : Nat × Nat) : List (Nat × Nat) → List (Nat × Nat)
  | [] => [x]
  | y :: rest => if x.2 < y.2 then x :: y :: rest else y :: insertTick x rest

/-- The lanes that arrive, in order of tick and then of lane (R192). -/
def arrivals (ticks : List Nat) : List (Nat × Nat) :=
  (ticks.zipIdx.filter (fun e => decide (e.1 < 1023))).foldl (fun l e => insertTick (e.2, e.1) l) []

/-- A capture entry (Table 2 of 09_dawn_instructions). -/
def captureEntry (e : Option (Nat × Nat)) : BitVec 32 :=
  match e with
  | some (lane, tick) => BitVec.ofNat 32 (lane % 1024 * 2 ^ 16 + tick % 1024)
  | none => 0x800003FF

/-- The result of a group: its minimum, or its maximum in mode 1 (R192). -/
def groupResult (mode : Bool) (g : List Nat) : Nat := if mode then g.foldl max 0 else g.foldl min 1023

/-- The array after a race over 1,024 lanes with the given ticks (R192). -/
def Dawn.race (ticks : List Nat) (d : Dawn) : Dawn :=
  let size := 2 ^ d.gs.toNat
  let arr := arrivals ticks
  { d with r := vecGen 1024 fun j =>
             if j < 1024 / size then BitVec.ofNat 10 (groupResult d.mode ((ticks.drop (j * size)).take size)) else 1023,
           c := vecGen 64 fun n => captureEntry arr[n]?,
           rdy := false }

/-- A race starts: the array is occupied until its end (R193). -/
def startRace (win : Nat) : M Unit :=
  modify fun s => s.modVec fun v => { v with raceEnd := some (s.cycle + raceCycles win) }

/-- The ticks of the 1,024 lanes: the active elements of va with the delays of vb, where present (R192). -/
def State.laneTicks (s : State) (delays : Bool) (a b : BitVec 5) (k : BitVec 3) : List Nat :=
  let g := s.me.vec.grant
  let win := s.me.vec.dwin.toNat
  let va := s.rV a
  let vb := s.rV b
  (List.range 1024).map fun l =>
    if decide (l < s.me.vec.vl.toNat) && s.masked k l && s.kfOk l then
      dawnSum win (getElem g 16 va l) (if delays then getElem g 16 vb l else 0)
    else 1023

/-- The launch of dwlaunch (R192). -/
def launch (delays : Bool) (a b : BitVec 5) (k : BitVec 3) : M Unit := do
  let t ← get
  require t.me.vec.dawn.rdy 0x240
  setDawn (Dawn.race (t.laneTicks delays a b k))
  startRace t.me.vec.dwin.toNat

/-- The frame of dwlaunch and dwlaunch.at. -/
def launchReq (st : BitVec 3) (e : BitVec 1) (a b : BitVec 5) (k : BitVec 3) (timed : Bool) : DawnReq :=
  { st := st, srcs := .k k :: (if timed then [.x 28] else []), width := 16, vs := if e = 1 then [a, b] else [a] }

/-- dwlaunch (R192). -/
def execDwlaunch (st : BitVec 3) (e : BitVec 1) (a b : BitVec 5) (k : BitVec 3) (s : State) : Res :=
  runDawn (launchReq st e a b k false) (launch (decide (e = 1)) a b k) s

/-- Whether debug freeze is set for the partition of the hart in focus (R292). -/
def State.frozen (s : State) : Bool := (s.part? s.pid).any (·.frozen)

/-- dwlaunch.at (R194): it waits until mtime reaches x28, and while its partition is frozen (R280, R292). -/
def execDwlaunchAt (st : BitVec 3) (e : BitVec 1) (a b : BitVec 5) (k : BitVec 3) (s : State) : Res :=
  runDawn (launchReq st e a b k true) (do
    let t ← get
    require t.me.vec.dawn.rdy 0x240
    if t.cycle < (t.rX 28).toNat || t.frozen then throw (.wait (.race (t.rX 28)))
    launch (decide (e = 1)) a b k) s

/-- RACE_BEGIN (R194): the race of a waiting dwlaunch.at begins, and the instruction completes. -/
def execRaceBegin (core slot : Nat) (s : State) : Res :=
  let s1 := s.focus core slot
  let w := s1.me.hart.word
  match s1.me.live, s1.me.hart.wait with
  | true, some (.race t) =>
    if t.toNat ≤ s1.cycle ∧ s1.me.vec.raceEnd.isNone ∧ s1.frozen = false then
      runDawn (launchReq (w.extractLsb' 23 3) (w.extractLsb' 18 1) (w.extractLsb' 13 5) (w.extractLsb' 8 5) (w.extractLsb' 5 3) false)
        (launch (bitAt w 18) (w.extractLsb' 13 5) (w.extractLsb' 8 5) (w.extractLsb' 5 3))
        (s1.modHart fun h => { h with wait := none })
    else .next s
  | _, _ => .next s

/-- RACE_END (R193): a race ends, and counts for the hart that owns the slot (R21). -/
def execRaceEnd (core slot : Nat) (s : State) : Res :=
  let s1 := s.focus core slot
  match s1.me.vec.raceEnd with
  | some c =>
    if c ≤ s1.cycle then .next ((s1.modVec fun v => { v with raceEnd := none }).modHart (Hart.count 9 1)) else .next s
  | none => .next s

/-! ### The crossbar (R195) -/

/-- Output j of the crossbar. -/
def Dawn.output (d : Dawn) (isMax : Bool) (win : Nat) (ins : List Nat) (j : Nat) : Nat :=
  let terms := ins.zipIdx.filterMap fun e =>
    let w := (d.w.toList.getD (32 * e.2 + j) 63).toNat
    if w = 63 then none else some (dawnSum win e.1 w)
  if terms = [] then 1023 else groupResult isMax terms

/-- dwmp.min and dwmp.max. vd is ready when the race ends (DESIGN CHOICE, log entry 69). -/
def dwmpOp (isMax : Bool) (st : BitVec 3) (d a : BitVec 5) (k : BitVec 3) (s : State) : Res :=
  runDawn { st := st, srcs := [.k k], width := 16, vs := [a], dst := some d } (do
    let t ← get
    require t.me.vec.dawn.rdy 0x240
    let win := t.me.vec.dwin.toNat
    let g := t.me.vec.grant
    let on := fun (i : Nat) => decide (i < t.me.vec.vl.toNat) && t.masked k i && t.kfOk i
    let va := t.rV a
    let ins := (List.range 32).map fun i => if on i then min 1023 (getElem g 16 va i) else 1023
    putElems d 16 (((List.range 32).filter on).map fun j => (j, t.me.vec.dawn.output isMax win ins j)) (raceCycles win) false
    setDawn fun x => { x with rdy := false }
    startRace win) s

/-- dwmp.min. -/
def execDwmpMin (st : BitVec 3) (d a : BitVec 5) (k : BitVec 3) (s : State) : Res := dwmpOp false st d a k s

/-- dwmp.max. -/
def execDwmpMax (st : BitVec 3) (d a : BitVec 5) (k : BitVec 3) (s : State) : Res := dwmpOp true st d a k s

/-! ### Reading and loading the state (R196, R197) -/

/-- The active elements below min(vl, count), whatever es holds (R189). -/
def State.dawnElems (s : State) (k : BitVec 3) (count : Nat) : List Nat :=
  (s.actives k 0).filter fun i => decide (i < count)

/-- dwcap (R196). -/
def execDwcap (st : BitVec 3) (d a : BitVec 5) (k : BitVec 3) (s : State) : Res :=
  runDawn { st := st, srcs := [.x a, .k k], width := 32, dst := some d } (do
    let t ← get
    let n := t.rX a
    require (decide (1 ≤ n.toNat) && decide (n.toNat ≤ 64)) 0x242 n
    putElems d 32 ((t.dawnElems k n.toNat).map fun i => (i, (t.me.vec.dawn.c.toList.getD i 0x800003FF).toNat)) 4 false) s

/-- The width and count of a selector (Table 4 of 09_dawn_instructions); 0 for one that is not listed. -/
def dawnItem (sel : Nat) : Nat × Nat :=
  match sel with
  | 0 => (16, 1024)
  | 1 => (8, 1024)
  | 2 => (32, 64)
  | 3 => (64, 1)
  | _ => (0, 0)

/-- Element i of an item, as dwrd reads it. -/
def Dawn.read (d : Dawn) (sel i : Nat) : Nat :=
  match sel with
  | 0 => (d.r.toList.getD i 1023).toNat
  | 1 => (d.w.toList.getD i 63).toNat
  | _ => d.gs.toNat + b2n d.mode * 16 + b2n d.rdy * 32

/-- dwrd (R197). -/
def execDwrd (st : BitVec 3) (d l : BitVec 5) (k : BitVec 3) (s : State) : Res :=
  let (w, count) := dawnItem l.toNat
  runDawn { st := st, srcs := [.k k], width := w, dst := some d } (do
    let t ← get
    require (l = 0 || l = 1 || l = 3) 0x000 (xOf t.me.hart.word.toNat)
    putElems d w ((t.dawnElems k count).map fun i => (i, t.me.vec.dawn.read l.toNat i)) 4 false) s

/-- An item with elements loaded, as dwldw gives. -/
def Dawn.load (sel : Nat) (l : List (Nat × Nat)) (d : Dawn) : Dawn :=
  match sel with
  | 0 => { d with r := vecGen 1024 fun i => match l.lookup i with | some v => BitVec.ofNat 10 v | none => d.r.toList.getD i 1023 }
  | 1 => { d with w := vecGen 1024 fun i => match l.lookup i with | some v => BitVec.ofNat 6 v | none => d.w.toList.getD i 63 }
  | 2 =>
    { d with c := vecGen 64 fun i =>
        match l.lookup i with
        | some v => if bitAt (xOf v) 31 then 0x800003FF else BitVec.ofNat 32 v &&& 0x03FF03FF
        | none => d.c.toList.getD i 0x800003FF }
  | _ =>
    match l with
    | (_, v) :: _ => { d with gs := BitVec.ofNat 4 v, mode := decide (v / 16 % 2 = 1), rdy := decide (v / 32 % 2 = 1) }
    | [] => d

/-- dwldw (R197). -/
def execDwldw (st : BitVec 3) (a l : BitVec 5) (k : BitVec 3) (s : State) : Res :=
  let (w, count) := dawnItem l.toNat
  runDawn { st := st, srcs := [.k k], width := w, vs := [a], ready := 4 } (do
    let t ← get
    require (decide (l.toNat < 4)) 0x000 (xOf t.me.hart.word.toNat)
    let va := t.rV a
    let els := (t.dawnElems k count).map fun i => (i, getElem t.me.vec.grant w va i)
    require (!(l == 3 && els.any (fun e => decide (64 ≤ e.2) || decide (10 < e.2 % 16)))) 0x242 3
    setDawn (Dawn.load l.toNat els)) s

end Sys2Proof.Machine
end

