-- ==== Sys2Proof/Machine/Planes.lean ====
section
/-! DEFINITION. The plane sequencers (R166 to R171, R181, R183): what a row operation does, the start of a microprogram, its row
operations, its SYNC windows, and refresh. -/

namespace Sys2Proof.Machine

/-! ### Rows of a bank -/

/-- Rows 1008 to 1023 by name (Table 1 of 08_plane_instructions). -/
def rowT (i : Nat) : Nat := 1008 + i
/-- m0, m1, m2. -/
def rowM (i : Nat) : Nat := 1016 + i
/-- d0, d1. -/
def rowD (i : Nat) : Nat := 1019 + i
/-- z. -/
def rowZ : Nat := 1021
/-- o. -/
def rowO : Nat := 1022
/-- h. -/
def rowH : Nat := 1023

/-- The bits of a row, as it holds them: flipped bits are as they stand in the cells (R330). -/
def State.rowBits (s : State) (pa : Nat) : Nat :=
  let mask := (s.flips.filter (fun g => decide (pa / 16 ≤ g.1) && decide (g.1 < pa / 16 + 64))).foldl (fun m g =>
    g.2.foldl (fun m b => if b < 128 then m ^^^ 2 ^ (128 * (g.1 - pa / 16) + b) else m) m) 0
  leNat (memBytes s.mem pa 1024) ^^^ mask

/-- The halves of a row that the host holds taken back before the row is written (R245, R317). -/
def State.unholdRow (pa : Nat) (s : State) : State := s.unhold (pa / 1024 * 1024) 1024 true

/-- A row written with bits whose check columns do not come with them. -/
def State.putRow (pa v : Nat) (s0 : State) : State :=
  let s := s0.unholdRow pa
  { s with mem := memWrite s.mem pa (leBytes 1024 v), tags := tagSet s.tags (pa / 8) 128 0,
           flips := s.flips.filter (fun g => !(decide (pa / 16 ≤ g.1) && decide (g.1 < pa / 16 + 64))) }

/-- A row copied, data and check columns together: a copied error stays correctable and poison stays poison (R167, R331). -/
def State.copyRow (src dst : Nat) (s0 : State) : State :=
  let s := s0.unholdRow dst
  let tags := (s.tags.filter (fun t => decide (src / 8 ≤ t.1) && decide (t.1 < src / 8 + 128))).map fun t =>
    (t.1 - src / 8 + dst / 8, t.2)
  let flips := (s.flips.filter (fun g => decide (src / 16 ≤ g.1) && decide (g.1 < src / 16 + 64))).map fun g =>
    (g.1 - src / 16 + dst / 16, g.2)
  { s with mem := memWrite s.mem dst (memBytes s.mem src 1024),
           tags := s.tags.filter (fun t => t.1 < dst / 8) ++ tags ++ s.tags.filter (fun t => dst / 8 + 128 ≤ t.1),
           flips := s.flips.filter (fun g => !(decide (dst / 16 ≤ g.1) && decide (g.1 < dst / 16 + 64))) ++ flips }

/-- The condition of a row, none where it is checked (R168). -/
def State.rowCond (s : State) (pa : Nat) : Option RowCond := (s.rows.find? (fun r => r.1 == pa / 1024)).map (·.2)

/-- A data row with its condition replaced (R168); the other rows have none. -/
def State.setCond (pa : Nat) (c : Option RowCond) (s : State) : State :=
  let rest := s.rows.filter (fun r => r.1 != pa / 1024)
  { s with rows := match c with | some k => if reservedRow pa then rest else rest ++ [(pa / 1024, k)] | none => rest }

/-- The condition of a row that becomes unchecked: scratch-marked in a handle with the scratch bit (R168). -/
def looseCond (scratch : Bool) : RowCond := if scratch then .scratch else .unchecked

/-- The row that a source names. -/
def RowSrc.num : RowSrc → Nat
  | .row n => n
  | .neg n => n

/-- The bits that a source drives. -/
def State.srcBits (s : State) (bank : Nat) : RowSrc → Nat
  | .row n => s.rowBits (rowPa bank n)
  | .neg n => (2 ^ 8192 - 1) ^^^ s.rowBits (rowPa bank n)

/-- The bitwise majority of three numbers. -/
def majority (a b c : Nat) : Nat := (a &&& b) ||| (b &&& c) ||| (a &&& c)

/-- dst := src in one bank (R167, R168). -/
def aapRow (src : RowSrc) (dst : Nat) (scratch : Bool) (bank : Nat) (s : State) : State :=
  let from_ := rowPa bank src.num
  let to_ := rowPa bank dst
  let loose := decide (1008 ≤ src.num) || (s.rowCond from_).isSome
  if dst = rowZ ∨ dst = rowO then s
  else if loose || decide (1008 ≤ dst) then (s.putRow to_ (s.srcBits bank src)).setCond to_ (some (looseCond scratch))
  else (s.copyRow from_ to_).setCond to_ (if scratch then some .scratch else none)

/-- SHL1 and SHR1 in one bank (R167): h := src, and dst is the shifted row, unchecked. -/
def shiftRow (left : Bool) (src : RowSrc) (dst : Nat) (scratch : Bool) (bank : Nat) (s : State) : State :=
  let v := s.srcBits bank src
  let r := if left then v * 2 % 2 ^ 8192 else v / 2
  let to_ := rowPa bank dst
  if dst = rowZ ∨ dst = rowO then s
  else ((s.putRow (rowPa bank rowH) v).putRow to_ r).setCond to_ (some (looseCond scratch))

/-- A row of one bank poisoned: each of its 64 granules (R183). -/
def State.poisonRow (pa : Nat) (s0 : State) : State :=
  let s := s0.unholdRow pa
  { s with tags := tagSet s.tags (pa / 8) 128 3,
           flips := s.flips.filter (fun g => !(decide (pa / 16 ≤ g.1) && decide (g.1 < pa / 16 + 64))) }

/-- CHK finds a row uncorrectable (R183): it is poisoned, kind 0x06 is logged and the issuing hart receives 0x304, with the address of the
failing word (R284). -/
def State.chkFails (o : SeqOp) (pa at_ : Nat) (s : State) : State :=
  let s1 := ((s.poisonRow pa).logAt 0x06 2 at_ 0 { code := 2, id := hStack o.geo }).noteBadRow pa
  s1.postAsync o.pid o.hid 0x304 (xOf at_) ((s1.logs.head?.map (·.word)).getD 0)

/-- The decoding of one granule by CHK: whether it is uncorrectable (R183, R330). Three or more flipped bits may be found, may be taken
for one other or may pass, by a free choice (log entry 25). One that is poisoned already is taken as one without an error (DESIGN CHOICE, log
entry 70). -/
def chkGranule (o : SeqOp) (g : Nat) (s : State) : Bool × State :=
  match flipsAt s.flips g with
  | [] => (false, s)
  | [b] =>
    (false, ({ s with flips := flipsSet s.flips g [] }).logAt 0x01 1 (bitAddr (16 * g) b) b { code := 2, id := hStack o.geo })
  | [_, _] => (true, s)
  | bits =>
    let how := Config.freeChoice s.fresh 0 % 3
    let s1 : State := { s with fresh := s.fresh + 1 }
    if how = 0 then (true, s1)
    else (false, s1.keepFlips (16 * g) (if how = 1 then bits else (Config.freeChoice s.fresh 1 % 144) :: bits))

/-- The granules of a row from number i on decoded by CHK, n of them: the numbers of those that are uncorrectable, and what the decoding
has done. -/
def chkGranules (o : SeqOp) (pa i : Nat) : Nat → State → List Nat × State
  | 0, s => ([], s)
  | n + 1, s =>
    let (bad, s1) := chkGranule o (pa / 16 + i) s
    let (l, s2) := chkGranules o pa (i + 1) n s1
    (if bad then i :: l else l, s2)

/-- CHK of a row of one bank (R167, R183). The check columns of an unchecked row are not those of its data, and the manual does not
say what CHK makes of them: a free choice keeps the row, corrects a bit of it or finds it uncorrectable (log entry 30). -/
def chkRow (o : SeqOp) (row bank : Nat) (s : State) : State :=
  let pa := rowPa bank row
  match s.rowCond pa with
  | some .scratch => (s.putRow pa (s.rowBits pa)).setCond pa none
  | none =>
    match chkGranules o pa 0 64 s with
    | ([], s1) => s1
    | (g :: _, s1) =>
      s1.chkFails o pa (match flipsAt s.flips (pa / 16 + g) with | b :: bits => bitAddr (pa + 16 * g) (bits.foldl min b) | [] => pa + 16 * g)
  | some .unchecked =>
    let c := Config.freeChoice s.fresh 0 % 8194
    let s1 : State := { s with fresh := s.fresh + 1 }
    if c < 8192 then s1.putRow pa (s1.rowBits pa ^^^ 2 ^ c) else if c = 8192 then s1 else s1.chkFails o pa pa

/-- One row operation in one bank (Table 4 of 08_plane_instructions). -/
def rowStep (o : SeqOp) (op : RowOp) (bank : Nat) (s : State) : State :=
  match op with
  | .fin => s
  | .aap src dst scratch => aapRow src dst scratch bank s
  | .tra =>
    let m := majority (s.rowBits (rowPa bank (rowM 0))) (s.rowBits (rowPa bank (rowM 1))) (s.rowBits (rowPa bank (rowM 2)))
    ((s.putRow (rowPa bank (rowM 0)) m).putRow (rowPa bank (rowM 1)) m).putRow (rowPa bank (rowM 2)) m
  | .ap _ => s
  | .shl src dst scratch => shiftRow true src dst scratch bank s
  | .shr src dst scratch => shiftRow false src dst scratch bank s
  | .chk row => chkRow o row bank s
  | .sync => s

/-- One row operation in every bank of a set (R167). -/
def rowStepAll (o : SeqOp) (op : RowOp) (s : State) : State := (bankBases o.geo).foldl (fun t b => rowStep o op b t) s

/-! ### Accepted instructions -/

/-- The data rows that a row operation reads. -/
def RowOp.reads : RowOp → List Nat
  | .aap src _ _ => [src.num]
  | .ap src => [src.num]
  | .shl src _ _ => [src.num]
  | .shr src _ _ => [src.num]
  | .chk src => [src]
  | _ => []

/-- The data rows that a row operation writes. -/
def RowOp.wrote : RowOp → List Nat
  | .aap _ dst _ => [dst]
  | .shl _ dst _ => [dst]
  | .shr _ dst _ => [dst]
  | .chk src => [src]
  | _ => []

/-- The distinct data rows of a list. -/
def dataRows (l : List Nat) : List Nat := l.foldl (fun a r => if r < 1008 then insertNew a r else a) []

/-- An accepted instruction by its number. -/
def State.seqOp? (s : State) (id : Nat) : Option SeqOp := s.seq.find? (fun o => o.id == id)

/-- s with an accepted instruction replaced. -/
def State.setSeqOp (o : SeqOp) (s : State) : State := { s with seq := s.seq.map (fun q => if q.id = o.id then o else q) }

/-- Whether a .p row-lock of another hart holds an accepted instruction back (R178). -/
def LockEntry.holdsBack (o : SeqOp) (l : LockEntry) : Bool :=
  l.placed && l.mode.getLsbD 1 && !(l.hid == o.hid && l.pid == o.pid) && rowsMeet o.geo o.rows l.handle

/-- The accepted instructions that wait on a lock which the hart of o holds: those that the lock holds back, and those of other
harts that stay behind such an instruction in acceptance order (R166, R178). -/
def State.behindLocks (s : State) (o : SeqOp) : List SeqOp :=
  s.seq.foldl (fun acc q =>
    if !q.running && (s.locks.any (fun l => l.holdsBack q && l.hid == o.hid && l.pid == o.pid) ||
        (!(q.hid == o.hid && q.pid == o.pid) && acc.any (fun r => banksMeet r.geo q.geo))) then acc ++ [q] else acc) []

/-- Whether an earlier instruction q holds back o, whose banks it shares (R166): it does unless it waits on a lock that the hart of
o holds (R178). -/
def State.orderedBefore (s : State) (q o : SeqOp) : Bool :=
  banksMeet q.geo o.geo && !(s.behindLocks o).any (fun r => r.id == q.id)

/-- Banks of a set. -/
def bankCount (geo : X) : Nat := hCols geo * hDies geo

/-- Banks of a stack that run microprograms (R166). -/
def State.busyBanks (s : State) (stack : Nat) : Nat :=
  ((s.seq.filter (fun o => o.running && hStack o.geo == stack)).map (fun o => bankCount o.geo)).sum

/-- Whether a bank of a set performs a refresh in a cycle: one that has just fallen due, or one that a microprogram has left to its banks
(R170). -/
def State.setRefreshes (s : State) (geo : X) : Bool :=
  let dies := (List.range 16).filter fun d => decide (hDieLo geo ≤ d) && decide (d ≤ hDieHi geo)
  dies.any (fun d => refreshing d s.cycle) ||
    s.lateRefreshes.any fun r => decide (s.cycle < r.doneAt) && decide (r.die ∈ dies) && banksMeet r.geo geo

/-- Whether a wait is one for plane instructions or their banks, whose instruction completes before a swap halt is taken (R287, R298). -/
def Wait.onPlanes : Wait → Bool
  | .planes => true
  | .drain _ => true
  | .rows _ => true
  | _ => false

/-- Whether the sequencers start work for a partition (R292, R298): it runs, or it halts and one of its harts still waits for plane
instructions. -/
def State.startsPlanes (s : State) (pid : Nat) : Bool :=
  (s.runs pid || (s.halting pid && s.slots.any fun o => o.live && o.hart.pid == pid && o.hart.wait.any Wait.onPlanes)) &&
    !(s.part? pid).any (·.frozen)

/-- Whether an accepted instruction can start (R166, R178, R181, R292, R294): no microprogram that has started shares a bank with it, none
that was accepted earlier holds it back, and no refresh occupies its set. -/
def State.canStart (s : State) (o : SeqOp) : Bool :=
  !o.running && !s.heldBack && decide (o.accepted ≤ s.cycle) && o.start.all (fun t => decide (t.toNat ≤ s.cycle)) &&
    s.startsPlanes o.pid && !s.seqFrozen (hStack o.geo) o.pid &&
    !s.locks.any (fun l => l.holdsBack o) && !(s.seq.takeWhile (fun q => q.id != o.id)).any (fun q => s.orderedBefore q o) &&
    !s.seq.any (fun q => q.running && banksMeet q.geo o.geo) &&
    decide (s.busyBanks (hStack o.geo) + bankCount o.geo ≤ 1024) && !s.setRefreshes o.geo

/-- MICROPROGRAM_START (R166, R181). -/
def execMicroprogramStart (op : Nat) (s : State) : Res :=
  match s.seqOp? op with
  | some o => if s.canStart o then .next (s.setSeqOp { o with running := true, nextAt := s.cycle }) else .next s
  | none => .next s

/-! ### Row-locks -/

/-- Whether a hart holds a lock entry. -/
def LockEntry.heldBy (l : LockEntry) (pid : Nat) (hid : BitVec 32) : Bool := l.pid == pid && l.hid == hid

/-- Whether a lock is on any row of a handle. -/
def LockEntry.covers (l : LockEntry) (h : X) : Bool := rowsMeet h (planeRows h (hWidth h)) l.handle

/-- Whether another hart holds a lock on a row of a handle. -/
def State.lockedByOther (s : State) (pid : Nat) (hid : BitVec 32) (h : X) : Bool :=
  s.locks.any fun l => l.placed && !l.heldBy pid hid && l.covers h

/-- Whether an entry among the harts that wait at plock is that of a hart. -/
def Plocker.isOf (q : Plocker) (pid : Nat) (hid : BitVec 32) : Bool := q.pid == pid && q.hid == hid

/-- Whether a hart that waits can be served before others (R178, R217): it is resident, or it is descheduled and a slot of its partition in its
stack may come free. No slot does where each holds a resident that is not switched out, being stopped or having status.ie = 0 (R269). -/
def State.servable (s : State) (pid : Nat) (hid : BitVec 32) : Bool :=
  s.slots.any (fun o => o.live && o.hart.pid == pid && o.hart.hid == hid) ||
    ((s.waiting ++ s.queue).find? fun r => r.pid == pid && r.hid == hid).any fun r =>
      (s.part? pid).any fun p => (p.slotsIn r.stack).any fun c =>
        let o := s.slotAt c.1 c.2
        !o.live || (o.hart.ie && !o.hart.stopped)

/-- Whether a plock of a hart for a handle waits (R178): another hart holds a lock on the rows, or waits for one, came first and can be served
first, so that no hart is starved, descheduled or not (DEDUCED, log entry 64). -/
def State.lockHeldBack (s : State) (pid : Nat) (hid : BitVec 32) (h : X) : Bool :=
  s.lockedByOther pid hid h ||
    (s.plockers.takeWhile fun q => !q.isOf pid hid).any fun q =>
      rowsMeet h (planeRows h (hWidth h)) q.handle && s.servable q.pid q.hid

/-- A hart that no longer waits at plock: its lock is placed, or its wait was interrupted for good (R178, R287). -/
def State.dropPlocker (pid : Nat) (hid : BitVec 32) (s : State) : State :=
  { s with plockers := s.plockers.filter fun q => !q.isOf pid hid }

/-- A hart that waits at plock, behind those that came before; one that waits for the same handle keeps its place. -/
def State.addPlocker (pid : Nat) (hid : BitVec 32) (h : X) (s : State) : State :=
  if s.plockers.any fun q => q.isOf pid hid && q.handle == h then s
  else { s with plockers := (s.dropPlocker pid hid).plockers ++ [{ pid := pid, hid := hid, handle := h }] }

/-- Whether an entry among the harts that wait at an engine's port is that of a hart. -/
def PortWait.isOf (q : PortWait) (pid : Nat) (hid : BitVec 32) : Bool := q.pid == pid && q.hid == hid

/-- The harts that wait to push at an engine's port, or to pop there, and are served before a hart: those that came first and can be, so that
none is starved, descheduled or not (R217; DEDUCED, log entry 64). -/
def State.aheadAt (s : State) (engine : Nat) (pop : Bool) (pid : Nat) (hid : BitVec 32) : Nat :=
  (((s.portWaits.filter fun q => q.engine == engine && q.pop == pop && q.pid == pid).takeWhile fun q => !q.isOf pid hid).filter fun q =>
    s.servable q.pid q.hid).length

/-- A hart that no longer waits at a port. -/
def State.dropPortWait (pid : Nat) (hid : BitVec 32) (s : State) : State :=
  { s with portWaits := s.portWaits.filter fun q => !q.isOf pid hid }

/-- A hart that waits at a port, behind those that came before; one that waits there already keeps its place. -/
def State.addPortWait (engine : Nat) (pop : Bool) (pid : Nat) (hid : BitVec 32) (s : State) : State :=
  if s.portWaits.any fun q => q.isOf pid hid && q.engine == engine && q.pop == pop then s
  else { s with portWaits := (s.dropPortWait pid hid).portWaits ++ [{ engine := engine, pop := pop, pid := pid, hid := hid }] }

/-- Whether vldp waits for something other than a bank (R110, R178): an instruction of the hart that is to write the rows, or a .p row-lock
of another hart. -/
def State.rowsKept (s : State) (pid : Nat) (hid : BitVec 32) (h : X) : Bool :=
  s.seq.any (fun o => o.pid == pid && o.hid == hid && rowsMeet o.geo o.writes h) ||
    s.locks.any fun l => l.placed && l.mode.getLsbD 1 && !l.heldBy pid hid && l.covers h

/-- Whether vldp must wait for the rows of a handle: a bank that a microprogram holds or a refresh occupies, or what it waits for beside
(R110, R170, R178). -/
def State.rowsWait (s : State) (pid : Nat) (hid : BitVec 32) (h : X) : Bool :=
  (bankBases h).any (fun b => s.bankBusy (rowPa b (hBase h)) (some (pid, hid))) || s.rowsKept pid hid h

/-- A hart's reserved entries freed (R178, R287). -/
def State.dropReserved (pid : Nat) (hid : BitVec 32) (s : State) : State :=
  { s with locks := s.locks.filter fun l => l.placed || !l.heldBy pid hid }

/-- The numbers of the accepted instructions of a hart that write a row of a lock (R179). -/
def State.writersOf (s : State) (l : LockEntry) : List Nat :=
  (s.seq.filter fun o => o.pid == l.pid && o.hid == l.hid && rowsMeet o.geo o.writes l.handle).map (·.id)

/-- The locks of a hart that satisfy a condition begin to be released, from a cycle on (R179). -/
def State.beginRelease (pid : Nat) (hid : BitVec 32) (c : Nat) (which : LockEntry → Bool) (s : State) : State :=
  { s with locks := s.locks.map fun l =>
      if l.placed && l.heldBy pid hid && !l.releasing && which l then { l with releasing := true, after := s.writersOf l, from_ := c } else l }

/-! ### Row operations -/

/-- The row operations of a run: those up to the next SYNC. -/
def runAhead (prog : List RowOp) : List RowOp := (prog.takeWhile (fun q => q != .sync && q != .fin)).take 32

/-- The blocks of virtual memory behind a row of the handles that an instruction carries: address, and physical address (R163). -/
def rowBlocks (o : SeqOp) (row : Nat) : List (X × Nat) :=
  match o.handles.find? (fun q => decide (hBase q.word ≤ row) && decide (row < hBase q.word + hWidth q.word)) with
  | none => []
  | some q =>
    (List.range (hDies o.geo)).map fun e =>
      (q.va + xOf (((row - hBase q.word) * hDies o.geo + e) * 2 ^ 17),
        hStack o.geo * 2 ^ 36 + hSub o.geo * 2 ^ 31 + row * 2 ^ 21 + (hDieLo o.geo + e) * 2 ^ 17)

/-- The first of some blocks whose access breaks the protection of the partition: its translation no longer gives it for writing
(R294, R305), or the address of the table that the walk must wait for (R301). -/
def State.refusedBlock (s : State) (o : SeqOp) : List (X × Nat) → Option (X ⊕ Nat) × State
  | [] => (none, s)
  | (va, pa) :: rest =>
    match s.translate (2000 + hStack o.geo) o.pid true .otherWrite va { code := 2, id := hStack o.geo } with
    | (.ok p, s1) => if p.pa = pa ∧ p.plane then s1.refusedBlock o rest else (some (.inl va), s1)
    | (.error (.fault _), s1) => (some (.inl va), s1)
    | (.error (.busy t), s1) => (some (.inr t), s1)

/-- The microprogram of a refused access frozen (R294): the issuing hart receives 0x3C1, and firmware is told. -/
def State.freezeSeq (o : SeqOp) (va : X) (s : State) : State :=
  let s1 := (s.setSeqOp { o with refused := some va, window := true, waitsOn := none }).postAsync o.pid o.hid 0x3C1
    (xOf (2 * 2 ^ 60 + hStack o.geo)) va
  { s1 with replies := s1.replies ++ [.report "sequencer frozen" (hStack o.geo)] }

/-- A microprogram that has ended (R169, R180): its banks are idle, and perform the refreshes that it still owed (R170). -/
def State.endSeq (o : SeqOp) (s : State) : State :=
  let late := o.owed.map fun d => ({ geo := o.geo, die := d, doneAt := s.cycle + 48 } : LateRefresh)
  ({ s with seq := s.seq.filter (fun q => q.id != o.id),
            lateRefreshes := s.lateRefreshes.filter (fun r => decide (s.cycle < r.doneAt)) ++ late } : State).serveWaiting 4096

/-- The microprogram of o after its next row operation: at most 32 of them lie between SYNCs (R169). -/
def SeqOp.advance (rest : List RowOp) (loose : List Nat) (o : SeqOp) : SeqOp :=
  let n := o.sinceSync + 1
  { o with prog := if n = 32 ∧ rest.head? ≠ some .sync then .sync :: rest else rest, nextAt := o.nextAt + 48, window := false, admitted := [],
           items := [], served := [], waitsOn := none, sinceSync := n, unchecked := loose.foldl insertNew o.unchecked }

/-- A row operation counted for the hart that issued its instruction (R21). -/
def State.countRow (o : SeqOp) (s : State) : State :=
  s.mapSlots fun q => if q.live && q.hart.pid == o.pid && q.hart.hid == o.hid then { q with hart := q.hart.count 8 1 } else q

/-- Whether the next row operation of a microprogram can complete (R167, R294). -/
def State.rowDue (s : State) (o : SeqOp) : Bool :=
  o.running && o.refused.isNone && !(o.sinceSync == 0 && s.seqFrozen (hStack o.geo) o.pid) &&
    (match o.prog with
     | [] => false
     | .sync :: _ => false
     | .fin :: _ => decide (o.nextAt ≤ s.cycle)
     | _ => decide (o.nextAt + 48 ≤ s.cycle))

/-- ROW_OPERATION (R167): the accesses of each run between SYNCs are checked as it begins (R294); one whose check must wait for a page table
begins when that is served (R301). -/
def execRowOperation (op : Nat) (s : State) : Res :=
  match s.seqOp? op with
  | none => .next s
  | some o =>
    if !s.rowDue o then .next s
    else
      match o.prog with
      | [] => .next s
      | .fin :: _ => .next (s.endSeq o)
      | q :: rest =>
        let rows := if o.sinceSync = 0 then dataRows ((runAhead o.prog).flatMap fun q => q.reads ++ q.wrote) else []
        match s.refusedBlock o (rows.flatMap (rowBlocks o)) with
        | (some (.inl va), s1) => .next (s1.freezeSeq o va)
        | (some (.inr pa), s1) => .next (s1.setSeqOp { o with waitsOn := waitAt pa s.cycle o.waitsOn, nextAt := s.cycle - 47 })
        | (none, s1) =>
          let s2 := rowStepAll o q s1
          let loose := (dataRows q.wrote).filter fun r =>
            (bankBases o.geo).any fun b => s2.rowCond (rowPa b r) == some .unchecked
          .next ((s2.setSeqOp (o.advance rest loose)).countRow o)

/-! ### SYNC windows and refresh -/

/-- Whether a hart that waits goes on with its instruction when it can: its partition runs, or halts and the instruction completes first (R287,
R298). -/
def State.goesOn (s : State) (o : Slot) : Bool := o.live && (s.runs o.hart.pid || (s.halting o.hart.pid && o.hart.wait.any Wait.firm))

/-- An agent's access to the rows of some addresses as a waiter for the banks of a set, if it waits at the first of them and no row-lock holds
that back in any case (R169, R178). -/
def State.waiterAt (s : State) (geo : X) (who : Nat × BitVec 32) (since : Nat) (l : List Nat) : Option Waiter :=
  let rows := ((l.filter fun a => isDram a && inBanks geo a && !s.rowLocked a (some who)).map rowItem).dedup
  if (l.take 1).all fun pa => isDram pa && inBanks geo pa && !s.rowLocked pa (some who) then
    if rows = [] then none else some { since := since, rows := rows, who := some who, left := rows }
  else none

/-- The accesses that wait for banks of a set, but for those that a row-lock holds in any case (R169, R178): of harts, with every address that
their instruction has waited for, vldp with one row in each bank that it reads (log entry 19), of engines, of the checks of sequencers, of the
scheduler and the walkers, and of CXL.mem. -/
def State.waitersOn (s : State) (geo : X) : List Waiter :=
  ((s.slots.filter s.goesOn).filterMap fun o =>
    let who := (o.hart.pid, o.hart.hid)
    match o.hart.wait with
    | some (.bank pa _) => s.waiterAt geo who o.hart.waitSince (pa :: without o.hart.reached pa)
    | some (.rows h) =>
      let rows := ((bankBases h).filter (inBanks geo)).map (fun b => rowItem (rowPa b (hBase h)))
      if rows = [] || s.rowsKept o.hart.pid o.hart.hid h then none
      else some { since := o.hart.waitSince, rows := rows, who := some who, left := rows }
    | _ => none) ++
  (s.engines.filterMap fun k => k.waitsOn.bind fun w => s.waiterAt geo (1000 + k.n, 0) w.2 w.1) ++
  ((s.seq.filter (·.running)).filterMap fun o => o.waitsOn.bind fun w => s.waiterAt geo (2000 + hStack o.geo, 0) w.2 w.1) ++
  (s.recWaits.filterMap fun r =>
    s.waiterAt geo (recordAsker r.pid r.hid) r.since ((s.recordLines r.pid r.hid).filter fun pa => isDram pa && inBanks geo pa)) ++
  (s.requests.filterMap fun r =>
    if (granules r.pa r.size).any fun g => s.rowLocked g none then none
    else s.waiterAt geo (requestAsker r.id) r.since ((granules r.pa r.size).filter fun g => isDram g && inBanks geo g))

/-- A waiter put among others in order of arrival. -/
def insertWaiter (w : Waiter) : List Waiter → List Waiter
  | [] => [w]
  | v :: rest => if v.since ≤ w.since then v :: insertWaiter w rest else w :: v :: rest

/-- The waiters that a window serves, in order of arrival, with the row of each service: at most 8 at a bank (R169). -/
def admitWaiters (l : List Waiter) : List Waiter × List (Nat × Nat) :=
  (l.foldl (fun acc w => insertWaiter w acc) []).foldl (fun acc w =>
    if w.rows.all (fun q => decide ((acc.2 ++ w.rows).countP (fun r => r.1 == q.1) ≤ 8)) then (acc.1 ++ [w], acc.2 ++ w.rows) else acc)
    ([], [])

/-- The rows that a SYNC rewrites in a bank: those left unchecked that are still so (R168, R355). -/
def State.rewritesIn (s : State) (o : SeqOp) (bank : Nat) : List Nat :=
  o.unchecked.filter fun r => decide (s.rowCond (rowPa bank r) = some .unchecked)

/-- The items of each bank of a set in a window beside its requests: its rewrites, and a refresh where its die owes one (R169, R355). -/
def State.windowItems (s : State) (o : SeqOp) : List (Nat × Nat) :=
  (bankBases o.geo).map fun b => (bankNum b, (s.rewritesIn o b).length + b2n (decide (paDie b ∈ o.owed)))

/-- The rows of one bank rewritten: the ECC engine computes their check columns from their data (R168). -/
def rewriteBank (o : SeqOp) (bank : Nat) (s : State) : State :=
  (s.rewritesIn o bank).foldl (fun t r => (t.putRow (rowPa bank r) (t.rowBits (rowPa bank r))).setCond (rowPa bank r) none) s

/-- A microprogram at a SYNC whose window opens, with the items of its banks and the rows that it serves to those that waited: it lasts as long
as the bank with the most items needs (R169, R355). -/
def SeqOp.openWindow (o : SeqOp) (rest : List RowOp) (items : List (Nat × Nat)) (ws : List Waiter) (rows : List (Nat × Nat)) : SeqOp :=
  let o1 : SeqOp := { o with prog := rest, window := true, sinceSync := 0, unchecked := [], owed := [], opened := o.nextAt, items := items,
                             served := rows, admitted := ws }
  { o1 with nextAt := o1.windowEnd }

/-- SYNC (R169, R355): owed refreshes, in one row time, then the rewrites of unchecked rows, then, in order of arrival, at most 8 of the
requests for each bank that wait when the window opens; the next row operation follows. Each is served in its turn (State.admits): a request by
CXL.mem at once where its turn has come, the access of any other agent when it is made again within the window. -/
def execSyncWindow (op : Nat) (s : State) : Res :=
  match s.seqOp? op with
  | none => .next s
  | some o =>
    match o.prog with
    | .sync :: rest =>
      if o.running && o.refused.isNone && decide (o.nextAt ≤ s.cycle) then
        let (ws, rows) := admitWaiters (s.waitersOn o.geo)
        let s1 := (bankBases o.geo).foldl (fun t b => rewriteBank o b t) s
        .next ((s1.setSeqOp (o.openWindow rest (s.windowItems o) ws rows)).serveWaiting 4096)
      else .next s
    | _ => .next s

/-- The refreshes of a stack that have fallen due. -/
def State.refreshCount (s : State) (stack : Nat) : Nat := (s.refreshes.toList)[stack]?.getD 0

/-- The row number that refresh j of a stack covers in every subarray of its die: it advances from 0 to 1023 and then wraps (R338). -/
def refreshRow (j : Nat) : Nat := j / 16 % 1024

/-- REFRESH (R170): a die owes a refresh at every mtime ≡ 312 × die (mod 4,992). Idle banks perform it at once; microprograms on
banks of the die owe it at their next window. It covers row number `refreshRow` j of the die, which keeps what it holds: a refresh neither
decodes nor corrects (R338). -/
def execRefresh (stack die : Nat) (s : State) : Res :=
  let j := s.refreshCount stack
  if h : stack < 8 then
    if j % 16 = die ∧ 312 * j ≤ s.cycle then
      .next { s with refreshes := s.refreshes.set stack (j + 1),
                     seq := s.seq.map fun o =>
                       if o.running && hStack o.geo == stack && decide (hDieLo o.geo ≤ die) && decide (die ≤ hDieHi o.geo) then
                         { o with owed := insertNew o.owed die }
                       else o }
    else .next s
  else .next s

end Sys2Proof.Machine
end

