-- ==== Sys2Proof/Machine/PlaneOps.lean ====
section
/-! DEFINITION. Plane instructions, majors 0x34 to 0x36: their checks (R172), their expansions (R173 to R175), prun (R176, R177),
row-locks (R178, R179), pfence (R180), handles (R163, R164), and vldp (R110). -/

namespace Sys2Proof.Machine

/-! ### Expansions (Tables 5 and 6 of 08_plane_instructions) -/

/-- A row or plane as a source. -/
abbrev rs (n : Nat) : RowSrc := .row n

/-- A copy between the sequencer's own rows, or from a plane to one of them. -/
def mv (src : RowSrc) (dst : Nat) : RowOp := .aap src dst false

/-- MAJ3(x, y, u) → r. -/
def maj3 (x y u : RowSrc) (r : Nat) (scratch : Bool) : List RowOp :=
  [mv x (rowM 0), mv y (rowM 1), mv u (rowM 2), .tra, .aap (rs (rowM 0)) r scratch]

/-- AND(x, y) → r. -/
def andRow (x y : RowSrc) (r : Nat) (scratch : Bool) : List RowOp := maj3 x y (rs rowZ) r scratch

/-- OR(x, y) → r. -/
def orRow (x y : RowSrc) (r : Nat) (scratch : Bool) : List RowOp := maj3 x y (rs rowO) r scratch

/-- NOT(x) → r. -/
def notRow (x : RowSrc) (r : Nat) (scratch : Bool) : List RowOp := [mv x (rowD 0), .aap (.neg (rowD 0)) r scratch]

/-- XOR12(x, y): m0 = x XOR y. -/
def xor12 (x y : RowSrc) : List RowOp :=
  [mv x (rowM 0), mv y (rowM 1), mv (rs rowZ) (rowM 2), .tra, mv (rs (rowM 0)) (rowD 1), mv x (rowM 0), mv y (rowM 1),
   mv (rs rowO) (rowM 2), .tra, mv (.neg (rowD 1)) (rowM 1), mv (rs rowZ) (rowM 2), .tra]

/-- ADDBIT(a, b, s) with the carry in t0 (R174). -/
def addBit (a b : RowSrc) (r : Nat) (scratch : Bool) : List RowOp :=
  [mv (rs (rowT 0)) (rowD 0), mv a (rowM 0), mv b (rowM 1), mv (rs (rowD 0)) (rowM 2), .tra, mv (rs (rowM 0)) (rowD 1),
   mv (rs (rowM 0)) (rowT 0), mv a (rowM 0), mv b (rowM 1), mv (.neg (rowD 0)) (rowM 2), .tra, mv (.neg (rowD 1)) (rowM 1),
   mv (rs (rowD 0)) (rowM 2), .tra, .aap (rs (rowM 0)) r scratch]

/-- The rows that an expansion names: the first rows of D, A and B, and the scratch bit of D. -/
structure PlaneRows where
  d : Nat
  a : Nat
  b : Nat
  scratch : Bool
deriving DecidableEq, Repr

/-- D_i as a row. -/
def PlaneRows.D (r : PlaneRows) (i : Nat) : Nat := r.d + i
/-- A_i as a source. -/
def PlaneRows.A (r : PlaneRows) (i : Nat) : RowSrc := .row (r.a + i)
/-- B_i as a source. -/
def PlaneRows.B (r : PlaneRows) (i : Nat) : RowSrc := .row (r.b + i)

/-- The sequence of each bit in turn, each followed by SYNC (R172). -/
def perBit (w : Nat) (f : Nat → List RowOp) : List RowOp := (List.range w).flatMap fun i => f i ++ [.sync]

/-- An initial block, followed by SYNC (R172, R356). -/
def opening (l : List RowOp) : List RowOp := l ++ [.sync]

/-- padd (R174). -/
def expandAdd (r : PlaneRows) (w : Nat) : List RowOp :=
  opening [mv (rs rowZ) (rowT 0)] ++ perBit w fun i => addBit (r.A i) (r.B i) (r.D i) r.scratch

/-- psub. -/
def expandSub (r : PlaneRows) (w : Nat) : List RowOp :=
  opening [mv (rs rowO) (rowT 0)] ++ perBit w fun i =>
    [mv (r.B i) (rowD 1), mv (.neg (rowD 1)) (rowT 1)] ++ addBit (r.A i) (rs (rowT 1)) (r.D i) r.scratch

/-- pneg. -/
def expandNeg (r : PlaneRows) (w : Nat) : List RowOp :=
  opening [mv (rs rowO) (rowT 0)] ++ perBit w fun i =>
    [mv (r.A i) (rowD 1), mv (.neg (rowD 1)) (rowT 1)] ++ addBit (rs rowZ) (rs (rowT 1)) (r.D i) r.scratch

/-- pmul. -/
def expandMul (r : PlaneRows) (w : Nat) : List RowOp :=
  opening ((List.range w).map fun i => .aap (rs rowZ) (r.D i) r.scratch) ++ (List.range w).flatMap fun j =>
    opening [mv (rs rowZ) (rowT 0)] ++ perBit (w - j) fun i =>
      andRow (r.A i) (r.B j) (rowT 1) false ++ addBit (rs (r.D (i + j))) (rs (rowT 1)) (r.D (i + j)) r.scratch

/-- pcmpeq. -/
def expandEq (r : PlaneRows) (w : Nat) : List RowOp :=
  opening [mv (rs rowZ) (rowT 2)] ++ perBit w (fun i =>
    xor12 (r.A i) (r.B i) ++ [mv (rs (rowT 2)) (rowM 1), mv (rs rowO) (rowM 2), .tra, mv (rs (rowM 0)) (rowT 2)]) ++
    notRow (rs (rowT 2)) (r.D 0) r.scratch

/-- pcmpltn, and pcmplt where the sign bit is compared the other way round. -/
def expandLt (signed : Bool) (r : PlaneRows) (w : Nat) : List RowOp :=
  opening [mv (rs rowO) (rowT 0)] ++ perBit w (fun i =>
    (if signed && i + 1 == w then [mv (r.A i) (rowD 0), mv (.neg (rowD 0)) (rowM 0), mv (r.B i) (rowM 1)]
     else [mv (r.B i) (rowD 1), mv (r.A i) (rowM 0), mv (.neg (rowD 1)) (rowM 1)]) ++
      [mv (rs (rowT 0)) (rowM 2), .tra, mv (rs (rowM 0)) (rowT 0)]) ++
    notRow (rs (rowT 0)) (r.D 0) r.scratch

/-- ptdot. -/
def expandTdot (r : PlaneRows) (w : Nat) : List RowOp :=
  opening (maj3 (r.B 0) (r.B 1) (rs rowZ) (rowT 0) false) ++ perBit w fun i =>
    xor12 (r.A i) (r.B 1) ++
      [mv (r.B 0) (rowM 1), mv (rs rowZ) (rowM 2), .tra, mv (rs (rowM 0)) (rowT 1)] ++
      addBit (rs (r.D i)) (rs (rowT 1)) (r.D i) r.scratch

/-- pcred with parameter g. -/
def expandCred (g : Nat) (r : PlaneRows) (w : Nat) : List RowOp :=
  (if r.d = r.a then [] else opening ((List.range w).map fun i => .aap (r.A i) (r.D i) r.scratch)) ++
    (List.range g).flatMap fun l =>
      opening [mv (rs rowZ) (rowT 0)] ++ perBit w fun i =>
        .shr (rs (r.D i)) (rowT 1) false :: List.replicate (2 ^ l - 1) (.shr (rs (rowT 1)) (rowT 1) false) ++
          addBit (rs (r.D i)) (rs (rowT 1)) (r.D i) r.scratch

/-- pand and por. -/
def expandAnd (r : PlaneRows) (w : Nat) : List RowOp := perBit w fun i => andRow (r.A i) (r.B i) (r.D i) r.scratch
/-- por. -/
def expandOr (r : PlaneRows) (w : Nat) : List RowOp := perBit w fun i => orRow (r.A i) (r.B i) (r.D i) r.scratch

/-- pxor. -/
def expandXor (r : PlaneRows) (w : Nat) : List RowOp :=
  perBit w fun i => xor12 (r.A i) (r.B i) ++ [.aap (rs (rowM 0)) (r.D i) r.scratch]

/-- pnot. -/
def expandNot (r : PlaneRows) (w : Nat) : List RowOp := perBit w fun i => notRow (r.A i) (r.D i) r.scratch

/-- pmaj. -/
def expandMaj (r : PlaneRows) (w : Nat) : List RowOp :=
  perBit w fun i => maj3 (rs (r.D i)) (r.A i) (r.B i) (r.D i) r.scratch

/-- psel. -/
def expandSel (r : PlaneRows) (w : Nat) : List RowOp :=
  opening [mv (r.B 0) (rowD 0)] ++ perBit w fun i =>
    maj3 (r.A i) (rs (rowD 0)) (rs rowZ) (rowT 1) false ++ maj3 (rs (r.D i)) (.neg (rowD 0)) (rs rowZ) (rowT 2) false ++
      maj3 (rs (rowT 1)) (rs (rowT 2)) (rs rowO) (r.D i) r.scratch

/-- pshl and pshr by n columns. -/
def expandShift (left : Bool) (n : Nat) (r : PlaneRows) (w : Nat) : List RowOp :=
  let sh := fun (x : RowSrc) (d : Nat) => if left then RowOp.shl x d r.scratch else RowOp.shr x d r.scratch
  perBit w fun i => sh (r.A i) (r.D i) :: List.replicate (n - 1) (sh (rs (r.D i)) (r.D i))

/-- pcopy. -/
def expandCopy (r : PlaneRows) (w : Nat) : List RowOp := perBit w fun i => [.aap (r.A i) (r.D i) r.scratch]

/-- A microprogram that ends with SYNC and END (R169). -/
def sealProg (l : List RowOp) : List RowOp := if l.getLast? = some .sync then l ++ [.fin] else l ++ [.sync, .fin]

/-! ### Checks and acceptance -/

/-- The handle in p[n]. -/
def State.rP (s : State) (n : BitVec 4) : Handle := s.me.hart.p[n.toNat]

/-- Handles that an instruction uses: phset is scoreboarded (R55, R163), so that one whose phset is not ready is waited for. -/
def awaitHandles (l : List (BitVec 4)) : M Unit := do
  let s ← get
  let c := ((s.me.hart.pready.filter (fun q => l.any (fun n => n.toNat == q.1))).map (fun q => q.2)).foldl max 0
  if s.cycle < c then throw (.hold c) else pure ()

/-- A handle that is neither null nor stale (R172). -/
def checkHandle (n : BitVec 4) : M Unit := do
  let s ← get
  let w := (s.rP n).word
  require (hValid w && !hStale w) 0x200 (zimm n)

/-- Handles checked in order. -/
def checkHandles : List (BitVec 4) → M Unit
  | [] => pure ()
  | n :: rest => do
    checkHandle n
    checkHandles rest

/-- Whether two handles name the same stack, bank set and subarray (R172). -/
def sameGeometry (a b : X) : Bool := fieldOf a 60 3 == fieldOf b 60 3 && fieldOf a 32 27 == fieldOf b 32 27

/-- Handles that agree with the first one in geometry (R172). -/
def checkGeometry (first : BitVec 4) : List (BitVec 4) → M Unit
  | [] => pure ()
  | n :: rest => do
    let s ← get
    require (sameGeometry (s.rP first).word (s.rP n).word) 0x204 (zimm n)
    checkGeometry first rest

/-- Handles with the widths that they must have (R172). -/
def checkWidths : List (BitVec 4 × Nat) → M Unit
  | [] => pure ()
  | (n, w) :: rest => do
    let s ← get
    require (decide (w ≤ hWidth (s.rP n).word)) 0x202 (zimm n)
    checkWidths rest

/-- The overlap of a destination's rows with a source's that an instruction allows (Table 6). -/
inductive Overlap where
  | none
  | same
  | any
deriving DecidableEq, Repr

/-- Whether n rows from d on meet m rows from a on otherwise than allowed (R172). -/
def badOverlap (o : Overlap) (d n a m : Nat) : Bool :=
  let meet := decide (d < a + m) && decide (a < d + n)
  match o with
  | .any => false
  | .same => meet && d != a
  | .none => meet

/-- An instruction put among those of a sequencer, which are held in the order of their acceptance (R166). -/
def queueSeq (o : SeqOp) : List SeqOp → List SeqOp
  | [] => [o]
  | q :: rest => if q.accepted ≤ o.accepted then q :: queueSeq o rest else o :: q :: rest

/-- Hands a microprogram to the sequencer of its stack (R166): it waits while 16 instructions are queued there or the partition's
work is frozen, and completes at acceptance, before which the hart issues on (R54, R357). -/
def submit (st : BitVec 3) (geo : X) (handles : List Handle) (prog : List RowOp) (timed : Bool) (extra : Nat) : M Unit := do
  let s ← get
  let stack := hStack geo
  let queued := (s.seq.filter (fun o => !o.running && hStack o.geo == stack)).length
  if 16 ≤ queued ∨ s.seqFrozen stack s.pid then throw (.wait (.sequencer stack))
  let delay := extra + if stack = stackOf s.me.core then 8 else 40
  let o : SeqOp :=
    { id := s.nextId, pid := s.pid, hid := s.me.hart.hid, geo := geo, handles := handles,
      rows := dataRows (prog.flatMap fun q => q.reads ++ q.wrote), writes := dataRows (prog.flatMap RowOp.wrote),
      accepted := s.cycle + delay, start := if timed then some (s.rX 28) else none, running := false, prog := sealProg prog,
      unchecked := [], nextAt := 0, window := false, sinceSync := 0, owed := [], admitted := [], refused := none }
  set { s with seq := queueSeq o s.seq, nextId := s.nextId + 1 }
  done st 0 (s.pc + 4)

/-- What an instruction of majors 0x34 and 0x35 looks like (Table 6). -/
structure PlaneForm where
  d : BitVec 4
  a : BitVec 4
  /-- pb, where it has one -/
  b : Option (BitVec 4)
  w : Nat
  /-- the parameter field, and whether it is in range -/
  param : Option (X × Bool)
  /-- widths that pd and pb must have -/
  dWidth : Nat
  bWidth : Nat
  /-- planes of pd that it writes -/
  wrote : Nat
  overA : Overlap
  overB : Overlap

/-- An instruction of majors 0x34 and 0x35 (R172). -/
def planeOp (st : BitVec 3) (t : BitVec 1) (f : PlaneForm) (expand : PlaneRows → Nat → List RowOp) (s : State) : Res :=
  runM (do
    let _ ← gate { st := st, srcs := if t = 1 then [.x 28] else [], pfxOk := false }
    let used := [f.d, f.a] ++ f.b.toList
    awaitHandles used
    checkHandles used
    checkGeometry f.d (f.a :: f.b.toList)
    match f.param with
    | some (v, ok) => require ok 0x20A v
    | none => pure ()
    checkWidths ([(f.d, f.dWidth), (f.a, f.w)] ++ f.b.toList.map (fun n => (n, f.bWidth)))
    let x ← get
    let base := fun (n : BitVec 4) => hBase (x.rP n).word
    let badB := f.b.any fun n => badOverlap f.overB (base f.d) f.wrote (base n) f.bWidth
    require (!(badOverlap f.overA (base f.d) f.wrote (base f.a) f.w || badB)) 0x205 (zimm f.d)
    let rows : PlaneRows :=
      { d := base f.d, a := base f.a, b := (f.b.map base).getD 0, scratch := hScratch (x.rP f.d).word }
    submit st (x.rP f.d).word (used.map x.rP) (expand rows f.w) (decide (t = 1)) 0) s

/-- A form with two sources of w planes. -/
def form2 (d a b : BitVec 4) (w : BitVec 5) (o : Overlap) : PlaneForm :=
  let n := w.toNat + 1
  { d := d, a := a, b := some b, w := n, param := none, dWidth := n, bWidth := n, wrote := n, overA := o, overB := o }

/-- A form with one source. -/
def form1 (d a : BitVec 4) (w : BitVec 5) (param : Option (X × Bool)) : PlaneForm :=
  let n := w.toNat + 1
  { d := d, a := a, b := none, w := n, param := param, dWidth := n, bWidth := 0, wrote := n, overA := .same, overB := .same }

/-- A compare, which writes plane 0 of pd. -/
def formCmp (d a b : BitVec 4) (w : BitVec 5) : PlaneForm := { form2 d a b w .any with dWidth := 1, wrote := 1 }

/-- padd. -/
def execPadd (st : BitVec 3) (d a b : BitVec 4) (w : BitVec 5) (t : BitVec 1) (s : State) : Res :=
  planeOp st t (form2 d a b w .same) expandAdd s

/-- psub. -/
def execPsub (st : BitVec 3) (d a b : BitVec 4) (w : BitVec 5) (t : BitVec 1) (s : State) : Res :=
  planeOp st t (form2 d a b w .same) expandSub s

/-- pmul. -/
def execPmul (st : BitVec 3) (d a b : BitVec 4) (w : BitVec 5) (t : BitVec 1) (s : State) : Res :=
  planeOp st t (form2 d a b w .none) expandMul s

/-- pcmpeq. -/
def execPcmpeq (st : BitVec 3) (d a b : BitVec 4) (w : BitVec 5) (t : BitVec 1) (s : State) : Res :=
  planeOp st t (formCmp d a b w) expandEq s

/-- pcmplt. -/
def execPcmplt (st : BitVec 3) (d a b : BitVec 4) (w : BitVec 5) (t : BitVec 1) (s : State) : Res :=
  planeOp st t (formCmp d a b w) (expandLt true) s

/-- pcmpltn. -/
def execPcmpltn (st : BitVec 3) (d a b : BitVec 4) (w : BitVec 5) (t : BitVec 1) (s : State) : Res :=
  planeOp st t (formCmp d a b w) (expandLt false) s

/-- ptdot: pb holds the two planes of the T2 codes. -/
def execPtdot (st : BitVec 3) (d a b : BitVec 4) (w : BitVec 5) (t : BitVec 1) (s : State) : Res :=
  planeOp st t { form2 d a b w .same with bWidth := 2, overB := .none } expandTdot s

/-- pcred: g is 1 to 13. -/
def execPcred (st : BitVec 3) (d a g : BitVec 4) (w : BitVec 5) (t : BitVec 1) (s : State) : Res :=
  planeOp st t (form1 d a w (some (zimm g, decide (1 ≤ g.toNat) && decide (g.toNat ≤ 13)))) (expandCred g.toNat) s

/-- pneg. -/
def execPneg (st : BitVec 3) (d a : BitVec 4) (w : BitVec 5) (t : BitVec 1) (s : State) : Res :=
  planeOp st t (form1 d a w none) expandNeg s

/-- pand. -/
def execPand (st : BitVec 3) (d a b : BitVec 4) (w : BitVec 5) (t : BitVec 1) (s : State) : Res :=
  planeOp st t (form2 d a b w .same) expandAnd s

/-- por. -/
def execPor (st : BitVec 3) (d a b : BitVec 4) (w : BitVec 5) (t : BitVec 1) (s : State) : Res :=
  planeOp st t (form2 d a b w .same) expandOr s

/-- pxor. -/
def execPxor (st : BitVec 3) (d a b : BitVec 4) (w : BitVec 5) (t : BitVec 1) (s : State) : Res :=
  planeOp st t (form2 d a b w .same) expandXor s

/-- pnot. -/
def execPnot (st : BitVec 3) (d a : BitVec 4) (w : BitVec 5) (t : BitVec 1) (s : State) : Res :=
  planeOp st t (form1 d a w none) expandNot s

/-- pmaj. -/
def execPmaj (st : BitVec 3) (d a b : BitVec 4) (w : BitVec 5) (t : BitVec 1) (s : State) : Res :=
  planeOp st t (form2 d a b w .same) expandMaj s

/-- psel: plane 0 of pb selects. -/
def execPsel (st : BitVec 3) (d a b : BitVec 4) (w : BitVec 5) (t : BitVec 1) (s : State) : Res :=
  planeOp st t { form2 d a b w .same with bWidth := 1, overB := .any } expandSel s

/-- pshl: the field holds k − 1. -/
def execPshl (st : BitVec 3) (d a k : BitVec 4) (w : BitVec 5) (t : BitVec 1) (s : State) : Res :=
  planeOp st t (form1 d a w none) (expandShift true (k.toNat + 1)) s

/-- pshr: the field holds k − 1. -/
def execPshr (st : BitVec 3) (d a k : BitVec 4) (w : BitVec 5) (t : BitVec 1) (s : State) : Res :=
  planeOp st t (form1 d a w none) (expandShift false (k.toNat + 1)) s

/-- pcopy. -/
def execPcopy (st : BitVec 3) (d a : BitVec 4) (w : BitVec 5) (t : BitVec 1) (s : State) : Res :=
  planeOp st t (form1 d a w none) expandCopy s

/-! ### prun (R176, R177) -/

/-- The words of a program from an address on, up to the first END, at most n of them. -/
def readProgram (va : X) : Nat → M (List X)
  | 0 => pure []
  | n + 1 => do
    let p ← access .load va 0 1
    let (v, _) ← liftRead (fun t => t.readAt p va 4 0 t.hartAgent)
    if v / 2 ^ 28 = 0 then pure [xOf v]
    else
      let rest ← readProgram (va + 4) n
      pure (xOf v :: rest)

/-- The three handle values of a prun, by operand space. -/
structure RunHandles where
  a : X
  b : X
  d : X

/-- The handle that an operand space names. -/
def RunHandles.get (h : RunHandles) (space : Nat) : X := if space = 0 then h.a else if space = 1 then h.b else h.d

/-- An operand: the source that it names at iteration n, with its scratch bit and whether it is a handle plane; none where it is
invalid for a run of w iterations (R177). -/
def runOperand (h : RunHandles) (w n op : Nat) : Option (RowSrc × Bool × Bool) :=
  let space := op / 256 % 8
  let indexed := op / 128 % 2 == 1
  let j := op % 32
  if op / 32 % 4 ≠ 0 then none
  else if space < 3 then
    let g := h.get space
    let last := if indexed then j + (w - 1) else j
    if hWidth g ≤ last then none else some (.row (hBase g + if indexed then j + n else j), hScratch g, true)
  else if indexed then none
  else if space = 3 then if j < 8 then some (.row (rowT j), false, false) else none
  else if space = 4 then
    if 8 ≤ j then none
    else some (.row (if j < 3 then rowM j else if j < 5 then rowD (j - 3) else if j = 5 then rowZ else if j = 6 then rowO else rowH),
      false, false)
  else if space = 5 then if j < 2 then some (.neg (rowD j), false, false) else none
  else none

/-- The row of a destination operand, none for one that is never written (R177). -/
def destRow (x : RowSrc) : Option Nat :=
  match x with
  | .row n => if n = rowZ ∨ n = rowO then none else some n
  | .neg _ => none

/-- The row operation of a program word at iteration n, none where the word is invalid (R177). END is `fin`. -/
def runWord (h : RunHandles) (w n word : Nat) : Option RowOp :=
  let op := word / 2 ^ 28 % 16
  let src := word / 2 ^ 17 % 2 ^ 11
  let dst := word / 2 ^ 6 % 2 ^ 11
  let both := fun (f : RowSrc → Nat → Bool → RowOp) =>
    match runOperand h w n src, runOperand h w n dst with
    | some (x, _, _), some (y, sc, _) => (destRow y).map fun r => f x r sc
    | _, _ => none
  if word % 64 ≠ 0 then none
  else if op = 0 then if src = 0 ∧ dst = 0 then some .fin else none
  else if op = 1 then both .aap
  else if op = 2 then if src = 0 ∧ dst = 0 then some .tra else none
  else if op = 3 then if dst = 0 then (runOperand h w n src).map fun x => .ap x.1 else none
  else if op = 4 then both .shl
  else if op = 5 then both .shr
  else if op = 6 then
    match runOperand h w n src with
    | some (.row r, _, true) => if dst = 0 then some (.chk r) else none
    | _ => none
  else if op = 7 then if src = 0 ∧ dst = 0 then some .sync else none
  else none

/-- The first invalid word of a program: its index (R176). -/
def firstInvalid (h : RunHandles) (w : Nat) : Nat → List X → Option Nat
  | _, [] => none
  | i, x :: rest => if (runWord h w 0 x.toNat).isNone then some i else firstInvalid h w (i + 1) rest

/-- Whether a program names the operand space of a handle (R176). -/
def namesSpace (space : Nat) (l : List X) : Bool :=
  l.any fun x =>
    let op := fieldOf x 28 4
    let two := op == 1 || op == 4 || op == 5
    ((two || op == 3 || op == 6) && fieldOf x 25 3 == space) || (two && fieldOf x 14 3 == space)

/-- prun (R176): its body, w times. Of a program that holds an invalid word and no END within 256 words, the invalid word is reported (DESIGN
CHOICE, log entry 70). -/
def execPrun (st : BitVec 3) (d a b : BitVec 4) (w : BitVec 5) (t : BitVec 1) (s : State) : Res :=
  runM (do
    let _ ← gate { st := st, srcs := .x 29 :: (if t = 1 then [.x 28] else []), pfxOk := false }
    awaitHandles [d, a, b]
    checkHandle d
    let x ← get
    let at_ := x.rX 29
    require (at_.toNat % 4 == 0) 0x0C0 at_
    let ws ← readProgram at_ 256
    let h : RunHandles := { a := (x.rP a).word, b := (x.rP b).word, d := (x.rP d).word }
    let n := w.toNat + 1
    match firstInvalid h n 0 ws with
    | some i => trap 0x209 (xOf (4 * i))
    | none => pure ()
    require (ws.getLast?.any (fun y => fieldOf y 28 4 == 0)) 0x209 1024
    let used := (if namesSpace 0 ws then [a] else []) ++ (if namesSpace 1 ws then [b] else [])
    checkHandles used
    checkGeometry d used
    let body := fun (i : Nat) => (ws.filterMap (fun y => runWord h n i y.toNat)).filter (· ≠ .fin)
    submit st h.d ((d :: used).map x.rP) ((List.range n).flatMap body) (decide (t = 1)) (24 + ws.length)) s

/-! ### Row-locks (R178, R179) -/

/-- plock (R178): an entry is reserved, and the lock is placed once no other hart holds a lock on the rows; a hart that waits again keeps its
place before those that came later. It is an acquire when it completes (R233, R243, R260). -/
def execPlock (st : BitVec 3) (a : BitVec 4) (m : BitVec 2) (s : State) : Res :=
  runM (do
    let _ ← gate { st := st, pfxOk := false }
    require (m != 0) 0x000 (zimm s.me.hart.word)
    awaitHandles [a]
    checkHandle a
    let x0 ← get
    let hid := x0.me.hart.hid
    set ((x0.dropReserved x0.pid hid).dropPlocker x0.pid hid)
    let x ← get
    let h := (x.rP a).word
    require (!x.locks.any (fun l => l.heldBy x.pid hid && l.covers h)) 0x207 (zimm a)
    require (decide ((x.locks.filter (fun l => l.stack == hStack h)).length < 64)) 0x206 (zimm a)
    let free := !x0.lockHeldBack x.pid hid h
    let l : LockEntry :=
      { stack := hStack h, id := x.nextId, pid := x.pid, hid := hid, handle := h, mode := m, placed := free, releasing := false,
        after := [] }
    let x1 : State := { x with locks := x.locks ++ [l], nextId := x.nextId + 1 }
    if free then do
      set x1
      modify State.acquire
      done st 0 (x.pc + 4)
    else do
      set { x1 with plockers := (x0.addPlocker x.pid hid h).plockers }
      throw (.wait (.plock l.id h))) s

/-- LOCK_PLACED (R178): the lock that a waiting plock reserved is placed, and the plock completes, as an acquire (R243). -/
def execLockPlaced (core slot : Nat) (s : State) : Res :=
  let s1 := s.focus core slot
  let h := s1.me.hart
  match s1.me.live, h.wait with
  | true, some (.plock id _) =>
    match s1.locks.find? (fun l => l.id == id && !l.placed && l.heldBy h.pid h.hid) with
    | some l =>
      if s1.lockHeldBack h.pid h.hid l.handle then .next s
      else
        let s2 : State := { s1.dropPlocker h.pid h.hid with locks := s1.locks.map fun q => if q.id = id then { q with placed := true } else q }
        .next (((s2.modHart fun h => { h with wait := none }).acquire).complete (h.word.extractLsb' 23 3) 0 (s2.pc + 4))
    | none => .next s
  | _, _ => .next s

/-- punlock (R179): it finds the lock by its bank set, subarray and rows, and completes at acceptance, before which the hart issues on (R54,
Table 7 of 19_program_ternary_softmax). -/
def execPunlock (st : BitVec 3) (a : BitVec 4) (s : State) : Res :=
  runM (do
    let _ ← gate { st := st, pfxOk := false }
    awaitHandles [a]
    let x ← get
    let h := (x.rP a).word
    let same := fun (l : LockEntry) => sameGeometry l.handle h && fieldOf l.handle 17 15 == fieldOf h 17 15
    require (hValid h && x.locks.any (fun l => l.placed && l.heldBy x.pid x.me.hart.hid && same l)) 0x208 (zimm a)
    set (x.beginRelease x.pid x.me.hart.hid (x.cycle + if hStack h = stackOf x.me.core then 8 else 40) same)
    done st 0 (x.pc + 4)) s

/-- Whether a lock that is being released can be (R179). -/
def State.lockDone (s : State) (l : LockEntry) : Bool :=
  l.releasing && decide (l.from_ ≤ s.cycle) && !(s.seq ++ s.parts.flatMap (fun p => p.heldSeq)).any (fun o => decide (o.id ∈ l.after))

/-- LOCK_RELEASE (R179). -/
def execLockRelease (stack lock : Nat) (s : State) : Res :=
  match s.locks.find? (fun l => l.stack == stack && l.id == lock) with
  | some l =>
    if s.lockDone l then .next (({ s with locks := s.locks.filter (fun q => q.id != lock) } : State).serveWaiting 4096)
    else .next s
  | none => .next s

/-- Whether some accepted plane instructions have completed. -/
def State.drained (s : State) (ops : List Nat) : Bool := ops.all fun i => (s.seqOp? i).isNone

/-- Whether a hart has an accepted plane instruction that has not completed (R180). -/
def State.planesOf (s : State) (pid : Nat) (hid : BitVec 32) : Bool := s.seq.any fun o => o.pid == pid && o.hid == hid

/-- pfence (R180): an acquire of what the hart's plane instructions have written (R230, R233, R260). -/
def execPfence (st : BitVec 3) (s : State) : Res :=
  runM (do
    let _ ← gate { st := st, pfxOk := false }
    let x ← get
    if x.planesOf x.pid x.me.hart.hid then throw (.wait .planes)
    else do
      modify State.acquire
      done st 0 (x.pc + 4)) s

/-! ### Handles (R163, R164) -/

/-- The shape of a descriptor: columns, dies, width (R163). -/
structure PlaneDesc where
  scratch : Bool
  colLo : Nat
  colHi : Nat
  nd : Nat
  w : Nat
deriving DecidableEq, Repr

/-- The fields of a descriptor. -/
def planeDesc (x : X) : PlaneDesc :=
  { scratch := bitAt x 23, colLo := fieldOf x 16 7, colHi := fieldOf x 9 7, nd := fieldOf x 5 4 + 1, w := fieldOf x 0 5 + 1 }

/-- Whether a descriptor is valid (R163). -/
def validDesc (x : X) : Bool :=
  let g := planeDesc x
  fieldOf x 24 40 == 0 && decide (g.colLo ≤ g.colHi) && decide ((g.colHi + 1 - g.colLo) * g.nd ≤ 1024)

/-- Whether the block of plane i in die offset e, at a translated address, lies where block (0, 0) puts it (R163). -/
def blockFits (g : PlaneDesc) (first : Nat) (p : Phys) (i e : Nat) : Bool :=
  isDram p.pa && p.plane && !p.managed && paStack p.pa == paStack first && paSub p.pa == paSub first &&
    paDie p.pa == paDie first + e && rowOf p.pa == rowOf first + i && decide (rowOf first + g.w ≤ 1008)

/-- The handle value that a descriptor and the address of block (0, 0) make (R163). -/
def handleWord (g : PlaneDesc) (first : Nat) : X :=
  xOf (2 ^ 63 + paStack first * 2 ^ 60 + b2n g.scratch * 2 ^ 59 + g.colLo * 2 ^ 52 + g.colHi * 2 ^ 45 + paDie first * 2 ^ 41 +
    (paDie first + g.nd - 1) * 2 ^ 37 + paSub first * 2 ^ 32 + rowOf first * 2 ^ 22 + (g.w - 1) * 2 ^ 17)

/-- The blocks of a descriptor, by their numbers in ascending order, translated with write permission (R163). -/
def translateBlocks (base : X) : List Nat → M (List Phys)
  | [] => pure []
  | n :: rest => do
    let s ← get
    let va := base + xOf (n * 2 ^ 17)
    match s.translate s.me.core s.pid s.me.hart.prv .otherWrite va s.hartAgent with
    | (.error (.fault f), s1) => do
      set s1
      throw (.trap (f.trap .otherWrite va 0 1 1))
    | (.error (.busy pa), s1) => do
      set s1
      throw (.wait (.bank pa true))
    | (.ok p, s1) => do
      set s1
      let l ← translateBlocks base rest
      pure (p :: l)

/-- The number and address of the first block, from number n on, that does not lie where block (0, 0) puts it (R163). -/
def misplacedBlock (g : PlaneDesc) (first : Nat) : Nat → List Phys → Option Nat
  | _, [] => none
  | n, p :: rest => if blockFits g first p (n / g.nd) (n % g.nd) then misplacedBlock g first (n + 1) rest else some n

/-- Whether a descriptor whose blocks all lie where they should is still refused (R354): the pages of plane mode hold four dies each, so that
the number of dies and the first of them are multiples of 4. -/
def offPage (g : PlaneDesc) (first : Nat) : Bool := g.nd % 4 != 0 || paDie first % 4 != 0

/-- phset (R163, R354): every block is translated before the layout of any is checked. A descriptor that R354 refuses though no block breaks the
checks of R163 traps with the address of its first block (DEDUCED, log entry 60). The handle is ready 20 cycles after issue, and 2 more for
each page. -/
def execPhset (st : BitVec 3) (d : BitVec 4) (a b : BitVec 5) (s : State) : Res :=
  runM (do
    let _ ← gate { st := st, srcs := [.x a, .x b], pfxOk := false }
    let x ← get
    let va := x.rX a
    let desc := x.rX b
    require (validDesc desc) 0x203 desc
    require (va.toNat % 2 ^ 17 == 0) 0x0C0 va
    let g := planeDesc desc
    awaitHandles [d]
    let blocks ← translateBlocks va (List.range (g.w * g.nd))
    let first := (blocks.head?.map (fun p => p.pa)).getD 0
    match misplacedBlock g first 0 blocks with
    | some n => trap 0x203 (va + xOf (n * 2 ^ 17))
    | none => require (!offPage g first) 0x203 va
    let pages := ((List.range (g.w * g.nd)).map (fun n => (va.toNat + n * 2 ^ 17) / 2 ^ 19)).dedup.length
    modify (State.modHart fun h =>
      { h with p := h.p.set d.toNat { word := handleWord g first, va := va },
               pready := h.pready.filter (fun q => q.1 != d.toNat) ++ [(d.toNat, x.cycle + 20 + 2 * pages)] })
    done st 0 (x.pc + 4)) s

/-- phget (R164). -/
def execPhget (st : BitVec 3) (d : BitVec 5) (p : BitVec 4) (s : State) : Res :=
  runM (do
    let _ ← gate { st := st, dst := .x d, pfxOk := false }
    awaitHandles [p]
    let x ← get
    putX d (x.rP p).word false 1 true
    done st 0 (x.pc + 4)) s

/-! ### vldp (R110) -/

/-- Bit lane l of plane m of a handle, with the correction of the bank unless the handle is scratch (R110, R331). A row that is still marked as
scratch is delivered as it is stored through any handle, since its check columns are not those of its data (DESIGN CHOICE, log entry 61). -/
def readLane (h : Handle) (l m : Nat) : M Nat := do
  let s ← get
  let (die, col, bit) := laneOf h.word l
  let pa := hStack h.word * 2 ^ 36 + hSub h.word * 2 ^ 31 + (hBase h.word + m) * 2 ^ 21 + die * 2 ^ 17 + col * 2 ^ 10 + bit / 8
  set (s.unhold pa 1 false)
  if hScratch h.word || s.scratchMarked pa then pure (s.rowBits (pa / 1024 * 1024) / 2 ^ bit % 2)
  else
    let va := h.va + xOf ((m * hDies h.word + (die - hDieLo h.word)) * 2 ^ 17 + col * 2 ^ 10 + bit / 8)
    let p : Phys := { pa := pa, managed := false, plane := true, cached := false }
    let (v, _) ← liftRead (fun t => t.readRaw p va 1 t.hartAgent)
    pure (v / 2 ^ (bit % 8) % 2)

/-- The planes of a lane from m on, n of them, as a number. -/
def readLanes (h : Handle) (l m : Nat) : Nat → M Nat
  | 0 => pure 0
  | n + 1 => do
    let b ← readLane h l m
    let rest ← readLanes h l (m + 1) n
    pure (b + 2 * rest)

/-- Whether a bank of a handle's set is mapped out (R110, R340). -/
def State.setLost (s : State) (h : X) : Bool := (bankBases h).any s.dramLost

/-- vldp (R110). -/
def execVldp (st : BitVec 3) (d : BitVec 5) (p : BitVec 4) (b : BitVec 5) (k : BitVec 3) (s : State) : Res :=
  runVector { st := st, k := k, rs := [.x b], dst := .v d, writes := [d] } (do
    awaitHandles [p]
    let x ← get
    let h := x.rP p
    let w := hWidth h.word
    let sew := x.me.vec.width
    let first := (x.rX b).toNat
    require (hValid h.word && !hStale h.word && !x.setLost h.word) 0x200 (zimm p)
    require (decide (first + x.me.vec.vl.toNat ≤ laneCount h.word)) 0x201 (zimm p)
    require (decide (w ≤ sew)) 0x202 (zimm p)
    if x.rowsWait x.pid x.me.hart.hid h.word then throw (.wait (.rows h.word))
    let _ ← elementwise (x.actives k x.es) (fun i => do
      let v ← readLanes h (first + i) 0 w
      pure (v, 0)) (fun l => putElems d sew l (24 + 48 * w) false)) s

end Sys2Proof.Machine
end

