-- ==== Sys2Proof/Machine/LoadStore.lean ====
section
/-! DEFINITION. Scalar loads, stores and pref (R81 to R85, R368), and the ordered accesses and fences of major 0x19 (R200 to
R202). -/

namespace Sys2Proof.Machine

/-- The crossings between neighbouring stacks on a route from one stack to another, a shortest path that avoids every mapped-out stack
(R319, R341). -/
def State.crossings (s : State) (a b : Nat) : Nat :=
  ((List.range 8).find? fun n => decide (b ∈ reach (aliveStacks s.fw.lost) n [a])).getD 0

/-- Whether the home of an address holds what an access to it touches: the line, and of a T3 line that half (R312, R318). -/
def State.halfHeld (s : State) (pa : Nat) : Bool :=
  (s.lineAt pa).any fun k => if pa % 128 < 64 then k.lowHalf else k.highHalf

/-- The cycles for which the bus of a column carries no transfer of a line yet (R337). -/
def State.busRest (s : State) (pa : Nat) : Nat := ((s.buses.lookup { stack := paStack pa, column := paCol pa }).getD 0) - s.cycle

/-- What the place of a line adds to a load that its bank serves: the crossings to another stack, counted for both directions together, and a
miss, with the rest of a repeat on the column's bus (R319, R320, R337, R368). A T3 half that the bridge does not hold takes the least that
R320 gives (log entry 11). -/
def State.farther (s : State) (p : Phys) : Nat :=
  20 * s.crossings (stackOf s.me.core) (s.homeStack p.pa) +
    (if isScratch p.pa || s.halfHeld p.pa then 0 else if inT3 p.pa then 400 else 52 + s.busRest p.pa)

/-- Whether a word lies in a DRAM row that a load must open (R320). -/
def State.rowMissed (s : State) (pa : Nat) : Bool := isDram pa && !s.halfHeld pa

/-- What the lines of a tile transfer add to its time: 52 cycles for each DRAM row missed, and the most that translations, other stacks and far
devices add to one line, once (R156, R319, R320). -/
def State.tileFarther (s : State) (l : List Phys) : Nat :=
  52 * ((l.filter fun p => s.rowMissed p.pa).map (fun p => p.pa / 1024)).dedup.length +
    (l.map fun p => p.delay + s.farther p - (if s.rowMissed p.pa then 52 else 0)).foldl max 0

/-- The cycles after which a word served at the home of its line is ready, with what its translation adds (R303, R305, R368). -/
def State.homeLatency (s : State) (p : Phys) : Nat := p.delay + 40 + s.farther p

/-- The cycles after which a load's result is ready: a hit in the L1 data cache, or a line served at its home (R368). -/
def State.loadLatency (s : State) (p : Phys) : Nat :=
  if s.me.core ∈ (s.dirAt p.pa).data then p.delay + 4 else s.homeLatency p

/-- A scalar load of 2^l bytes at an address: alignment, translation, poison, then the value, extended, with the reference tag
of a 64-bit load of a word tagged 01 (R81). -/
def loadX (d : BitVec 5) (va : X) (l : Nat) (zext : Bool) (hint : Nat) : M Unit := do
  require (va.toNat % 2 ^ l == 0) 0x0C0 va
  let p ← access .load va 0 1
  let s ← get
  let lat := s.loadLatency p
  let (v, tag) ← liftRead (fun t => t.readAt p va (2 ^ l) hint t.hartAgent)
  let r := if zext then xOf v else xOf (ofIntBits 64 (sextNat (8 * 2 ^ l) v))
  putX d r (l == 3 && tag == 1) lat false

/-- A scalar store of 2^l bytes of x[d] at an address, in the check order of R81. -/
def storeX (d : BitVec 5) (va : X) (l hint : Nat) : M Unit := do
  require (va.toNat % 2 ^ l == 0) 0x0C0 va
  let p ← access .store va 0 1
  let s ← get
  if p.managed && tagAt s.tags (p.pa / 8) == 3 && decide (l < 3) then throw (.trap (s.errorTrap 0x301 va p.pa true))
  let isRef := p.managed && l == 3 && s.rTag d
  if isRef then escapeCheck p va (s.rX d) d
  liftRead (fun t => t.writeAt p va (2 ^ l) ((s.rX d).toNat % 2 ^ (8 * 2 ^ l)) (if isRef then 1 else 0) hint t.hartAgent)
  modify (State.noteStoreAt va p.pa (2 ^ l))

/-- A load of major 0x0C with its hint (R81, R84). Hints change no value (R83). -/
def loadOp (st : BitVec 3) (d a : BitVec 5) (disp : BitVec 8) (l : Nat) (zext : Bool) (hint : BitVec 2)
    (s : State) : Res :=
  runScalar { st := st, srcs := [.x a], dst := .x d } (do
    let t ← get
    loadX d (scalarAddr (t.rX a) disp l) l zext hint.toNat
    pure (t.pc + 4)) s

/-- A store of major 0x0D (R81): d names the data source. -/
def storeOp (st : BitVec 3) (d a : BitVec 5) (disp : BitVec 8) (l : Nat) (hint : BitVec 2) (s : State) : Res :=
  runScalar { st := st, srcs := [.x a, .x d] } (do
    let t ← get
    storeX d (scalarAddr (t.rX a) disp l) l hint.toNat
    pure (t.pc + 4)) s

/-- lb (R81). -/
def execLb (st : BitVec 3) (d a : BitVec 5) (h : BitVec 2) (i : BitVec 8) (s : State) : Res :=
  loadOp st d a i 0 false h s

/-- lh (R81). -/
def execLh (st : BitVec 3) (d a : BitVec 5) (h : BitVec 2) (i : BitVec 8) (s : State) : Res :=
  loadOp st d a i 1 false h s

/-- lw (R81). -/
def execLw (st : BitVec 3) (d a : BitVec 5) (h : BitVec 2) (i : BitVec 8) (s : State) : Res :=
  loadOp st d a i 2 false h s

/-- ld (R81). -/
def execLd (st : BitVec 3) (d a : BitVec 5) (h : BitVec 2) (i : BitVec 8) (s : State) : Res :=
  loadOp st d a i 3 false h s

/-- lbn (R81). -/
def execLbn (st : BitVec 3) (d a : BitVec 5) (h : BitVec 2) (i : BitVec 8) (s : State) : Res :=
  loadOp st d a i 0 true h s

/-- lhn (R81). -/
def execLhn (st : BitVec 3) (d a : BitVec 5) (h : BitVec 2) (i : BitVec 8) (s : State) : Res :=
  loadOp st d a i 1 true h s

/-- lwn (R81). -/
def execLwn (st : BitVec 3) (d a : BitVec 5) (h : BitVec 2) (i : BitVec 8) (s : State) : Res :=
  loadOp st d a i 2 true h s

/-- sb (R81). -/
def execSb (st : BitVec 3) (d a : BitVec 5) (h : BitVec 2) (i : BitVec 8) (s : State) : Res :=
  storeOp st d a i 0 h s

/-- sh (R81). -/
def execSh (st : BitVec 3) (d a : BitVec 5) (h : BitVec 2) (i : BitVec 8) (s : State) : Res :=
  storeOp st d a i 1 h s

/-- sw (R81). -/
def execSw (st : BitVec 3) (d a : BitVec 5) (h : BitVec 2) (i : BitVec 8) (s : State) : Res :=
  storeOp st d a i 2 h s

/-- sd (R81). -/
def execSd (st : BitVec 3) (d a : BitVec 5) (h : BitVec 2) (i : BitVec 8) (s : State) : Res :=
  storeOp st d a i 3 h s

/-- A line prefetched into its home column bank, and for tier 0 into the hart's L1 as well (R85, R321): nothing for an
uncached or plane-mode line, for scratch, and for tier 2 outside T3. A line already present keeps its state. -/
def State.prefetchLine (p : Phys) (tier : Nat) (cold : Bool) (core : Option Nat) (a : Agent) (s : State) : State :=
  if p.cacheable && (isDram p.pa || inT3 p.pa) && (tier != 2 || inT3 p.pa) then
    let s1 := (s.unhold (p.pa / 128 * 128) 128 false).probe p.pa false
    let s2 := s1.placeLine p.pa 128 true false cold a
    match core with
    | some c =>
      if tier = 0 ∧ s2.l1MayHold p.pa then s2.putDir { s2.dirAt p.pa with data := insertNew (s2.dirAt p.pa).data c } else s2
    | none => s2
  else s

/-- The request of a prefetch sent for the line at an address (R85, R118): an address that cannot be used sends none, and a walk that must wait
is waited for, since the request names a line (R301). A request that its bank does not serve at once, or that would have to wait for a row-lock,
places no line, and nothing waits for it (R169; DESIGN CHOICE, log entry 66). -/
def sendPrefetch (k : Access) (va : X) (tier : Nat) (core : Option Nat) : M Unit := do
  let s ← get
  match s.translate s.me.core s.pid s.me.hart.prv k va s.hartAgent with
  | (.ok p, t) =>
    if p.plane || !p.cached || t.unitOf p.pa t.me.hart.hid t.pid != .serve then set t
    else set (t.prefetchLine p tier false core t.hartAgent)
  | (.error (.busy pa), t) => do
    set t
    throw (.wait (.bank pa true))
  | (.error (.fault _), _) => pure ()

/-- pref (R85): it never traps on its address; an address that it cannot use, misaligned ones included, makes it complete
with no effect, and it completes when its request has been sent. -/
def execPref (st : BitVec 3) (tier : BitVec 2) (a : BitVec 5) (i : BitVec 8) (s : State) : Res :=
  runScalar { st := st, srcs := [.x a] } (do
    let t ← get
    let va := scalarAddr (t.rX a) i 3
    if va.toNat % 8 = 0 then sendPrefetch .load va tier.toNat (some t.me.core)
    pure (t.pc + 4)) s

/-! ### Ordered accesses and fences -/

/-- What an order at a scope does in a model that performs every access in program order (log entry 3): .sc draws a ticket (R200, R237),
.rel, .ar and .sc release at the scope (R246), and .acq, .ar and .sc acquire. -/
def State.orderEffect (o : BitVec 3) (c : BitVec 4) (s : State) : State :=
  let s1 : State := if o = 4 then { s with tickets := s.tickets + 1 } else s
  let s2 := if o = 2 ∨ o = 3 ∨ o = 4 then s1.release c.toNat else s1
  if o = 1 ∨ o = 3 ∨ o = 4 then s2.acquire else s2

/-- What an order does with a store (log entry 3): .sc draws a ticket, .rel and .sc release at the scope. It reads nothing that it could
acquire, so that it ends no load entry (R260); under .sc no later access is performed before it, so that what has been read ahead is read again
(R117, R200). -/
def State.storeOrder (o : BitVec 3) (c : BitVec 4) (s : State) : State :=
  let s1 : State := if o = 4 then { s with tickets := s.tickets + 1 } else s
  let s2 := if o = 2 ∨ o = 3 ∨ o = 4 then s1.release c.toNat else s1
  if o = 1 ∨ o = 3 ∨ o = 4 then s2.keepAhead (fun _ => false) else s2

/-- Ordered load (R201): the load of R81 with displacement 0, then the order's effect. -/
def execOrderedLoad (st : BitVec 3) (d a : BitVec 5) (c : BitVec 4) (o t : BitVec 3) (s : State) : Res :=
  runScalar { st := st, srcs := [.x a], dst := .x d, pfxOk := false } (do
    let u ← get
    loadX d (u.rX a) (t.toNat % 4) (decide (4 ≤ t.toNat)) 0
    modify (State.orderEffect o c)
    pure (u.pc + 4)) s

/-- Ordered store (R201): the store of R81 with displacement 0, then the order's effect. -/
def execOrderedStore (st : BitVec 3) (d a : BitVec 5) (c : BitVec 4) (o t : BitVec 3) (s : State) : Res :=
  runScalar { st := st, srcs := [.x a, .x d], pfxOk := false } (do
    let u ← get
    storeX d (u.rX a) (t.toNat % 4) 0
    modify (State.storeOrder o c)
    pure (u.pc + 4)) s

/-- fence (R202). -/
def execFence (st : BitVec 3) (c : BitVec 4) (o : BitVec 3) (s : State) : Res :=
  runScalar { st := st, pfxOk := false } (do
    let u ← get
    modify (State.orderEffect o c)
    pure (u.pc + 4)) s

end Sys2Proof.Machine
end

