-- ==== Sys2Proof/Machine/Sync.lean ====
section
/-! DEFINITION. Barriers and hart sets (R209 to R211, R275), watermarks (R212 to R214), waitm (R215), engine FIFOs (R216, R217) and
nests (R218 to R221). -/

namespace Sys2Proof.Machine

/-! ### Barriers -/

/-- The state of a barrier; e, n and the phase are 0 and nothing is bound until it is set (R209). -/
def State.barrier (s : State) (b : Nat) : Barrier :=
  (s.barriers.find? (fun k => k.n == b)).getD
    { n := b, pid := 0, expect := 0, arrived := 0, phase := 0, bound := 0, who := [] }

/-- s with the state of a barrier replaced. -/
def State.setBarrier (k : Barrier) (s : State) : State :=
  { s with barriers := s.barriers.filter (fun o => o.n != k.n) ++ [k] }

/-- Whether a partition holds a barrier: every barrier of a core that it holds alone, one half of those of a core that it
shares, by the order in which the partitions were granted the core (R209). -/
def State.holdsBarrier (s : State) (pid b : Nat) : Bool :=
  let core := b / 512
  let sharers := s.parts.filter (fun p => p.cfg.cores.any (fun c => c.core == core))
  match sharers with
  | [p] => p.pid == pid
  | p :: q :: _ =>
    let (first, second) := if q.grantNo core < p.grantNo core then (q, p) else (p, q)
    if b % 512 < 256 then first.pid == pid else second.pid == pid
  | [] => false

/-- A barrier whose phase completes when enough have arrived (R210). -/
def Barrier.settle (k : Barrier) : Barrier :=
  if k.expect ≠ 0 ∧ k.expect.toNat ≤ k.arrived.toNat then { k with arrived := 0, phase := k.phase + 1, who := [], renewed := false } else k

/-- An arrival (R210). -/
def Barrier.arrive (hid : BitVec 32) (k : Barrier) : Barrier :=
  ({ k with arrived := k.arrived + 1, who := k.who ++ [hid] } : Barrier).settle

/-- Whether the phase that a token names has passed: (phase − token) mod 2^w is 1 to 2^(w − 1) (R210). -/
def phasePassed (phase token : BitVec 32) (short : Bool) : Bool :=
  let w := if short then 16 else 32
  let d := (phase - token).toNat % 2 ^ w
  decide (1 ≤ d) && decide (d ≤ 2 ^ (w - 1))

/-- Whether a hart that waits at a barrier is woken (R210): the phase of its token has passed, by the completion of a phase. -/
def Barrier.wakes (k : Barrier) (token : BitVec 32) (short : Bool) : Bool := phasePassed k.phase token short && !k.renewed

/-- The barrier that x[a] names, after the checks of R209. -/
def namedBarrier (a : BitVec 5) : M Barrier := do
  let t ← get
  let x := t.rX a
  require (x.toNat < 65536) 0x280 x
  require (t.holdsBarrier t.pid x.toNat) 0x281 x
  pure (t.barrier x.toNat)

/-- The number of members of a hart set (R211). -/
def State.membership (s : State) (pid : Nat) (set : BitVec 16) : Nat :=
  ((s.part? pid).map (fun p => (p.sets.filter (fun m => m.1 == set)).length)).getD 0

/-- barinit (R210). -/
def execBarinit (st : BitVec 3) (d a : BitVec 5) (s : State) : Res :=
  runScalar { st := st, srcs := [.x a, .x d], pfxOk := false } (do
    let k ← namedBarrier a
    let t ← get
    let c := (t.rX d).toNat
    require (decide (1 ≤ c) && decide (c < 65536)) 0x280 (t.rX d)
    set (t.setBarrier { k with pid := t.pid, expect := BitVec.ofNat 32 c, arrived := 0, phase := 0, bound := 0, who := [], renewed := true })
    pure (t.pc + 4)) s

/-- barbind (R210): it binds the set of x[s][11:0] and discards the arrivals. -/
def execBarbind (st : BitVec 3) (d a : BitVec 5) (s : State) : Res :=
  runScalar { st := st, srcs := [.x a, .x d], pfxOk := false } (do
    let k ← namedBarrier a
    let t ← get
    let x := t.rX d
    let set16 : BitVec 16 := BitVec.ofNat 16 (fieldOf x 0 12)
    let e := if x = 0 then k.expect else BitVec.ofNat 32 (t.membership t.pid set16)
    set (t.setBarrier { k with pid := t.pid, bound := set16, expect := e, arrived := 0, who := [] })
    pure (t.pc + 4)) s

/-- bararr (R210): it releases at its scope, and the token is the phase before the arrival, ready 2 cycles after issue (DESIGN CHOICE, log
entry 41). -/
def execBararr (st : BitVec 3) (d a : BitVec 5) (c : BitVec 4) (s : State) : Res :=
  runScalar { st := st, srcs := [.x a], dst := .x d, pfxOk := false } (do
    let k ← namedBarrier a
    let t ← get
    require (!(k.bound == 0 && k.expect == 0)) 0x282 (t.rX a)
    set ((t.release c.toNat).setBarrier (k.arrive t.me.hart.hid))
    putX d (zimm k.phase) false 2 false
    pure (t.pc + 4)) s

/-- barwait (R210): it completes when the phase of its token has passed, and acquires. -/
def execBarwait (st : BitVec 3) (d a : BitVec 5) (_c : BitVec 4) (s : State) : Res :=
  runScalar { st := st, srcs := [.x a, .x d], pfxOk := false } (do
    let k ← namedBarrier a
    let t ← get
    let token : BitVec 32 := (t.rX d).setWidth 32
    if phasePassed k.phase token false then
      set t.acquire
      pure (t.pc + 4)
    else throw (.wait (.barrier k.n token false))) s

/-- barsync (R210): a release at its scope and an arrival, marked in es while it waits, then the wait for its phase, of which the mark holds 16
bits and the wait itself all, and the acquire. -/
def execBarsync (st : BitVec 3) (a : BitVec 5) (c : BitVec 4) (s : State) : Res :=
  runScalar { st := st, srcs := [.x a], pfxOk := false } (do
    let k ← namedBarrier a
    let t ← get
    let marked := t.me.hart.es.getLsbD 17
    require (marked || !(k.bound == 0 && k.expect == 0)) 0x282 (t.rX a)
    let token : BitVec 32 := if marked then (t.me.hart.es.extractLsb' 0 16).setWidth 32 else k.phase
    let k1 := if marked then k else k.arrive t.me.hart.hid
    let t1 := (if marked then t else t.release c.toNat).setBarrier k1
    if phasePassed k1.phase token marked then
      set t1.acquire
      pure (t.pc + 4)
    else
      set (t1.modHart fun h => { h with es := BitVec.ofNat 18 (2 ^ 17 + token.toNat % 2 ^ 16) })
      throw (.wait (.barrier k.n token marked))) s

/-- Whether the hart of a slot waits at a barrier for a phase that has passed. -/
def State.passes (s : State) (barrier : Nat) (o : Slot) : Bool :=
  o.live && s.runs o.hart.pid && o.hart.wait.any fun w =>
    match w with
    | .barrier n token short => n == barrier && (s.barrier n).wakes token short
    | _ => false

/-- BARRIER_PHASE_RELEASE (R210, R224): the residents that wait at a barrier for a phase that has passed complete their instruction, with its
acquire. -/
def execBarrierPhaseRelease (barrier : Nat) (s : State) : Res :=
  .next ((s.slots.filter (s.passes barrier)).foldl (fun t o => (t.focus o.core o.idx).acquire.completeWait) s)

/-! ### Hart sets -/

/-- A barrier after a hart of a set has joined it or left it (R211). -/
def Barrier.follow (pid : Nat) (set : BitVec 16) (hid : BitVec 32) (joins dissolved : Bool) (k : Barrier) : Barrier :=
  if k.bound = set ∧ k.pid = pid then
    if joins then ({ k with expect := k.expect + 1 } : Barrier).settle
    else
      let arrivedToo := hid ∈ k.who
      ({ k with expect := if dissolved then 0 else k.expect - 1,
                arrived := if arrivedToo then k.arrived - 1 else k.arrived,
                who := k.who.filter (fun h => h != hid) } : Barrier).settle
  else k

/-- A hart joins a set (R211). -/
def State.joinSet (pid : Nat) (hid : BitVec 32) (set : BitVec 16) (s : State) : State :=
  { (s.modPart pid fun p => { p with sets := p.sets ++ [(set, hid)] }) with
    barriers := s.barriers.map (Barrier.follow pid set hid true false) }

/-- A hart leaves a set, which is dissolved with its last member (R211). -/
def State.leaveSet (pid : Nat) (hid : BitVec 32) (set : BitVec 16) (s : State) : State :=
  { (s.modPart pid fun p => { p with sets := p.sets.filter (fun m => m ≠ (set, hid)) }) with
    barriers := s.barriers.map (Barrier.follow pid set hid false (decide (s.membership pid set ≤ 1))) }

/-- The sets that a hart is a member of. -/
def State.setsOf (s : State) (pid : Nat) (hid : BitVec 32) : List (BitVec 16) :=
  ((s.part? pid).map (fun p => (p.sets.filter (fun m => m.2 == hid)).map (fun m => m.1))).getD []

/-- The hart set that x[a] names, after the check of R211. -/
def namedSet (a : BitVec 5) : M (BitVec 16) := do
  let t ← get
  let x := t.rX a
  require (decide (1 ≤ x.toNat) && decide (x.toNat < 4096)) 0x284 x
  pure (x.setWidth 16)

/-- The stack of a partition's hart-set table: the lowest in which it holds a core (R275). -/
def State.tableStack (s : State) (pid : Nat) : Nat :=
  (((s.part? pid).map (fun p => p.cfg.cores.map (fun c => stackOf c.core))).getD []).foldr min 7

/-- The cycles in which a join or leave of the hart in focus reaches the table (R275). -/
def State.tableDelay (s : State) : Nat := if s.tableStack s.pid = stackOf s.me.core then 40 else 120

/-- join (R211): it completes when the table has been updated (R275). -/
def execJoinSet (st : BitVec 3) (a : BitVec 5) (s : State) : Res :=
  runM (do
    let _ ← gate { st := st, srcs := [.x a], pfxOk := false }
    let g ← namedSet a
    let t ← get
    let mine := t.setsOf t.pid t.me.hart.hid
    if g ∉ mine then
      require (mine.length < 8) 0x285 (t.rX a)
      set (t.joinSet t.pid t.me.hart.hid g)
    done st t.tableDelay (t.pc + 4)) s

/-- leave (R211): it completes when the table has been updated (R275). -/
def execLeaveSet (st : BitVec 3) (a : BitVec 5) (s : State) : Res :=
  runM (do
    let _ ← gate { st := st, srcs := [.x a], pfxOk := false }
    let g ← namedSet a
    let t ← get
    if g ∈ t.setsOf t.pid t.me.hart.hid then set (t.leaveSet t.pid t.me.hart.hid g)
    done st t.tableDelay (t.pc + 4)) s

/-! ### Watermarks -/

/-- The state of a watermark; every field is 0 until wmset (log entry 9). -/
def State.watermark (s : State) (w : Nat) : Watermark :=
  (s.watermarks.find? (fun k => k.n == w)).getD
    { pid := 0, n := w, base := 0, elems := 0, esz := 0, scope := 0, count := 0 }

/-- s with the state of a watermark replaced. -/
def State.setWatermark (k : Watermark) (s : State) : State :=
  { s with watermarks := s.watermarks.filter (fun o => o.n != k.n) ++ [k] }

/-- Whether a partition holds a watermark (R212, R344). -/
def State.holdsWatermark (s : State) (pid w : Nat) : Bool :=
  ((s.part? pid).map (fun p => decide (w ∈ p.cfg.watermarks))).getD false

/-- The watermark that x[w] names, after the check of R212. -/
def namedWatermark (w : BitVec 5) : M Watermark := do
  let t ← get
  let x := t.rX w
  require (decide (x.toNat < 256) && t.holdsWatermark t.pid x.toNat) 0x283 x
  pure (t.watermark x.toNat)

/-- wmset (R212): d names the watermark, a the descriptor's address. -/
def execWmset (st : BitVec 3) (w a : BitVec 5) (s : State) : Res :=
  runScalar { st := st, srcs := [.x w, .x a], pfxOk := false } (do
    let k ← namedWatermark w
    let t ← get
    let va := t.rX a
    require (va.toNat % 32 == 0) 0x0C0 va
    let ws ← readWords va 4
    let base := ws.getD 0 0
    let elems := ws.getD 1 0
    let esz := ws.getD 2 0
    require (base.toNat % 128 == 0 && decide (1 ≤ elems.toNat) && decide (elems.toNat ≤ 2 ^ 40) && decide (esz.toNat < 4) &&
      ws.getD 3 0 == 0) 0x286 va
    modify (State.setWatermark { k with pid := t.pid, base := base, elems := elems, esz := esz, count := 0 })
    pure (t.pc + 4)) s

/-- wmadv (R213): a release at its scope; count never decreases and the scope is recorded. -/
def execWmadv (st : BitVec 3) (w a : BitVec 5) (c : BitVec 4) (s : State) : Res :=
  runScalar { st := st, srcs := [.x w, .x a], pfxOk := false } (do
    let k ← namedWatermark w
    let t ← get
    set ((t.release c.toNat).setWatermark { k with count := xOf (max k.count.toNat (min (t.rX a).toNat k.elems.toNat)), scope := c })
    pure (t.pc + 4)) s

/-- wmrd (R213): d is the destination, a the watermark; the count is ready 2 cycles after issue (DESIGN CHOICE, log entry 41). -/
def execWmrd (st : BitVec 3) (d w : BitVec 5) (s : State) : Res :=
  runScalar { st := st, srcs := [.x w], dst := .x d, pfxOk := false } (do
    let k ← namedWatermark w
    putX d k.count false 2 false
    let t ← get
    pure (t.pc + 4)) s

/-- The hart of a slot released from a wait. -/
def Slot.wake (cycle : Nat) (o : Slot) : Slot :=
  { o with hart := { o.hart with wait := none, readyAt := max o.hart.readyAt cycle } }

/-- s with the hart of a named slot released where its wait satisfies a condition. -/
def State.wakeSlot (core slot : Nat) (ok : Wait → Bool) (s : State) : State :=
  s.mapSlots fun o => if o.core == core && o.idx == slot && o.live && o.hart.wait.any ok then o.wake s.cycle else o

/-- WATERMARK_WAIT_END: a load that waits on a watermark whose count now covers its element goes on, and
acquires (R214, R260). -/
def execWatermarkWaitEnd (core slot : Nat) (s : State) : Res :=
  let ok := fun (w : Wait) =>
    match w with
    | .watermark n c => decide (c ≤ (s.watermark n).count.toNat)
    | _ => false
  if s.slots.any (fun o => o.core == core && o.idx == slot && o.live && o.hart.wait.any ok) then
    .next ((s.wakeSlot core slot ok).focus core slot).acquire
  else .next s

/-! ### waitm -/

/-- waitm (R215). -/
def execWaitm (st : BitVec 3) (a : BitVec 5) (s : State) : Res :=
  runScalar { st := st, srcs := [.x a], pfxOk := false } (do
    let t ← get
    if (t.rX a).toNat ≤ t.cycle then pure (t.pc + 4) else throw (.wait (.meridian (t.rX a)))) s

/-- WAITM_EXPIRY: mtime has reached the operand of a waiting waitm (R215). -/
def execWaitmExpiry (core slot : Nat) (s : State) : Res :=
  .next (s.wakeSlot core slot fun w =>
    match w with
    | .meridian t => decide (t.toNat ≤ s.cycle)
    | _ => false)

/-! ### Engine FIFOs -/

/-- The port of an engine. -/
def State.engine (s : State) (e : Nat) : EngineSt :=
  (s.engines.find? (fun k => k.n == e)).getD
    { n := e, cmds := [], done := [], frozen := none, progress := 0, emitted := 0, bad := false, readyAt := 0, waitsOn := none }

/-- s with the port of an engine replaced. -/
def State.setEngine (k : EngineSt) (s : State) : State :=
  { s with engines := s.engines.filter (fun o => o.n != k.n) ++ [k] }

/-- The engine that x[e] names, after the check of R216. -/
def namedEngine (e : BitVec 5) : M EngineSt := do
  let t ← get
  let x := t.rX e
  let granted := ((t.part? t.pid).map (fun p => decide (fieldOf x 0 8 ∈ p.cfg.engines))).getD false
  require (fieldOf x 8 55 == 0 && granted) 0x2C0 x
  pure (t.engine (fieldOf x 0 8))

/-- The command that a push makes of x[c] to x[c + 3] (R216), with the pusher's partition, hart and level (R322). -/
def State.command (t : State) (c : BitVec 5) (start : Option X) : Command :=
  { w0 := t.rX c, w1 := t.rX (c + 1), w2 := t.rX (c + 2), w3 := t.rX (c + 3), pid := t.pid, hid := t.me.hart.hid,
    prv := t.me.hart.prv, start := start, accepted := t.cycle }

/-- Whether the port of an engine takes no command of a hart now (R216): it holds 16, or the places that are free belong to harts that wait and
came first (R217; DEDUCED, log entry 64). -/
def State.portFull (s : State) (pid : Nat) (hid : BitVec 32) (e : Nat) : Bool :=
  decide (16 ≤ (s.engine e).cmds.length + s.aheadAt e false pid hid)

/-- Whether the port of an engine has no completion for a hart now (R216): there is none, or harts that wait and came first take those that there
are (R217; DEDUCED, log entry 64). -/
def State.portEmpty (s : State) (pid : Nat) (hid : BitVec 32) (e : Nat) : Bool :=
  decide ((s.engine e).done.length ≤ s.aheadAt e true pid hid)

/-- A push (R216): a frozen engine traps, a full port is waited for, behind the harts that came first (R217), unless `test`, which reports in
x[e][63]. -/
def pushOp (st : BitVec 3) (c e : BitVec 5) (test timed : Bool) (s : State) : Res :=
  runScalar { st := st, srcs := [.x c, .x (c + 1), .x (c + 2), .x (c + 3), .x e] ++ (if timed then [.x 28] else []),
              pfxOk := false } (do
    let k ← namedEngine e
    let t ← get
    require k.frozen.isNone 0x2C1 (t.rX e)
    let full := t.portFull t.pid t.me.hart.hid k.n
    if full && !test then
      set (t.addPortWait k.n false t.pid t.me.hart.hid)
      throw (.wait (.epush k.n))
    if !full then
      set (t.setEngine { k with cmds := k.cmds ++ [t.command c (if timed then some (t.rX 28) else none)] })
    if test then modify (State.wXat e (setField (t.rX e) 63 1 (b2n full)) false 2 false)
    pure (t.pc + 4)) s

/-- epush (R216). -/
def execEpush (st : BitVec 3) (c e : BitVec 5) (s : State) : Res := pushOp st c e false false s

/-- epush.t (R216); x[e] is ready 2 cycles after issue (DESIGN CHOICE, log entry 41). -/
def execEpushT (st : BitVec 3) (c e : BitVec 5) (s : State) : Res := pushOp st c e true false s

/-- epush.at (R216, R280). -/
def execEpushAt (st : BitVec 3) (c e : BitVec 5) (s : State) : Res := pushOp st c e false true s

/-- A pop (R216): it waits while there is no completion for it, behind the harts that came first (R217), unless `test`, which then gives 0; a pop
acquires (R217, R260). -/
def popOp (st : BitVec 3) (d e : BitVec 5) (test : Bool) (s : State) : Res :=
  runScalar { st := st, srcs := [.x e], dst := .x d, pfxOk := false } (do
    let k ← namedEngine e
    let t ← get
    if t.portEmpty t.pid t.me.hart.hid k.n then
      if test then putX d 0 false 2 false
      else
        set (t.addPortWait k.n true t.pid t.me.hart.hid)
        throw (.wait (.epop k.n))
    else
      set (t.setEngine { k with done := k.done.tail }).acquire
      putX d (k.done.headD 0) false 2 false
    pure (t.pc + 4)) s

/-- epop (R216); the completion is ready 2 cycles after issue (DESIGN CHOICE, log entry 41). -/
def execEpop (st : BitVec 3) (d e : BitVec 5) (s : State) : Res := popOp st d e false s

/-- epop.t (R216); its result is ready 2 cycles after issue (DESIGN CHOICE, log entry 41). -/
def execEpopT (st : BitVec 3) (d e : BitVec 5) (s : State) : Res := popOp st d e true s

/-! ### Nests -/

/-- perm_k of a record (Table 9 of 10_synchronisation_instructions). -/
def nestPerm (ctl : X) (k : Nat) : Nat := fieldOf ctl (2 + 2 * k) 2

/-- The extent of a dimension. -/
def nestExtent (ws : List X) (d : Nat) : Nat := fieldOf (ws.getD (2 + d / 2) 0) (32 * (d % 2)) 32

/-- Whether a loop-nest record is valid (R218). -/
def nestValid (ws : List X) : Bool :=
  let ctl := ws.getD 4 0
  let dims := fieldOf ctl 0 2 + 1
  let perm := (List.range dims).map (nestPerm ctl)
  fieldOf (ws.getD 0 0) 0 2 == 0 && fieldOf ctl 28 36 == 0 && fieldOf (ws.getD 5 0) 12 52 == 0 && ws.getD 6 0 == 0 &&
    ws.getD 7 0 == 0 && decide (fieldOf ctl 11 5 ≤ 16) && (List.range dims).all (fun d => decide (d ∈ perm)) &&
    ((List.range 4).drop dims).all (fun k => nestPerm ctl k == 0 && nestExtent ws k == 0)

/-- The number of iterations of a record (R218). -/
def nestCount (ws : List X) : Nat :=
  ((List.range (fieldOf (ws.getD 4 0) 0 2 + 1)).map (nestExtent ws)).foldl (· * ·) 1

/-- Whether a partition holds a core in a stack (R219). -/
def State.holdsStack (s : State) (pid stack : Nat) : Bool :=
  ((s.part? pid).map (fun p => p.cfg.cores.any (fun c => stackOf c.core == stack))).getD false

/-- A record put among those of the walkers, which are held in the order of their acceptance (R273). -/
def queueRec (r : WalkerRec) : List WalkerRec → List WalkerRec
  | [] => [r]
  | q :: rest => if q.accepted ≤ r.accepted then q :: queueRec r rest else r :: q :: rest

/-- nest and nest.at (R219): the record, read through the translations of its walker (R305), is checked and handed to the walker of a stack,
which accepts it 12 or 44 cycles later. -/
def nestOp (st : BitVec 3) (x a : BitVec 5) (timed : Bool) (s : State) : Res :=
  runM (do
    let _ ← gate { st := st, srcs := [.x x, .x a] ++ (if timed then [.x 28] else []), pfxOk := false }
    let t ← get
    let va := t.rX a
    let sel := t.rX x
    require (va.toNat % 64 == 0) 0x0C0 va
    let own := stackOf t.me.core
    let stack := if bitAt sel 3 then fieldOf sel 0 3 else own
    let ws ← readWordsBy (4000 + stack) va 8
    require (nestValid ws && fieldOf sel 4 60 == 0 && t.holdsStack t.pid stack) 0x287 va
    let ctl := ws.getD 4 0
    require (!(bitAt ctl 19 && !t.holdsWatermark t.pid (fieldOf ctl 20 8))) 0x283 (xOf (fieldOf ctl 20 8))
    let u ← get
    if 16 ≤ (u.walkers.filter (fun r => r.stack == stack)).length then throw (.wait (.walker stack))
    let delay := if stack = own then 12 else 44
    let rec_ : WalkerRec :=
      { id := u.nextId, stack := stack, pid := u.pid, hid := u.me.hart.hid, prv := u.me.hart.prv, tvec := u.me.hart.tvec,
        addr := va, words := ws, start := if timed then some (u.rX 28) else none, accepted := u.cycle + delay, next := 0 }
    if 0 < nestCount ws then set { u with walkers := queueRec rec_ u.walkers, nextId := u.nextId + 1 }
    done st delay (u.pc + 4)) s

/-- nest (R219). -/
def execNest (st : BitVec 3) (x a : BitVec 5) (s : State) : Res := nestOp st x a false s

/-- nest.at (R219, R280). -/
def execNestAt (st : BitVec 3) (x a : BitVec 5) (s : State) : Res := nestOp st x a true s

/-- Every set of a hart left (R221). -/
def State.leaveAll (pid : Nat) (hid : BitVec 32) : List (BitVec 16) → State → State
  | [], s => s
  | g :: rest, s => (s.leaveSet pid hid g).leaveAll pid hid rest

/-- done (R221): the hart leaves its sets, its locks begin to be released, its vector state is released with tiles, Dawn
array, bindings and lane groups, its record becomes free and its slot too. It does not wait for a race in flight, whose array it discards (DESIGN
CHOICE, log entry 69). -/
def execDoneH (st : BitVec 3) (s : State) : Res :=
  runM (do
    let _ ← gate { st := st, pfxOk := false }
    awaitRecord
    let t ← get
    let h := t.me.hart
    let t1 := t.leaveAll t.pid h.hid (t.setsOf t.pid h.hid)
    let t2 := t1.beginRelease t1.pid h.hid t1.cycle (fun _ => true)
    let t3 := if t2.owns then t2.releaseVec 64 t2.me.vec.owner false else t2
    let t4 := t3.setRecordState h.pid h.hid 0
    set { t4 with me := { t4.me with live := false } }) s

/-- yield (R221): the slot is given up in state 2, after MOPs and a race in flight (R269), and the hart resumes at the next instruction. -/
def execYieldH (st : BitVec 3) (s : State) : Res :=
  runM (do
    let _ ← gate { st := st, pfxOk := false }
    awaitRecord
    let t ← get
    if t.cycle < t.me.vec.busyUntil then throw (.unit t.me.vec.busyUntil)
    done st 0 (t.pc + 4)
    modify (State.switchOut 2)) s

end Sys2Proof.Machine
end

