-- ==== Sys2Proof/Machine/System.lean ====
section
/-! DEFINITION. System instructions of major 0x00 (R89 to R97), the control registers (R12 to R21, R370), vown (R296) and wpart
(R313). -/

namespace Sys2Proof.Machine

/-- ecall (R90): 0x380 from user level, 0x381 from supervisor level. -/
def execEcall (st : BitVec 3) (n : BitVec 5) (s : State) : Res :=
  runScalar { st := st, pfxOk := false } (do
    let t ← get
    trap (if t.me.hart.prv then 0x381 else 0x380) (zimm n)) s

/-- break (R91). -/
def execBrk (st : BitVec 3) (n : BitVec 5) (s : State) : Res :=
  runScalar { st := st, pfxOk := false } (trap 0x340 (zimm n)) s

/-- Whether a word is a legal PFX word (R58, R92). -/
def legalPfx (w : BitVec 32) : Bool :=
  fieldOf w 26 6 == 1 && fieldOf w 0 14 == 0 &&
    (if bitAt w 21 then fieldOf w 19 2 != 3 && (fieldOf w 19 2 != 2 || fieldOf w 14 5 < 8) else fieldOf w 14 5 == 0)

/-- eret (R92). It has no successor, so its stall count has no effect (R53). -/
def execEret (st : BitVec 3) (e p : BitVec 5) (s : State) : Res :=
  runM (do
    let _ ← gate { st := st, srcs := [.x e, .x p], pfxOk := false, sup := true }
    let t ← get
    let xp := t.rX p
    require (!(bitAt xp 63 && !legalPfx (xp.extractLsb' 0 32))) 0x000 (zimm (xp.extractLsb' 0 32))
    modify fun u => (u.returnFromTrap (t.rX e) xp).modHart (Hart.count 3 1)) s

/-- Whether the Meridian alarm is pending (R20). -/
def State.alarmDue (s : State) (h : Hart) : Bool := h.me && decide (h.mcmp.toNat ≤ s.cycle)

/-- wfi (R93): it completes as soon as an asynchronous cause is pending, whatever status.ie. -/
def execWfi (st : BitVec 3) (s : State) : Res :=
  runScalar { st := st, pfxOk := false, sup := true } (do
    let t ← get
    if t.me.hart.async.isEmpty && !t.alarmDue t.me.hart then throw (.wait .wfi) else pure (t.pc + 4)) s

/-- Whether the range of n bytes from a meets the 2 GiB region of an address, or any region where none is given (R165). -/
def meetsRegion (region : Option X) (a : X) (n : Nat) : Bool :=
  match region with
  | none => decide (0 < n)
  | some va =>
    let lo := va.toNat / 2 ^ 31 * 2 ^ 31
    decide (0 < n) && decide (a.toNat < lo + 2 ^ 31) && decide (lo < a.toNat + n)

/-- A hart with stale set in every valid handle that a region covers (R165). -/
def Hart.staleHandles (region : Option X) (h : Hart) : Hart :=
  { h with p := h.p.map fun q =>
      if bitAt q.word 63 && meetsRegion region q.va (handleLen q.word) then { q with word := setField q.word 16 1 1 } else q }

/-- An invalidation of translations by a hart of a partition, of those that cover an address or of all (R95, R165, R230, R260,
R307). -/
def State.invalidate (pid : Nat) (region : Option X) (s : State) : State :=
  let hits := fun (e : TlbEntry) => e.pid == pid &&
    (match region with | none => true | some va => e.va == va.toNat / e.size)
  let owned := fun (e : FifeEntry) => s.slots.any fun o => o.core == e.core && o.idx == e.slot && o.vec.ownerPid == pid
  let covered := fun (e : FifeEntry) =>
    match e.load with
    | some l => meetsRegion region (xOf l.lo) (l.hi - l.lo)
    | none => false
  let inRegion := fun (c : Host.Cell) => meetsRegion region (xOf c.1) 1
  let strips := fun (o : Slot) =>
    if o.vec.ownerPid = pid then { o with vec := { o.vec with streams := o.vec.streams.map (Stream.keep (fun c => !inRegion c)) } } else o
  ((({ s with tlb := s.tlb.filter (fun e => !hits e), fife := s.fife.filter (fun e => !(owned e && covered e)) } : State).freeAllRegs).mapSlots
    fun o => strips (if o.live && o.hart.pid == pid then { o with hart := o.hart.staleHandles region } else o)).modPart pid
    fun p => { p with invCount := p.invCount + 1 }

/-- The accepted plane instructions of a partition that carry a handle that a region covers, by number (R165). -/
def State.planeWork (s : State) (pid : Nat) (region : Option X) : List Nat :=
  (s.seq.filter fun o => o.pid == pid && o.handles.any fun q => meetsRegion region q.va (handleLen q.word)).map (·.id)

/-- tlbi or tlbia (R95): it invalidates, and then waits for the accepted plane instructions that it covers (R165), with which it completes. -/
def invalidateOp (st : BitVec 3) (srcs : List Reg) (region : State → Option (Option X)) (s : State) : Res :=
  runScalar { st := st, srcs := srcs, pfxOk := false, sup := true } (do
    let t ← get
    match region t with
    | none => pure (t.pc + 4)
    | some r =>
      set (t.invalidate t.pid r)
      if t.planeWork t.pid r ≠ [] then throw (.wait (.drain (t.planeWork t.pid r)))
      pure (t.pc + 4)) s

/-- tlbi (R95): a non-canonical address invalidates nothing. -/
def execTlbi (st : BitVec 3) (a : BitVec 5) (s : State) : Res :=
  invalidateOp st [.x a] (fun t => if canonical (t.rX a) then some (some (t.rX a)) else none) s

/-- tlbia (R95). -/
def execTlbia (st : BitVec 3) (s : State) : Res := invalidateOp st [] (fun _ => some none) s

/-- fencei (R94): every fetch of this model sees the stores performed before it (log entry 3). -/
def execFencei (st : BitVec 3) (s : State) : Res :=
  runScalar { st := st, pfxOk := false } (do
    let t ← get
    pure (t.pc + 4)) s

/-- The name of the physical register of v[a], 0 where it is unnamed (R96). -/
def Vec.nameOf (v : Vec) (a : BitVec 5) : X :=
  match v.pregs.find? (fun p => p.id == v.phys[a.toNat]) with
  | some p =>
    match p.name with
    | some (crc, variant) => xOf (2 ^ 63 + variant % 4 * 2 ^ 48 + crc.toNat)
    | none => 0
  | none => 0

/-- vname (R96): subject to R18, R24 and R16, in the order of R285; it waits for the producer of v[a], whatever its latency. Its own
result is ready 2 cycles after issue (DESIGN CHOICE, log entry 41). Of a register that is bound to a stream it gives the name that was mapped
before the binding, and it consumes no strip (DESIGN CHOICE, log entry 62). -/
def execVname (st : BitVec 3) (d a : BitVec 5) (s : State) : Res :=
  runM (do
    let _ ← gate { st := st, dst := .x d, pfxOk := false, first := true, grant := true, cfg := true, scalar := false }
    awaitResult (.v a)
    let t ← get
    putX d (t.me.vec.nameOf a) false 2 false
    done st 0 (t.pc + 4)) s

/-! ### Control registers -/

/-- The value of vown (Table 7 of 01_machine_state). -/
def Vec.vown (v : Vec) : X := xOf (b2n v.lz * 2 ^ 63 + v.owner.toNat)

/-- The value of wpart at the hart's core position (Table 3 of 15_memory_system_and_engines). -/
def State.wpartWord (s : State) : X :=
  let w := s.wpart (stackOf s.me.core) (positionOf s.me.core)
  xOf (b2n w.busy * 2 ^ 16 + w.cur * 2 ^ 8 + w.req)

/-- The value of a control register, none for a number that Table 2 of 01_machine_state does not list (R12). -/
def State.readCreg (s : State) (c : Nat) : Option X :=
  let h := s.me.hart
  let v := s.me.vec
  if c = 0x000 then some h.status
  else if c = 0x001 then some h.cause
  else if c = 0x002 then some h.epc
  else if c = 0x003 then some h.tval
  else if c = 0x004 then some h.tvec
  else if c = 0x005 then some (zimm h.hid)
  else if c = 0x010 then some (zimm h.es)
  else if c = 0x011 then some v.vl
  else if c = 0x012 then some v.vtype
  else if c = 0x013 then some (xOf (s.myGrant * 1024))
  else if c = 0x014 then some s.lanes
  else if c = 0x015 then some (zimm v.msr)
  else if c = 0x016 then some (zimm v.dwin)
  else if c = 0x017 then some (xOf (b2n h.pv * 2 ^ 63 + h.pword.toNat))
  else if c = 0x018 then some v.vdirty
  else if c = 0x019 then some v.vown
  else if c = 0x020 then some (xOf s.cycle)
  else if c = 0x021 then some h.mcmp
  else if c = 0x030 then some s.wpartWord
  else if 0x040 ≤ c ∧ c ≤ 0x047 then some (h.cnt.toList.getD (c - 0x040) 0)
  else if 0x048 ≤ c ∧ c ≤ 0x04F then some (h.cntev.toList.getD (c - 0x048) 0)
  else if 0x100 ≤ c ∧ c ≤ 0x13F then some (xOf (fieldOf v.kf (64 * (c - 0x100)) 64))
  else none

/-- Control registers that user level may not access (R12, Table 2 of 01_machine_state). -/
def cregSupervisor (c : Nat) : Bool :=
  (1 ≤ c && c ≤ 4) || c == 0x018 || c == 0x019 || c == 0x021 || c == 0x030 || (0x048 ≤ c && c ≤ 0x04F)

/-- Control registers that are vector state for R18. -/
def cregVector (c : Nat) : Bool := c == 0x011 || c == 0x012 || c == 0x015 || c == 0x016 || (0x100 ≤ c && c ≤ 0x13F)

/-- Control registers whose sysr waits for every earlier instruction of the hart: status, vl, vtype, es and kf (R13). -/
def cregWaits (c : Nat) : Bool := c == 0x000 || (0x010 ≤ c && c ≤ 0x012) || (0x100 ≤ c && c ≤ 0x13F)

/-- sysr (R97): a register closed to the level traps with 0x002 (R12), a pending prefix with 0x004 (R62), and a number that does not
exist with 0x003 and the word at every level (R12, R68), in the order of R285. A read of dwin waits for what a Dawn instruction writes (R55,
R191). The result is ready 2 cycles after issue (DESIGN CHOICE,
log entry 41). -/
def execSysr (st : BitVec 3) (d : BitVec 5) (c : BitVec 9) (s : State) : Res :=
  runM (do
    let _ ← gate { st := st, dst := .x d, pfxOk := false, sup := cregSupervisor c.toNat, first := cregVector c.toNat }
    if cregWaits c.toNat then awaitAll
    let u ← get
    if c = 0x016 ∧ u.cycle < u.me.vec.dawnAt then throw (.hold u.me.vec.dawnAt)
    match u.readCreg c.toNat with
    | none => trap 0x003 (xOf u.me.hart.word.toNat)
    | some w =>
      putX d w false 2 false
      done st 0 (u.pc + 4)) s

/-- The status that a write of w gives at a level (R14): a reserved rounding mode leaves rm. -/
def Hart.writeStatus (w : X) (h : Hart) : Hart :=
  let rm := if 5 ≤ fieldOf w 2 3 then h.rm else fieldOf w 2 3
  let user := setField (setField (setField h.status 5 10 (fieldOf w 5 10)) 2 3 rm) 0 2 (fieldOf w 0 2)
  { h with status := if h.prv then setField user 16 9 (fieldOf w 16 9) else user }

/-- A word of kf replaced (Table 9 of 01_machine_state, R19). -/
def Vec.writeKf (j : Nat) (w : X) (v : Vec) : Vec := { v with kf := setField v.kf (64 * j) 64 w.toNat }

/-- vdirty.cfg set (R17). -/
def Vec.dirtyCfg (v : Vec) : Vec := { v with vdirty := v.vdirty ||| xOf (2 ^ 44) }

/-- A write of a control register by sysw, at the hart's level: read-only registers and fields are left (R12 to R19, R97).
es and pfxs are written after the completion (R97). -/
def State.writeCreg (c : Nat) (w : X) (s : State) : State :=
  let h := s.me.hart
  if c = 0x000 then s.modHart (Hart.writeStatus w)
  else if c = 0x001 then s.modHart fun h => { h with cause := w &&& 0x80000000000003FF#64 }
  else if c = 0x002 then s.modHart fun h => { h with epc := w }
  else if c = 0x003 then s.modHart fun h => { h with tval := w }
  else if c = 0x004 then s.modHart fun h => { h with tvec := (w >>> 2) <<< 2 }
  else if c = 0x011 then (if h.prv then s.modVec fun v => ({ v with vl := w }.check).dirtyCfg else s)
  else if c = 0x012 then
    (if h.prv then
      s.modVec fun v => ({ v with bl := w.extractLsb' 3 2, sew := w.extractLsb' 0 3 }.check).dirtyCfg
     else s)
  else if c = 0x014 then s.modHart fun h => { h with lanesReq := if 17 ≤ fieldOf w 0 5 then 16 else w.extractLsb' 0 5 }
  else if c = 0x015 then s.modVec fun v => { v with msr := w.extractLsb' 0 5 }.dirtyCfg
  else if c = 0x016 then
    (if fieldOf w 0 10 = 0 then s else s.modVec fun v => { v with dwin := w.extractLsb' 0 10 }.dirtyCfg)
  else if c = 0x018 then s.modVec fun v => { v with vdirty := w &&& 0x1FFEFFFFFFFF#64 }
  else if c = 0x021 then s.modHart fun h => { h with mcmp := w }
  else if 0x040 ≤ c ∧ c ≤ 0x047 then
    (if h.prv then s.modHart fun h => { h with cnt := h.cnt.setIfInBounds (c - 0x040) w } else s)
  else if 0x048 ≤ c ∧ c ≤ 0x04F then s.modHart fun h => { h with cntev := h.cntev.setIfInBounds (c - 0x048) (w &&& 0xFF) }
  else if 0x100 ≤ c ∧ c ≤ 0x13F then s.modVec fun v => (v.writeKf (c - 0x100) w).dirtyCfg
  else s

/-- What sysw of es and pfxs writes after the clearing of R7 (R97). -/
def State.writeLate (c : Nat) (w : X) (s : State) : State :=
  if c = 0x010 then s.modHart fun h => { h with es := w.extractLsb' 0 18 }
  else if c = 0x017 ∧ s.me.hart.prv then
    s.modHart fun h => { h with pv := bitAt w 63, pword := w.extractLsb' 0 32 }
  else s

/-- The part of a sysw that every row shares: level, pairing and R18, existence, then the write and the completion (R12, R285). -/
def sysWrite (st : BitVec 3) (a : BitVec 5) (c : Nat) (write : X → M Unit) (s : State) : Res :=
  runM (do
    let _ ← gate { st := st, srcs := [.x a], pfxOk := false, sup := cregSupervisor c, first := cregVector c }
    let u ← get
    match u.readCreg c with
    | none => trap 0x003 (xOf u.me.hart.word.toNat)
    | some _ =>
      let w := u.rX a
      write w
      modify fun (v : State) => ((v.retire st 0 (u.pc + 4)).writeLate c w).stepTrap u.pc) s

/-- sysw (R97). -/
def execSysw (st : BitVec 3) (a : BitVec 5) (c : BitVec 9) (s : State) : Res :=
  sysWrite st a c.toNat (fun w => modify (State.writeCreg c.toNat w)) s

/-- sysw of vown (R296): a new owner gets the vector state of R22 with grant 0, after the MOPs and races of the slot have ended;
the same owner, a hart of the same partition, changes only lz. -/
def execSyswVown (st : BitVec 3) (a : BitVec 5) (s : State) : Res :=
  sysWrite st a 0x019 (fun w => do
    let t ← get
    if w.extractLsb' 0 32 = t.me.vec.owner ∧ t.me.vec.ownerPid = t.pid then set (t.modVec fun v => { v with lz := bitAt w 63 })
    else
      if t.cycle < t.me.vec.busyUntil then throw (.unit t.me.vec.busyUntil)
      set (t.releaseVec t.pid (w.extractLsb' 0 32) (bitAt w 63))) s

/-- sysw of wpart (R313, R314, R366): ignored unless the hart's partition owns the scratch of its core position; a request of 16 or
more is left; the banks then convert ways one at a time, the way under conversion first. A lower request invalidates the L1 copies of the scratch
lines beyond it, and what they held that was dirty is discarded: the banks' own contents stay. -/
def execSyswWpart (st : BitVec 3) (a : BitVec 5) (s : State) : Res :=
  sysWrite st a 0x030 (fun w => do
    let t ← get
    let st := stackOf t.me.core
    let q := positionOf t.me.core
    let owns := ((t.part? t.pid).map (fun p => decide ((st, q) ∈ p.cfg.scratch))).getD false
    if owns && decide (fieldOf w 0 5 < 16) then
      let old := t.wpart st q
      let req := fieldOf w 0 5
      let new := { old with req := req, way := if old.busy then old.way else t.nextWay req old.cur }
      let gone := fun (pa : Nat) => isScratch pa && pa / 2 ^ 36 % 8 == st && pa / 2 ^ 14 % 8 == q && decide (64 * req ≤ pa / 2 ^ 17 % 1024)
      let u := if req < old.req then (t.under.filter fun o => gone o.pa).foldl (fun v o => v.restoreUnder o) t else t
      let dir := if req < old.req then u.dir.filter (fun e => !gone e.pa) else u.dir
      set { u with fresh := t.fresh + 1, dir := dir, wparts := t.wparts.filter (fun (o : Wpart) => !(o.stack == st && o.pos == q)) ++ [new] }) s

end Sys2Proof.Machine
end

