-- ==== Sys2Proof/Machine/Sched.lean ====
section
/-! DEFINITION. The hart scheduler and the nest walker (R263 to R274), the Meridian alarm (R20) and the taking of asynchronous traps
(R283, R285, R287). -/

namespace Sys2Proof.Machine

/-! ### Where a hart stands -/

/-- Whether MOPs and races of a slot are still in flight (R152, R193). -/
def State.inFlightUnits (s : State) (o : Slot) : Bool := o.vec.raceEnd.isSome || o.vec.chain.any (fun c => decide (s.cycle < c.2))

/-- Whether the hart of a slot stands at a trap point (R283, R287): between two instructions, at a boundary within one that was interrupted,
before one that was found not ready, or in a wait of an instruction that has performed nothing beyond its position, but for the waits on memory
of one that completes first. A trap whose frame waits for its bank is still being taken (R284). -/
def State.atTrapPoint (s : State) (o : Slot) : Bool :=
  o.live && !o.hart.stopped && o.hart.frame.isNone && (match o.hart.wait with | some w => !w.firm | none => o.hart.held || o.hart.paused || decide (o.hart.readyAt ≤ s.cycle)) && !s.inFlightUnits o

/-- The number of a running partition that a slot is granted to (R278). -/
def State.slotPid (s : State) (core idx : Nat) : Option Nat :=
  (s.parts.find? (fun p => p.cond == .running && p.cfg.cores.any (fun c => c.core == core && c.mask.getLsbD idx))).map (·.pid)

/-- The free slots of a partition in a stack (R268). -/
def State.freeSlots (s : State) (p : Part) (stack : Nat) : List (Nat × Nat) :=
  (p.slotsIn stack).filter fun c => !(s.slotAt c.1 c.2).live

/-! ### The nest walker -/

/-- Whether a record's next ordinal waits on its watermark link (R218). -/
def State.linkWaits (s : State) (r : WalkerRec) : Bool :=
  let ctl := r.words.getD 4 0
  bitAt ctl 19 && decide ((s.watermark (fieldOf ctl 20 8)).count.toNat ≤ r.next)

/-- The record of a partition whose next iteration is handed out next in a stack (R273, R280, R292): the first that was accepted and does not
wait on its link, once its start time has come. -/
def State.nextRecord (s : State) (stack pid : Nat) : Option WalkerRec :=
  if (s.part? pid).any (fun p => p.cond == .running && !p.frozen) then
    match s.walkers.find? (fun r => r.stack == stack && r.pid == pid && decide (r.accepted ≤ s.cycle) && !(r.start.all (fun t => decide (t.toNat ≤ s.cycle)) && s.linkWaits r)) with
    | some r => if r.start.all (fun t => decide (t.toNat ≤ s.cycle)) then some r else none
    | none => none
  else none

/-- The lowest-numbered free record of a pool from hid h on, among n (R274): none while a record before it cannot be read (R171, R263). -/
def State.firstFree (s : State) (pid h : Nat) : Nat → Option (BitVec 32)
  | 0 => none
  | n + 1 => if s.headBusy pid (BitVec.ofNat 32 h) then none else if s.recordState pid (BitVec.ofNat 32 h) = 0 then some (BitVec.ofNat 32 h) else s.firstFree pid (h + 1) n

/-- The free record that a hand-off takes. -/
def State.freeRecord (s : State) (pid : Nat) : Option (BitVec 32) :=
  (s.part? pid).bind fun p => s.firstFree pid 0 p.cfg.count

/-- Whether the walker of a stack holds an iteration that it would hand out but for the want of a free slot (R270, R274). -/
def State.walkerWants (s : State) (stack pid : Nat) : Bool :=
  (s.nextRecord stack pid).isSome && (s.queueOf stack pid).isEmpty && (s.freeRecord pid).isSome &&
    (s.part? pid).all fun p => (s.freeSlots p stack).isEmpty

/-- The index of each dimension at an ordinal (R218): level k counts downward in the passes that its number of complete passes
makes odd, under serp. -/
def nestIndex (ws : List X) (ordinal d : Nat) : Nat :=
  let ctl := ws.getD 4 0
  let dims := fieldOf ctl 0 2 + 1
  let extent := fun (k : Nat) => nestExtent ws (nestPerm ctl k)
  match (List.range dims).find? (fun k => nestPerm ctl k == d) with
  | none => 0
  | some k =>
    let inner := ((List.range dims).drop (k + 1)).foldl (fun n j => n * extent j) 1
    let i := ordinal / inner % extent k
    if bitAt ctl 10 && decide (1 ≤ k) && ordinal / (inner * extent k) % 2 == 1 then extent k - 1 - i else i

/-- A register file with words in consecutive registers from n on. -/
def putRegs (n : Nat) : List X → Vector X 32 → Vector X 32
  | [], v => v
  | w :: rest, v => putRegs (n + 1) rest (if h : n < 32 then v.set n w else v)

/-- The hart of an iteration (R220). -/
def State.iterationHart (s : State) (r : WalkerRec) (hid : BitVec 32) : Hart :=
  let ctl := r.words.getD 4 0
  let h := s.newHart r.pid hid (r.words.getD 0 0) r.tvec (b2n r.prv) (fieldOf ctl 16 3) (fieldOf ctl 11 5)
  let dims := fieldOf ctl 0 2 + 1
  let idx := fun (d : Nat) => if d < dims then xOf (nestIndex r.words r.next d) else 0
  { h with x := putRegs 20 [idx 0, idx 1, idx 2, idx 3, xOf r.next, r.words.getD 1 0, r.addr, xOf (fieldOf (r.words.getD 5 0) 0 12)] h.x }

/-- A record advanced past the iteration that it hands out; it leaves the queue with the last (R273). -/
def State.advanceRecord (r : WalkerRec) (s : State) : State :=
  let moved := s.walkers.map fun q => if q.id = r.id then { q with next := q.next + 1 } else q
  { s with walkers := moved.filter fun q => !(q.id == r.id && decide (nestCount q.words ≤ q.next)) }

/-- Whether the walker of a stack may hand out an iteration in this cycle: at most one every 4 cycles (R274). -/
def State.paced (s : State) (stack : Nat) : Bool := (s.handoffs.lookup stack).all fun c => decide (c ≤ s.cycle)

/-- Whether the walker of a stack hands an iteration into a slot (R270, R274), whose record it can reach (R263). -/
def State.handoffDue (s : State) (stack core idx : Nat) : Bool :=
  match s.slotPid core idx with
  | none => false
  | some pid =>
    let o := s.slotAt core idx
    stackOf core == stack && !o.live && s.paced stack && (o.forWalker || (s.queueOf stack pid).isEmpty) &&
      (s.nextRecord stack pid).isSome && (s.freeRecord pid).any fun hid => !s.recordBusy pid hid

/-- NEST_HANDOFF (R220, R274): the iteration takes the lowest free record, those below it having been read (R331), and runs as a new hart, which joins the set of the
record. -/
def execNestHandoff (stack core slot : Nat) (s : State) : Res :=
  if s.handoffDue stack core slot then
    match s.slotPid core slot with
    | none => .next s
    | some pid =>
      match s.nextRecord stack pid, s.freeRecord pid with
      | some r, some hid =>
        let h := s.iterationHart r hid
        let a := s.recordAddr pid hid
        let g := recordAgent hid
        let ctl := r.words.getD 4 0
        let t := ((List.range hid.toNat).foldl (fun u j => u.meetHead pid (BitVec.ofNat 32 j)) s).readRecord pid hid
        let w := setField (setField (setField (setField (t.plainWord a) 0 32 hid.toNat) 32 5 (fieldOf ctl 11 5)) 40 3 (fieldOf ctl 16 3))
          43 1 (b2n r.prv)
        let s0 : State := { t with handoffs := t.handoffs.filter (fun q => q.1 != stack) ++ [(stack, t.cycle + 4)] }
        let s1 := ((s0.advanceRecord r).putPlain g a w).putPlain g (a + 0x10) (r.words.getD 1 0)
        let s2 := (s1.focus core slot).placeHart h true
        let set16 : BitVec 16 := BitVec.ofNat 16 (fieldOf (r.words.getD 5 0) 0 12)
        .next (if set16 = 0 then s2 else s2.joinSet pid hid set16)
      | _, _ => .next s
  else .next s

/-! ### Switch-in and switch-out -/

/-- Whether a queued hart is skipped at a slot (R268): the vector state of another slot is its own. -/
def State.skipped (s : State) (core idx : Nat) (r : Runnable) : Bool :=
  s.slots.any fun o => o.vec.owner == r.hid && o.vec.ownerPid == r.pid && !(o.core == core && o.idx == idx)

/-- Whether the records that a switch-in reads or writes can be reached: that of the hart, and that of the owner of the slot's vector state
(R263, R271). -/
def State.recordsFree (s : State) (o : Slot) (r : Runnable) : Bool :=
  !s.recordBusy r.pid r.hid && !((s.part? o.vec.ownerPid).isSome && s.recordBusy o.vec.ownerPid o.vec.owner)

/-- Whether an iteration stands ready for a slot that was freed for it, which the queue then does not take, even while the walker's pace or
the record holds the hand-off back (R270). -/
def State.keptForWalker (s : State) (o : Slot) (pid : Nat) : Bool :=
  o.forWalker && (s.nextRecord (stackOf o.core) pid).isSome && ((s.freeRecord pid).isSome ||
    (s.part? pid).any fun p => (List.range p.cfg.count).any fun h => s.headBusy pid (BitVec.ofNat 32 h))

/-- The queued hart that a free slot takes: the first that is not skipped; an iteration that the slot was freed for goes first
(R268, R270). -/
def State.switchInNext (s : State) (core idx : Nat) : Option Runnable :=
  match s.slotPid core idx with
  | none => none
  | some pid =>
    let o := s.slotAt core idx
    if o.live || s.handoffDue (stackOf core) core idx || s.keptForWalker o pid then none
    else ((s.queueOf (stackOf core) pid).find? fun r => !s.skipped core idx r).filter (s.recordsFree o)

/-- The root hart of a new record (R266): ordinal and indices 0, no set, x25 the argument, x26 the record's address. An entry pc whose bits
[1:0] are not zero is kept as it is, and its first fetch traps with 0x0C1 (DESIGN CHOICE, log entry 49). -/
def State.rootHart (s : State) (pid : Nat) (hid : BitVec 32) : Hart :=
  let a := s.recordAddr pid hid
  let w := s.plainWord a
  let h := s.newHart pid hid (s.plainWord (a + 0x08)) (s.plainWord (a + 0x48)) (fieldOf w 43 1) (fieldOf w 40 3) (fieldOf w 32 5)
  { h with x := putRegs 25 [s.plainWord (a + 0x10), xOf a] h.x }

/-- SWITCH_IN (R265, R268, R271): a record in state 2 resumes, one in state 1 starts from its creation values. -/
def execSwitchIn (core slot : Nat) (s : State) : Res :=
  match s.switchInNext core slot with
  | none => .next s
  | some r =>
    let t := s.readRecord r.pid r.hid
    let s1 : State := { t with queue := t.queue.filter (fun q => !(q.pid == r.pid && q.hid == r.hid)) }
    let isNew := decide (t.recordState r.pid r.hid = 1)
    let h := if isNew then s1.rootHart r.pid r.hid else s1.loadRecord r.pid r.hid
    .next ((s1.focus core slot).placeHart h isNew)

/-- Whether a wait is one of Table 2 of 13_execution_and_scheduling. -/
def Wait.inTable2 (w : Wait) : Bool := fieldOf w.word 0 4 != 0

/-- Whether a queue counts as not empty for R269 (R270). -/
def State.queueWaits (s : State) (stack pid : Nat) : Bool := !(s.queueOf stack pid).isEmpty || s.walkerWants stack pid

/-- The hart of a slot switched out (R269 to R271): a lock entry that its plock reserved is freed (R287), and its slot is the
walker's where no queued hart wants it. No hart issues in it for 192 cycles. -/
def State.leave (core slot : Nat) (s : State) : State :=
  let stack := stackOf core
  let s1 := s.focus core slot
  let pid := s1.pid
  let forW := (s1.queueOf stack pid).isEmpty
  let s2 := (s1.dropReserved pid s1.me.hart.hid).switchOut (if s1.me.hart.wait.any Wait.inTable2 then 4 else 2)
  { s2 with me := { s2.me with forWalker := forW, since := s2.cycle + 192 } }

/-- Whether the slice of a slot's resident has expired (R269). -/
def State.sliceOver (s : State) (o : Slot) : Bool :=
  o.live && s.runs o.hart.pid && (s.part? o.hart.pid).any fun p => decide (o.since + 2 ^ p.cfg.slice ≤ s.cycle)

/-- Whether a slice expiry is due: it starts the timer again, or switches the resident out, which it never does while status.ie is
0 (R269). -/
def State.sliceDue (s : State) (o : Slot) : Bool :=
  s.sliceOver o && (!s.queueWaits (stackOf o.core) o.hart.pid ||
    (o.hart.ie && s.atTrapPoint o && !s.recordBusy o.hart.pid o.hart.hid))

/-- Whether a switch-out of a slot's resident waits for MOPs or a race of the slot to end, or for its record: the hart issues nothing more, but
an instruction that completes first (R263, R269, R287). -/
def State.leaveHeld (s : State) (o : Slot) : Bool :=
  s.sliceOver o && s.queueWaits (stackOf o.core) o.hart.pid && o.hart.ie && !o.hart.wait.any Wait.firm &&
    (s.inFlightUnits o || s.recordBusy o.hart.pid o.hart.hid)

/-- SLICE_EXPIRY (R269). -/
def execSliceExpiry (core slot : Nat) (s : State) : Res :=
  let o := s.slotAt core slot
  if s.sliceDue o then
    if s.queueWaits (stackOf core) o.hart.pid then .next (s.leave core slot)
    else .next (s.mapSlots fun q => if q.core = core ∧ q.idx = slot then { q with since := s.cycle } else q)
  else .next s

/-- Whether a resident that waits is switched out (R269). -/
def State.waiterDue (s : State) (o : Slot) : Bool :=
  o.hart.wait.any Wait.inTable2 && decide (o.hart.waitSince + 256 ≤ s.cycle) && s.runs o.hart.pid && o.hart.ie &&
    s.atTrapPoint o && s.queueWaits (stackOf o.core) o.hart.pid && !s.recordBusy o.hart.pid o.hart.hid

/-- WAITING_SWITCH_OUT (R269). -/
def execWaitingSwitchOut (core slot : Nat) (s : State) : Res :=
  if s.waiterDue (s.slotAt core slot) then .next (s.leave core slot) else .next s

/-! ### Waits of harts that are not resident -/

/-- Whether a wait of Table 2 has ended for a hart whose asynchronous causes and alarm are given (R265). -/
def State.conditionHolds (s : State) (pid : Nat) (hid : BitVec 32) (pending : Bool) (w : Wait) : Bool :=
  match w with
  | .barrier n token short => (s.barrier n).wakes token short
  | .watermark n c => decide (c ≤ (s.watermark n).count.toNat)
  | .meridian t => decide (t.toNat ≤ s.cycle)
  | .epush e => !s.portFull pid hid e || (s.engine e).frozen.isSome
  | .epop e => !s.portEmpty pid hid e
  | .wfi => pending
  | .plock _ h => !s.lockHeldBack pid hid h
  | .race t => decide (t.toNat ≤ s.cycle) && !(s.part? pid).any (·.frozen)
  | .walker st => decide ((s.walkers.filter (fun r => r.stack == st)).length < 16)
  | .sequencer st => decide ((s.seq.filter (fun o => !o.running && hStack o.geo == st)).length < 16) && !s.seqFrozen st pid
  | .planes => !s.planesOf pid hid
  | .drain ops => s.drained ops
  | .bank pa _ => s.unitOf pa hid pid != .later
  | .rows h => !s.rowsWait pid hid h

/-- Whether an asynchronous cause is pending for a hart in a record (R20, R93). -/
def State.pendingInRecord (s : State) (pid : Nat) (hid : BitVec 32) : Bool :=
  s.asyncs.any (fun q => q.1 == pid && q.2.1 == hid) ||
    (bitAt (s.recordWord pid hid 0x28) 23 && decide ((s.recordWord pid hid 0x50).toNat ≤ s.cycle))

/-- Whether the condition of a hart in state 4 is observed now (R265). -/
def State.observed (s : State) (r : Runnable) : Bool :=
  s.runs r.pid && !s.recordBusy r.pid r.hid && (waitOfWord (s.recordWord r.pid r.hid 0x68)).all
    (s.conditionHolds r.pid r.hid (s.pendingInRecord r.pid r.hid))

/-- WAIT_CONDITION_OBSERVED (R265): the record goes to state 2 and enters the queue of the stack that its hart left. -/
def execWaitConditionObserved (pid : Nat) (hid : BitVec 32) (s : State) : Res :=
  match s.waiting.find? (fun r => r.pid == pid && r.hid == hid && s.observed r) with
  | some r =>
    let t := s.readRecord pid hid
    let s1 : State :=
      { t with waiting := t.waiting.filter (fun q => !(q.pid == pid && q.hid == hid)), queue := t.queue ++ [r] }
    .next (s1.setRecordState pid hid 2)
  | none => .next s

/-! ### Asynchronous causes -/

/-- Whether the Meridian alarm ends the wfi of a slot's hart (R20, R93). -/
def State.alarmWakes (s : State) (o : Slot) : Bool :=
  o.live && s.runs o.hart.pid && o.hart.wait == some .wfi && s.alarmDue o.hart

/-- MERIDIAN_ALARM (R20): mtime reaches mcmp with me set. The alarm is pending from then on (State.alarmDue), and a wfi that waits
completes. -/
def execMeridianAlarm (core slot : Nat) (s : State) : Res :=
  if s.alarmWakes (s.slotAt core slot) then
    let s1 := s.focus core slot
    .next ((s1.modHart fun h => { h with wait := none }).complete (s1.me.hart.word.extractLsb' 23 3) 0 (s1.pc + 4))
  else .next s

/-- The precedence of an asynchronous cause: class 0xF, then 0xC, 0xD and 0xE (R285). -/
def asyncRank (code : Nat) : Nat :=
  match code / 64 with
  | 15 => 0
  | 12 => 1
  | 13 => 2
  | _ => 3

/-- The first of some causes in the order of R285, of equals the oldest. -/
def firstAsync : List Async → Option Async
  | [] => none
  | a :: rest =>
    match firstAsync rest with
    | none => some a
    | some b => if asyncRank a.code ≤ asyncRank b.code then some a else some b

/-- Whether an asynchronous trap is taken in a slot now (R283, R287): a wfi completes first (R93). -/
def State.asyncDue (s : State) (o : Slot) : Bool :=
  o.hart.ie && s.runs o.hart.pid && s.atTrapPoint o && o.hart.wait != some .wfi && (!o.hart.async.isEmpty || s.alarmDue o.hart)

/-- ASYNCHRONOUS_TRAP (R283, R285). The alarm stays pending; the manual states no tval for it (log entry 6). -/
def execAsynchronousTrap (core slot : Nat) (s : State) : Res :=
  if s.asyncDue (s.slotAt core slot) then
    let s1 := s.focus core slot
    let s2 := ((s1.dropReserved s1.pid s1.me.hart.hid).dropPlocker s1.pid s1.me.hart.hid).dropPortWait s1.pid s1.me.hart.hid
    match firstAsync s2.me.hart.async with
    | some a =>
      .next ((s2.modHart fun h => { h with async := h.async.erase a }).enterTrap true s2.pc
        { code := a.code, tval := a.tval, info0 := a.info0, info1 := a.info1 })
    | none =>
      .next (({ s2 with fresh := s2.fresh + 1 } : State).enterTrap true s2.pc { code := 0x382, tval := Config.freeWord s2.fresh })
  else .next s

end Sys2Proof.Machine
end

