-- ==== Sys2Proof/Machine/Engines.lean ====
section
/-! DEFINITION. The copy engines (R322 to R329, R294): COPY, CTURN, PREF, SNAP and FILL; and the conversion of scratch ways
(R314). A command's accesses are performed in one event, in ascending order of its elements (log entry 1). -/

namespace Sys2Proof.Machine

/-- Why the accesses of a command stop. -/
inductive EngStop where
  /-- a bank, a way or a row-lock holds an access back, at a physical address -/
  | again (pa : Nat)
  /-- the partition halts, and the command has reached a boundary of 128 bytes (R298) -/
  | pause
  /-- the command ends with a status -/
  | ends (status : Nat)
  /-- a protection violation at a virtual address (R294) -/
  | freeze (va : X)
deriving DecidableEq, Repr

/-- Accesses of a command. -/
abbrev E (α : Type) := ExceptT EngStop (StateM State) α

/-- An engine's port changed. -/
def State.modEngine (n : Nat) (f : EngineSt → EngineSt) (s : State) : State := s.setEngine (f (s.engine n))

/-- The command has met a memory error: it completes with status 3 (R322). -/
def engBad (n : Nat) : E Unit := modify (State.modEngine n fun k => { k with bad := true })

/-- An engine as an agent. -/
def engineAgent (n : Nat) : Agent := { code := 1, id := n }

/-- How banks know an engine (R169). -/
def engineAsker (n : Nat) : Option (Nat × BitVec 32) := some (1000 + n, 0)

/-- What a translation that is refused does to a command (R294, R322). A walk that meets an uncorrectable entry ends the command as a memory
error does (log entry 29). -/
def engRefused {α : Type} (va : X) (f : XStop) : E α :=
  match f with
  | .busy pa => throw (.again pa)
  | .fault f =>
    if 0x083 ≤ f.code ∧ f.code ≤ 0x085 then throw (.freeze va) else throw (.ends (if f.code = 0x305 then 3 else 2))

/-- A translation of an engine and the unit that serves the address (R310, R315, R322). -/
def engAt (n : Nat) (c : Command) (kind : Access) (va : X) : E Phys := do
  let s ← get
  match s.translate (1000 + n) c.pid c.prv kind va (engineAgent n) with
  | (.error f, s1) => do
    set s1
    engRefused va f
  | (.ok p, s1) => do
    set s1
    if isDram p.pa then
      if reservedRow p.pa then throw (.ends 2)
      if s1.dramWaits p.pa (engineAsker n) then throw (.again p.pa)
      set (s1.chargeRow p.pa (engineAsker n))
      pure p
    else
      match s1.unitOf p.pa 0 64 with
      | .refuse _ => throw (.ends 2)
      | .later => throw (.again p.pa)
      | .serve => pure p

/-- A read of n bytes within an aligned word: the value, a free one with the flag set where the source word is poisoned, cannot be
corrected or lies in a scratch-marked row (R322). -/
def engRead (n : Nat) (c : Command) (va : X) (size : Nat) : E (Nat × Bool) := do
  let p ← engAt n c .otherRead va
  let s ← get
  let r := if s.scratchMarked p.pa then (.error { code := 0x300 }, s) else s.readRaw p va size (engineAgent n)
  match r with
  | (.ok (v, _), s1) => do
    set (s1.touchHome p size false 1 (engineAgent n))
    pure (v, false)
  | (.error _, s1) => do
    set { s1 with fresh := s1.fresh + 1 }
    engBad n
    pure ((Config.freeWord s1.fresh).toNat % 2 ^ (8 * size), true)

/-- The word at an address poisoned for a command: its tag in a managed page, its line otherwise (R322). The port keeps that the command did
it. -/
def State.poisonWord (n : Nat) (p : Phys) (s : State) : State :=
  (if p.managed then { s with tags := tagSet s.tags (p.pa / 8) 1 3 } else s.poisonLine p.pa).modEngine n fun k =>
    { k with spoiled := insertNew k.spoiled (p.pa / 8) }

/-- Whether the head command of an engine has poisoned the word at an address, or of an unmanaged page its granule: what it writes there
besides leaves the poison (R322, R332). -/
def State.spoiledBy (s : State) (n : Nat) (p : Phys) : Bool :=
  (s.engine n).spoiled.any fun w => if p.managed then w == p.pa / 8 else w / 2 == p.pa / 16

/-- Whether a command writes each of n bytes from an address on. -/
def coversAll (covered : X → Bool) (va : X) (n : Nat) : Bool := (List.range n).all fun i => covered (va + xOf i)

/-- The bytes of a write that is performed, with tag 00, coherently at the home of the line (R316 to R318, R322). -/
def State.engPut (n : Nat) (p : Phys) (size v : Nat) (s : State) : State :=
  ({ s with mem := memWrite s.mem p.pa (leBytes size v), tags := if s.spoiledBy n p then s.tags else tagSet s.tags (p.pa / 8) 1 0 } : State).touchHome
    p size true 1 (engineAgent n)

/-- A write of n bytes within an aligned word (R322, R333). `covered` says which bytes the command writes: a word or granule that
it covers whole takes the write whatever the codeword held. A bad source poisons the word, which the command's other elements leave poisoned. A scratch-marked row takes the write
as it takes one of CXL.mem (log entry 29). -/
def engWrite (n : Nat) (c : Command) (covered : X → Bool) (va : X) (size v : Nat) (bad : Bool) : E Unit := do
  let p ← engAt n c .otherWrite va
  let s ← get
  let whole := coversAll covered ((va >>> 4) <<< 4) 16
  if s.scratchMarked p.pa then set ((({ s with mem := memWrite s.mem p.pa (leBytes size v) } : State).unflip p.pa size).unhold p.pa size true)
  else if s.spoiledBy n p then set (s.engPut n p size v)
  else if s.poisonedAt p.managed p.pa then
    if whole || (p.managed && coversAll covered ((va >>> 3) <<< 3) 8) then set (s.engPut n p size v) else engBad n
  else if whole then
    set ((({ s with flips := flipsSet s.flips (p.pa / 16) [] } : State).dropSram p.pa (s.servedBy none p.pa)).engPut n p size v)
  else
    match s.meetGranule 0x03 p (engineAgent n) with
    | (.good, s1) => set (s1.engPut n p size v)
    | (_, s1) => do
      set s1
      engBad n
  if bad then modify (State.poisonWord n p)

/-- The bytes that each element of a command moves, as far as it counts for the boundary at which the command stops (R298): those of its word
side, or of a plane for a CTURN into planes. -/
def cmdUnit (c : Command) : Nat :=
  match fieldOf c.w0 0 4 with
  | 1 => 2 ^ fieldOf c.w0 8 2
  | 2 => if bitAt c.w0 4 then 2 ^ fieldOf c.w0 5 2 else 1
  | 5 => 2 ^ fieldOf c.w0 4 2
  | _ => 128

/-- Whether a command stands between two boundaries of 128 bytes. -/
def midCommand (c : Command) (progress : Nat) : Bool := progress * cmdUnit c % 128 != 0

/-- The elements of a command from number i on, r of them; the port keeps how many are done. A command of a partition that halts goes on
to the next boundary (R298). -/
def engLoop (n : Nat) (c : Command) (f : Nat → E Unit) : Nat → Nat → E Unit
  | 0, _ => pure ()
  | r + 1, i => do
    f i
    modify (State.modEngine n fun k => { k with progress := i + 1, waitsOn := none })
    let s ← get
    if s.halting c.pid && !midCommand c (i + 1) && decide (0 < r) then throw .pause
    engLoop n c f r (i + 1)

/-- The elements of a command of `total` that are not done yet. -/
def engRun (n : Nat) (c : Command) (total : Nat) (f : Nat → E Unit) : E Unit := do
  let s ← get
  let i := (s.engine n).progress
  engLoop n c f (total - i) i

/-- A value of n bytes at any address: one access within an aligned word, or one for each byte. -/
def engReadAny (n : Nat) (c : Command) (va : X) (size : Nat) : E (Nat × Bool) :=
  if va.toNat % size = 0 then engRead n c va size
  else (List.range size).foldlM (fun acc j => do
    let (v, b) ← engRead n c (va + xOf j) 1
    pure (acc.1 + v * 2 ^ (8 * j), acc.2 || b)) (0, false)

/-- A write of n bytes at any address. -/
def engWriteAny (n : Nat) (c : Command) (covered : X → Bool) (va : X) (size v : Nat) (bad : Bool) : E Unit :=
  if va.toNat % size = 0 then engWrite n c covered va size v bad
  else (List.range size).forM fun j => engWrite n c covered (va + xOf j) 1 (v / 2 ^ (8 * j) % 256) bad

/-! ### COPY -/

/-- The offset of element k in a layout for G groups (R324). -/
def layoutOffset (layout g esz k : Nat) : Nat :=
  if layout = 0 then k * esz
  else
    let chunk := g * 1024 / esz
    k / chunk * (g * 1024) + k % chunk % g * 1024 + k % chunk / g * esz

/-- The element at an offset of a layout. -/
def layoutIndex (layout g esz off : Nat) : Nat :=
  if layout = 0 then off / esz
  else off / (g * 1024) * (g * 1024 / esz) + off % 1024 / esz * g + off % (g * 1024) / 1024

/-- The length field of a command. -/
def cmdLength (c : Command) : Nat := fieldOf c.w3 0 40

/-- Whether a COPY is malformed (R323, R324). -/
def copyMalformed (c : Command) : Bool :=
  let esz := 2 ^ fieldOf c.w0 8 2
  let src := fieldOf c.w0 4 2
  let dst := fieldOf c.w0 6 2
  fieldOf c.w0 14 18 != 0 || fieldOf c.w3 40 24 != 0 || decide (2 ≤ src) || decide (2 ≤ dst) ||
    (fieldOf c.w0 10 4 != 0 && src == 0 && dst == 0) || cmdLength c % esz != 0 || c.w1.toNat % esz != 0 || c.w2.toNat % esz != 0

/-- The bytes of a value, each chosen between two values by a free choice (R324). -/
def mixBytes (use size old new : Nat) : Nat :=
  leNat ((List.range size).map fun j =>
    BitVec.ofNat 8 ((if Config.freeChoice use j % 2 = 0 then old else new) / 2 ^ (8 * j)))

/-- The accesses of a COPY (R324). Where source and destination overlap, a byte that the command has changed is read as it stood or
as it stands, by a free choice. -/
def copyRun (n : Nat) (c : Command) : E Unit := do
  let before ← get
  let esz := 2 ^ fieldOf c.w0 8 2
  let g := fieldOf c.w0 10 4 + 1
  let src := fieldOf c.w0 4 2
  let dst := fieldOf c.w0 6 2
  let total := cmdLength c / esz
  let covered := fun (a : X) => decide (layoutIndex dst g esz (a - c.w2).toNat < total)
  engRun n c total fun k => do
    let va := c.w1 + xOf (layoutOffset src g esz k)
    let (v, bad) ← engRead n c va esz
    let p ← engAt n c .otherRead va
    let old := leNat (memBytes before.mem p.pa esz)
    let s ← get
    let w := if bad || old = v then v else mixBytes s.fresh esz old v
    if w ≠ v then set { s with fresh := s.fresh + 1 }
    engWrite n c covered (c.w2 + xOf (layoutOffset dst g esz k)) esz w bad

/-! ### CTURN -/

/-- The handle value of a CTURN's plane descriptor, from the address of its block (0, 0). -/
def turnDesc (c : Command) : X := xOf (fieldOf c.w3 0 24)

/-- Whether a CTURN is malformed (R323, R325). -/
def turnMalformed (c : Command) : Bool :=
  let esz := 2 ^ fieldOf c.w0 5 2
  let g := planeDesc (turnDesc c)
  let lanes := (g.colHi + 1 - g.colLo) * g.nd * 8192
  bitAt c.w0 7 || fieldOf c.w3 47 17 != 0 || !validDesc (turnDesc c) || c.w2.toNat % 2 ^ 17 != 0 || decide (8 * esz < g.w) ||
    decide (lanes < fieldOf c.w3 24 23 + fieldOf c.w0 8 24)

/-- The blocks of a plane side, by their numbers in ascending order, translated with write permission (R163, R325). -/
def turnBlocks (n : Nat) (c : Command) : List Nat → E (List Phys)
  | [] => pure []
  | b :: rest => do
    let s ← get
    let va := c.w2 + xOf (b * 2 ^ 17)
    match s.translate (1000 + n) c.pid c.prv .otherWrite va (engineAgent n) with
    | (.error f, s1) => do
      set s1
      engRefused va f
    | (.ok p, s1) => do
      set s1
      let l ← turnBlocks n c rest
      pure (p :: l)

/-- The virtual address of the byte that holds lane l of plane i of a plane side (R162, R163). -/
def laneVa (c : Command) (h : X) (i l : Nat) : X :=
  let (die, col, bit) := laneOf h l
  c.w2 + xOf ((i * hDies h + (die - hDieLo h)) * 2 ^ 17 + col * 2 ^ 10 + bit / 8)

/-- Eight lanes of one byte moved from elements to planes (R325): the lanes of byte group j that the command names. -/
def turnToPlanes (n : Nat) (c : Command) (h : X) (w esz first count j : Nat) : E Unit := do
  let lanes := (List.range 8).map (fun b => 8 * j + b) |>.filter fun l => decide (first ≤ l) && decide (l < first + count)
  let vals ← lanes.mapM fun l => do
    let (v, bad) ← engReadAny n c (c.w1 + xOf ((l - first) * esz)) esz
    pure (l, v, bad)
  let bad := vals.any fun e => e.2.2
  let covered := fun (a : X) =>
    let off := (a - laneVa c h 0 (8 * j)).toNat
    decide (first ≤ 8 * (j + off)) && decide (8 * (j + off) + 8 ≤ first + count) && decide ((8 * j) % 8192 / 8 + off < 1024)
  (List.range w).forM fun i => do
    let va := laneVa c h i (8 * j)
    let bits := vals.foldl (fun m e => m + e.2.1 / 2 ^ i % 2 * 2 ^ (e.1 % 8)) 0
    if lanes.length = 8 then engWrite n c (fun a => covered (a - (va - laneVa c h 0 (8 * j)))) va 1 bits bad
    else
      let p ← engAt n c .otherWrite va
      let s ← get
      let (old, worse) ← if s.scratchMarked p.pa then pure (leNat (memBytes s.mem p.pa 1), false) else engRead n c va 1
      let keep := vals.foldl (fun m e => if m / 2 ^ (e.1 % 8) % 2 = 1 then m - 2 ^ (e.1 % 8) else m) old
      if !worse then engWrite n c (fun _ => false) va 1 (keep + bits) bad

/-- One element gathered from its planes (R325). -/
def turnToWord (n : Nat) (c : Command) (h : X) (w esz first count k : Nat) : E Unit := do
  let l := first + k
  let (v, bad) ← (List.range w).foldlM (fun (acc : Nat × Bool) i => do
    let (b, e) ← engRead n c (laneVa c h i l) 1
    pure (acc.1 + b / 2 ^ (l % 8) % 2 * 2 ^ i, acc.2 || e)) (0, false)
  let covered := fun (a : X) => decide ((a - c.w1).toNat < count * esz)
  engWriteAny n c covered (c.w1 + xOf (k * esz)) esz v bad

/-- The accesses of a CTURN (R325): every block is translated before the layout of any is checked, as phset does it, and what phset refuses is
malformed (R163, R354). -/
def turnRun (n : Nat) (c : Command) : E Unit := do
  let esz := 2 ^ fieldOf c.w0 5 2
  let g := planeDesc (turnDesc c)
  let count := fieldOf c.w0 8 24
  let first := fieldOf c.w3 24 23
  let blocks ← turnBlocks n c (List.range (g.w * g.nd))
  let base := (blocks.head?.map (fun p => p.pa)).getD 0
  if (misplacedBlock g base 0 blocks).isSome || offPage g base then throw (.ends 1)
  let h := handleWord g base
  if bitAt c.w0 4 then engRun n c count (turnToWord n c h g.w esz first count)
  else engRun n c ((first + count + 7) / 8 - first / 8) fun j => turnToPlanes n c h g.w esz first count (first / 8 + j)

/-! ### PREF -/

/-- The accesses of a PREF (R321, R326): a line that it cannot use is skipped. -/
def prefRun (n : Nat) (c : Command) : E Unit := do
  let lo := c.w1.toNat / 128
  engRun n c ((c.w1.toNat + cmdLength c + 127) / 128 - lo) fun i => do
    let s ← get
    let va := xOf ((lo + i) * 128)
    match s.translate (1000 + n) c.pid c.prv .otherRead va (engineAgent n) with
    | (.error (.busy pa), _) => throw (.again pa)
    | (.error (.fault _), _) => pure ()
    | (.ok p, s1) =>
      if reservedRow p.pa || p.plane || !p.cached then set s1
      else if s1.dramWaits p.pa (engineAsker n) then throw (.again p.pa)
      else set ((s1.chargeRow p.pa (engineAsker n)).prefetchLine p 3 (bitAt c.w0 4) none (engineAgent n))

/-! ### SNAP -/

/-- The words of a block from an address on. -/
def snapWords (n : Nat) (c : Command) (va : X) : Nat → E (List (Nat × Bool))
  | 0 => pure []
  | r + 1 => do
    let w ← engRead n c va 8
    let rest ← snapWords n c (va + 8) r
    pure (w :: rest)

/-- Words written one after the other. -/
def snapPut (n : Nat) (c : Command) (covered : X → Bool) (va : X) : List (Nat × Bool) → E Unit
  | [] => pure ()
  | (v, bad) :: rest => do
    engWrite n c covered va 8 v bad
    snapPut n c covered (va + 8) rest

/-- The hash of a block (R327). -/
def snapHash (ws : List Nat) : X := xOf (2 ^ 48 + (crc48 (ws.flatMap (leBytes 8))).toNat)

/-- The accesses of a SNAP (R327). -/
def snapRun (n : Nat) (c : Command) : E Unit := do
  engRun n c (fieldOf c.w0 8 24) fun b => do
    let ws ← snapWords n c (c.w1 + xOf (4096 * b)) 512
    let h := snapHash (ws.map (·.1))
    let slot := c.w2 + xOf (8 * b)
    let (old, _) ← engRead n c slot 8
    if old ≠ h.toNat then
      let s ← get
      let out := c.w3 + xOf (8 + 4104 * (s.engine n).emitted)
      snapPut n c (fun a => decide ((a - out).toNat < 4104)) out ((b, false) :: ws)
      engWrite n c (fun a => decide ((a - slot).toNat < 8)) slot 8 h.toNat false
      modify (State.modEngine n fun k => { k with emitted := k.emitted + 1 })
  let s ← get
  engWrite n c (fun a => decide ((a - c.w3).toNat < 8)) c.w3 8 (s.engine n).emitted false

/-! ### FILL -/

/-- The accesses of a FILL (R328): byte k is byte k mod size of the pattern. -/
def fillRun (n : Nat) (c : Command) : E Unit := do
  let size := 2 ^ fieldOf c.w0 4 2
  let covered := fun (a : X) => decide ((a - c.w1).toNat < cmdLength c)
  engRun n c (cmdLength c / size) fun k =>
    engWrite n c covered (c.w1 + xOf (k * size)) size (c.w2.toNat % 2 ^ (8 * size)) false

/-! ### Commands -/

/-- Whether a command is malformed (R323). -/
def cmdMalformed (c : Command) : Bool :=
  match fieldOf c.w0 0 4 with
  | 1 => copyMalformed c
  | 2 => turnMalformed c
  | 3 => fieldOf c.w0 5 27 != 0 || c.w2 != 0 || fieldOf c.w3 40 24 != 0
  | 4 => fieldOf c.w0 4 4 != 0 || c.w1.toNat % 4096 != 0 || c.w2.toNat % 8 != 0 || c.w3.toNat % 8 != 0
  | 5 =>
    let size := 2 ^ fieldOf c.w0 4 2
    fieldOf c.w0 6 26 != 0 || fieldOf c.w3 40 24 != 0 || c.w1.toNat % size != 0 || cmdLength c % size != 0
  | _ => true

/-- Whether a command's length or count is 0 (R323). -/
def cmdEmpty (c : Command) : Bool :=
  match fieldOf c.w0 0 4 with
  | 2 => fieldOf c.w0 8 24 == 0
  | 4 => fieldOf c.w0 8 24 == 0
  | _ => cmdLength c == 0

/-- The completion word of a command (R216). -/
def completion (c : Command) (status : Nat) : X :=
  xOf (2 ^ 63 + status * 2 ^ 56 + fieldOf c.w0 0 4 * 2 ^ 52 + fieldOf c.w0 32 32)

/-- The head command completed with a status. -/
def State.finish (n : Nat) (c : Command) (status : Nat) (s : State) : State :=
  s.modEngine n fun k =>
    { k with cmds := k.cmds.tail, done := k.done ++ [completion c status], progress := 0, emitted := 0, bad := false, readyAt := 0,
             started := false, spoiled := [], waitsOn := none }

/-- The engine of a refused access frozen (R294): the pushing hart receives 0x3C1, and firmware is told. -/
def State.freezeEngine (n : Nat) (c : Command) (va : X) (s : State) : State :=
  let s1 := (s.modEngine n fun k => { k with frozen := some va }).postAsync c.pid c.hid 0x3C1 (xOf (2 ^ 60 + n)) va
  { s1 with replies := s1.replies ++ [.report "engine frozen" n] }

/-- The outcome of a command's accesses. -/
def State.settleCommand (n : Nat) (c : Command) (r : Except EngStop Unit × State) : State :=
  match r with
  | (.ok _, s) => s.finish n c (if (s.engine n).bad then 3 else 0)
  | (.error (.ends st), s) => s.finish n c st
  | (.error (.again pa), s) =>
    s.modEngine n fun k => { k with readyAt := s.cycle, waitsOn := waitAt pa s.cycle k.waitsOn }
  | (.error .pause, s) => s
  | (.error (.freeze va), s) => s.freezeEngine n c va

/-- Whether an engine's access at an address must wait still (R169, R171, R178, R315). -/
def State.engineWaits (s : State) (n pa : Nat) : Bool :=
  if isDram pa then s.dramWaits pa (engineAsker n) else s.unitOf pa 0 64 == .later

/-- Whether an engine starts its head command, or goes on with it, in this cycle (R280, R292, R298, R329, R352): a command starts 60 cycles
after its acceptance or, for epush.at, at its x28; that of a partition that halts goes on to a boundary. -/
def State.engineDue (s : State) (k : EngineSt) : Bool :=
  match k.cmds with
  | [] => false
  | c :: _ =>
    decide (k.done.length < 16) && k.frozen.isNone && decide (k.readyAt ≤ s.cycle) &&
      (match c.start with | none => decide (c.accepted + 60 ≤ s.cycle) | some t => decide (t.toNat ≤ s.cycle)) &&
      k.waitsOn.all (fun w => w.1.head?.all fun pa => !s.engineWaits k.n pa) && (s.runs c.pid || (s.halting c.pid && midCommand c k.progress)) &&
      (k.started || (!(s.part? c.pid).any (·.frozen) && !s.heldBack))

/-- The head command of an engine, where it is of a kind and due: performed by its accesses. -/
def engineOp (n : Nat) (ofKind : Nat → Bool) (run : Command → E Unit) (s : State) : Res :=
  let k := s.engine n
  match k.cmds with
  | [] => .next s
  | c :: _ =>
    if !(s.engineDue k && ofKind (fieldOf c.w0 0 4)) then .next s
    else if cmdMalformed c then .next (s.finish n c 1)
    else if cmdEmpty c then .next (s.finish n c 0)
    else .next (State.settleCommand n c ((run c).run (s.modEngine n fun k => { k with started := true })))

/-- COPY (R324). A command whose kind is none of Table 7 completes as malformed here (R323). -/
def execEngineCopy (engine : Nat) (s : State) : Res :=
  engineOp engine (fun k => k == 1 || k == 0 || decide (6 ≤ k)) (copyRun engine) s

/-- CTURN (R325). -/
def execEngineCturn (engine : Nat) (s : State) : Res := engineOp engine (· == 2) (turnRun engine) s

/-- PREF (R326). -/
def execEnginePref (engine : Nat) (s : State) : Res := engineOp engine (· == 3) (prefRun engine) s

/-- SNAP (R327). -/
def execEngineSnap (engine : Nat) (s : State) : Res := engineOp engine (· == 4) (snapRun engine) s

/-- FILL (R328). -/
def execEngineFill (engine : Nat) (s : State) : Res := engineOp engine (· == 5) (fillRun engine) s

/-! ### Scratch ways -/

/-- The addresses of the 64 scratch blocks of a way number at a core position, in each of its 16 banks (R313): block j of a
position lies at 2^17 × j + 2^14 × position of the stack's scratch range. -/
def inWay (stack pos way pa : Nat) : Bool :=
  isScratch pa && pa / 2 ^ 36 % 8 == stack && pa / 2 ^ 14 % 8 == pos && pa / 2 ^ 17 % 1024 / 64 == way

/-- The contents of a way of scratch made zero: every byte, with no tags and no flips (R314). -/
def State.clearWay (stack pos way : Nat) (s : State) : State :=
  { s with mem := s.mem.filter (fun c => !inWay stack pos way c.1), tags := s.tags.filter (fun t => !inWay stack pos way (8 * t.1)),
           flips := s.flips.filter (fun g => !inWay stack pos way (16 * g.1)), sram := s.sram.filter (fun f => !inWay stack pos way f.pa),
           under := s.under.filter (fun u => !inWay stack pos way u.pa) }

/-- Whether the banks of a core position have converted a way (R314). -/
def State.wayDue (s : State) (w : Wpart) : Bool := w.way.any fun g => decide (g.2 ≤ s.cycle)

/-- WAY_CONVERSION (R314): one way more or less, toward req. The lines in a way that becomes scratch are evicted, and it is zero; the L1 copies of
the lines of a way that leaves scratch are dropped with its contents. -/
def execWayConversion (stack position : Nat) (s : State) : Res :=
  let w := s.wpart stack position
  if s.wayDue w then
    let cur := (w.way.map (·.1)).getD w.cur
    let s1 := s.clearWay stack position (min w.cur cur)
    let s2 : State :=
      { s1 with fresh := s1.fresh + 1, wparts := s1.wparts.filter (fun o => !(o.stack == stack && o.pos == position)) ++
                  [{ w with cur := cur, way := s1.nextWay w.req cur }] }
    let s3 := { s2 with dir := s2.dir.filter (fun e => !inWay stack position (min w.cur cur) e.pa) }
    let here := fun (k : Line) => (s3.homeOf k.pa).1 == stack && (s3.homeOf k.pa).2.1 / 16 == position
    .next ((s3.lines.filter (fun k => here k && decide (16 - cur ≤ k.way))).foldl (fun t k => t.evictLine k) s3)
  else .next s

end Sys2Proof.Machine
end

