-- ==== Sys2Proof/Machine/Fp.lean ====
section
/-! DEFINITION. Scalar floating point, major 0x0B (R79, R80). -/

namespace Sys2Proof.Machine

/-- An instruction of major 0x0B: its value and flags from the state and the rounding mode, its latency, and the trap of an
enabled flag before x[d] is written (R38, R79). -/
def fpOp (st : BitVec 3) (d : BitVec 5) (srcs : List (BitVec 5)) (o : BitVec 1) (m : BitVec 3) (lat : Nat) (fixed : Bool)
    (f : State → Nat → Nat × Flags) (s : State) : Res :=
  runScalar { st := st, srcs := srcs.map .x, dst := .x d } (do
    let t ← get
    let (r, fl) := f t (t.mode o m)
    raiseFlags fl 0
    putX d (xOf r) false lat fixed
    pure (t.pc + 4)) s

/-- x[n] read as binary64. -/
def State.fX (s : State) (n : BitVec 5) : FV := Fmt.f64.decode (s.rX n).toNat

/-- The cycles of fdiv and fsqrt, from 14 to 24 (R79; log entry 11). -/
def fdivLatency (r : X) : Nat := 14 + Config.fdivCycles r % 11

/-- fdiv or fsqrt: scoreboarded (R79). -/
def fpSlow (st : BitVec 3) (d : BitVec 5) (srcs : List (BitVec 5)) (o : BitVec 1) (m : BitVec 3)
    (f : State → Nat → Nat × Flags) (s : State) : Res :=
  runScalar { st := st, srcs := srcs.map .x, dst := .x d } (do
    let t ← get
    let (r, fl) := f t (t.mode o m)
    raiseFlags fl 0
    putX d (xOf r) false (fdivLatency (xOf r)) false
    pure (t.pc + 4)) s

/-- fcvt: A converted to the type named by the code; fcvt.f64 returns A unchanged unless it is a signalling NaN (R80). Integer
results are sign-extended, the others zero-extended. -/
def fcvtTo (code mode : Nat) (a : X) : Nat × Flags :=
  match tyOfCode code with
  | some (.flt .f64) =>
    if (Fmt.f64.decode a.toNat).isSNaN then (Fmt.f64.nanBits, flagNV) else (a.toNat, 0)
  | some (.int w) =>
    let (r, fl) := convertTy (.flt .f64) (.int w) mode false a.toNat
    (ofIntBits 64 (sextNat w r), fl)
  | some t => convertTy (.flt .f64) t mode false a.toNat
  | none => (0, 0)

/-- fcvtf: the value of the type named by the code in x[a] converted to binary64 (R80). -/
def fcvtFrom (code mode : Nat) (a : X) : Nat × Flags :=
  match tyOfCode code with
  | some (.flt .f64) =>
    if (Fmt.f64.decode a.toNat).isSNaN then (Fmt.f64.nanBits, flagNV) else (a.toNat, 0)
  | some t => convertTy t (.flt .f64) mode false (a.toNat % 2 ^ t.bits)
  | none => (0, 0)

/-- fadd (R79). -/
def execFadd (st : BitVec 3) (d a b : BitVec 5) (o : BitVec 1) (m : BitVec 3) (s : State) : Res :=
  fpOp st d [a, b] o m 4 true (fun t r => Fmt.f64.add r (t.fX a) (t.fX b)) s

/-- fsub (R79). -/
def execFsub (st : BitVec 3) (d a b : BitVec 5) (o : BitVec 1) (m : BitVec 3) (s : State) : Res :=
  fpOp st d [a, b] o m 4 true (fun t r => Fmt.f64.add r (t.fX a) (t.fX b).negate) s

/-- fmul (R79). -/
def execFmul (st : BitVec 3) (d a b : BitVec 5) (o : BitVec 1) (m : BitVec 3) (s : State) : Res :=
  fpOp st d [a, b] o m 4 true (fun t r => Fmt.f64.mulTo r (t.fX a) (t.fX b)) s

/-- fmin (R79). -/
def execFmin (st : BitVec 3) (d a b : BitVec 5) (o : BitVec 1) (m : BitVec 3) (s : State) : Res :=
  fpOp st d [a, b] o m 4 true (fun t _ => Fmt.f64.minMax false (t.rX a).toNat (t.rX b).toNat) s

/-- fmax (R79). -/
def execFmax (st : BitVec 3) (d a b : BitVec 5) (o : BitVec 1) (m : BitVec 3) (s : State) : Res :=
  fpOp st d [a, b] o m 4 true (fun t _ => Fmt.f64.minMax true (t.rX a).toNat (t.rX b).toNat) s

/-- feq (R79). -/
def execFeq (st : BitVec 3) (d a b : BitVec 5) (o : BitVec 1) (m : BitVec 3) (s : State) : Res :=
  fpOp st d [a, b] o m 4 true (fun t _ => let (r, fl) := (t.fX a).compare 0 (t.fX b); (b2n r, fl)) s

/-- flt (R79). -/
def execFlt (st : BitVec 3) (d a b : BitVec 5) (o : BitVec 1) (m : BitVec 3) (s : State) : Res :=
  fpOp st d [a, b] o m 4 true (fun t _ => let (r, fl) := (t.fX a).compare 1 (t.fX b); (b2n r, fl)) s

/-- fle (R79). -/
def execFle (st : BitVec 3) (d a b : BitVec 5) (o : BitVec 1) (m : BitVec 3) (s : State) : Res :=
  fpOp st d [a, b] o m 4 true (fun t _ => let (r, fl) := (t.fX a).compare 2 (t.fX b); (b2n r, fl)) s

/-- fma: one rounding of A × B + D, where D is the old x[d] (R79). -/
def execFma (st : BitVec 3) (d a b : BitVec 5) (o : BitVec 1) (m : BitVec 3) (s : State) : Res :=
  fpOp st d [a, b, d] o m 4 true (fun t r => Fmt.f64.fma r (t.fX a) (t.fX b) (t.fX d)) s

/-- fdiv (R79). -/
def execFdiv (st : BitVec 3) (d a b : BitVec 5) (o : BitVec 1) (m : BitVec 3) (s : State) : Res :=
  fpSlow st d [a, b] o m (fun t r => Fmt.f64.div r (t.fX a) (t.fX b)) s

/-- fsqrt (R79). -/
def execFsqrt (st : BitVec 3) (d a : BitVec 5) (o : BitVec 1) (m : BitVec 3) (s : State) : Res :=
  fpSlow st d [a] o m (fun t r => Fmt.f64.sqrt r (t.fX a)) s

/-- fkind (R79, Table 5 of 04_scalar_instructions). -/
def execFkind (st : BitVec 3) (d a : BitVec 5) (o : BitVec 1) (m : BitVec 3) (s : State) : Res :=
  fpOp st d [a] o m 4 true (fun t _ => (Fmt.f64.kind (t.rX a).toNat, 0)) s

/-- fcvt (R80). -/
def execFcvt (st : BitVec 3) (d a c : BitVec 5) (o : BitVec 1) (m : BitVec 3) (s : State) : Res :=
  fpOp st d [a] o m 4 true (fun t r => fcvtTo c.toNat r (t.rX a)) s

/-- fcvtf (R80). -/
def execFcvtf (st : BitVec 3) (d a c : BitVec 5) (o : BitVec 1) (m : BitVec 3) (s : State) : Res :=
  fpOp st d [a] o m 4 true (fun t r => fcvtFrom c.toNat r (t.rX a)) s

end Sys2Proof.Machine
end

