-- ==== Sys2Proof/Machine/Sha.lean ====
section
/-! DEFINITION. SHA-256, which attestation names (R351): the digest of FIPS 180-4 (PRESUMED, log entry 63: the manual names it and gives no
definition). -/

namespace Sys2Proof.Machine

/-- The 64 round constants: the first 32 fractional bits of the cube roots of the first 64 primes. -/
def shaK : List (BitVec 32) :=
  [0x428A2F98, 0x71374491, 0xB5C0FBCF, 0xE9B5DBA5, 0x3956C25B, 0x59F111F1, 0x923F82A4, 0xAB1C5ED5,
   0xD807AA98, 0x12835B01, 0x243185BE, 0x550C7DC3, 0x72BE5D74, 0x80DEB1FE, 0x9BDC06A7, 0xC19BF174,
   0xE49B69C1, 0xEFBE4786, 0x0FC19DC6, 0x240CA1CC, 0x2DE92C6F, 0x4A7484AA, 0x5CB0A9DC, 0x76F988DA,
   0x983E5152, 0xA831C66D, 0xB00327C8, 0xBF597FC7, 0xC6E00BF3, 0xD5A79147, 0x06CA6351, 0x14292967,
   0x27B70A85, 0x2E1B2138, 0x4D2C6DFC, 0x53380D13, 0x650A7354, 0x766A0ABB, 0x81C2C92E, 0x92722C85,
   0xA2BFE8A1, 0xA81A664B, 0xC24B8B70, 0xC76C51A3, 0xD192E819, 0xD6990624, 0xF40E3585, 0x106AA070,
   0x19A4C116, 0x1E376C08, 0x2748774C, 0x34B0BCB5, 0x391C0CB3, 0x4ED8AA4A, 0x5B9CCA4F, 0x682E6FF3,
   0x748F82EE, 0x78A5636F, 0x84C87814, 0x8CC70208, 0x90BEFFFA, 0xA4506CEB, 0xBEF9A3F7, 0xC67178F2]

/-- The eight working words. -/
structure ShaState where
  a : BitVec 32
  b : BitVec 32
  c : BitVec 32
  d : BitVec 32
  e : BitVec 32
  f : BitVec 32
  g : BitVec 32
  h : BitVec 32
deriving DecidableEq, Repr

/-- The words before the first block: the first 32 fractional bits of the square roots of the first 8 primes. -/
def shaInit : ShaState :=
  { a := 0x6A09E667, b := 0xBB67AE85, c := 0x3C6EF372, d := 0xA54FF53A, e := 0x510E527F, f := 0x9B05688C, g := 0x1F83D9AB, h := 0x5BE0CD19 }

/-- A list of bytes as words of 32 bits, the first byte of each the most significant; n words at most. -/
def shaWords : Nat → List Byte → List (BitVec 32)
  | n + 1, a :: b :: c :: d :: rest => (a ++ b ++ c ++ d) :: shaWords n rest
  | _, _ => []

/-- The message schedule, newest word first, after n more words. -/
def shaExpand : Nat → List (BitVec 32) → List (BitVec 32)
  | 0, w => w
  | n + 1, w =>
    let x := w.getD 14 0
    let y := w.getD 1 0
    let s0 := x.rotateRight 7 ^^^ x.rotateRight 18 ^^^ (x >>> 3)
    let s1 := y.rotateRight 17 ^^^ y.rotateRight 19 ^^^ (y >>> 10)
    shaExpand n ((s1 + w.getD 6 0 + s0 + w.getD 15 0) :: w)

/-- One round with its constant and its word of the schedule. -/
def shaRound (v : ShaState) (k w : BitVec 32) : ShaState :=
  let s1 := v.e.rotateRight 6 ^^^ v.e.rotateRight 11 ^^^ v.e.rotateRight 25
  let s0 := v.a.rotateRight 2 ^^^ v.a.rotateRight 13 ^^^ v.a.rotateRight 22
  let t := v.h + s1 + ((v.e &&& v.f) ^^^ (~~~v.e &&& v.g)) + k + w
  { a := t + s0 + ((v.a &&& v.b) ^^^ (v.a &&& v.c) ^^^ (v.b &&& v.c)), b := v.a, c := v.b, d := v.c, e := v.d + t, f := v.e, g := v.f, h := v.g }

/-- The words after a block of 64 bytes. -/
def shaBlock (v : ShaState) (b : List Byte) : ShaState :=
  let w := (shaExpand 48 (shaWords 16 b).reverse).reverse
  let u := (shaK.zip w).foldl (fun (t : ShaState) q => shaRound t q.1 q.2) v
  { a := v.a + u.a, b := v.b + u.b, c := v.c + u.c, d := v.d + u.d, e := v.e + u.e, f := v.f + u.f, g := v.g + u.g, h := v.h + u.h }

/-- The words after n blocks. -/
def shaBlocks : Nat → List Byte → ShaState → ShaState
  | 0, _, v => v
  | n + 1, l, v => shaBlocks n (l.drop 64) (shaBlock v (l.take 64))

/-- A message padded to whole blocks: a 1 bit, zeros, and its length in bits. -/
def shaPad (m : List Byte) : List Byte :=
  m ++ [0x80] ++ List.replicate ((119 - m.length % 64) % 64) 0 ++ (leBytes 8 (8 * m.length)).reverse

/-- The SHA-256 digest of a byte string: 32 bytes (R351). -/
def sha256 (m : List Byte) : List Byte :=
  let p := shaPad m
  let v := shaBlocks (p.length / 64) p shaInit
  [v.a, v.b, v.c, v.d, v.e, v.f, v.g, v.h].flatMap fun w => (leBytes 4 w.toNat).reverse

end Sys2Proof.Machine
end

