-- ==== Sys2Proof/Machine/HostIf.lean ====
section
/-! DEFINITION. The host's side of the module (R266, R344 to R347, R350, R351): start registers, management commands, partition swaps
(R298 to R300), debug freeze (R292) and the end of bus-master freezes (R294). -/

namespace Sys2Proof.Machine

/-- s with an answer to the outside. -/
def State.reply (r : Reply) (s : State) : State := { s with replies := s.replies ++ [r] }

/-- A management command, by its code in Table 3 of 17_host_platform, answered with its status (R347). -/
def State.answer (command code : Nat) (s : State) : State := s.reply (.status command code)

/-- Whether a swap-out that a command has asked for is still under way (R298, R347). -/
def State.swapRuns (s : State) : Bool := s.parts.any fun p => p.cond == .halting

/-! ### Starts (R266, R345) -/

/-- The lowest-numbered stack in which a partition holds a slot. -/
def Part.firstStack (p : Part) : Nat := (bestBy id (p.cfg.cores.map fun c => stackOf c.core)).getD 0

/-- s with the result of the last start of a partition (Table 2 of 17_host_platform). -/
def State.setStat (pid result : Nat) (s : State) : State :=
  { s with stats := s.stats.filter (fun q => q.1 != pid) ++ [(pid, result)] }

/-- STAT of a partition (Table 2 of 17_host_platform): its condition, and the result of its last start. A partition that halts for a swap
still runs (R298). -/
def State.statWord (s : State) (pid : Nat) : X :=
  let cond := match (s.part? pid).map (fun p => p.cond) with
    | none => 0
    | some .idle => 1
    | some .running => 2
    | some .halting => 2
    | some .swapped => 3
  xOf (cond * 256 + (s.stats.lookup pid).getD 0)

/-- What a host read of 64 bits of BAR 2 returns at an offset (R3, R345): START is write-only and reads as zero; none outside the start
registers, and none yet of STAT while a START of its partition waits, whose result it is to return. -/
def State.barRead (s : State) (offset : Nat) : Option X :=
  if offset < 0x1000 ∨ 0x1000 + 0x10 * 64 ≤ offset then none
  else if offset % 16 = 0 then some 0
  else if offset % 16 = 8 then (if s.starts.any (fun q => q.1 == (offset - 0x1000) / 16) then none else some (s.statWord ((offset - 0x1000) / 16)))
  else none

/-- A START processed (R266, R345, R346): bits [51:0] are the address of a record in state 1, which is decoded as it is read (R331); a root hart
enters the runnable queue. The first start of a partition sets the state of its barriers (R209). -/
def State.startOne (pid : Nat) (rec : X) (s0 : State) : State :=
  match s0.part? pid, s0.startRecord pid rec with
  | none, _ => s0.setStat pid 3
  | some p, none => s0.setStat pid (if p.cond = .swapped then 3 else 1)
  | some p, some hid =>
    let s := s0.meetHead pid hid
    if p.cond = .swapped then s0.setStat pid 3
    else if s.recordState pid hid ≠ 1 ∨ s.queue.any (fun r => r.pid == pid && r.hid == hid) then s.setStat pid 2
    else
      let s1 := if p.cond = .idle then { s with barriers := s.barriers.filter (fun k => !s.holdsBarrier pid k.n) } else s
      let s2 := s1.modPart pid fun q => { q with cond := if q.cond = .idle then .running else q.cond }
      let r : Runnable := { stack := p.firstStack, pid := pid, hid := hid }
      ({ s2 with queue := s2.queue ++ [r] } : State).setStat pid 0

/-- The place of the START that is processed next: the first whose record can be read and that no earlier one of its partition comes before
(R345). -/
def State.nextStart (s : State) : Option Nat :=
  (List.range s.starts.length).find? fun i =>
    (s.starts[i]?).any fun q => !s.startBusy q.1 q.2 && !(s.starts.take i).any fun o => o.1 == q.1

/-- The STARTs that can be processed now, one at a time, at most n of them (R345). -/
def State.serveStarts : Nat → State → State
  | 0, s => s
  | n + 1, s =>
    match s.nextStart.bind fun i => (s.starts[i]?).map fun q => (i, q) with
    | none => s
    | some (i, q) => (State.startOne q.1 q.2 { s with starts := s.starts.eraseIdx i }).serveStarts n

/-- START (R345): the writes of a partition are processed in the order of their arrival; one whose record a bank or a row-lock holds back waits,
and those of its partition behind it (R171, R263). -/
def execStartRoot (pid : Nat) (rec : BitVec 64) (s : State) : Res :=
  .next (if 64 ≤ pid then s else ({ s with starts := s.starts ++ [(pid, rec)] } : State).serveStarts (s.starts.length + 1))

/-! ### Configuration (R344) -/

/-- Whether the range from a on, n bytes, lies in memory (R309, R310): DRAM that is neither mapped out nor reserved, scratch, or a
T3 ranges of the configuration. Each of these holds or fails for all of a 128 KiB block, but for the columns of scratch and the ends of T3
ranges. -/
def State.backedBy (s : State) (cfg : PartCfg) (a n : Nat) : Bool :=
  (List.range ((a + n - 1) / 2 ^ 17 + 1 - a / 2 ^ 17)).all fun i =>
    let lo := max a ((a / 2 ^ 17 + i) * 2 ^ 17)
    let hi := min (a + n) ((a / 2 ^ 17 + i + 1) * 2 ^ 17)
    if isDram lo then !s.dramLost lo && !reservedRow lo
    else if isScratch lo then (List.range ((hi - 1) / 1024 + 1 - lo / 1024)).all fun j => !s.scratchLost (lo + 1024 * j)
    else inT3 lo && decide (hi ≤ coveredTo cfg.t3 cfg.t3.length lo)

/-- Whether a core is mapped out (R340). -/
def State.coreLost (s : State) (core : Nat) : Bool :=
  s.fw.lost.any fun u =>
    match u with
    | .core c => c == core
    | .computeLayer st l => st == stackOf core && l == core / 8 % 2
    | .baseDie st => st == stackOf core
    | _ => false

/-- Whether a list has no member twice. -/
def distinct {α : Type} [DecidableEq α] (l : List α) : Bool := decide l.Nodup

/-- Whether the grants of a core fit beside those of the other partitions (R278, R340). -/
def State.coreFits (s : State) (pid : Nat) (c : CoreGrant) : Bool :=
  let theirs := ((s.parts.filter (fun p => p.pid != pid)).flatMap (fun p => p.cfg.cores)).filter fun o => o.core == c.core
  decide (c.core < 128) && c.mask != 0 && decide (1 ≤ c.part) && !s.coreLost c.core && decide (theirs.length ≤ 1) &&
    theirs.all (fun o => o.mask &&& c.mask == 0) &&
    decide (c.part + (theirs.map (·.part)).sum ≤ (s.workGroups c.core).length)

/-- Whether no other partition is granted a member of a list. -/
def State.exclusive {α : Type} [DecidableEq α] (s : State) (pid : Nat) (l : List α) (f : PartCfg → List α) : Bool :=
  distinct l && s.parts.all fun p => p.pid == pid || l.all fun a => decide (a ∉ f p.cfg)

/-- Whether a stack is mapped out whole (R340). -/
def State.stackLost (s : State) (stack : Nat) : Bool := s.fw.lost.any fun u => u == .baseDie stack

/-- Whether a configuration is malformed (R344, Table 1 of 17_host_platform). -/
def State.cfgMalformed (s : State) (pid : Nat) (cfg : PartCfg) : Bool :=
  !(decide (pid < 64) && cfg.root % 2 ^ 15 == 0 && cfg.pool % 512 == 0 && decide (1 ≤ cfg.count) && decide (cfg.count ≤ 2 ^ 20) &&
    cfg.frames % 64 == 0 && decide (10 ≤ cfg.slice) && decide (cfg.slice ≤ 20) && s.backedBy cfg cfg.root 32768 &&
    s.backedBy cfg cfg.pool (512 * cfg.count) && s.backedBy cfg cfg.frames (64 * cfg.count) && !cfg.cores.isEmpty &&
    distinct (cfg.cores.map (·.core)) && cfg.cores.all (s.coreFits pid) &&
    cfg.scratch.all (fun q => decide (q.1 < 8) && decide (q.2 < 8)) && s.exclusive pid cfg.scratch (·.scratch) &&
    cfg.watermarks.all (fun w => decide (w < 256) && !s.stackLost (w / 32)) && s.exclusive pid cfg.watermarks (·.watermarks) &&
    cfg.engines.all (fun e => decide (e < 256) && !s.stackLost (e / 32)) && s.exclusive pid cfg.engines (·.engines) &&
    decide (cfg.t3.length ≤ 16) &&
    cfg.t3.all (fun r => decide (2 ^ 51 ≤ r.base) && decide (r.base + r.size ≤ 2 ^ 52) && s.portWorks r.port) &&
    decide (cfg.peers.length ≤ 16) && cfg.peers.all (fun g => decide (g.base + g.size ≤ 2 ^ 39)))

/-- A partition with a configuration, in which the cores that it was not granted before have grant number n (R209, R278). -/
def Part.configured (cfg : PartCfg) (n : Nat) (p : Part) : Part :=
  { p with cfg := cfg, granted := cfg.cores.map fun c => (c.core, (p.granted.lookup c.core).getD n) }

/-- Whether a barrier holds state: some instruction or a set has changed it since the partition's start (R209). -/
def Barrier.holdsState (k : Barrier) : Bool := k.expect != 0 || k.arrived != 0 || k.phase != 0 || k.bound != 0

/-- Whether a new configuration of a swapped-out partition removes a slot, lane group or core position that holds state in its image
(R300): the barriers of a core among it (R275, R299). -/
def State.cfgRemoves (s : State) (p : Part) (cfg : PartCfg) : Bool :=
  let t := s.modPart p.pid (Part.configured cfg s.nextId)
  !(p.image.all fun o =>
    cfg.cores.any (fun c => c.core == o.core && c.mask.getLsbD o.idx) &&
      o.vec.groups.all (fun g => decide (g ∈ t.shareOf p.pid o.core))) ||
    s.barriers.any (fun k => s.holdsBarrier p.pid k.n && k.holdsState && !t.holdsBarrier p.pid k.n) ||
    p.cfg.scratch.any fun q => decide (q ∉ cfg.scratch) && decide (0 < (s.wpart q.1 q.2).cur)

/-- Every translation of a partition discarded (R307). -/
def State.dropTlb (pid : Nat) (s : State) : State := { s with tlb := s.tlb.filter fun e => e.pid != pid }

/-- The effect of CONFIGURE. -/
def State.configure (pid : Nat) (cfg : PartCfg) (s : State) : State :=
  match s.part? pid with
  | none =>
    if s.cfgMalformed pid cfg then s.answer 0xC000 1
    else
      let p : Part :=
        { pid := pid, cond := .idle, cfg := cfg, frozen := false, invCount := 0, granted := [], sets := [], image := [], heldSeq := [],
          heldWalk := [] }
      ({ s with parts := s.parts ++ [p.configured cfg s.nextId], nextId := s.nextId + 1 } : State).answer 0xC000 0
  | some p =>
    if p.cond ≠ .swapped then s.answer 0xC000 2
    else if s.cfgMalformed pid cfg then s.answer 0xC000 1
    else if s.cfgRemoves p cfg then s.answer 0xC000 3
    else
      let t : State := { s with nextId := s.nextId + 1 }
      ((t.modPart pid (Part.configured cfg s.nextId)).dropTlb pid).answer 0xC000 0

/-- Whether a partition has a hart that has been created and has not ended, or a root that is about to be (R265). -/
def State.hasHart (s : State) (p : Part) : Bool :=
  s.slots.any (fun o => o.live && o.hart.pid == p.pid) || s.queue.any (fun r => r.pid == p.pid) ||
    s.waiting.any (fun r => r.pid == p.pid) || p.image.any (·.live)

/-- What a partition holds given up (R347): queued commands, records and instructions, locks, barriers, watermarks and the vector
states of its slots. Microprograms that run end without it. -/
def State.releasePart (p : Part) (s : State) : State :=
  let keepOp := fun (o : SeqOp) => o.pid != p.pid || o.running
  let s1 : State :=
    { s with parts := s.parts.filter (fun q => q.pid != p.pid), walkers := s.walkers.filter (fun r => r.pid != p.pid),
             engines := s.engines.filter (fun k => decide (k.n ∉ p.cfg.engines)), locks := s.locks.filter (fun l => l.pid != p.pid), plockers := s.plockers.filter (fun q => q.pid != p.pid),
             portWaits := s.portWaits.filter (fun q => q.pid != p.pid),
             barriers := s.barriers.filter (fun k => !s.holdsBarrier p.pid k.n),
             watermarks := s.watermarks.filter (fun k => decide (k.n ∉ p.cfg.watermarks)),
             asyncs := s.asyncs.filter (fun q => q.1 != p.pid), spills := s.spills.filter (fun q => q.pid != p.pid),
             seq := (s.seq.filter keepOp).map fun o => if o.pid = p.pid then { o with handles := [] } else o,
             fife := s.fife.filter (fun e => !s.slots.any fun o => o.core == e.core && o.idx == e.slot && o.vec.ownerPid == p.pid) }
  (s1.dropTlb p.pid).mapSlots fun o => if o.vec.ownerPid = p.pid then { o with vec := Vec.creation 64 0 } else o

/-- The effect of UNCONFIGURE. -/
def State.unconfigure (pid : Nat) (s : State) : State :=
  match s.part? pid with
  | none => s.answer 0xC001 2
  | some p =>
    if s.hasHart p then s.answer 0xC001 2
    else (((s.releasePart p).serveWaiting 4096).serveStarts s.starts.length).answer 0xC001 0

/-! ### Swaps (R298 to R300) -/

/-- Whether a partition has halted (R182, R294, R298): each resident hart stands at a trap point, no microprogram of it runs, none of its
engines or sequencers is frozen, and no command stands between boundaries. -/
def State.halted (s : State) (p : Part) : Bool :=
  s.slots.all (fun o => !o.live || o.hart.pid != p.pid || o.hart.stopped || s.atTrapPoint o) &&
    s.seq.all (fun o => o.pid != p.pid || (!o.running && o.refused.isNone)) &&
    s.engines.all (fun k => decide (k.n ∉ p.cfg.engines) ||
      (k.frozen.isNone && k.cmds.head?.all (fun c => cmdMalformed c || !midCommand c k.progress)))

/-- Whether a slot is granted to a partition. -/
def Part.hasSlot (p : Part) (o : Slot) : Bool := p.cfg.cores.any fun c => c.core == o.core && c.mask.getLsbD o.idx

/-- Whether a slot holds state that an image takes: a resident, or a vector state with an owner. -/
def Slot.holdsState (o : Slot) : Bool := o.live || o.vec.ownerPid != 64

/-- A slot as the image holds it from a cycle on (Table 5 of 14_traps_and_translation): waits end at their instruction, but for that of wfi,
which goes on (R93), and read-ahead strips are discarded, as the Fife entries are, with the registers that they alone held (R253). `since` is the
time that its slice has run. -/
def Slot.imaged (cycle : Nat) (o : Slot) : Slot :=
  { o with since := cycle - o.since,
           hart := { o.hart with wait := if o.hart.wait = some .wfi then some .wfi else none, held := false, overrides := [], pend := [], reached := [] },
           vec := (settleRegs o.core o.idx 128 [] { o.vec with streams := o.vec.streams.map (Stream.keep (fun _ => false)) }).2 }

/-- The partition's slots halted into its image, with its plane instructions and nest records that have not started (R182, R281, R299). The harts
that wait for locks and at ports keep their places. -/
def State.takeImage (p : Part) (s : State) : State :=
  let gone := s.slots.filter p.hasSlot
  let s1 := gone.foldl (fun t o => if o.live then t.dropReserved o.hart.pid o.hart.hid else t) s
  let me := if p.hasSlot s1.me then Slot.empty s1.me.core s1.me.idx else s1.me
  let s2 : State :=
    { s1 with me := me, others := s1.others.filter (fun o => !p.hasSlot o),
              fife := s1.fife.filter (fun e => !gone.any fun o => o.core == e.core && o.idx == e.slot),
              seq := s1.seq.filter (fun o => o.pid != p.pid), walkers := s1.walkers.filter (fun r => r.pid != p.pid) }
  (s2.dropTlb p.pid).modPart p.pid fun q =>
    { q with cond := .swapped, image := (gone.filter Slot.holdsState).map (Slot.imaged s.cycle),
             heldSeq := s1.seq.filter (fun o => o.pid == p.pid), heldWalk := s1.walkers.filter (fun r => r.pid == p.pid) }

/-- The effect of SWAP_OUT when it is accepted (R298): a running partition begins to halt. -/
def State.askSwapOut (pid : Nat) (s : State) : State :=
  if (s.part? pid).any (fun p => p.cond == .running) then s.modPart pid fun q => { q with cond := .halting }
  else s.answer 0xC002 2

/-- A slot put back in its place. -/
def State.putSlot (o : Slot) (s : State) : State :=
  if s.me.core = o.core ∧ s.me.idx = o.idx then { s with me := o }
  else { s with others := s.others.filter (fun q => !(q.core == o.core && q.idx == o.idx)) ++ [o] }

/-- A slot of an image as it continues: its slice goes on, its hart is ready no earlier than the restore (R272), and causes that came meanwhile are pending (R285, R300). -/
def State.revived (s : State) (o : Slot) : Slot :=
  let mine := fun (q : Nat × BitVec 32 × Async) => q.1 == o.hart.pid && q.2.1 == o.hart.hid
  { o with since := s.cycle - o.since,
           hart := { o.hart with readyAt := max o.hart.readyAt s.cycle, async := o.hart.async ++ (if o.live then (s.asyncs.filter mine).map (fun q => q.2.2) else []) } }

/-- The effect of RESTORE (R281, R300): the partition goes on in its slots, and what it had accepted is queued again in its old order. -/
def State.restore (pid : Nat) (s : State) : State :=
  match s.part? pid with
  | none => s.answer 0xC003 2
  | some p =>
    if p.cond ≠ .swapped then s.answer 0xC003 2
    else
      let s1 := p.image.foldl (fun t o => t.putSlot (s.revived o)) s
      let mine := fun (q : Nat × BitVec 32 × Async) => p.image.any fun o => o.live && q.1 == o.hart.pid && q.2.1 == o.hart.hid
      let s2 : State :=
        { s1 with asyncs := s1.asyncs.filter (fun q => !mine q),
                  seq := p.heldSeq.foldl (fun l o => queueSeq { o with accepted := max o.accepted s.cycle } l) s1.seq,
                  walkers := p.heldWalk.foldl (fun l r => queueRec { r with accepted := max r.accepted s.cycle } l) s1.walkers }
      (s2.modPart pid fun q => { q with cond := .running, image := [], heldSeq := [], heldWalk := [] }).answer 0xC003 0

/-! ### Debug freeze (R292) -/

/-- The effect of FREEZE_SET. -/
def State.freezeSet (pid : Nat) (s : State) : State :=
  match s.part? pid with
  | none => s.answer 0xC004 2
  | some p =>
    let s1 := s.modPart pid fun q => { q with frozen := true }
    (if p.frozen then s1 else s1.postAll (fun h => h.pid == pid) 0x342).answer 0xC004 0

/-- The effect of FREEZE_CLEAR. -/
def State.freezeClear (pid : Nat) (s : State) : State :=
  match s.part? pid with
  | none => s.answer 0xC005 2
  | some _ => (s.modPart pid fun q => { q with frozen := false }).answer 0xC005 0

/-! ### The end of bus-master freezes (R294) -/

/-- Whether an agent is frozen. -/
def State.masterFrozen (s : State) (m : BusMaster) : Bool :=
  match m with
  | .engine n => (s.engine n).frozen.isSome
  | .sequencer stack pid => s.seqFrozen stack pid
  | .peer id => decide (id ∈ s.peersFrozen)

/-- The effect of RESUME (R294): the refused access is performed again. -/
def State.resume (m : BusMaster) (s : State) : State :=
  if !s.masterFrozen m then s.answer 0xC006 2
  else
    let s1 : State :=
      match m with
      | .engine n => s.modEngine n fun k => { k with frozen := none }
      | .sequencer stack pid =>
        { s with seq := s.seq.map fun o =>
            if o.pid = pid ∧ hStack o.geo = stack ∧ o.refused.isSome then { o with refused := none, nextAt := s.cycle, window := false }
            else o }
      | .peer id => { s with peersFrozen := without s.peersFrozen id }
    s1.answer 0xC006 0

/-- The effect of ABORT (R294): the commands of a frozen engine complete with status 4, and the stopped microprograms of a frozen sequencer's
partition are discarded. -/
def State.abort (m : BusMaster) (s : State) : State :=
  if !s.masterFrozen m then s.answer 0xC007 2
  else
    let s1 : State :=
      match m with
      | .engine n => s.modEngine n fun k =>
          { k with frozen := none, cmds := [], done := k.done ++ k.cmds.map (fun c => completion c 4), progress := 0, emitted := 0,
                   bad := false, readyAt := 0, started := false, spoiled := [], waitsOn := none }
      | .sequencer stack pid =>
        ({ s with seq := s.seq.filter fun o =>
            !(o.pid == pid && hStack o.geo == stack && o.running && (o.refused.isSome || o.sinceSync == 0)) } : State).serveWaiting 4096
      | .peer id => { s with peersFrozen := without s.peersFrozen id }
    s1.answer 0xC007 0

/-! ### Logs, attestation and firmware images (R339, R350, R351) -/

/-- The 32 bytes of a log entry (Table 1 of 16_reliability). -/
def LogEntry.bytes (e : LogEntry) : List Byte := [e.time, e.word, e.pa, e.agent].flatMap fun w => leBytes 8 w.toNat

/-- The effect of LOG_READ. -/
def State.logRead (stack : Nat) (s : State) : State :=
  if 8 ≤ stack then s.answer 0xC008 1
  else
    let mine := (s.logs.filter (fun e => e.stack == stack)).reverse
    let lost := ((s.logLost.find? (fun l => l.1 == stack)).map (·.2)).getD 0
    (s.reply (.bytes (mine.flatMap LogEntry.bytes ++ leBytes 4 lost.toNat))).answer 0xC008 0

/-- The effect of LOG_CLEAR. -/
def State.logClear (stack : Nat) (s : State) : State :=
  if 8 ≤ stack then s.answer 0xC009 1
  else
    ({ s with logs := s.logs.filter (fun e => e.stack != stack), logLost := s.logLost.filter (fun l => l.1 != stack) } : State).answer 0xC009 0

/-- The effect of ATTEST. -/
def State.attest (pid : Nat) (nonce : List (BitVec 8)) (s : State) : State :=
  if nonce.length ≠ 32 ∨ 64 ≤ pid then s.answer 0xC00A 1
  else
    let fields := nonce ++ sha256 s.fw.image.bytes ++ sha256 (Config.cfgBytes ((s.part? pid).map (·.cfg))) ++
      Config.serialNumber ++ sha256 (Config.unitBytes s.fw.lost)
    (s.reply (.bytes (fields ++ (Config.attestSignature fields).toList))).answer 0xC00A 0

/-- Whether the boot ROM would accept an image (R350). -/
def State.imageVerifies (s : State) (i : FwImage) : Bool := Config.signatureValid i && decide (s.fw.minVersion ≤ i.version)

/-- The effect of IMAGE_TRANSFER. -/
def State.imageTransfer (image : FwImage) (s : State) : State :=
  ({ s with fw := { s.fw with pending := some image } } : State).answer 0xC00B (if s.imageVerifies image then 0 else 4)

/-! ### Management commands (R347) -/

/-- What a management command does when it is accepted. -/
def HostCommand.effect : HostCommand → State → State
  | .configure pid cfg => State.configure pid cfg
  | .unconfigure pid => State.unconfigure pid
  | .swapOut pid => State.askSwapOut pid
  | .restorePart pid => State.restore pid
  | .freezeSet pid => State.freezeSet pid
  | .freezeClear pid => State.freezeClear pid
  | .resumeMaster m => State.resume m
  | .abortMaster m => State.abort m
  | .logRead stack => State.logRead stack
  | .logClear stack => State.logClear stack
  | .attest pid nonce => State.attest pid nonce
  | .imageTransfer image => State.imageTransfer image

/-- The code of a command (Table 3 of 17_host_platform). -/
def HostCommand.code : HostCommand → Nat
  | .configure _ _ => 0xC000
  | .unconfigure _ => 0xC001
  | .swapOut _ => 0xC002
  | .restorePart _ => 0xC003
  | .freezeSet _ => 0xC004
  | .freezeClear _ => 0xC005
  | .resumeMaster _ => 0xC006
  | .abortMaster _ => 0xC007
  | .logRead _ => 0xC008
  | .logClear _ => 0xC009
  | .attest _ _ => 0xC00A
  | .imageTransfer _ => 0xC00B

/-- Whether a command ends a freeze that a swap-out under way waits for: it is accepted meanwhile, since the freeze ends by nothing else (R294,
R298). -/
def State.endsHalt (s : State) (c : HostCommand) : Bool :=
  let held := fun (m : BusMaster) => s.parts.any fun p => p.cond == .halting && s.masterFrozen m &&
    match m with
    | .engine n => decide (n ∈ p.cfg.engines)
    | .sequencer _ pid => pid == p.pid
    | .peer _ => false
  match c with
  | .resumeMaster m => held m
  | .abortMaster m => held m
  | _ => false

/-- Whether a command is not accepted in recovery or in reset (R350, R353): over the mailbox all but attest and image transfer, over I3C a
configuration. -/
def State.refuses (s : State) (viaI3c : Bool) (c : HostCommand) : Bool :=
  (s.fw.recovery || s.fw.inReset) && (if viaI3c then c.code == 0xC000 else c.code != 0xC00A && c.code != 0xC00B)

/-- A management command that comes over the mailbox or over I3C (R347, R353): one that arrives while a swap-out runs waits for it to end (log
entry 39). -/
def State.mailbox (viaI3c : Bool) (c : HostCommand) (s : State) : State :=
  if s.swapRuns && !s.endsHalt c then { s with commands := s.commands ++ [(viaI3c, c)] }
  else if s.refuses viaI3c c then s.answer c.code 2
  else c.effect s

/-- The commands that waited for a swap-out are taken in order; those behind a further swap-out wait for that one (R347). -/
def State.resumeCommands (s : State) : State := s.commands.foldl (fun t c => t.mailbox c.1 c.2) { s with commands := [] }

/-- The swap-out of a partition that has halted performed, and the commands that came meanwhile, another swap-out among them, taken (R298, R299,
R347; log entry 39). -/
def State.finishSwap (s : State) : State :=
  match s.parts.find? (fun p => p.cond == .halting && s.halted p) with
  | some p => ((s.takeImage p).answer 0xC002 0).resumeCommands
  | none => s

/-- The next management command, by the way that the environment names for it (R347, R353; log entry 39). -/
def State.manage (c : HostCommand) (s : State) : State := ({ s with i3c := s.i3c.tail } : State).mailbox (s.i3c.headD false) c

/-- UNCONFIGURE (R347): for a partition with no hart live. -/
def execUnconfigure (pid : Nat) (s : State) : Res := .next (s.manage (.unconfigure pid))

/-- FREEZE_SET (R292): each resident hart of the partition takes 0x342 once. -/
def execFreezeSet (pid : Nat) (s : State) : Res := .next (s.manage (.freezeSet pid))

/-- FREEZE_CLEAR (R292). -/
def execFreezeClear (pid : Nat) (s : State) : Res := .next (s.manage (.freezeClear pid))

/-- LOG_READ (R339): the entries of a stack's ring, oldest first, and its overflow count. -/
def execLogRead (stack : Nat) (s : State) : Res := .next (s.manage (.logRead stack))

/-- LOG_CLEAR (R339). -/
def execLogClear (stack : Nat) (s : State) : Res := .next (s.manage (.logClear stack))

/-- ATTEST (R351): the report over the nonce, the running image, the partition's configuration, the serial number and the list of
lost units, with the signature of 384 bytes. -/
def execAttest (pid : Nat) (nonce : List (BitVec 8)) (s : State) : Res := .next (s.manage (.attest pid nonce))

/-- IMAGE_TRANSFER (R350): the image is written, and verified at the next reset; status 4 says that it would not pass (log
entry 39). -/
def execImageTransfer (image : FwImage) (s : State) : Res := .next (s.manage (.imageTransfer image))

/-- CONFIGURE (R344, R279, R300). -/
def execConfigure (pid : Nat) (cfg : PartCfg) (s : State) : Res := .next (s.manage (.configure pid cfg))

/-- RESTORE (R281, R300). -/
def execRestorePart (pid : Nat) (s : State) : Res := .next (s.manage (.restorePart pid))

/-- RESUME (R294). -/
def execResumeMaster (m : BusMaster) (s : State) : Res := .next (s.manage (.resumeMaster m))

/-- ABORT (R294). -/
def execAbortMaster (m : BusMaster) (s : State) : Res := .next (s.manage (.abortMaster m))

/-- SWAP_OUT (R298, R299): accepted for a running partition, which then halts; it is performed once the partition has halted. -/
def execSwapOut (pid : Nat) (s : State) : Res := .next (s.manage (.swapOut pid))

end Sys2Proof.Machine
end

