-- ==== Sys2Proof/Machine/VInt.lean ====
section
/-! DEFINITION. Vector integer arithmetic, majors 0x25 and 0x26 (R124, R125), over one shape for every element-wise computation. -/

namespace Sys2Proof.Machine

/-- Several source elements with index i, in order, with the flags of their decoding. -/
def srcElems (w i : Nat) : List (BitVec 5) → M (List Nat × Flags)
  | [] => pure ([], 0)
  | n :: rest => do
    let (v, fl) ← srcElem n w i
    let (l, g) ← srcElems w i rest
    pure (v :: l, fl ||| g)

/-- The steps of an iterative instruction that hold an active element (R144). -/
def stepsRun (g : Nat) (els : List Nat) : Nat := (els.map (fun i => i / (16 * g))).dedup.length

/-- What distinguishes an element-wise computation into a v register. -/
structure VArith where
  op : Nat
  st : BitVec 3
  d : BitVec 5
  k : BitVec 3
  /-- v sources, in field order -/
  srcs : List (BitVec 5)
  /-- the old v[d] is the last operand -/
  old : Bool := false
  /-- immediate operands, for the key -/
  xs : List X := []
  shape : Bool
  /-- latency, from the steps run -/
  lat : Nat → Nat
  fixed : Bool
  reuse : Bool := true

/-- An element-wise computation: f gives the value and flags from the width and the operands (R122). -/
def vArith (q : VArith) (f : State → Nat → List Nat → Nat × Flags) (s : State) : Res :=
  let reads := q.srcs ++ (if q.old then [q.d] else [])
  runVector { st := q.st, k := q.k, vs := reads, dst := .v q.d, writes := [q.d], shape := q.shape } (do
    let t ← get
    let w := t.me.vec.width
    let els := t.actives q.k t.es
    let lat := q.lat (stepsRun t.me.vec.grant els)
    let run : M (Option (Flags × Option LoadRecord)) := do
      let fl ← elementwise els (fun i => do
        let (vs, fl) ← srcElems w i reads
        let (r, g) := f t w vs
        pure (r, fl ||| g)) (fun l => putElems q.d w l lat q.fixed)
      pure (some (fl, none))
    if q.reuse then
      reusable { op := q.op, srcs := q.srcs, dst := q.d, readsDst := q.old, xs := q.xs, k := q.k } lat q.fixed run
    else
      let _ ← run
      pure ()) s

/-- A vector integer instruction of two sources without flags (R124), at widths 8 to 64. -/
def vInt2 (op : Nat) (st : BitVec 3) (d a b : BitVec 5) (k : BitVec 3) (f : Nat → Nat → Nat → Nat) (s : State) : Res :=
  vArith { op := op, st := st, d := d, k := k, srcs := [a, b], shape := decide (8 ≤ s.me.vec.width), lat := fun _ => 3,
           fixed := true } (fun _ w l => (f w (l.getD 0 0) (l.getD 1 0) % 2 ^ w, 0)) s

/-- A vector division: scoreboarded, 12 cycles and 8 for each step run (R144). -/
def vDiv2 (op : Nat) (st : BitVec 3) (d a b : BitVec 5) (k : BitVec 3) (f : Nat → Nat → Nat → Nat) (s : State) : Res :=
  vArith { op := op, st := st, d := d, k := k, srcs := [a, b], shape := decide (8 ≤ s.me.vec.width), lat := fun n => 12 + 8 * n,
           fixed := false } (fun _ w l => (f w (l.getD 0 0) (l.getD 1 0) % 2 ^ w, 0)) s

/-- A vector integer instruction with imm5 (R125), at widths 8 to 64. -/
def vIntImm (op : Nat) (st : BitVec 3) (d a i : BitVec 5) (k : BitVec 3) (f : Nat → Nat → Nat) (s : State) : Res :=
  vArith { op := op, st := st, d := d, k := k, srcs := [a], xs := [zimm i], shape := decide (8 ≤ s.me.vec.width),
           lat := fun _ => 3, fixed := true } (fun _ w l => (f w (l.getD 0 0) % 2 ^ w, 0)) s

/-- The quotient and remainder of signed division at width w (R78, R124). -/
def vdivS (w a b : Nat) : Nat × Nat :=
  let x := sextNat w a
  let y := sextNat w b
  if y = 0 then (2 ^ w - 1, a)
  else (ofIntBits w (x.tdiv y), ofIntBits w (x.tmod y))

/-- The quotient and remainder of natural division at width w (R78, R124). -/
def vdivN (w a b : Nat) : Nat × Nat := if b = 0 then (2 ^ w - 1, a) else (a / b, a % b)

/-- A signed sum or difference clamped to width w (R46). -/
def satS (w : Nat) (v : Int) : Nat := ofIntBits w (clampInt (-(2 ^ (w - 1) : Nat)) ((2 ^ (w - 1) : Nat) - 1) v)

/-- A natural sum or difference clamped to width w (R46). -/
def satN (w : Nat) (v : Int) : Nat := (clampInt 0 ((2 ^ w : Nat) - 1) v).toNat

/-- vadd (R124). -/
def execVadd (st : BitVec 3) (d a b : BitVec 5) (k : BitVec 3) (s : State) : Res :=
  vInt2 0x2500 st d a b k (fun _ x y => x + y) s

/-- vsub (R124). -/
def execVsub (st : BitVec 3) (d a b : BitVec 5) (k : BitVec 3) (s : State) : Res :=
  vInt2 0x2501 st d a b k (fun w x y => x + 2 ^ w - y) s

/-- vaddSI (R124). -/
def execVaddSI (st : BitVec 3) (d a b : BitVec 5) (k : BitVec 3) (s : State) : Res :=
  vInt2 0x2502 st d a b k (fun w x y => satS w (sextNat w x + sextNat w y)) s

/-- vaddSN (R124). -/
def execVaddSN (st : BitVec 3) (d a b : BitVec 5) (k : BitVec 3) (s : State) : Res :=
  vInt2 0x2503 st d a b k (fun w x y => satN w ((x : Int) + y)) s

/-- vsubSI (R124). -/
def execVsubSI (st : BitVec 3) (d a b : BitVec 5) (k : BitVec 3) (s : State) : Res :=
  vInt2 0x2504 st d a b k (fun w x y => satS w (sextNat w x - sextNat w y)) s

/-- vsubSN (R124). -/
def execVsubSN (st : BitVec 3) (d a b : BitVec 5) (k : BitVec 3) (s : State) : Res :=
  vInt2 0x2505 st d a b k (fun w x y => satN w ((x : Int) - y)) s

/-- vmul (R124). -/
def execVmul (st : BitVec 3) (d a b : BitVec 5) (k : BitVec 3) (s : State) : Res :=
  vInt2 0x2506 st d a b k (fun _ x y => x * y) s

/-- vmulh (R124). -/
def execVmulh (st : BitVec 3) (d a b : BitVec 5) (k : BitVec 3) (s : State) : Res :=
  vInt2 0x2507 st d a b k (fun w x y => ofIntBits (2 * w) (sextNat w x * sextNat w y) / 2 ^ w) s

/-- vmulhn (R124). -/
def execVmulhn (st : BitVec 3) (d a b : BitVec 5) (k : BitVec 3) (s : State) : Res :=
  vInt2 0x2508 st d a b k (fun w x y => x * y / 2 ^ w) s

/-- vand (R124). -/
def execVand (st : BitVec 3) (d a b : BitVec 5) (k : BitVec 3) (s : State) : Res :=
  vInt2 0x2509 st d a b k (fun _ x y => x &&& y) s

/-- vor (R124). -/
def execVor (st : BitVec 3) (d a b : BitVec 5) (k : BitVec 3) (s : State) : Res :=
  vInt2 0x250A st d a b k (fun _ x y => x ||| y) s

/-- vxor (R124). -/
def execVxor (st : BitVec 3) (d a b : BitVec 5) (k : BitVec 3) (s : State) : Res :=
  vInt2 0x250B st d a b k (fun _ x y => x ^^^ y) s

/-- vsll (R124). -/
def execVsll (st : BitVec 3) (d a b : BitVec 5) (k : BitVec 3) (s : State) : Res :=
  vInt2 0x250C st d a b k (fun w x y => x * 2 ^ (y % w)) s

/-- vsrl (R124). -/
def execVsrl (st : BitVec 3) (d a b : BitVec 5) (k : BitVec 3) (s : State) : Res :=
  vInt2 0x250D st d a b k (fun w x y => x / 2 ^ (y % w)) s

/-- vsra (R124). -/
def execVsra (st : BitVec 3) (d a b : BitVec 5) (k : BitVec 3) (s : State) : Res :=
  vInt2 0x250E st d a b k (fun w x y => ofIntBits w (sextNat w x / (2 ^ (y % w) : Nat))) s

/-- vmin (R124). -/
def execVmin (st : BitVec 3) (d a b : BitVec 5) (k : BitVec 3) (s : State) : Res :=
  vInt2 0x250F st d a b k (fun w x y => if sextNat w x ≤ sextNat w y then x else y) s

/-- vmax (R124). -/
def execVmax (st : BitVec 3) (d a b : BitVec 5) (k : BitVec 3) (s : State) : Res :=
  vInt2 0x2510 st d a b k (fun w x y => if sextNat w x ≤ sextNat w y then y else x) s

/-- vminn (R124). -/
def execVminn (st : BitVec 3) (d a b : BitVec 5) (k : BitVec 3) (s : State) : Res :=
  vInt2 0x2511 st d a b k (fun _ x y => min x y) s

/-- vmaxn (R124). -/
def execVmaxn (st : BitVec 3) (d a b : BitVec 5) (k : BitVec 3) (s : State) : Res :=
  vInt2 0x2512 st d a b k (fun _ x y => max x y) s

/-- vdiv (R124). -/
def execVdiv (st : BitVec 3) (d a b : BitVec 5) (k : BitVec 3) (s : State) : Res :=
  vDiv2 0x2513 st d a b k (fun w x y => (vdivS w x y).1) s

/-- vdivn (R124). -/
def execVdivn (st : BitVec 3) (d a b : BitVec 5) (k : BitVec 3) (s : State) : Res :=
  vDiv2 0x2514 st d a b k (fun w x y => (vdivN w x y).1) s

/-- vrem (R124). -/
def execVrem (st : BitVec 3) (d a b : BitVec 5) (k : BitVec 3) (s : State) : Res :=
  vDiv2 0x2515 st d a b k (fun w x y => (vdivS w x y).2) s

/-- vremn (R124). -/
def execVremn (st : BitVec 3) (d a b : BitVec 5) (k : BitVec 3) (s : State) : Res :=
  vDiv2 0x2516 st d a b k (fun w x y => (vdivN w x y).2) s

/-- vaddi (R125). -/
def execVaddi (st : BitVec 3) (d a i : BitVec 5) (k : BitVec 3) (s : State) : Res :=
  vIntImm 0x2600 st d a i k (fun w x => ofIntBits w ((x : Int) + sextNat 5 i.toNat)) s

/-- vrsubi (R125). -/
def execVrsubi (st : BitVec 3) (d a i : BitVec 5) (k : BitVec 3) (s : State) : Res :=
  vIntImm 0x2601 st d a i k (fun w x => ofIntBits w (sextNat 5 i.toNat - (x : Int))) s

/-- vandi (R125). -/
def execVandi (st : BitVec 3) (d a i : BitVec 5) (k : BitVec 3) (s : State) : Res :=
  vIntImm 0x2602 st d a i k (fun w x => x &&& ofIntBits w (sextNat 5 i.toNat)) s

/-- vori (R125). -/
def execVori (st : BitVec 3) (d a i : BitVec 5) (k : BitVec 3) (s : State) : Res :=
  vIntImm 0x2603 st d a i k (fun w x => x ||| ofIntBits w (sextNat 5 i.toNat)) s

/-- vxori (R125). -/
def execVxori (st : BitVec 3) (d a i : BitVec 5) (k : BitVec 3) (s : State) : Res :=
  vIntImm 0x2604 st d a i k (fun w x => x ^^^ ofIntBits w (sextNat 5 i.toNat)) s

/-- vslli (R125). -/
def execVslli (st : BitVec 3) (d a i : BitVec 5) (k : BitVec 3) (s : State) : Res :=
  vIntImm 0x2605 st d a i k (fun w x => x * 2 ^ (i.toNat % w)) s

/-- vsrli (R125). -/
def execVsrli (st : BitVec 3) (d a i : BitVec 5) (k : BitVec 3) (s : State) : Res :=
  vIntImm 0x2606 st d a i k (fun w x => x / 2 ^ (i.toNat % w)) s

/-- vsrai (R125). -/
def execVsrai (st : BitVec 3) (d a i : BitVec 5) (k : BitVec 3) (s : State) : Res :=
  vIntImm 0x2607 st d a i k (fun w x => ofIntBits w (sextNat w x / (2 ^ (i.toNat % w) : Nat))) s

end Sys2Proof.Machine
end

