-- ==== Sys2Proof/Machine/VNarrow.lean ====
section
/-! DEFINITION. Narrow, blocked and distance instructions, major 0x29 (R130 to R133). -/

namespace Sys2Proof.Machine

/-! ### Classes, headers and values -/

/-- The type code of a format class, .i4 where the class is not allowed. -/
def Vec.classOf (v : Vec) (c : BitVec 2) : Nat := (classCode v.width c.toNat).getD 15

/-- Whether a class is allowed at the width (R66), and blocked where it exists only inside blocks (R40). -/
def Vec.classOk (v : Vec) (c : BitVec 2) : Bool :=
  match classCode v.width c.toNat with
  | some code => !(blockOnly code && v.block == 0)
  | none => false

/-- Whether operand n takes its headers from the scale stream of its binding (R130). -/
def Vec.streamScale (v : Vec) (n : BitVec 5) : Bool :=
  (v.stream? n).any fun b => b.scale != 0 && !b.dec

/-- Whether an element of the class is scaled by a header (R130). -/
def Vec.isScaled (v : Vec) (code : Nat) : Bool := scaledCode code && v.block != 0

/-- Whether operand n of a class reads the header register n + 1 (R130). -/
def Vec.usesHeader (v : Vec) (n : BitVec 5) (code : Nat) : Bool := v.isScaled code && !v.streamScale n

/-- The header register of an operand exists and is not bound, where it is needed (R130; log entry 24). -/
def Vec.headerOk (v : Vec) (n : BitVec 5) (code : Nat) : Bool :=
  !v.usesHeader n code || (n != 31 && (v.stream? (n + 1)).isNone)

/-- The header registers that an instruction reads for some operands. -/
def Vec.headerRegs (v : Vec) (ns : List (BitVec 5)) (code : Nat) : List (BitVec 5) :=
  (ns.filter (fun n => v.usesHeader n code)).map (fun n => n + 1)

/-- The header of block b of operand n (R40, R130). -/
def readBlockHeader (n : BitVec 5) (b : Nat) : M Nat := do
  let s ← get
  match if s.me.vec.streamScale n then s.me.vec.stream? n else none with
  | some st => streamRead st (st.scale + xOf (4 * b)) 4
  | none => pure (getElem s.me.vec.grant 32 (s.rV (n + 1)) b)

/-- Whether none of n elements of an operand from j on holds the marker (R42). -/
def noMarkerIn (v : BitVec 5) (w : Nat) : Nat → Nat → M Bool
  | _, 0 => pure true
  | j, n + 1 => do
    let (c, _) ← srcElem v w j
    if c = 8 then pure false else noMarkerIn v w (j + 1) n

/-- The exact value of element i of a narrow operand, with its flags (R42, R43, R130). -/
def narrowElem (n : BitVec 5) (code i : Nat) : M (FV × Flags) := do
  let s ← get
  let w := s.me.vec.width
  let blk := s.me.vec.block
  let (raw, _) ← srcElem n w i
  if s.me.vec.isScaled code then
    let h ← readBlockHeader n (i / blk)
    let first ← if code = 16 ∧ raw = 8 then noMarkerIn n w (i / blk * blk) (i % blk) else pure false
    pure (narrowValue code raw (some h) first)
  else pure (narrowValue code raw none false)

/-! ### Dot products and distances -/

/-- One term of a distance (R131, R132): a product, a squared difference, or the Hamming distance of two codes. -/
inductive DistKind where
  | ip
  | l2
  | ham
deriving DecidableEq, Repr

/-- The exact value of one term with its flags. -/
def distTerm (kind : DistKind) (a b : BitVec 5) (code i : Nat) : M (FV × Flags) := do
  match kind with
  | .ham =>
    let s ← get
    let (x, _) ← srcElem a s.me.vec.width i
    let (y, _) ← srcElem b s.me.vec.width i
    pure (FV.ofInt (popCount 8 (x ^^^ y) : Nat), 0)
  | .ip =>
    let (x, f) ← narrowElem a code i
    let (y, g) ← narrowElem b code i
    let (p, h) := x.mul y
    pure (p, f ||| g ||| h)
  | .l2 =>
    let s ← get
    let (x, f) ← narrowElem a code i
    let (y, g) ← narrowElem b code i
    let (d, h) := exactSum2 s.me.hart.rm x y.negate
    let (p, e) := d.mul d
    pure (p, f ||| g ||| h ||| e)

/-- The terms of a segment. -/
def distTerms (kind : DistKind) (a b : BitVec 5) (code : Nat) : List Nat → M (List (FV × Flags))
  | [] => pure []
  | i :: rest => do
    let t ← distTerm kind a b code i
    let l ← distTerms kind a b code rest
    pure (t :: l)

/-- An integer that a finite value stands for. -/
def FV.toInt : FV → Int
  | .fin n m e => (if n then -1 else 1) * (m * 2 ^ e.toNat : Nat)
  | _ => 0

/-- A segment's sum S of its terms in index order, then added to the old vd[j]: as int32 modulo 2^32 or with one rounding into binary32
(R131, R132). Where S meets a quiet NaN before opposite infinities it raises no NV for them (DESIGN CHOICE, log entry 46). -/
def segmentSum (isInt : Bool) (mode old : Nat) (l : List (FV × Flags)) : Nat × Flags :=
  if isInt then
    (ofIntBits 32 ((old : Int) + (l.map (fun t => t.1.toInt)).sum), (l.map (fun t => t.2)).foldl (· ||| ·) 0)
  else
    let o := Fmt.f32.decode old
    match l with
    | [] => (old, 0)
    | (v, fl) :: rest =>
      let (sum, f) := exactSum mode v rest
      let (total, h) := exactSum2 mode o sum
      let (r, g) := Fmt.f32.ofFV mode false total
      (r, fl ||| f ||| h ||| g)

/-- The segments with an active element, in order: each vd[j] with its new value (R131, R132). For R38 one operation is a whole segment:
its flags are raised together, and the first segment with an enabled flag traps (DESIGN CHOICE, log entry 48). -/
def segments (kind : DistKind) (a b d : BitVec 5) (code m : Nat) (els : List Nat) : List Nat → M (List (Nat × Nat) × Flags)
  | [] => pure ([], 0)
  | j :: rest => do
    let mine := els.filter (fun i => i / m == j)
    if mine.isEmpty then segments kind a b d code m els rest
    else
      let ts ← distTerms kind a b code mine
      let s ← get
      let isInt := kind == .ham || integerCode code (s.me.vec.block != 0)
      let (r, fl) := segmentSum isInt s.me.hart.rm (getElem s.me.vec.grant 32 (s.rV d) j) ts
      raiseFlags fl 0
      let (l, g) ← segments kind a b d code m els rest
      pure ((j, r) :: l, fl ||| g)

/-- vdot and vdist (R131, R132): `seg` gives the segment length from the configuration. -/
def distOp (op : Nat) (st : BitVec 3) (d a b : BitVec 5) (k : BitVec 3) (c : BitVec 2) (kind : DistKind) (seg : Vec → Nat)
    (s : State) : Res :=
  let code := s.me.vec.classOf c
  let heads := if kind = .ham then [] else s.me.vec.headerRegs [a, b] code
  let ok := s.me.vec.classOk c && (kind == .ham || (s.me.vec.headerOk a code && s.me.vec.headerOk b code))
  runVector { st := st, k := k, vs := [a, b], rs := (d :: heads).map .v, dst := .v d, writes := [d], shape := ok,
              wid := (d :: heads).map (fun n => (n, 32)) } (do
    let t ← get
    let m := seg t.me.vec
    let els := t.actives k 0
    let run : M (Option (Flags × Option LoadRecord)) := wholeVector (do
      let (l, fl) ← segments kind a b d code m els (List.range ((t.me.vec.vl.toNat + m - 1) / m))
      putElems d 32 l 8 true
      modify (State.modHart (Hart.count 6 els.length))
      pure (some (fl, none)))
    reusable { op := op + 8 * c.toNat, srcs := [a, b] ++ heads, dst := d, readsDst := true, xs := [], k := k } 8
      true run) s

/-- The segment length of vdist: a block, or the whole vector (R132). -/
def Vec.distSegment (v : Vec) : Nat := if v.block = 0 then max v.vl.toNat 1 else v.block

/-- vdot (R131). -/
def execVdot (st : BitVec 3) (d a b : BitVec 5) (k : BitVec 3) (c : BitVec 2) (s : State) : Res :=
  distOp 0x2900 st d a b k c .ip (fun v => 32 / v.width) s

/-- vdist.ip (R132). -/
def execVdistIp (st : BitVec 3) (d a b : BitVec 5) (k : BitVec 3) (c : BitVec 2) (s : State) : Res :=
  distOp 0x2901 st d a b k c .ip Vec.distSegment s

/-- vdist.l2 (R132). -/
def execVdistL2 (st : BitVec 3) (d a b : BitVec 5) (k : BitVec 3) (c : BitVec 2) (s : State) : Res :=
  distOp 0x2902 st d a b k c .l2 Vec.distSegment s

/-- vdist.ham (R132). -/
def execVdistHam (st : BitVec 3) (d a b : BitVec 5) (k : BitVec 3) (c : BitVec 2) (s : State) : Res :=
  distOp 0x2903 st d a b k c .ham Vec.distSegment s

/-! ### Wide groups (R130) -/

/-- The registers of the wide group at n for width w. -/
def wideRegs (n : BitVec 5) (w : Nat) : List (BitVec 5) := (List.range (32 / w)).map fun r => n + BitVec.ofNat 5 r

/-- Whether n may be the base of a wide group. -/
def wideOk (n : BitVec 5) (w : Nat) : Bool := n.toNat % (32 / w) == 0

/-- Element i of the wide group at n. -/
def readWide (n : BitVec 5) (i : Nat) : M Nat := do
  let s ← get
  let e := 32 * s.me.vec.grant
  pure (getElem s.me.vec.grant 32 (s.rV (n + BitVec.ofNat 5 (i / e))) (i % e))

/-- Elements written to the wide group at d; every register of it is written. -/
def putWide (d : BitVec 5) (w lat : Nat) (l : List (Nat × Nat)) : M Unit :=
  modify fun s =>
    let g := s.me.vec.grant
    (List.range (32 / w)).foldl (fun t r =>
      let n := d + BitVec.ofNat 5 r
      let mine := (l.filter (fun x => x.1 / (32 * g) == r)).map fun x => (x.1 % (32 * g), x.2)
      t.wVat n (setElems g 32 mine t.me.vec.v[n.toNat]) lat false) s

/-- vqdec (R133). -/
def execVqdec (st : BitVec 3) (d a : BitVec 5) (k : BitVec 3) (c : BitVec 2) (s : State) : Res :=
  let v := s.me.vec
  let code := v.classOf c
  runVector { st := st, k := k, vs := [a], rs := (v.headerRegs [a] code).map .v, writes := wideRegs d v.width,
              shape := v.classOk c && v.headerOk a code && wideOk d v.width,
              wid := (v.headerRegs [a] code).map (fun n => (n, 32)) } (do
    let t ← get
    let _ ← elementwise (t.actives k t.es) (fun i => do
      let (x, fl) ← narrowElem a code i
      let (r, g) := Fmt.f32.ofFV t.me.hart.rm false x
      pure (r, fl ||| g)) (putWide d t.me.vec.width 10)) s

/-- The scale that quantising into vd takes for element i: of its block's header in register d + 1, or 1 (R133). -/
def encodeScale (d : BitVec 5) (code i : Nat) : M (Option (Nat × Int)) := do
  let s ← get
  let v := s.me.vec
  if v.isScaled code then pure (headerScale (getElem v.grant 32 (s.rV (d + 1)) (i / v.block))) else pure (some (1, 0))

/-- The register checks of the encoders (R130, R133). -/
def Vec.encodeOk (v : Vec) (d a : BitVec 5) (c : BitVec 2) : Bool :=
  v.classOk c && wideOk a v.width && (wideRegs a v.width).all (fun n => (v.stream? n).isNone) &&
    (!v.isScaled (v.classOf c) || d != 31)

/-- vqenc (R133). A bound header register traps with 0x183 (log entry 24). -/
def execVqenc (st : BitVec 3) (d a : BitVec 5) (k : BitVec 3) (c : BitVec 2) (s : State) : Res :=
  let v := s.me.vec
  let code := v.classOf c
  let heads := if v.isScaled code then [d + 1] else []
  let srcs := wideRegs a v.width ++ heads
  runVector { st := st, k := k, rs := srcs.map .v, dst := .v d, writes := [d],
              shape := v.encodeOk d a c && heads.all (fun n => (v.stream? n).isNone), wid := srcs.map (fun n => (n, 32)) } (do
    let t ← get
    let run : M (Option (Flags × Option LoadRecord)) := do
      let fl ← elementwise (t.actives k t.es) (fun i => do
        let x ← readWide a i
        let sc ← encodeScale d code i
        pure (quantise code t.me.hart.rm x sc)) (fun l => putElems d t.me.vec.width l 10 false)
      pure (some (fl, none))
    reusable { op := 0x2905 + 8 * c.toNat, srcs := srcs, dst := d, readsDst := false, xs := [], k := k } 10 false
      run) s

/-- The element of a block whose |x| is largest, the lowest on ties. -/
def largest (x : Nat → Nat) : List Nat → Option Nat
  | [] => none
  | i :: rest =>
    match largest x rest with
    | none => some i
    | some j => if x j % 2 ^ 31 ≤ x i % 2 ^ 31 then some i else some j

/-- The codes of the active elements of one block, and its new outlier byte, with the flags of each operation (R133). -/
def encodeBlock (mode : Nat) (x : Nat → Nat) (scale : Option (Nat × Int)) (marked : Bool) (mine : List Nat) :
    List (Nat × Nat) × Option Nat × Flags :=
  let y := mine.filter (fun i => exceedsQ4x mode (x i) scale)
  let o := if marked then none else largest x y
  let codes := mine.map fun i => if o = some i then (i, 8, 0) else
    let (r, fl) := quantise 16 mode (x i) scale
    (i, r, fl)
  let own := (codes.map (fun t => t.2.2)).foldl (· ||| ·) 0
  match o with
  | none => (codes.map (fun t => (t.1, t.2.1)), none, own)
  | some i =>
    let (b, fl) := quantise 12 mode (x i) scale
    (codes.map (fun t => (t.1, t.2.1)), some b, own ||| fl)

/-- The blocks with an active element, in order: codes, headers (R133). For R38 one operation is a whole block (DESIGN CHOICE, log
entry 48). -/
def encodeBlocks (d a : BitVec 5) (els : List Nat) : List Nat → M (List (Nat × Nat) × List (Nat × Nat))
  | [] => pure ([], [])
  | b :: rest => do
    let s ← get
    let v := s.me.vec
    let blk := v.block
    let mine := els.filter (fun i => i / blk == b)
    if mine.isEmpty then encodeBlocks d a els rest
    else
      let e := 32 * v.grant
      let x := fun (i : Nat) => getElem v.grant 32 (s.rV (a + BitVec.ofNat 5 (i / e))) (i % e)
      let marked := (List.range blk).any fun j =>
        !decide (b * blk + j ∈ els) && getElem v.grant 4 (s.rV d) (b * blk + j) == 8
      let h := getElem v.grant 32 (s.rV (d + 1)) b
      let (cs, o, fl) := encodeBlock s.me.hart.rm x (headerScale h) marked mine
      raiseFlags fl 0
      let (l, hs) ← encodeBlocks d a els rest
      pure (cs ++ l, (match o with | some byte => [(b, byte * 2 ^ 24 + h % 2 ^ 24)] | none => []) ++ hs)

/-- vqenco (R133): whole-destination; it writes vd and the header register. -/
def execVqenco (st : BitVec 3) (d a : BitVec 5) (k : BitVec 3) (c : BitVec 2) (s : State) : Res :=
  let v := s.me.vec
  runVector { st := st, k := k, rs := (d :: (d + 1) :: wideRegs a v.width).map .v, writes := [d, d + 1],
              shape := v.encodeOk d a c && v.classOf c == 16,
              wid := ((d + 1) :: wideRegs a v.width).map (fun n => (n, 32)) } (wholeVector (do
    let t ← get
    let els := t.actives k 0
    let (l, hs) ← encodeBlocks d a els (List.range (t.me.vec.vl.toNat / t.me.vec.block))
    modify fun u =>
      let g := u.me.vec.grant
      let u1 := u.wVat d (setElems g 4 l u.me.vec.v[d.toNat]) 14 false
      (u1.wVat (d + 1) (setElems g 32 hs u1.me.vec.v[(d + 1).toNat]) 14 false).modHart (Hart.count 6 els.length))) s

end Sys2Proof.Machine
end

