-- ==== Sys2Proof/Machine/Matrix.lean ====
section
/-! DEFINITION. The matrix unit: tiles and their holder (R147 to R149), MOP (R150 to R152), tile moves (R153 to R156) and vertical
exclusion (R157). -/

namespace Sys2Proof.Machine

/-! ### Tiles -/

/-- Row i of a tile: 32 words (R148). -/
def tileRow (t : Tile) (i : Nat) : Nat := fieldOf t (2048 * i) 2048

/-- A tile with a row replaced. -/
def tilePut (i v : Nat) (t : Tile) : Tile := setField t (2048 * i) 2048 v

/-- Entry j of a row in the view of w-bit entries (Table 1 of 07_matrix_instructions). -/
def rowEntry (w row j : Nat) : Nat := row / 2 ^ (w * j) % 2 ^ w

/-- The row that a list of w-bit entries makes. -/
def rowOfList (w : Nat) : List Nat → Nat
  | [] => 0
  | e :: rest => e % 2 ^ w + 2 ^ w * rowOfList w rest

/-- A row with entries of a view replaced. -/
def rowPut (w : Nat) (l : List (Nat × Nat)) (row : Nat) : Nat :=
  rowOfList w ((List.range (2048 / w)).map fun j => (l.lookup j).getD (rowEntry w row j))

/-- The cycle in which row i of a tile has its chaining bit set; 0 where it is set (R149). -/
def Vec.chainAt (v : Vec) (t i : Nat) : Nat := (v.chain.lookup (32 * t + i)).getD 0

/-- A tile written: its holder is the owner of the vector state (R147), its vdirty bit is set (R17), and its chaining bits
follow the schedule of the writer (R149, R156): `ready` gives the cycle of each row of the list. -/
def State.wTile (t : BitVec 2) (tile : Tile) (rows : List Nat) (ready : Nat → Nat) (s : State) : State :=
  s.modVec fun v =>
    let mine := rows.map fun i => (32 * t.toNat + i, max (ready i) (v.chainAt t.toNat i + 1))
    let rest := v.chain.filter (fun c => decide (s.cycle < c.2) && !mine.any (fun m => m.1 == c.1))
    { v with a := v.a.set t.toNat tile, tilesHeld := true, chain := mine ++ rest,
             vdirty := v.vdirty ||| xOf (2 ^ (40 + t.toNat)) }

/-- The other slot of the core whose vector state holds the tiles (R147). -/
def State.tilesElsewhere (s : State) : Option Slot :=
  (s.others ++ s.images).find? (fun o => o.core == s.me.core && o.vec.tilesHeld)

/-- What distinguishes the frame of a tile instruction. -/
structure TileReq where
  st : BitVec 3
  srcs : List Reg := []
  /-- the width, header and stream checks that give 0x183 -/
  shape : Bool := true
  /-- a slice or row view beyond vlmax: its tval -/
  range : Option X := none
  /-- mrd's destination -/
  dst : Option (BitVec 5) := none
  /-- it is one of the kinds of R19 -/
  kf : Bool := false
  /-- v registers that it reads in elements of another width than SEW -/
  wid : List (BitVec 5 × Nat) := []

/-- A tile instruction: the checks of R150 in its order, R16 before R18 and R24, its body, and its completion. From its first
instruction of majors 0x30 and 0x31 on, the hart is the tile holder (R147). Tile instructions take no prefix (R62), which is checked
before all of these (R285). Every one of them makes the checks of R16, R18 and R24 (R153; log entry 26). Early reads trap after these checks
(R57; DESIGN CHOICE, log entry 71), and the hart becomes the holder once they have passed, whether or not its body then traps or has to wait
(R147; DESIGN CHOICE, log entry 71). -/
def runTile (q : TileReq) (body : M Unit) (s : State) : Res :=
  runM (do
    let s0 ← get
    require (s0.me.hart.pv || !s0.me.vec.vill) 0x183
    let _ ← gate { st := q.st, pfxOk := false, first := true, grant := true, scalar := false }
    let t ← get
    match t.tilesElsewhere with
    | some o => trap 0x1C1 (xOf o.vec.owner.toNat)
    | none => pure ()
    require q.shape 0x183
    match q.range with
    | some r => trap 0x1C0 r
    | none => pure ()
    checkBound q.dst.toList
    checkReads q.wid q.srcs
    modify (State.modVec fun v => { v with tilesHeld := true })
    body
    if q.kf then modify State.clearKf
    done q.st 0 (t.pc + 4)) s

/-! ### MOP -/

/-- A form of Table 2 of 07_matrix_instructions. -/
structure MopForm where
  /-- element width e -/
  e : Nat
  /-- type code of the elements -/
  code : Nat
  r : Nat
  n : Nat
  /-- accumulator format, none for int32 -/
  acc : Option Fmt

/-- The bits of an accumulator entry. -/
def MopForm.width (f : MopForm) : Nat := 2048 / f.n

/-- The values of r elements of an operand from index j on. -/
def mopValues (n : BitVec 5) (code j : Nat) : Nat → M (List (FV × Flags))
  | 0 => pure []
  | r + 1 => do
    let v ← narrowElem n code j
    let l ← mopValues n code (j + 1) r
    pure (v :: l)

/-- The values of every row or column of a list: its r elements, by index (R150). -/
def mopOperand (n : BitVec 5) (code base r : Nat) : List Nat → M (List (Nat × List (FV × Flags)))
  | [] => pure []
  | i :: rest => do
    let v ← mopValues n code (base + r * i) r
    let l ← mopOperand n code base r rest
    pure ((i, v) :: l)

/-- The products of a row and a column, exact, with their flags. -/
def mopProducts (a b : List (FV × Flags)) : List (FV × Flags) :=
  List.zipWith (fun x y =>
    let (p, fl) := x.1.mul y.1
    (p, x.2 ||| y.2 ||| fl)) a b

/-- An accumulator entry after its update (R151): the exact sum of the products, added to it with one rounding, or modulo
2^32. -/
def MopForm.update (f : MopForm) (mode old : Nat) (ps : List (FV × Flags)) : Nat × Flags :=
  match f.acc, ps with
  | some g, (p, fl) :: rest =>
    let (sum, f1) := exactSum mode p rest
    let t := g.decode old
    let (total, f2) := exactSum2 mode t sum
    let (v, f3) := g.ofFV mode false total
    (v, fl ||| f1 ||| f2 ||| f3 ||| snanFlag [t])
  | _, _ => (ofIntBits 32 ((old : Int) + (ps.map (fun p => p.1.toInt)).sum), 0)

/-- A row of the accumulator after a MOP, with the flags of its entries. -/
def MopForm.row (f : MopForm) (mode row : Nat) (a : List (FV × Flags)) (cols : List (Nat × List (FV × Flags))) : Nat × Flags :=
  let l := cols.map fun c => (c.1, f.update mode (rowEntry f.width row c.1) (mopProducts a c.2))
  (rowPut f.width (l.map fun c => (c.1, c.2.1)) row, l.foldl (fun fl c => fl ||| c.2.2) 0)

/-- The core that shares the rate budget of a vertical pair (R157). -/
def pairCore (c : Nat) : Nat := if c / 8 % 2 = 0 then c + 8 else c - 8

/-- Whether a core is in a half-rate window. -/
def CoreSt.half (c : CoreSt) (cycle : Nat) : Bool := decide (cycle < c.halfUntil)

/-- The issue of a MOP under vertical exclusion (R157): in a cycle in which the other core of the pair has issued one, this
core enters a half-rate window, where no window is open, and issues a cycle later; a MOP of the window holds the unit
for 2 cycles, even past its end. The answer is whether it issues at half rate. -/
def mopIssue : M Bool := do
  let s ← get
  let me := s.coreSt s.me.core
  let other := s.coreSt (pairCore s.me.core)
  if s.heldBack then throw (.unit (s.cycle + 1))
  if s.cycle < me.mopFree then throw (.unit me.mopFree)
  if me.half s.cycle then
    set ((s.setCore { me with lastMop := some s.cycle, mopFree := s.cycle + 2 }).modHart (Hart.count 10 2))
    pure true
  else if other.lastMop == some s.cycle && !other.half s.cycle then
    set (s.setCore { me with halfUntil := s.cycle + 1024 })
    throw (.unit (s.cycle + 1))
  else
    set (s.setCore { me with lastMop := some s.cycle })
    pure false

/-- MOP (R150 to R152): rows are masked by bits 0 to 31 of k, columns by bits from 64 on. An enabled flag leaves the tile as it
stood, with the flags of every entry set (R152; log entry 27). -/
def mopOp (f : MopForm) (st : BitVec 3) (t : BitVec 2) (a b i : BitVec 5) (k : BitVec 3) (s : State) : Res :=
  let v := s.me.vec
  let sl := i.toNat
  runTile { st := st, srcs := [.v a, .v b] ++ (v.headerRegs [a, b] f.code).map .v ++ [.k k],
            shape := v.width == f.e && !(f.code == 16 && v.block == 0) && v.headerOk a f.code && v.headerOk b f.code &&
              (v.stream? a).isNone && (v.stream? b).isNone,
            range := if 1024 * v.grant < 2048 * (sl + 1) then some (xOf sl) else none,
            wid := (v.headerRegs [a, b] f.code).map (fun h => (h, 32)) } (do
    let half ← mopIssue
    let x ← get
    let mask := x.rK k
    let rows ← mopOperand a f.code (32 * f.r * sl) f.r ((List.range 32).filter fun r => mask.getLsbD r)
    let cols ← mopOperand b f.code (f.n * f.r * sl) f.r ((List.range f.n).filter fun c => mask.getLsbD (64 + c))
    let tile := x.me.vec.a[t.toNat]
    let new := rows.map fun r => (r.1, f.row x.me.hart.rm (tileRow tile r.1) r.2 cols)
    wholeDest (raiseFlags (new.foldl (fun fl r => fl ||| r.2.2) 0) 0)
    modify (State.wTile t (new.foldl (fun m r => tilePut r.1 r.2.1 m) tile) (List.range 32)
      (fun r => x.cycle + if half then 16 + 2 * (r / 8) else 8 + r / 8))) s

/-- mop.f64. -/
def execMopF64 (st : BitVec 3) (t : BitVec 2) (a b i : BitVec 5) (k : BitVec 3) (s : State) : Res :=
  mopOp { e := 64, code := 11, r := 1, n := 32, acc := some .f64 } st t a b i k s

/-- mop.f32. -/
def execMopF32 (st : BitVec 3) (t : BitVec 2) (a b i : BitVec 5) (k : BitVec 3) (s : State) : Res :=
  mopOp { e := 32, code := 10, r := 1, n := 64, acc := some .f32 } st t a b i k s

/-- mop.bf16. -/
def execMopBf16 (st : BitVec 3) (t : BitVec 2) (a b i : BitVec 5) (k : BitVec 3) (s : State) : Res :=
  mopOp { e := 16, code := 9, r := 2, n := 64, acc := some .f32 } st t a b i k s

/-- mop.e4m3. -/
def execMopE4m3 (st : BitVec 3) (t : BitVec 2) (a b i : BitVec 5) (k : BitVec 3) (s : State) : Res :=
  mopOp { e := 8, code := 12, r := 4, n := 64, acc := some .f32 } st t a b i k s

/-- mop.e5m2. -/
def execMopE5m2 (st : BitVec 3) (t : BitVec 2) (a b i : BitVec 5) (k : BitVec 3) (s : State) : Res :=
  mopOp { e := 8, code := 13, r := 4, n := 64, acc := some .f32 } st t a b i k s

/-- mop.q4x. -/
def execMopQ4x (st : BitVec 3) (t : BitVec 2) (a b i : BitVec 5) (k : BitVec 3) (s : State) : Res :=
  mopOp { e := 4, code := 16, r := 8, n := 64, acc := some .f32 } st t a b i k s

/-- mop.i4. -/
def execMopI4 (st : BitVec 3) (t : BitVec 2) (a b i : BitVec 5) (k : BitVec 3) (s : State) : Res :=
  mopOp { e := 4, code := 15, r := 8, n := 64, acc := none } st t a b i k s

/-- The half-rate window of a core has expired (R157). -/
def execHalfRateWindow (core : Nat) (s : State) : Res :=
  let c := s.coreSt core
  if c.halfUntil ≠ 0 ∧ c.halfUntil ≤ s.cycle then .next (s.setCore { c with halfUntil := 0 }) else .next s

/-! ### Tile moves -/

/-- mzero (R153). -/
def execMzero (st : BitVec 3) (t : BitVec 2) (s : State) : Res :=
  runTile { st := st } (do
    let x ← get
    modify (State.wTile t 0 (List.range 32) (fun _ => x.cycle + 2))) s

/-- The entries m of the row view that vtype.sew selects, 0 for a width without a view (R154). -/
def rowEntries (w : Nat) : Nat := if w = 64 then 32 else if w = 32 then 64 else 0

/-- The elements that mrd and mwr process (R154): active ones below min(m, vl), whatever es holds. -/
def State.rowActives (s : State) (k : BitVec 3) : List Nat :=
  (s.actives k 0).filter fun j => decide (j < rowEntries s.me.vec.width)

/-- The range check of R154. -/
def Vec.rowRange (v : Vec) (r : BitVec 5) : Option X :=
  if v.vlmaxe < rowEntries v.width then some (xOf r.toNat) else none

/-- mrd (R154). -/
def execMrd (st : BitVec 3) (t : BitVec 2) (d r : BitVec 5) (k : BitVec 3) (s : State) : Res :=
  let v := s.me.vec
  runTile { st := st, srcs := [.k k], shape := rowEntries v.width != 0, range := v.rowRange r, dst := some d, kf := true } (do
    let x ← get
    let w := x.me.vec.width
    let row := tileRow x.me.vec.a[t.toNat] r.toNat
    let els := x.rowActives k
    putElems d w (els.map fun j => (j, rowEntry w row j)) (max x.cycle (x.me.vec.chainAt t.toNat r.toNat) + 4 - x.cycle) false
    modify (State.modHart (Hart.count 6 els.length))) s

/-- mwr (R154). -/
def execMwr (st : BitVec 3) (t : BitVec 2) (a r : BitVec 5) (k : BitVec 3) (s : State) : Res :=
  let v := s.me.vec
  runTile { st := st, srcs := [.v a, .k k], shape := rowEntries v.width != 0 && (v.stream? a).isNone, range := v.rowRange r,
            kf := true } (do
    let x ← get
    let w := x.me.vec.width
    let tile := x.me.vec.a[t.toNat]
    let els := x.rowActives k
    let row := rowPut w (els.map fun j => (j, getElem x.me.vec.grant w (x.rV a) j)) (tileRow tile r.toNat)
    modify (State.wTile t (tilePut r.toNat row tile) [r.toNat] (fun _ => x.cycle + 4))
    modify (State.modHart (Hart.count 6 els.length))) s

/-- msr written (R155). -/
def setMsr (r : Nat) : M Unit :=
  modify (State.modVec fun v => { v with msr := BitVec.ofNat 5 r, vdirty := v.vdirty ||| xOf (2 ^ 44) })

/-- The address of word w of row r of a tile's image. -/
def tileAddr (base : X) (r w : Nat) : X := base + xOf (256 * r + 8 * w)

/-- Words w and later of a row of an image, n of them, read in order, with their translated addresses (R155, R214). -/
def rowLoad (base : X) (r w : Nat) : Nat → M (List (Nat × Phys))
  | 0 => pure []
  | n + 1 => do
    let va := tileAddr base r w
    let p ← access .vload va 8 ((31 - r) * 32 + n + 1)
    awaitMarks va 8
    let v ← readVec p va 8 0
    let l ← rowLoad base r (w + 1) n
    pure ((v, p) :: l)

/-- The rows of a list loaded in order: those below the first that stops, with the translated addresses of their words, and that stop. -/
def rowsLoad (base : X) : List Nat → M (List (Nat × Nat) × List Phys × ElemStop)
  | [] => pure ([], [], none)
  | r :: rest => do
    match ← observe (do trapPoint r; rowLoad base r 0 32) with
    | .error e => pure ([], [], some (r, e))
    | .ok l =>
      let (rs, ps, e) ← rowsLoad base rest
      pure ((r, rowOfList 64 (l.map (·.1))) :: rs, l.map (·.2) ++ ps, e)

/-- The rows of a transfer: from msr to 31 (R155). -/
def State.tileRows (s : State) : List Nat := (List.range 32).drop s.me.vec.msr.toNat

/-- The acquire of a load that a watermark covers (R103, R244). -/
def State.tileAcquire (base : X) (s : State) : State :=
  if (s.marksOn base 8192).isEmpty then s else s.acquire

/-- mld (R155): the rows below the faulting one are loaded, and msr names that row. -/
def execMld (st : BitVec 3) (t : BitVec 2) (a : BitVec 5) (s : State) : Res :=
  runTile { st := st, srcs := [.x a] } (do
    let x ← get
    let base := x.rX a
    require (base.toNat % 8 == 0) 0x0C0 base
    let (l, ps, e) ← rowsLoad base x.tileRows
    let lat := 40 + 2 * l.length + x.tileFarther ps
    let tile := x.me.vec.a[t.toNat]
    modify (State.wTile t (l.foldl (fun m r => tilePut r.1 r.2 m) tile) (l.map (·.1)) (fun _ => x.cycle + lat))
    match e with
    | none =>
      setMsr 0
      modify (State.tileAcquire base)
    | some (r, why) =>
      setMsr r
      throw why) s

/-- One word of a tile stored (R155). -/
def tileStore (base : X) (tile : Tile) (r w : Nat) : M Unit := do
  let va := tileAddr base r w
  let p ← access .vstore va 8 ((31 - r) * 32 + 32 - w)
  liftRead (fun t => onOk (fun u => u.touchHome p 8 true 0 u.hartAgent) (t.writeRaw p va 8 (rowEntry 64 (tileRow tile r) w) 0 t.hartAgent))
  modify (State.noteStoreAt va p.pa 8)

/-- The words of a list of rows in ascending order. -/
def tileWords (rows : List Nat) : List (Nat × Nat) := rows.flatMap fun r => (List.range 32).map fun w => (r, w)

/-- Words of which each is stored or not, by a free choice (R155; log entry 6). -/
def wordsMaybe (base : X) (tile : Tile) (use : Nat) : List (Nat × Nat) → M Unit
  | [] => pure ()
  | (r, w) :: rest => do
    if Config.freeChoice use (32 * r + w) % 2 = 1 then
      let s ← get
      match ← observe (tileStore base tile r w) with
      | .error _ => set s
      | .ok _ => pure ()
    wordsMaybe base tile use rest

/-- The accesses of a row's words from w on, n of them, without their stores, up to the first that faults: it waits where one of them
must wait, so that no word of a row is stored before the wait is over. -/
def rowProbe (base : X) (r w : Nat) : Nat → M Unit
  | 0 => pure ()
  | n + 1 => do
    match ← observe (do let _ ← access .vstore (tileAddr base r w) 8 ((31 - r) * 32 + n + 1)) with
    | .ok _ => rowProbe base r (w + 1) n
    | .error e => if e.isFault then pure () else throw e

/-- Words stored in order. -/
def wordsStore (base : X) (tile : Tile) : List (Nat × Nat) → M Unit
  | [] => pure ()
  | (r, w) :: rest => do
    tileStore base tile r w
    wordsStore base tile rest

/-- The rows of a transfer stored in order, up to the first that stops. Where a word of one faults, the words below it in the row are
stored, and each word of it and of the rows above is stored or not (R155). -/
def rowsStore (base : X) (tile : Tile) : List Nat → M ElemStop
  | [] => pure none
  | r :: rest => do
    let one : M Unit := do
      trapPoint r
      rowProbe base r 0 32
      wordsStore base tile (tileWords [r])
    match ← observe one with
    | .ok _ => rowsStore base tile rest
    | .error e => if !e.isFault then pure (some (r, e)) else do
      let s ← get
      set { s with fresh := s.fresh + 1 }
      wordsMaybe base tile s.fresh (tileWords (r :: rest))
      pure (some (r, e))

/-- mst (R155): msr names the row in which it stopped. -/
def execMst (st : BitVec 3) (t : BitVec 2) (a : BitVec 5) (s : State) : Res :=
  runTile { st := st, srcs := [.x a] } (do
    let x ← get
    let base := x.rX a
    require (base.toNat % 8 == 0) 0x0C0 base
    match ← rowsStore base x.me.vec.a[t.toNat] x.tileRows with
    | none => setMsr 0
    | some (r, why) =>
      setMsr r
      throw why) s

end Sys2Proof.Machine
end

