-- ==== Sys2Proof/Machine/Refs.lean ====
section
/-! DEFINITION. Reference operations of major 0x0E with the Shawm walk (R204 to R208), and the atomics of major 0x0F (R203). -/

namespace Sys2Proof.Machine

/-- mkref (R205): the header at x[a] is read and checked, and x[d] becomes a reference to it. -/
def execMkref (st : BitVec 3) (d a : BitVec 5) (s : State) : Res :=
  runScalar { st := st, srcs := [.x a], dst := .x d } (do
    let t ← get
    let va := t.rX a
    require (va.toNat % 8 == 0) 0x0C0 va
    let (p, _) ← readHeader va
    putX d va true (t.loadLatency p) false
    pure (t.pc + 4)) s

/-- rtag (R205). -/
def execRtag (st : BitVec 3) (d a : BitVec 5) (s : State) : Res :=
  computeX st d [a] 1 true (fun t => xBool (t.rTag a)) s

/-- A header updated in place: its word stays tagged 10 (R207). The write is the hart's own (R225). -/
def putHeader (p : Phys) (ref h : X) : M Unit := do
  liftRead (fun t => t.writeAt p ref 8 h.toNat 2 0 t.hartAgent)
  modify (State.noteStoreAt ref p.pa 8)

/-- The references in the body words of an object from word j on, n of them (R207). -/
def bodyRefs (obj : X) : Nat → Nat → M (List X)
  | 0, _ => pure []
  | n + 1, j => do
    let va := obj + xOf (8 * j)
    let p ← access .otherRead va 0 1
    let s ← get
    if p.managed && tagAt s.tags (p.pa / 8) == 1 then
      let (v, _) ← liftRead (fun t => t.readAt p va 8 0 t.hartAgent)
      let rest ← bodyRefs obj n (j + 1)
      pure (xOf v :: rest)
    else bodyRefs obj n (j + 1)

/-- The physical address at which the range of a private load record begins, whose pages lie together (R259). -/
def LoadRecord.physLo (l : LoadRecord) : Nat := ((l.pages.lookup (l.lo / 2 ^ 19)).getD 0) * 2 ^ 19 + l.lo % 2 ^ 19

/-- The load entries of every hart that lie, under whatever virtual address, in the n bytes from pa on of the body of an object whose scope a
walk raises become published (R260). -/
def State.publishRange (pa n : Nat) (s : State) : State :=
  { s with fife := s.fife.map fun e =>
      match e.load with
      | some l =>
        if l.isPrivate ∧ pa ≤ l.physLo ∧ l.physLo + (l.hi - l.lo) ≤ pa + n then { e with load := some { l with isPrivate := false } } else e
      | none => e }

/-- The Shawm walk of R207 over a queue of references, with the objects entered so far; the first argument bounds the number of
references taken, which the bound of 16,384 objects of at most 2^24 words never reaches. -/
def shawmWalk (scope : Nat) : Nat → List X → List X → M (List X)
  | 0, _, seen => pure seen
  | _, [], seen => pure seen
  | n + 1, o :: queue, seen =>
    if o ∈ seen then shawmWalk scope n queue seen
    else do
      trapPoint seen.length
      let (p, h) ← readHeader o
      let sc := fieldOf h 36 4
      if scopeRank scope ≤ scopeRank sc && !bitAt h 0 then shawmWalk scope n queue seen
      else
        require (decide (seen.length < 16384)) 0x144 o
        if scopeRank sc < scopeRank scope then
          putHeader p o (setField (setField h 36 4 scope) 0 1 1)
          modify (State.publishRange (p.pa + 8) (8 * fieldOf h 40 24))
        let refs ← bodyRefs o (fieldOf h 40 24) 1
        shawmWalk scope n (queue ++ refs) (o :: seen)

/-- The end of a walk: pd cleared in every object entered whose scope is the walk's (R207, R208). -/
def shawmFinish (scope : Nat) : List X → M Unit
  | [] => pure ()
  | o :: rest => do
    let (p, h) ← readHeader o
    if fieldOf h 36 4 = scope then putHeader p o (setField h 0 1 0)
    shawmFinish scope rest

/-- A meaning whose waits may be left at once, the instruction being abandoned there (R287). -/
def abandonable {α : Type} (m : M α) : M α := fun s =>
  match m s with
  | (.error (.wait (.bank pa _)), t) => (.error (.wait (.bank pa false)), t)
  | r => r

/-- pub (R206): d names the reference. Its store is a release at the scope (R233, R246). -/
def execPub (st : BitVec 3) (d a : BitVec 5) (c : BitVec 4) (s : State) : Res :=
  runScalar { st := st, srcs := [.x d, .x a] } (abandonable do
    let t ← get
    let va := t.rX a
    let ref := t.rX d
    require (t.rTag d) 0x143 va
    require (va.toNat % 8 == 0) 0x0C0 va
    let p ← access .store va 0 1
    let seen ← shawmWalk c.toNat (2 ^ 40) [ref] []
    shawmFinish c.toNat seen.reverse
    if p.managed then escapeCheck p va ref d
    modify (State.release c.toNat)
    liftRead (fun u => u.writeAt p va 8 ref.toNat 1 0 u.hartAgent)
    modify (State.noteStoreAt va p.pa 8)
    pure (t.pc + 4)) s

/-! ### Atomics -/

/-- The value that an atomic writes, none where it writes nothing, from the old value and its operands as values of w bits
(R203, Table 3 of 10_synchronisation_instructions). -/
abbrev AmoFn := (w : Nat) → (old x y : Nat) → Option Nat

/-- The codeword that a read-modify-write needs: an uncorrectable one traps with 0x303, and poison as it does a read (R332, R333). -/
def State.rmwCheck (s : State) (p : Phys) (va : X) : Except Trap Unit × State :=
  match s.meetGranule 0x03 p s.hartAgent with
  | (.uncorrectable, t) => (.error (t.errorTrap 0x303 va p.pa false), t)
  | (.poisoned, t) => (.error (t.errorTrap 0x300 va p.pa (s.poisonedAt p.managed p.pa)), t)
  | (.good, t) => (.ok (), t)

/-- An atomic (R203): alignment, translation with write permission, poison and reference checks, then the read and the write as
one step at the line's home (R368); one that writes nothing ends load entries too (R260, Table 2); its order acquires and draws tickets as an ordered access does. -/
def amoOp (st : BitVec 3) (d a : BitVec 5) (c : BitVec 4) (o : BitVec 3) (z : BitVec 1) (two : Bool) (f : AmoFn) (s : State) : Res :=
  runScalar { st := st, srcs := [.x a, .x d] ++ (if two then [.x (d + 1)] else []), dst := .x d } (do
    let t ← get
    let n := if z = 0 then 4 else 8
    let va := t.rX a
    require (va.toNat % n == 0) 0x0C0 va
    let p ← access .store va 0 1
    let u ← get
    let lat := u.homeLatency p
    liftRead (fun v => v.rmwCheck p va)
    let (old, tag) ← liftRead (fun v => onOk (fun w => w.touchHome p n true 0 w.hartAgent) (v.readRaw p va n v.hartAgent))
    require (tag == 0) 0x141 va
    match f (8 * n) old ((t.rX d).toNat % 2 ^ (8 * n)) ((t.rX (d + 1)).toNat % 2 ^ (8 * n)) with
    | some new =>
      liftRead (fun v => v.writeRaw p va n new 0 v.hartAgent)
    | none => pure ()
    modify (State.noteStoreAt va p.pa n)
    modify (State.orderEffect o c)
    putX d (xOf (ofIntBits 64 (sextNat (8 * n) old))) false lat false
    pure (t.pc + 4)) s

/-- amoswap (R203). -/
def execAmoswap (st : BitVec 3) (d a : BitVec 5) (c : BitVec 4) (o : BitVec 3) (z : BitVec 1) (s : State) : Res :=
  amoOp st d a c o z false (fun _ _ x _ => some x) s

/-- amoadd (R203). -/
def execAmoadd (st : BitVec 3) (d a : BitVec 5) (c : BitVec 4) (o : BitVec 3) (z : BitVec 1) (s : State) : Res :=
  amoOp st d a c o z false (fun w old x _ => some ((old + x) % 2 ^ w)) s

/-- amoand (R203). -/
def execAmoand (st : BitVec 3) (d a : BitVec 5) (c : BitVec 4) (o : BitVec 3) (z : BitVec 1) (s : State) : Res :=
  amoOp st d a c o z false (fun _ old x _ => some (old &&& x)) s

/-- amoor (R203). -/
def execAmoor (st : BitVec 3) (d a : BitVec 5) (c : BitVec 4) (o : BitVec 3) (z : BitVec 1) (s : State) : Res :=
  amoOp st d a c o z false (fun _ old x _ => some (old ||| x)) s

/-- amoxor (R203). -/
def execAmoxor (st : BitVec 3) (d a : BitVec 5) (c : BitVec 4) (o : BitVec 3) (z : BitVec 1) (s : State) : Res :=
  amoOp st d a c o z false (fun _ old x _ => some (old ^^^ x)) s

/-- amomin (R203). -/
def execAmomin (st : BitVec 3) (d a : BitVec 5) (c : BitVec 4) (o : BitVec 3) (z : BitVec 1) (s : State) : Res :=
  amoOp st d a c o z false (fun w old x _ => some (if sextNat w x < sextNat w old then x else old)) s

/-- amomax (R203). -/
def execAmomax (st : BitVec 3) (d a : BitVec 5) (c : BitVec 4) (o : BitVec 3) (z : BitVec 1) (s : State) : Res :=
  amoOp st d a c o z false (fun w old x _ => some (if sextNat w old < sextNat w x then x else old)) s

/-- amominn (R203). -/
def execAmominn (st : BitVec 3) (d a : BitVec 5) (c : BitVec 4) (o : BitVec 3) (z : BitVec 1) (s : State) : Res :=
  amoOp st d a c o z false (fun _ old x _ => some (min old x)) s

/-- amomaxn (R203). -/
def execAmomaxn (st : BitVec 3) (d a : BitVec 5) (c : BitVec 4) (o : BitVec 3) (z : BitVec 1) (s : State) : Res :=
  amoOp st d a c o z false (fun _ old x _ => some (max old x)) s

/-- amocas (R203). -/
def execAmocas (st : BitVec 3) (d a : BitVec 5) (c : BitVec 4) (o : BitVec 3) (z : BitVec 1) (s : State) : Res :=
  amoOp st d a c o z true (fun _ old x y => if old = x then some y else none) s

end Sys2Proof.Machine
end

