-- ==== Sys2Proof/Machine/Reliab.lean ====
section
/-! DEFINITION. Errors and losses (R330, R334, R337, R339 to R341, R349, R350), power and cooling (R352), and words that are no
instruction (R68). -/

namespace Sys2Proof.Machine

/-! ### Words that are no instruction -/

/-- ILLEGAL_INSTRUCTION (R68): the word at pc is no instruction. A sysr or sysw that names no register is another matter (R97). -/
def execIllegalInstruction (w : BitVec 32) (s : State) : Res :=
  runM (trap (if w = 0 ∨ w = 0xFFFFFFFF then 0x001 else 0x000) (zimm w)) s

/-! ### Vertical buses (R336, R337) -/

/-- The word at offset 0x08 of a log entry for a transfer of a column bus (Table 1 of 16_reliability): subarray, row and granule
are 0. -/
def busWord (kind action pa pos count : Nat) (c : ColumnRef) : X :=
  xOf (kind * 2 ^ 56 + action * 2 ^ 52 + c.stack * 2 ^ 48 + paDie pa * 2 ^ 44 + c.column * 2 ^ 37 + pos * 2 ^ 8 + count)

/-- The agent of a bus error: the hart in focus, or none (log entry 31). -/
def State.busAgent (s : State) : X := if s.me.live then xOf (s.hid % 2 ^ 28) else xOf (4 * 2 ^ 28)

/-- Whether a column exists. -/
def columnOk (c : ColumnRef) : Bool := decide (c.stack < 8) && decide (c.column < 128)

/-- The lanes of a parity group: sixteen data lanes and the parity lane (R336), which has number 128 + group here. -/
def inGroup (group lane : Nat) : Bool := lane == 128 + group || (decide (lane < 128) && lane / 16 == group)

/-- The parity groups that fail their check on some of the 8 beats of a transfer in which lanes flip, each with its beat: an even number of
flips within a group on one beat is not detected (R336). -/
def failingGroups (flips : LaneFlips) : List Nat :=
  (List.range 8).filter fun j => (List.range 8).any fun beat =>
    (flips.filter (fun f => f.1 == beat && inGroup j f.2)).length % 2 == 1

/-- The bytes of the line that a transfer moves as it delivers them, with the data lanes flipped that its check has not found: lane l of
beat b is bit 128 b + l (R336; log entry 31). -/
def State.deliver (pa : Nat) (flips : LaneFlips) (s : State) : State :=
  let bits := (flips.filter (fun f => decide (f.1 < 8) && decide (f.2 < 128))).map fun f => 128 * f.1 + f.2
  let line := bits.foldl (fun l b => l.modify (b / 8) (fun y => y ^^^ BitVec.ofNat 8 (2 ^ (b % 8)))) (memBytes s.mem (pa / 128 * 128) 128)
  if bits = [] then s else { s with mem := memWrite s.mem (pa / 128 * 128) line }

/-- The position that kind 0x04 logs for a transfer: the data lane that flips in its first failing group, as in the worked read of
16_reliability, and the group's first lane where only the parity lane does (R339; log entry 31). -/
def failingLane (flips : LaneFlips) : Nat :=
  let group := (failingGroups flips).headD 0
  ((flips.find? fun f => decide (f.2 < 128) && inGroup group f.2).map (fun f => f.2)).getD (16 * group)

/-- Whether the bus of a column carries no transfer but those of a repeat or a diagnosis under way (R337). -/
def State.busTaken (s : State) (c : ColumnRef) : Bool := (s.fw.diagnosing.lookup c).isSome || decide (s.cycle < (s.buses.lookup c).getD 0)

/-- A bus kept for n cycles more by the procedure of R337. -/
def State.holdBus (c : ColumnRef) (n : Nat) (s : State) : State :=
  { s with buses := s.buses.filter (fun q => q.1 != c) ++ [(c, max s.cycle ((s.buses.lookup c).getD 0) + n)] }

/-- TRANSFER_REPEAT (R336, R337): a transfer that failed its check is repeated, up to 4 times, at 8 cycles each; kind 0x04 holds the number of
repeats and a failing lane. A repeat that passes ends the procedure; after a fourth that fails, the bus awaits the diagnosis of the group. A
transfer whose flips its check does not detect delivers them (log entry 31). While the procedure runs, the bus carries no other transfer. -/
def execTransferRepeat (column : ColumnRef) (pa : Nat) (first : LaneFlips) (repeats : List LaneFlips) (s : State) : Res :=
  let groups := failingGroups first
  let failed := (repeats.take 4).takeWhile fun a => failingGroups a != []
  let ending := (repeats.take 4)[failed.length]?
  if s.busTaken column then .next s
  else if columnOk column && groups != [] && (ending.isSome || failed.length == 4) then
    let n := min 4 (failed.length + 1)
    let s1 := (s.logError column.stack (busWord 0x04 3 pa (failingLane first) n column) (xOf pa) s.busAgent).holdBus column (8 * n)
    match ending with
    | some a => .next (s1.deliver pa a)
    | none =>
      let group := (failed.getLast?.map (fun a => (failingGroups a).headD 0)).getD 0
      .next { s1 with fw := { s1.fw with diagnosing := s1.fw.diagnosing.filter (fun q => q.1 != column) ++ [(column, group)] } }
  else if columnOk column && groups == [] then .next (s.deliver pa first)
  else .next s

/-- The log word of a lost unit (Table 3 of 16_reliability). -/
def lossWord (kind action : Nat) (u : ModuleUnit) : X :=
  let w := fun (st die col : Nat) => xOf (kind * 2 ^ 56 + action * 2 ^ 52 + st * 2 ^ 48 + die * 2 ^ 44 + col * 2 ^ 37 + 1)
  match u with
  | .bank st d c => w st d c
  | .die st d => w st d 0
  | .bus st c => w st 0 c
  | .sramLayer st => w st 0 0
  | .computeLayer st _ => w st 0 0
  | .core c => w (stackOf c) 0 0
  | .baseDie st => w st 0 0

/-- The stack of a unit. -/
def unitStack : ModuleUnit → Nat
  | .bank st _ _ => st
  | .die st _ => st
  | .bus st _ => st
  | .sramLayer st => st
  | .computeLayer st _ => st
  | .core c => stackOf c
  | .baseDie st => st

/-- Whether a unit exists. -/
def unitOk : ModuleUnit → Bool
  | .bank st d c => decide (st < 8) && decide (d < 16) && decide (c < 128)
  | .die st d => decide (st < 8) && decide (d < 16)
  | .bus st c => decide (st < 8) && decide (c < 128)
  | .sramLayer st => decide (st < 8)
  | .computeLayer st l => decide (st < 8) && decide (l < 2)
  | .core c => decide (c < 128)
  | .baseDie st => decide (st < 8)

/-- A fatal loss (R340): every resident hart receives 0x3C0, and the module resets 13,000 cycles later at the latest. -/
def State.fatal (s : State) : State :=
  let s1 := s.postAll (fun _ => true) 0x3C0
  { s1 with fw := { s1.fw with resetAt := some (s1.fw.resetAt.getD (s1.cycle + 13000)) } }

/-- The loss of a unit (R340): logged as kind 0x09 with action 5; that of a core follows a parity error of kind 0x0B. -/
def State.loseUnit (u : ModuleUnit) (s : State) : State :=
  if u ∈ s.fw.losing ∨ u ∈ s.fw.lost ∨ !unitOk u then s
  else
    let none4 := xOf (4 * 2 ^ 28)
    let s1 := match u with
      | .core _ => s.logError (unitStack u) (lossWord 0x0B 0 u) 0 none4
      | _ => s
    let s2 := s1.logError (unitStack u) (lossWord 0x09 5 u) 0 none4
    ({ s2 with fw := { s2.fw with losing := s2.fw.losing ++ [u] } } : State).fatal

/-- The lanes of a column that have been swapped. -/
def State.swapsOf (s : State) (c : ColumnRef) : Nat := (s.fw.laneSwaps.filter fun q => q.1 == c).length

/-- LANE_DIAGNOSIS (R337): the diagnosis of the failing group of a bus whose fourth repeat has failed. Exactly one failing lane is swapped onto
the lowest free spare, and the transfer is performed once more: 64 cycles and 8 more; the bus is lost in every other case. -/
def execLaneDiagnosis (column : ColumnRef) (pa : Nat) (failing : List Nat) (passes : Bool) (s : State) : Res :=
  match s.fw.diagnosing.lookup column with
  | none => .next s
  | some group =>
    if !(columnOk column && failing.all (inGroup group)) then .next s
    else
      let s0 := ({ s with fw := { s.fw with diagnosing := s.fw.diagnosing.filter (fun q => q.1 != column) } } : State).holdBus column (64 + 8 * b2n (failing.length == 1))
      let lost := fun (t : State) => t.loseUnit (.bus column.stack column.column)
      match failing with
      | [lane] =>
        if s0.swapsOf column < 4 then
          let s1 := s0.logError column.stack (busWord 0x05 4 pa lane 1 column) (xOf pa) s0.busAgent
          let s2 : State := { s1 with fw := { s1.fw with laneSwaps := s1.fw.laneSwaps ++ [(column, lane)] } }
          .next (if passes then s2 else lost s2)
        else .next (lost s0)
      | _ => .next (lost s0)

/-! ### Losses and the module's restart (R340, R341, R349, R350) -/

/-- UNIT_LOSS (R340). -/
def execUnitLoss (unit : ModuleUnit) (s : State) : Res := .next (s.loseUnit unit)

/-- The banks in which uncorrectable granules have been found in 16 distinct rows (R340, Table 3 of 16_reliability). -/
def State.failingBank (s : State) : Option ModuleUnit :=
  (s.fw.badRows.find? fun r =>
    let u := ModuleUnit.bank r.1 r.2.1 r.2.2.1
    decide (u ∉ s.fw.losing) && decide (u ∉ s.fw.lost) && unitOk u &&
      decide (16 ≤ (s.fw.badRows.filter fun q => q.1 == r.1 && q.2.1 == r.2.1 && q.2.2.1 == r.2.2.1).length)).map fun r =>
    .bank r.1 r.2.1 r.2.2.1

/-- Whether the surviving stacks reach each other and one with a CXL port (R341). -/
def meshOk (lost : List ModuleUnit) : Bool :=
  let alive := aliveStacks lost
  let seen := reach alive 8 (alive.take 1)
  alive.all (fun a => decide (a ∈ seen)) && (List.range 4).any (fun p => decide (portStack p ∈ alive))

/-- Whether a hart of a slot has still to take 0x3C0: a stopped hart never does, so that the full 13,000 cycles pass (R340). -/
def Slot.mustTake (o : Slot) : Bool := o.live && o.hart.async.any (fun a => a.code == 0x3C0)

/-- Whether the module resets in this cycle (R340). -/
def State.resetDue (s : State) : Bool :=
  s.fw.resetAt.any fun t => decide (t ≤ s.cycle) || !s.slots.any Slot.mustTake

/-- The module's restart (R340, R341, R349, R350): every content is lost but the logs, the lane swaps and the list of lost units;
the boot ROM verifies the stored image; the host is told. Counters of free values and of requests go on (log entry 6). -/
def State.restart (s : State) : State :=
  let lost := s.fw.lost ++ s.fw.losing
  let stored := s.fw.pending.getD s.fw.image
  let ok := s.imageVerifies stored
  let stays := s.fw.coolantLost || !meshOk lost
  let fw : Firmware :=
    { Firmware.boot with image := if ok then stored else s.fw.image, pending := if ok then none else s.fw.pending,
                         minVersion := if ok then max s.fw.minVersion stored.version else s.fw.minVersion, recovery := !ok,
                         inReset := stays, lost := lost, laneSwaps := s.fw.laneSwaps, coolantLost := s.fw.coolantLost }
  ({ State.reset with fw := fw, logs := s.logs, logLost := s.logLost, replies := s.replies, fresh := s.fresh, nextId := s.nextId,
                      inputs := s.inputs, i3c := s.i3c } : State).reply (.report (if stays then "held in reset" else "fatal error") lost.length)

/-- MODULE_RESET (R340). -/
def execModuleReset (s : State) : Res := if s.resetDue then .next s.restart else .next s

/-- COOLANT_PRESSURE_LOSS (R340, R352): a fatal loss after which the module stays in reset. -/
def execCoolantPressureLoss (s : State) : Res :=
  if s.fw.coolantLost then .next s
  else
    let s1 := s.logError 0 (xOf (0x09 * 2 ^ 56 + 5 * 2 ^ 52 + 1)) 0 (xOf (4 * 2 ^ 28))
    .next ({ s1 with fw := { s1.fw with coolantLost := true } } : State).fatal

/-! ### Power and temperature (R352) -/

/-- POWER_WINDOW (R352): the mean power of a window of 1 ms. -/
def execPowerWindow (watts : Nat) (s : State) : Res := .next { s with fw := { s.fw with powerHigh := decide (2400 < watts) } }

/-- The DRAM dies among some units that have reached 105 °C (R338). -/
def burntDies (dies : List Heated) : List ModuleUnit :=
  dies.filterMap fun q =>
    match q.1 with
    | .die st d => if 105 ≤ q.2 then some (.die st d) else none
    | _ => none

/-- TEMPERATURE_THROTTLE (R338, R352): the temperatures of the coolant inlet and of dies, in degrees Celsius; a DRAM die that has reached
105 °C is lost. -/
def execTemperatureThrottle (inlet : Nat) (dies : List Heated) (s : State) : Res :=
  .next ((burntDies dies).foldl (fun t u => t.loseUnit u)
    { s with fw := { s.fw with tempHigh := decide (35 < inlet) || dies.any (fun q => decide (95 < q.2)) } })

/-! ### Soft errors (R330, R334) -/

/-- Bits flipped among those that are flipped already. -/
def toggle (l bits : List Nat) : List Nat := bits.foldl (fun m b => if b ∈ m then without m b else m ++ [b]) l

/-- The places that hold the word at an address (R312, R316, R334). -/
def State.errorSites (s : State) (pa : Nat) : List ErrorSite :=
  let e := s.dirAt pa
  (if isDram pa then [.dram] else []) ++ (if isScratch pa || (s.lineAt pa).isSome then [.bank] else []) ++
    e.data.map ErrorSite.l1 ++ e.instr.map ErrorSite.l1i

/-- The state after bits of a word flip at a place that holds it (R330, R334): they stay flipped until a read of that place meets them. A
poisoned granule of DRAM stays as it is. -/
def State.flipAt (pa : Nat) (bits : List Nat) (site : ErrorSite) (s : State) : State :=
  if site = .dram then
    if s.poisonedAt false pa then s else { s with flips := flipsSet s.flips (pa / 16) (toggle (flipsAt s.flips (pa / 16)) bits) }
  else
    let old := ((s.sram.find? (fun f => f.pa == pa / 8 * 8 && decide (f.site = site))).map (fun f => f.bits)).getD []
    let s1 := s.dropSram pa site
    { s1 with sram := s1.sram ++ [{ pa := pa / 8 * 8, site := site, bits := toggle old bits }] }

/-- The place that a soft error at an address strikes: the one that holds the word, or, of several, one that a free choice names (log
entry 6). -/
def State.struck (s : State) (pa : Nat) : Option ErrorSite :=
  (s.errorSites pa)[if 1 < (s.errorSites pa).length then Config.freeChoice s.fresh 0 % (s.errorSites pa).length else 0]?

/-- SOFT_ERROR (R330, R334): bits flip in one of the places that hold the word at an address: in the codeword of its DRAM granule, or in a
word of SRAM, to be met by the next reader of that place. -/
def execSoftError (pa : Nat) (bits : List Nat) (s : State) : Res :=
  match s.struck pa with
  | none => .next s
  | some site => .next ({ s.flipAt pa bits site with fresh := s.fresh + b2n (decide (1 < (s.errorSites pa).length)) })

end Sys2Proof.Machine
end

