-- ==== Sys2Proof/Machine/Scalar.lean ====
section
/-! DEFINITION. Integer operations of majors 0x02 to 0x0A (R74 to R78). -/

namespace Sys2Proof.Machine

/-- x[d] := f(x[a], x[b]) with latency 1 (R55, R75). -/
def aluRR (st : BitVec 3) (d a b : BitVec 5) (f : X → X → X) (s : State) : Res :=
  computeX st d [a, b] 1 true (fun t => f (t.rX a) (t.rX b)) s

/-- x[d] := f(x[a]) with latency 1 (R55, R75 to R77). -/
def aluR (st : BitVec 3) (d a : BitVec 5) (f : X → X) (s : State) : Res :=
  computeX st d [a] 1 true (fun t => f (t.rX a)) s

/-- A multiplication: latency 3 (R55, R78). -/
def mulRR (st : BitVec 3) (d a b : BitVec 5) (f : X → X → X) (s : State) : Res :=
  computeX st d [a, b] 3 true (fun t => f (t.rX a) (t.rX b)) s

/-- The quotient of div (R78). -/
def divS (a b : X) : X :=
  if b = 0 then BitVec.allOnes 64
  else BitVec.ofInt 64 (a.toInt.tdiv b.toInt)

/-- The quotient of divn (R78). -/
def divN (a b : X) : X := if b = 0 then BitVec.allOnes 64 else xOf (a.toNat / b.toNat)

/-- The remainder of rem (R78). -/
def remS (a b : X) : X := if b = 0 then a else BitVec.ofInt 64 (a.toInt.tmod b.toInt)

/-- The remainder of remn (R78). -/
def remN (a b : X) : X := if b = 0 then a else xOf (a.toNat % b.toNat)

/-- The cycles of a division, from 8 to 40 by its quotient (R78; log entry 11). -/
def divLatency (isNat : Bool) (a b : X) : Nat :=
  let q := if isNat then divN a b else divS a b
  let m := if isNat then q.toNat else q.toInt.natAbs
  if b = 0 ∨ m < 16 then 8 else 8 + Config.divCycles q % 33

/-- A division: scoreboarded (R78). -/
def divRR (st : BitVec 3) (d a b : BitVec 5) (isNat : Bool) (f : X → X → X) (s : State) : Res :=
  runScalar { st := st, srcs := [.x a, .x b], dst := .x d } (do
    let t ← get
    putX d (f (t.rX a) (t.rX b)) false (divLatency isNat (t.rX a) (t.rX b)) false
    pure (t.pc + 4)) s

/-- add (R75). -/
def execAddR (st : BitVec 3) (d a b : BitVec 5) (s : State) : Res := aluRR st d a b (fun x y => x + y) s

/-- sub (R75). -/
def execSubR (st : BitVec 3) (d a b : BitVec 5) (s : State) : Res := aluRR st d a b (fun x y => x - y) s

/-- and (R75). -/
def execAndR (st : BitVec 3) (d a b : BitVec 5) (s : State) : Res := aluRR st d a b (fun x y => x &&& y) s

/-- or (R75). -/
def execOrR (st : BitVec 3) (d a b : BitVec 5) (s : State) : Res := aluRR st d a b (fun x y => x ||| y) s

/-- xor (R75). -/
def execXorR (st : BitVec 3) (d a b : BitVec 5) (s : State) : Res := aluRR st d a b (fun x y => x ^^^ y) s

/-- sll (R75). -/
def execSll (st : BitVec 3) (d a b : BitVec 5) (s : State) : Res := aluRR st d a b (fun x y => x <<< (y.toNat % 64)) s

/-- srl (R75). -/
def execSrl (st : BitVec 3) (d a b : BitVec 5) (s : State) : Res := aluRR st d a b (fun x y => x >>> (y.toNat % 64)) s

/-- sra (R75). -/
def execSra (st : BitVec 3) (d a b : BitVec 5) (s : State) : Res := aluRR st d a b (fun x y => x.sshiftRight (y.toNat % 64)) s

/-- slt (R75). -/
def execSlt (st : BitVec 3) (d a b : BitVec 5) (s : State) : Res := aluRR st d a b (fun x y => xBool (ltS x y)) s

/-- sltn (R75). -/
def execSltn (st : BitVec 3) (d a b : BitVec 5) (s : State) : Res := aluRR st d a b (fun x y => xBool (ltN x y)) s

/-- min (R75). -/
def execMinR (st : BitVec 3) (d a b : BitVec 5) (s : State) : Res := aluRR st d a b (fun x y => if ltS y x then y else x) s

/-- max (R75). -/
def execMaxR (st : BitVec 3) (d a b : BitVec 5) (s : State) : Res := aluRR st d a b (fun x y => if ltS x y then y else x) s

/-- minn (R75). -/
def execMinn (st : BitVec 3) (d a b : BitVec 5) (s : State) : Res := aluRR st d a b (fun x y => if ltN y x then y else x) s

/-- maxn (R75). -/
def execMaxn (st : BitVec 3) (d a b : BitVec 5) (s : State) : Res := aluRR st d a b (fun x y => if ltN x y then y else x) s

/-- add.s (R75). -/
def execAddS (st : BitVec 3) (d a b : BitVec 5) (s : State) : Res := aluRR st d a b (fun x y => clampX (x.toInt + y.toInt)) s

/-- sub.s (R75). -/
def execSubS (st : BitVec 3) (d a b : BitVec 5) (s : State) : Res := aluRR st d a b (fun x y => clampX (x.toInt - y.toInt)) s

/-- clz (R75). -/
def execClz (st : BitVec 3) (d a : BitVec 5) (s : State) : Res := aluR st d a (fun x => xOf (leadingZeros 64 x.toNat)) s

/-- ctz (R75). -/
def execCtz (st : BitVec 3) (d a : BitVec 5) (s : State) : Res := aluR st d a (fun x => xOf (trailingZeros 64 x.toNat)) s

/-- popc (R75). -/
def execPopc (st : BitVec 3) (d a : BitVec 5) (s : State) : Res := aluR st d a (fun x => xOf (popCount 64 x.toNat)) s

/-- addi (R76). -/
def execAddi (st : BitVec 3) (d a : BitVec 5) (i : BitVec 13) (s : State) : Res := aluR st d a (fun x => x + simm i) s

/-- andi (R76). -/
def execAndi (st : BitVec 3) (d a : BitVec 5) (i : BitVec 13) (s : State) : Res := aluR st d a (fun x => x &&& simm i) s

/-- ori (R76). -/
def execOri (st : BitVec 3) (d a : BitVec 5) (i : BitVec 13) (s : State) : Res := aluR st d a (fun x => x ||| simm i) s

/-- xori (R76). -/
def execXori (st : BitVec 3) (d a : BitVec 5) (i : BitVec 13) (s : State) : Res := aluR st d a (fun x => x ^^^ simm i) s

/-- slti (R76). -/
def execSlti (st : BitVec 3) (d a : BitVec 5) (i : BitVec 12) (s : State) : Res := aluR st d a (fun x => xBool (ltS x (simm i))) s

/-- sltin (R76). -/
def execSltin (st : BitVec 3) (d a : BitVec 5) (i : BitVec 12) (s : State) : Res := aluR st d a (fun x => xBool (ltN x (zimm i))) s

/-- slli (R76). -/
def execSlli (st : BitVec 3) (d a : BitVec 5) (h : BitVec 6) (s : State) : Res := aluR st d a (fun x => x <<< h.toNat) s

/-- srli (R76). -/
def execSrli (st : BitVec 3) (d a : BitVec 5) (h : BitVec 6) (s : State) : Res := aluR st d a (fun x => x >>> h.toNat) s

/-- srai (R76). -/
def execSrai (st : BitVec 3) (d a : BitVec 5) (h : BitVec 6) (s : State) : Res := aluR st d a (fun x => x.sshiftRight h.toNat) s

/-- li (R77). -/
def execLi (st : BitVec 3) (d : BitVec 5) (i : BitVec 17) (s : State) : Res := computeX st d [] 1 true (fun _ => simm i) s

/-- lih: it reads its own destination (R77). -/
def execLih (st : BitVec 3) (d : BitVec 5) (i : BitVec 16) (s : State) : Res :=
  aluR st d d (fun x => (x <<< 16) ||| zimm i) s

/-- mul (R78). -/
def execMul (st : BitVec 3) (d a b : BitVec 5) (s : State) : Res := mulRR st d a b (fun x y => x * y) s

/-- mulh (R78). -/
def execMulh (st : BitVec 3) (d a b : BitVec 5) (s : State) : Res := mulRR st d a b (fun x y => BitVec.ofInt 64 (x.toInt * y.toInt / 2 ^ 64)) s

/-- mulhn (R78). -/
def execMulhn (st : BitVec 3) (d a b : BitVec 5) (s : State) : Res := mulRR st d a b (fun x y => xOf (x.toNat * y.toNat / 2 ^ 64)) s

/-- mulhsn (R78). -/
def execMulhsn (st : BitVec 3) (d a b : BitVec 5) (s : State) : Res := mulRR st d a b (fun x y => BitVec.ofInt 64 (x.toInt * (y.toNat : Int) / 2 ^ 64)) s

/-- div (R78). -/
def execDiv (st : BitVec 3) (d a b : BitVec 5) (s : State) : Res := divRR st d a b false divS s

/-- divn (R78). -/
def execDivn (st : BitVec 3) (d a b : BitVec 5) (s : State) : Res := divRR st d a b true divN s

/-- rem (R78). -/
def execRem (st : BitVec 3) (d a b : BitVec 5) (s : State) : Res := divRR st d a b false remS s

/-- remn (R78). -/
def execRemn (st : BitVec 3) (d a b : BitVec 5) (s : State) : Res := divRR st d a b true remN s

end Sys2Proof.Machine
end

