-- ==== Sys2Proof/Machine/VConfig.lean ====
section
/-! DEFINITION. Vector configuration (R99, R100), stream bindings (R114 to R117) and vector prefetch (R118). -/

namespace Sys2Proof.Machine

/-! ### setvl and setvlm -/

/-- The first cycle by which every earlier vector, matrix and Dawn instruction of the hart has completed (R100). -/
def State.vecBusy (s : State) : Nat :=
  let regs := s.me.hart.pend.filterMap fun p => match p.before with | .x _ _ => none | _ => some p.ready
  max (regs.foldl max 0) s.me.vec.busyUntil

/-- The lane groups that a SETVL-family instruction holds afterwards (R23): the lowest free ones of the partition's share. -/
def State.newGroups (s : State) (req : Nat) : List Nat :=
  let held := s.heldByOthers s.me.core
  ((s.shareOf s.pid s.me.core).filter (fun g => decide (g ∉ held))).take req

/-- The vector state with the new grant: the v registers are cleared where it changes, bound registers keeping their binding
(R23, R100, R116). -/
def State.setGrant (groups : List Nat) (s : State) : State :=
  if groups.length = s.me.vec.grant then s
  else (s.dropFife s.me.core s.me.idx).modVec fun v =>
    { v.regrant groups with vdirty := v.vdirty ||| 0xFFFFFFFF }

/-- A configuration written by a SETVL-family instruction (R99): vl is the number of elements asked for, within VLMAXE and
rounded down to whole blocks; an illegal configuration gives 0. -/
def Vec.configure (vt : BitVec 5) (ask : Option Nat) (v : Vec) : Vec :=
  let v1 := { v with bl := vt.extractLsb' 3 2, sew := vt.extractLsb' 0 3, vill := false, vdirty := v.vdirty ||| xOf (2 ^ 44) }
  let want := match ask with
    | some n => min n v1.vlmaxe
    | none => v1.vlmaxe
  let b := v1.block
  let vl := if b = 0 then want else want - want % b
  let v2 := { v1 with vl := xOf vl }
  if v2.illegal then { v2 with vl := 0, vill := true } else v2

/-- setvl or setvlm (R99, R100). -/
def setvlOp (st : BitVec 3) (d a vt : BitVec 5) (isM : Bool) (s : State) : Res :=
  runScalar { st := st, srcs := [.x a], dst := .x d, first := true, config := true } (do
    let t ← get
    let n := (t.rX a).toNat
    if isM then set (t.modHart fun h => { h with lanesReq := BitVec.ofNat 5 (min n 16) })
    let u ← get
    let req := u.me.hart.lanesReq.toNat
    let groups := u.newGroups req
    require (!(groups.isEmpty && decide (0 < req))) 0x181 (xOf req)
    if groups.length ≠ u.me.vec.grant && decide (u.cycle < u.vecBusy) then throw (.unit u.vecBusy)
    modify fun w => (w.setGrant groups).modVec (Vec.configure vt (if isM then none else some n))
    let w ← get
    putX d w.me.vec.vl false 1 true
    pure (t.pc + 4)) s

/-- setvl (R99). -/
def execSetvl (st : BitVec 3) (d a v : BitVec 5) (s : State) : Res := setvlOp st d a v false s

/-- setvlm (R99). -/
def execSetvlm (st : BitVec 3) (d a v : BitVec 5) (s : State) : Res := setvlOp st d a v true s

/-! ### Stream bindings -/

/-- The record check of R115 after the record has been read. -/
def validStream (ws : List X) : Bool :=
  let data := ws.getD 0 0
  let scale := ws.getD 1 0
  let ctl := ws.getD 3 0
  let stype := fieldOf ctl 0 5
  let bl := fieldOf ctl 5 2
  let dec := bitAt ctl 7
  fieldOf ctl 14 50 == 0 && (ws.drop 4).all (fun w => w == 0) && fieldOf ctl 8 2 != 3 && decide (stype < 18) &&
    !(blockOnly stype && bl == 0) && !(bl != 0 && !scaledCode stype) && !(dec && (bl == 0 || scale == 0)) &&
    data.toNat % max (tyBits stype / 8) 1 == 0 && scale.toNat % 4 == 0

/-- The binding slots of a core in use (R114). -/
def State.bindingsUsed (s : State) : Nat :=
  ((s.slots.filter (fun o => o.core == s.me.core)).map (fun o => o.vec.streams.length)).sum

/-- A binding put in place of any earlier one of its register (R115). -/
def Vec.bind (b : Stream) (v : Vec) : Vec :=
  { v with streams := v.streams.filter (fun o => o.reg != b.reg) ++ [b],
           vdirty := v.vdirty ||| xOf (2 ^ 44 + 2 ^ b.reg.toNat) }

/-- vbind (R115). It processes no elements: a vector predicate other than that of pfx k0 with polarity 1 does not change it (R59; DEDUCED,
log entry 43). -/
def execVbind (st : BitVec 3) (d a : BitVec 5) (s : State) : Res :=
  runVector { st := st, rs := [.x a], kf := false, anyEs := true } (do
    let t ← get
    let va := t.rX a
    require (va.toNat % 64 == 0) 0x0C0 va
    let ws ← readWords va 8
    require (validStream ws) 0x186 va
    let u ← get
    require ((u.me.vec.stream? d).isSome || decide (u.bindingsUsed < 4)) 0x184 (xOf d.toNat)
    let b : Stream :=
      { reg := d, data := ws.getD 0 0, scale := ws.getD 1 0, count := ws.getD 2 0, bounded := ws.getD 2 0 != 0,
        ctl := ws.getD 3 0, ahead := [] }
    modify fun w => (w.inFlight (.v d) (w.cycle + 30) false).modVec (Vec.bind b)) s

/-- The words of a binding's record (Table 5). -/
def Stream.words (b : Stream) : List X := [b.data, b.scale, if b.bounded then b.count else 0, b.ctl, 0, 0, 0, 0]

/-- Plain 64-bit words stored from an address on by the vector unit (R101, R115); the last argument of each access's frame is
the number of words left. -/
def storeWords (va : X) (hint : Nat) : List X → M Unit
  | [] => pure ()
  | w :: rest => do
    let p ← access .otherWrite va 0 1
    liftRead (fun t => onOk (fun u => u.touchHome p 8 true hint u.hartAgent) (t.writeRaw p va 8 w.toNat 0 t.hartAgent))
    modify (State.noteStoreAt va p.pa 8)
    storeWords (va + 8) hint rest

/-- vunbind (R115): the record is written where the base is not x0, and the register then reads as zeros. It processes no elements: a vector
predicate other than that of pfx k0 with polarity 1 does not change it (R59; DEDUCED, log entry 43). -/
def execVunbind (st : BitVec 3) (d a : BitVec 5) (s : State) : Res :=
  runVector { st := st, rs := [.x a], kf := false, anyEs := true } (do
    let t ← get
    match t.me.vec.stream? d with
    | none => pure ()
    | some b =>
      if a ≠ 0 then
        require ((t.rX a).toNat % 64 == 0) 0x0C0 (t.rX a)
        storeWords (t.rX a) 0 b.words
      modify fun w => (w.modVec fun v =>
        { v with streams := v.streams.filter (fun o => o.reg != d), vdirty := v.vdirty ||| xOf (2 ^ 44) }).wVat d 0 30 false) s

/-- The next n bytes of a strip that may be read ahead: from the first address that is not captured. -/
def Stream.nextAhead (b : Stream) : X :=
  b.data + xOf (((List.range (b.ahead.length + 1)).find? (fun j => b.ahead.all (fun c => c.1 != (b.data + xOf j).toNat))).getD 0)

/-- READ_AHEAD: the next element of a binding is read before its consumption, within depth strips of the current vl (R117). A
read that would fault, wait or meet a watermark is not made. -/
def execReadAhead (core slot : Nat) (v : BitVec 5) (s : State) : Res :=
  if s.slots.any (fun o => o.core == core && o.idx == slot && o.live && o.vec.owner == o.hart.hid &&
      o.vec.ownerPid == o.hart.pid) then
    let t := s.focus core slot
    match t.me.vec.stream? v with
    | none => .next s
    | some b =>
      let va := b.nextAhead
      let strips := fieldOf b.ctl 10 4 * (t.me.vec.vl.toNat * b.width / 8)
      if decide ((va - b.data).toNat + b.bytes ≤ strips) && (t.marksOn va b.bytes).isEmpty then
        match t.locate .vload va with
        | (.ok p, t1) =>
          match t1.readRaw p va b.bytes t1.hartAgent with
          | (.ok (x, _), t2) =>
            let cells := (leBytes b.bytes x).zipIdx.map fun c => ((va + xOf c.2).toNat, c.1)
            .next ((t2.touchHome p b.bytes false (fieldOf b.ctl 8 2) t2.hartAgent).modVec fun w =>
              { w with streams := w.streams.map fun o => if o.reg = v then { o with ahead := o.ahead ++ cells } else o })
          | (.error _, t2) => .next t2
        | (.error _, _) => .next s
      else .next s
  else .next s

/-! ### Vector prefetch -/

/-- The lines of some elements prefetched, at the addresses that a function gives (R85, R118): an address that cannot be used
or is misaligned is passed over. An instruction whose page tables are waited for goes on from the element that waits. -/
def prefetchElems (addr : Nat → X) (tier size : Nat) : List Nat → M Unit
  | [] => pure ()
  | i :: rest => do
    if (addr i).toNat % size = 0 then
      setEs i
      sendPrefetch .vload (addr i) (if tier = 0 then 1 else tier) none
    prefetchElems addr tier size rest

/-- vpref or vprefs (R118): kf neither restricts it nor is cleared by it. Packed elements are not accepted (R101). -/
def vprefOp (st : BitVec 3) (a : BitVec 5) (rs : List Reg) (k : BitVec 3) (tier : Nat) (stride : State → Nat → X) (s : State) : Res :=
  runVector { st := st, k := k, rs := .x a :: rs, kf := false, shape := decide (8 ≤ s.me.vec.width) } (do
    let t ← get
    prefetchElems (fun i => t.rX a + stride t i) tier (max (t.me.vec.width / 8) 1) (t.enabled k t.es)) s

/-- vpref (R118). -/
def execVpref (st : BitVec 3) (a : BitVec 5) (k : BitVec 3) (t : BitVec 2) (s : State) : Res :=
  vprefOp st a [] k t.toNat (fun u i => xOf (i * u.me.vec.width / 8)) s

/-- vprefs (R118). -/
def execVprefs (st : BitVec 3) (a b : BitVec 5) (k : BitVec 3) (t : BitVec 2) (s : State) : Res :=
  vprefOp st a [.x b] k t.toNat (fun u i => xOf i * u.rX b) s

/-- The latency of a load of some addresses (Table 7 of 05_vector_memory_instructions): `base` cycles, what the farthest of its lines adds,
once, as row misses overlap (the worked read of 16_reliability), and 8 for each element of an ordered access. -/
def State.vloadLatency (s : State) (base hint : Nat) (l : List Phys) : Nat :=
  base + (l.map (fun p => p.delay + s.farther p)).foldl max 0 + (if hint = 3 then 8 * l.length else 0)

end Sys2Proof.Machine
end

