-- ==== Sys2Proof/Machine/VFp.lean ====
section
/-! DEFINITION. Vector floating point, major 0x27 (R126 to R128), and fused multiply-add, major 0x28 (R129). -/

namespace Sys2Proof.Machine

/-- The format of a vector floating-point instruction: alt selects bfloat16 at width 16 and nothing else (R66, R126). -/
def vecFmt (l : BitVec 1) (w : Nat) : Option Fmt :=
  match w with
  | 16 => some (if l = 1 then .bf16 else .f16)
  | 32 => if l = 1 then none else some .f32
  | 64 => if l = 1 then none else some .f64
  | _ => none

/-- A vector floating-point instruction of majors 0x27 and 0x28: f gives the result in a format and rounding mode. -/
def vFp (op : Nat) (st : BitVec 3) (d : BitVec 5) (srcs : List (BitVec 5)) (old : Bool) (k : BitVec 3) (l : BitVec 1)
    (lat : Nat → Nat) (fixed : Bool) (f : Fmt → Nat → List Nat → Nat × Flags) (s : State) : Res :=
  vArith { op := op + 16 * l.toNat, st := st, d := d, k := k, srcs := srcs, old := old,
           shape := (vecFmt l s.me.vec.width).isSome, lat := lat, fixed := fixed }
    (fun t w vs => match vecFmt l w with
      | some g => f g t.me.hart.rm vs
      | none => (0, 0)) s

/-- Operand i of a list, decoded. -/
def Fmt.arg (f : Fmt) (l : List Nat) (i : Nat) : FV := f.decode (l.getD i 0)

/-- A with the sign bit that a function makes of the signs of A and B (R126). -/
def Fmt.withSign (f : Fmt) (l : List Nat) (g : Bool → Bool → Bool) : Nat :=
  let a := l.getD 0 0
  let top := 2 ^ (f.bits - 1)
  a % top + b2n (g (a / top % 2 == 1) (l.getD 1 0 / top % 2 == 1)) * top

/-- vfadd (R126). -/
def execVfadd (st : BitVec 3) (d a b : BitVec 5) (k : BitVec 3) (l : BitVec 1) (s : State) : Res :=
  vFp 0x2700 st d [a, b] false k l (fun _ => 5) true (fun g m v => g.add m (g.arg v 0) (g.arg v 1)) s

/-- vfsub (R126). -/
def execVfsub (st : BitVec 3) (d a b : BitVec 5) (k : BitVec 3) (l : BitVec 1) (s : State) : Res :=
  vFp 0x2701 st d [a, b] false k l (fun _ => 5) true (fun g m v => g.add m (g.arg v 0) (g.arg v 1).negate) s

/-- vfmul (R126). -/
def execVfmul (st : BitVec 3) (d a b : BitVec 5) (k : BitVec 3) (l : BitVec 1) (s : State) : Res :=
  vFp 0x2702 st d [a, b] false k l (fun _ => 5) true (fun g m v => g.mulTo m (g.arg v 0) (g.arg v 1)) s

/-- vfdiv (R126). -/
def execVfdiv (st : BitVec 3) (d a b : BitVec 5) (k : BitVec 3) (l : BitVec 1) (s : State) : Res :=
  vFp 0x2703 st d [a, b] false k l (fun n => 12 + 6 * n) false (fun g m v => g.div m (g.arg v 0) (g.arg v 1)) s

/-- vfmin (R126). -/
def execVfmin (st : BitVec 3) (d a b : BitVec 5) (k : BitVec 3) (l : BitVec 1) (s : State) : Res :=
  vFp 0x2705 st d [a, b] false k l (fun _ => 5) true (fun g _ v => g.minMax false (v.getD 0 0) (v.getD 1 0)) s

/-- vfmax (R126). -/
def execVfmax (st : BitVec 3) (d a b : BitVec 5) (k : BitVec 3) (l : BitVec 1) (s : State) : Res :=
  vFp 0x2706 st d [a, b] false k l (fun _ => 5) true (fun g _ v => g.minMax true (v.getD 0 0) (v.getD 1 0)) s

/-- vfsgnj (R126). -/
def execVfsgnj (st : BitVec 3) (d a b : BitVec 5) (k : BitVec 3) (l : BitVec 1) (s : State) : Res :=
  vFp 0x2707 st d [a, b] false k l (fun _ => 5) true (fun g _ v => (g.withSign v (fun _ b => b), 0)) s

/-- vfsgnjn (R126). -/
def execVfsgnjn (st : BitVec 3) (d a b : BitVec 5) (k : BitVec 3) (l : BitVec 1) (s : State) : Res :=
  vFp 0x2708 st d [a, b] false k l (fun _ => 5) true (fun g _ v => (g.withSign v (fun _ b => !b), 0)) s

/-- vfsgnjx (R126). -/
def execVfsgnjx (st : BitVec 3) (d a b : BitVec 5) (k : BitVec 3) (l : BitVec 1) (s : State) : Res :=
  vFp 0x2709 st d [a, b] false k l (fun _ => 5) true (fun g _ v => (g.withSign v (fun a b => Bool.xor a b), 0)) s

/-- vfsqrt (R126). -/
def execVfsqrt (st : BitVec 3) (d a : BitVec 5) (k : BitVec 3) (l : BitVec 1) (s : State) : Res :=
  vFp 0x2704 st d [a] false k l (fun n => 12 + 6 * n) false (fun g m v => g.sqrt m (g.arg v 0)) s

/-- vfexp2 (R127). -/
def execVfexp2 (st : BitVec 3) (d a : BitVec 5) (k : BitVec 3) (l : BitVec 1) (s : State) : Res :=
  vFp 0x270A st d [a] false k l (fun n => 12 + 4 * n) false (fun g m v => g.exp2 m (g.arg v 0)) s

/-- vflog2 (R128). -/
def execVflog2 (st : BitVec 3) (d a : BitVec 5) (k : BitVec 3) (l : BitVec 1) (s : State) : Res :=
  vFp 0x270B st d [a] false k l (fun n => 12 + 4 * n) false (fun g _ v => g.log2 (g.arg v 0)) s

/-- vfrece (R128). -/
def execVfrece (st : BitVec 3) (d a : BitVec 5) (k : BitVec 3) (l : BitVec 1) (s : State) : Res :=
  vFp 0x270C st d [a] false k l (fun _ => 5) true (fun g _ v => g.recip (g.arg v 0)) s

/-- vfrsqe (R128). -/
def execVfrsqe (st : BitVec 3) (d a : BitVec 5) (k : BitVec 3) (l : BitVec 1) (s : State) : Res :=
  vFp 0x270D st d [a] false k l (fun _ => 5) true (fun g _ v => g.rsqrt (g.arg v 0)) s

/-- vfkind (R126). -/
def execVfkind (st : BitVec 3) (d a : BitVec 5) (k : BitVec 3) (l : BitVec 1) (s : State) : Res :=
  vFp 0x270E st d [a] false k l (fun _ => 5) true (fun g _ v => (g.kind (v.getD 0 0), 0)) s

/-- vfma (R129). -/
def execVfma (st : BitVec 3) (d a b : BitVec 5) (k : BitVec 3) (l : BitVec 1) (s : State) : Res :=
  vFp 0x2800 st d [a, b] true k l (fun _ => 6) true (fun g m v => g.fma m (g.arg v 0) (g.arg v 1) (g.arg v 2)) s

/-- vfms (R129). -/
def execVfms (st : BitVec 3) (d a b : BitVec 5) (k : BitVec 3) (l : BitVec 1) (s : State) : Res :=
  vFp 0x2801 st d [a, b] true k l (fun _ => 6) true (fun g m v => g.fma m (g.arg v 0) (g.arg v 1) (g.arg v 2).negate) s

/-- vfnma (R129). -/
def execVfnma (st : BitVec 3) (d a b : BitVec 5) (k : BitVec 3) (l : BitVec 1) (s : State) : Res :=
  vFp 0x2802 st d [a, b] true k l (fun _ => 6) true (fun g m v => g.fma m (g.arg v 0).negate (g.arg v 1) (g.arg v 2).negate) s

/-- vfnms (R129). -/
def execVfnms (st : BitVec 3) (d a b : BitVec 5) (k : BitVec 3) (l : BitVec 1) (s : State) : Res :=
  vFp 0x2803 st d [a, b] true k l (fun _ => 6) true (fun g m v => g.fma m (g.arg v 0).negate (g.arg v 1) (g.arg v 2)) s

/-- vmac or vnmsac: integers modulo 2^w (R129). -/
def vMacOp (op : Nat) (st : BitVec 3) (d a b : BitVec 5) (k : BitVec 3) (neg : Bool) (s : State) : Res :=
  vArith { op := op, st := st, d := d, k := k, srcs := [a, b], old := true, shape := decide (8 ≤ s.me.vec.width),
           lat := fun _ => 6, fixed := true }
    (fun _ w v =>
      let p := v.getD 0 0 * v.getD 1 0
      ((v.getD 2 0 + (if neg then 2 ^ (2 * w) - p else p)) % 2 ^ w, 0)) s

/-- vmac (R129). -/
def execVmac (st : BitVec 3) (d a b : BitVec 5) (k : BitVec 3) (s : State) : Res := vMacOp 0x2804 st d a b k false s

/-- vnmsac (R129). -/
def execVnmsac (st : BitVec 3) (d a b : BitVec 5) (k : BitVec 3) (s : State) : Res := vMacOp 0x2805 st d a b k true s

end Sys2Proof.Machine
end

