-- ==== Sys2Proof/Machine/VMem.lean ====
section
/-! DEFINITION. Element-wise vector loads and stores: unit-stride and strided (R104 to R106), lane-local (R107), gather and
scatter (R108, R109), with the rules of R101 to R103. -/

namespace Sys2Proof.Machine

/-! ### One element -/

/-- What the accesses of one vector instruction have in common. -/
structure VAccess where
  kind : Access
  /-- the address of element i -/
  va : X
  /-- bytes of the access, and element width and index for packed elements -/
  n : Nat
  width : Nat
  idx : Nat
  hint : Nat
  /-- the stride and the remaining count that a class 0x2 frame records (Table 2 of 14_traps_and_translation) -/
  stride : X
  remaining : Nat
  /-- a store that another element's store to the same location comes after (R105, R108) -/
  lost : Bool := false
deriving DecidableEq, Repr

/-- A load of one element: its value, with the translated address (R101, R214). -/
def loadElem (a : VAccess) : M (Nat × Phys) := do
  let p ← access a.kind a.va a.stride a.remaining
  awaitMarks a.va a.n
  let v ← readVec p a.va a.n a.hint
  pure (if a.width < 8 then v / 2 ^ (a.idx * a.width % 8) % 2 ^ a.width else v, p)

/-- A store of one element (R101): packed elements are merged into their byte. One that is lost leaves what the other element
stores. -/
def storeElem (a : VAccess) (v : Nat) : M Unit := do
  let p ← access a.kind a.va a.stride a.remaining
  let s ← get
  let sh := a.idx * a.width % 8
  let w := if a.width < 8 then (setField (memRead s.mem p.pa) sh a.width v).toNat else v
  if a.lost then pure ()
  else
    liftRead (fun t => onOk (fun u => u.touchHome p a.n true a.hint u.hartAgent) (t.writeRaw p a.va a.n w 0 t.hartAgent))
    modify (State.noteStoreAt a.va p.pa a.n)

/-- The elements of an unordered store whose location a lower element of it stores to as well, and which come before that element in
the order in which the store is performed: any one value remains (R105, R108; free choices, log entry 6). -/
def lostElems (use : Nat) (addr : Nat → X) (els : List Nat) : List Nat :=
  (els.foldl (fun (acc : List X × List Nat) i =>
    let a := addr i
    if a ∈ acc.1 then (acc.1, if Config.freeChoice use i % 2 = 1 then i :: acc.2 else acc.2) else (a :: acc.1, acc.2)) ([], [])).2

/-- A ticket drawn by an element of an access with h = 11 (R103, R237). -/
def drawTicket (hint : Nat) : M Unit :=
  if hint = 3 then modify (fun s => { s with tickets := s.tickets + 1 }) else pure ()

/-- The elements of a load in order: those read below the first that stops, with their translated addresses, and that stop. -/
def loadRun (f : Nat → VAccess) : List Nat → M (List (Nat × Nat × X × Phys) × ElemStop)
  | [] => pure ([], none)
  | i :: rest => do
    match ← observe (do trapPoint i; loadElem (f i)) with
    | .error e => pure ([], some (i, e))
    | .ok (v, p) =>
      drawTicket (f i).hint
      let (l, e) ← loadRun f rest
      pure ((i, v, (f i).va, p) :: l, e)

/-- The elements of a store in order, up to the first that stops. A bound data source is read element by element (R116). -/
def storeRun (f : Nat → VAccess) (src : BitVec 5) : List Nat → M ElemStop
  | [] => pure none
  | i :: rest => do
    let one : M Unit := do
      trapPoint i
      let (v, fl) ← srcElem src (f i).width i
      raiseFlags fl (xOf i)
      storeElem (f i) v
    match ← observe one with
    | .error e => pure (some (i, e))
    | .ok _ =>
      drawTicket (f i).hint
      storeRun f src rest

/-- Elements above the one at which a store stopped, of which each is stored or not, by a free choice (R247; log entry 6). -/
def storeMaybe (use : Nat) (f : Nat → VAccess) (src : BitVec 5) : List Nat → M Unit
  | [] => pure ()
  | i :: rest => do
    if Config.freeChoice use i % 2 = 1 then
      let s ← get
      match ← observe (do let (v, _) ← srcElem src (f i).width i; storeElem (f i) v) with
      | .error _ => set s
      | .ok _ => pure ()
    storeMaybe use f src rest

/-- The elements of a gather or scatter in order: what the ones that completed read, the ones whose access faults, and the element at
which it stops, with the rest, if any (R108): where it must wait, where it is interrupted (R287), or where `pre`, the reads of its
bound sources, traps (R116). An `ordered` one, with h = 11, stops at the first access that faults, and the elements above it are not
performed (R103, R237, R247; DEDUCED, log entry 58). -/
def faultRun {α : Type} (ordered : Bool) (pre : Nat → M α) (one : Nat → α → M (Nat × X × Phys)) :
    List Nat → M (List (Nat × Nat × X × Phys) × List (Nat × Trap) × Option (Stop × List Nat))
  | [] => pure ([], [], none)
  | i :: rest => do
    match ← observe (do trapPoint i; pre i) with
    | .error e => pure ([], [], some (e, i :: rest))
    | .ok x => do
      match ← observe (one i x) with
      | .ok r => do
        let (l, fs, w) ← faultRun ordered pre one rest
        pure ((i, r) :: l, fs, w)
      | .error (.trap t) =>
        if ordered then pure ([], [(i, t)], some (.trap t, rest))
        else do
          let (l, fs, w) ← faultRun ordered pre one rest
          pure (l, (i, t) :: fs, w)
      | .error e => pure ([], [], some (e, i :: rest))

/-! ### Addresses and checks -/

/-- The address of element i at a stride (R104). -/
def stridedAddr (base stride : X) (w i : Nat) : X := if w < 8 then base + xOf (i * w / 8) else base + xOf i * stride

/-- The lane-blocked address of element i (R107). -/
def laneAddr (base : X) (g w i : Nat) : X := base + xOf (i % g * 1024 + i / g * w / 8)

/-- The bytes of an element's access. -/
def elemBytes (w : Nat) : Nat := max (w / 8) 1

/-- Whether a physical address lies in the column of a lane group of a core (R107). -/
def inColumn (core group pa : Nat) : Bool :=
  (isDram pa || isScratch pa) && pa / 2 ^ 36 % 8 == stackOf core && pa / 2 ^ 14 % 8 == positionOf core && pa / 2 ^ 10 % 16 == group

/-- The column check of R107 over the active elements in order, up to the first whose translation faults; a walk that must wait is waited
for before any access. -/
def columnCheck (k : Access) (addr : Nat → X) (groups : List Nat) : List Nat → M Unit
  | [] => pure ()
  | i :: rest => do
    let s ← get
    match s.translate s.me.core s.pid s.me.hart.prv k (addr i) s.hartAgent with
    | (.error (.fault _), _) => pure ()
    | (.error (.busy pa), t) => do
      set t
      throw (.wait (.bank pa false))
    | (.ok p, t) => do
      set t
      require (inColumn s.me.core (groups.getD (i % groups.length) 0) p.pa) 0x0C2 (addr i)
      columnCheck k addr groups rest

/-! ### Reuse of loads (R257, R259) -/

/-- s as if no bank were held back, in which translations are asked about without a wait. -/
def State.unhindered (s : State) : State := { s with seq := [], locks := [], lateRefreshes := [], cycle := 48 }

/-- The physical address of a virtual one in a managed page that the hart may read. -/
def State.managedAt (s : State) (va : Nat) : Option Nat :=
  match (s.unhindered.translate s.me.core s.pid s.me.hart.prv .vload (xOf va) s.hartAgent).1 with
  | .ok p => if p.managed then some p.pa else none
  | .error _ => none

/-- The physical address at which n bytes from a virtual address begin, where every page of them is managed and the pages lie one behind the
other. -/
def State.managedRange (s : State) (va n : Nat) : Option Nat :=
  (s.managedAt va).filter fun pa =>
    (List.range ((va + n - 1) / 2 ^ 19 - va / 2 ^ 19)).all fun j =>
      let at_ := (va / 2 ^ 19 + j + 1) * 2 ^ 19
      s.managedAt at_ == some (pa + (at_ - va))

/-- Whether a range of n bytes at a virtual address lies whole in the body of one private object of the hart, of which no body has more than
2^24 words (R204, R259): the nearest header is the same for its first byte and for its last. -/
def State.privateRange (s : State) (va n : Nat) : Bool :=
  decide (n ≤ 2 ^ 27) && (s.managedRange va n).any fun pa =>
    match s.containing pa, s.containing (pa + n - 1) with
    | .ok (some (h, v)), .ok (some (k, _)) => h == k && fieldOf v 36 4 == 15 && fieldOf v 4 32 == s.hid
    | _, _ => false

/-- The header read that the class of a load of managed memory depends on (R259), where the load makes an entry: what it finds is met
as any reader meets it. -/
def State.seeClass (entered : Bool) (l : List (Nat × Nat × X × Phys)) (s : State) : State :=
  match l with
  | (_, _, _, p) :: _ => if entered && p.managed then (s.seeHeader p.pa s.hartAgent).2 else s
  | [] => s

/-- The load record of an execution, none where it makes no entry (R257, R259): the smallest interval of the bytes read, and its
class; unmanaged memory holds no object, whatever its tags say. -/
def State.loadRecordOf (s : State) (n : Nat) (isGather : Bool) (l : List (Nat × Nat × X × Phys)) : Option (Flags × Option LoadRecord) :=
  match l with
  | [] => some (0, none)
  | (_, _, va0, _) :: _ =>
    let vas := l.map (fun e => e.2.2.1.toNat)
    let lo := vas.foldl min va0.toNat
    let hi := vas.foldl max va0.toNat + n
    if l.any (fun e => e.2.2.2.plane || !(s.marksOn e.2.2.1 n).isEmpty) || (isGather && decide (2 ^ 21 < hi - lo)) then none
    else
      some (0, some { lo := lo, hi := hi, pages := (l.map (fun e => (e.2.2.1.toNat / 2 ^ 19, e.2.2.2.pa / 2 ^ 19))).dedup,
                      isPrivate := l.all (fun e => e.2.2.2.managed) && s.privateRange lo (hi - lo) })

/-- What a completed load ends (R103, R244, R260): one that a watermark covers, or one with h = 11, acquires. -/
def State.loadAcquire (n hint : Nat) (l : List (Nat × Nat × X × Phys)) (s : State) : State :=
  if hint = 3 || l.any (fun e => !(s.marksOn e.2.2.1 n).isEmpty) then s.acquire else s

/-! ### Unit-stride, strided and lane-local access -/

/-- vl trimmed by a fault-only-first load (R105). -/
def State.trimVl (vl : Nat) (s : State) : State :=
  s.modVec fun v => { v with vl := xOf vl, vdirty := v.vdirty ||| xOf (2 ^ 44) }

/-- What distinguishes the loads and stores of R104 and R107. -/
structure VForm where
  op : Nat
  st : BitVec 3
  d : BitVec 5
  a : BitVec 5
  k : BitVec 3
  hint : Nat
  /-- the x register of a stride -/
  stride : Option (BitVec 5)
  lane : Bool
deriving DecidableEq, Repr

/-- The stride in bytes of a form. -/
def VForm.strideOf (f : VForm) (s : State) : X :=
  match f.stride with
  | some b => s.rX b
  | none => xOf (elemBytes s.me.vec.width)

/-- es of a vector load when it was first issued. -/
def State.firstEs (s : State) : Nat := (s.me.hart.begun.map (fun b => b.1.toNat)).getD s.es

/-- The accesses of a form, by element. Packed elements of a lane are packed in the order that they have within that lane, so that the
elements that share a byte take its bits from the lowest up (R32, R107; DEDUCED, log entry 33). -/
def VForm.access (f : VForm) (s : State) (kind : Access) (i : Nat) : VAccess :=
  let w := s.me.vec.width
  let va := if f.lane then laneAddr (s.rX f.a) s.me.vec.grant w i else stridedAddr (s.rX f.a) (f.strideOf s) w i
  { kind := kind, va := va, n := elemBytes w, width := w, idx := if f.lane then i / s.me.vec.grant else i, hint := f.hint,
    stride := f.strideOf s,
    remaining := s.me.vec.vl.toNat - s.firstEs }

/-- The x registers that a form reads. -/
def VForm.regs (f : VForm) : List Reg := .x f.a :: f.stride.toList.map .x

/-- Whether a form accepts the element width: strided forms take no packed elements (R101). -/
def VForm.widthOk (f : VForm) (s : State) : Bool := f.stride.isNone || decide (8 ≤ s.me.vec.width)

/-- The alignment check of R104, with the address of the element at es as tval. -/
def VForm.aligned (f : VForm) (s : State) : M Unit :=
  let n := elemBytes s.me.vec.width
  require ((s.rX f.a).toNat % n == 0 && (f.strideOf s).toNat % n == 0) 0x0C0 (s.rX f.a + xOf s.es * f.strideOf s)

/-- A vector load that waits, or that is interrupted, begins (R105, R169; log entry 19): its es and what it found in its destination are kept,
once. -/
def State.beginLoad (d : BitVec 5) (s0 s : State) : State :=
  let c := (s0.copyV d).getD d
  s.modHart fun h => { h with begun := some (h.begun.getD (h.es, s0.me.vec.v[d.toNat], s0.me.vec.v[c.toNat])) }

/-- Elements from `lo` up to es of a load that waited, with what its destination held in them when it was first issued. -/
def State.unload (d : BitVec 5) (w lo : Nat) (s : State) : State :=
  match s.me.hart.begun with
  | none => s
  | some (_, old, oldCopy) =>
    let g := s.me.vec.grant
    let els := (List.range s.es).drop lo
    let back := fun (n : BitVec 5) (img : Img) (u : State) =>
      u.wVat n (setElems g w (els.map (fun j => (j, getElem g w img j))) u.me.vec.v[n.toNat]) 0 false
    match s.copyV d with
    | some c => back c oldCopy (back d old s)
    | none => back d old s

/-- The end of a fault-only-first load whose element i faults (R105): it traps at the es of its first issue, or it trims vl; elements
that it does not keep hold what they held. The answer is the number of elements that it keeps. -/
def faultFirst (s0 : State) (d : BitVec 5) (i : Nat) (t : Trap) : M Nat := do
  let b := s0.me.vec.block
  let kept := if b = 0 then i else i - i % b
  let es := s0.firstEs
  if i = es ∨ kept ≤ es then
    modify (State.unload d s0.me.vec.width es)
    setEs es
    throw (.trap t)
  else
    modify fun u => (u.unload d s0.me.vec.width kept).trimVl kept
    pure kept

/-- Whether a stop of a vector load keeps the elements read: an interruption (R287), or a wait for a bank (R169; log entry 19). -/
def Stop.keepsLoad (r : Stop) : Bool :=
  match r with
  | .pause _ => true
  | .wait (.bank _ _) => true
  | _ => false

/-- A load of R104 or R107. -/
def vloadOp (f : VForm) (base : Nat) (s : State) : Res :=
  runVector { st := f.st, k := f.k, rs := f.regs, dst := .v f.d, writes := [f.d], shape := f.widthOk s } (do
    let t ← get
    let w := t.me.vec.width
    let n := elemBytes w
    let q : ReuseReq :=
      { op := f.op * 4 + f.hint, srcs := [], dst := f.d, readsDst := false, xs := t.rX f.a :: f.stride.toList.map t.rX,
        k := f.k, barred := (t.actives f.k t.es).any fun i => !(t.marksOn (f.access t .vload i).va n).isEmpty }
    let run : M (Option (Flags × Option LoadRecord)) := do
      f.aligned t
      let els := t.actives f.k t.es
      if f.lane then columnCheck .vload (fun i => (f.access t .vload i).va) t.me.vec.groups els
      let (l, e) ← loadRun (f.access t .vload) els
      let held := e.filter (fun x => x.2.keepsLoad)
      let kept ← (match e with
        | none => pure t.me.vec.vl.toNat
        | some (i, .trap tr) => faultFirst t f.d i tr
        | some (i, r) => if r.keepsLoad then pure i else throw r)
      let got := l.filter (fun x => decide (x.1 < kept))
      let lat := t.vloadLatency (base + (if f.lane then 0 else t.me.vec.grant)) f.hint (got.map (fun x => x.2.2.2))
      if !got.isEmpty || held.isNone then putElems f.d w (got.map (fun x => (x.1, x.2.1))) lat false
      modify fun x => (x.loadAcquire n f.hint got).modHart (Hart.count 6 got.length)
      match held with
      | some (i, r) => do
        modify (State.beginLoad f.d t)
        setEs i
        throw r
      | none => pure ()
      if e.isSome || t.me.hart.begun.isSome then pure none
      else
        modify (State.seeClass (f.hint != 3 && (t.fifeKey q).isSome) got)
        pure (t.loadRecordOf n false got)
    if f.hint = 3 then
      let _ ← run
      pure ()
    else reusable q 2 false run) s

/-- A store of R104 or R107: it stops at the lowest element that faults, with the elements below performed (R105) and each above
stored or not, unless the access is ordered or the stop is a flag trap or a wait (R38, R228, R247). -/
def vstoreOp (f : VForm) (s : State) : Res :=
  runVector { st := f.st, k := f.k, vs := [f.d], rs := f.regs, shape := f.widthOk s } (do
    let t ← get
    f.aligned t
    let els := t.actives f.k t.es
    if f.lane then columnCheck .vstore (fun i => (f.access t .vstore i).va) t.me.vec.groups els
    let addr := fun i => (f.access t .vstore i).va
    let lost := if f.hint = 3 ∨ (f.strideOf t).toNat % 2 ^ 52 ≠ 0 then [] else lostElems t.fresh addr els
    modify fun u => { u with fresh := u.fresh + 1 }
    let one := fun i => { f.access t .vstore i with remaining := t.me.vec.vl.toNat - i, lost := decide (i ∈ lost) }
    match ← storeRun one f.d els with
    | none => modify (State.modHart (Hart.count 6 els.length))
    | some (i, r) => do
      modify (State.modHart (Hart.count 6 (els.filter (fun j => decide (j < i))).length))
      setEs i
      if f.hint ≠ 3 && r.isFault then
        let u ← get
        set { u with fresh := u.fresh + 1 }
        storeMaybe u.fresh one f.d (els.filter (fun j => decide (i < j)))
      throw (r.left (t.me.vec.vl.toNat - i))) s

/-- vld (R104). -/
def execVld (st : BitVec 3) (d a : BitVec 5) (k : BitVec 3) (h : BitVec 2) (s : State) : Res :=
  vloadOp { op := 0x2100, st := st, d := d, a := a, k := k, hint := h.toNat, stride := none, lane := false } 40 s

/-- vlds (R104). -/
def execVlds (st : BitVec 3) (d a b : BitVec 5) (k : BitVec 3) (h : BitVec 2) (s : State) : Res :=
  vloadOp { op := 0x2101, st := st, d := d, a := a, k := k, hint := h.toNat, stride := some b, lane := false } 40 s

/-- vldl (R107). -/
def execVldl (st : BitVec 3) (d a : BitVec 5) (k : BitVec 3) (h : BitVec 2) (s : State) : Res :=
  vloadOp { op := 0x2102, st := st, d := d, a := a, k := k, hint := h.toNat, stride := none, lane := true } 20 s

/-- vst (R104): d names the stored register. -/
def execVst (st : BitVec 3) (d a : BitVec 5) (k : BitVec 3) (h : BitVec 2) (s : State) : Res :=
  vstoreOp { op := 0x2200, st := st, d := d, a := a, k := k, hint := h.toNat, stride := none, lane := false } s

/-- vsts (R104). -/
def execVsts (st : BitVec 3) (d a b : BitVec 5) (k : BitVec 3) (h : BitVec 2) (s : State) : Res :=
  vstoreOp { op := 0x2201, st := st, d := d, a := a, k := k, hint := h.toNat, stride := some b, lane := false } s

/-- vstl (R107). -/
def execVstl (st : BitVec 3) (d a : BitVec 5) (k : BitVec 3) (h : BitVec 2) (s : State) : Res :=
  vstoreOp { op := 0x2202, st := st, d := d, a := a, k := k, hint := h.toNat, stride := none, lane := true } s

/-! ### Gather and scatter -/

/-- The fault mask in force (R19, R108). -/
def State.setFaultMask (els : List Nat) (s : State) : State :=
  (s.modHart fun h => { h.setStatus 24 1 1 with es := 0 }).modVec fun v =>
    { v with kf := setBits (els.map (fun i => (i, 1))) 0, vdirty := v.vdirty ||| xOf (2 ^ 44) }

/-- The trap of a gather or scatter whose fault set F has n members (R108, R109), of which some are known to fault: the cause and address of
its least member, n, and the number of distinct faulting pages (1 for cause 0x086, R366). -/
def faultTrap (n : Nat) (fs : List (Nat × Trap)) : Option Trap :=
  match fs with
  | [] => none
  | (_, t) :: _ =>
    if t.code / 64 = 2 then
      let pages := if t.code = 0x086 then 1 else ((fs.filter (fun f => f.2.code / 64 == 2)).map (fun f => f.2.tval.toNat / 2 ^ 19)).dedup.length
      some { t with info0 := 0, info1 := xOf (n % 2 ^ 32 * 2 ^ 32 + t.info1.toNat % 2 ^ 32 / 2 ^ 24 * 2 ^ 24 + min 15 pages * 2 ^ 20) }
    else some t

/-- How a gather or scatter that did not complete ends (R108, R116, R287): the elements not completed stay in the fault mask, but for a trap
of its bound sources with no fault below it, which leaves that element as es and counts the elements left. -/
def faultEnd (fs : List (Nat × Trap)) (r : Option (Stop × List Nat)) : M Unit := do
  let left := fs.map (fun f => f.1)
  let n := left.length + (match r with | some (.trap _, rest) => rest.length | _ => 0)
  match r, faultTrap n fs with
  | none, none => pure ()
  | none, some tr => do
    modify (State.setFaultMask left)
    throw (.trap tr)
  | some (.trap t, i :: _), none => do
    setEs i
    let s ← get
    throw (.trap (t.left (s.me.vec.vl.toNat - i)))
  | some (.trap _, rest), some tr => do
    modify (State.setFaultMask (left ++ rest))
    throw (.trap tr)
  | some (e, rest), _ => do
    modify (State.setFaultMask (left ++ rest))
    throw e

/-- The accesses of a gather or scatter, by element and index value (R108). -/
def indexAccess (t : State) (kind : Access) (a : BitVec 5) (hint i ix : Nat) : VAccess :=
  let w := t.me.vec.width
  { kind := kind, va := t.rX a + BitVec.ofInt 64 (sextNat w ix * (w / 8 : Nat)), n := w / 8, width := w, idx := i, hint := hint,
    stride := 0, remaining := 1 }

/-- Element i of each source of a gather or scatter, with the flags of their decoding raised together: a bound one is read as part of the
operation of element i, whose read faults come before its flags (R38, R116). -/
def indexElems (w i : Nat) (ns : List (BitVec 5)) : M (List Nat) := do
  let l ← reads ns
  raiseFlags (l.foldl (fun f e => f ||| e.2) 0) (xOf i)
  pure (l.map (fun e => e.1))
where
  /-- The elements with the flags of their decoding. -/
  reads : List (BitVec 5) → M (List (Nat × Flags))
    | [] => pure []
    | n :: rest => do
      let e ← srcElem n w i
      let l ← reads rest
      pure (e :: l)

/-- vldx (R108): an interruption leaves the elements that have not completed in the fault mask (R287), and so does a wait in the midst of
its elements, but for that on a watermark, which leaves the load as it was issued (R214). The elements completed acquire where a watermark covers them, whether or not others fault (R244). -/
def execVldx (st : BitVec 3) (d a b : BitVec 5) (k : BitVec 3) (h : BitVec 2) (s : State) : Res :=
  runVector { st := st, k := k, vs := [b], rs := [.x a], dst := .v d, writes := [d], shape := decide (8 ≤ s.me.vec.width) } (do
    let t ← get
    let w := t.me.vec.width
    let hint := h.toNat
    let els := t.actives k t.es
    let marked := els.any fun i =>
      !(t.marksOn (indexAccess t .gather a hint i (getElem t.me.vec.grant w (t.rV b) i)).va (w / 8)).isEmpty
    let q : ReuseReq :=
      { op := 0x2300 * 4 + hint, srcs := [b], dst := d, readsDst := false, xs := [t.rX a], k := k, barred := marked }
    let run : M (Option (Flags × Option LoadRecord)) := do
      require ((t.rX a).toNat % (w / 8) == 0) 0x0C0 (t.rX a)
      let (l, fs, r) ← faultRun (hint == 3) (fun i => indexElems w i [b]) (fun i ix => do
        let acc := indexAccess t .gather a hint i (ix.headD 0)
        let (v, p) ← loadElem acc
        drawTicket hint
        pure (v, acc.va, p)) els
      match r with
      | some (.wait (.watermark n c), _) => throw (.wait (.watermark n c))
      | _ => pure ()
      let lines := (l.map (fun x => x.2.2.2.pa / 128)).dedup.length
      if !l.isEmpty || (fs.isEmpty && r.isNone) then
        putElems d w (l.map (fun x => (x.1, x.2.1))) (t.vloadLatency (40 + lines) hint (l.map (fun x => x.2.2.2))) false
      modify fun x => (x.loadAcquire (w / 8) hint l).modHart (Hart.count 6 l.length)
      faultEnd fs r
      modify (State.seeClass (hint != 3 && (t.fifeKey q).isSome) l)
      pure (t.loadRecordOf (w / 8) true l)
    if hint = 3 then
      let _ ← run
      pure ()
    else reusable q 2 false run) s

/-- vstx (R108): d names the stored register. A wait in the midst of its elements leaves those not yet completed in the fault mask, as
an interruption does (R287). -/
def execVstx (st : BitVec 3) (d a b : BitVec 5) (k : BitVec 3) (h : BitVec 2) (s : State) : Res :=
  runVector { st := st, k := k, vs := [d, b], rs := [.x a], shape := decide (8 ≤ s.me.vec.width) } (do
    let t ← get
    let w := t.me.vec.width
    let hint := h.toNat
    require ((t.rX a).toNat % (w / 8) == 0) 0x0C0 (t.rX a)
    let els := t.actives k t.es
    let ix := els.zip ((← srcAll b w els).map (fun r => match r with | .ok (v, _) => v | .error _ => 0))
    let addr := fun i => (indexAccess t .scatter a hint i ((ix.lookup i).getD 0)).va
    let lost := if hint = 3 then [] else lostElems t.fresh addr els
    modify fun u => { u with fresh := u.fresh + 1 }
    let (l, fs, r) ← faultRun (hint == 3) (fun i => indexElems w i [d, b]) (fun i x => do
      let acc := { indexAccess t .scatter a hint i (x.getD 1 0) with lost := decide (i ∈ lost) }
      storeElem acc (x.headD 0)
      drawTicket hint
      pure (0, acc.va, { pa := 0, managed := false, plane := false, cached := false })) els
    modify (State.modHart (Hart.count 6 l.length))
    faultEnd fs r) s

end Sys2Proof.Machine
end

