-- ==== Sys2Proof/Machine/VMove.lean ====
section
/-! DEFINITION. Transformation (R134 to R137), masks and compares (R138 to R140), permutation (R141), reductions (R142) and moves
between registers (R143): majors 0x2A to 0x2E. -/

namespace Sys2Proof.Machine

/-! ### Conversion and transformation -/

/-- A conversion of vcvt (R134): to the source's own type it changes a signalling NaN only, so that the T2 code 0b10 is returned as it is (R33,
R36; DEDUCED, log entry 45). -/
def vecConvert (src dst mode raw : Nat) : Nat × Flags :=
  match tyOfCode src, tyOfCode dst with
  | some t, some u =>
    if src = dst then
      match t with
      | .flt f => if (f.decode raw).isSNaN then (f.nanBits, flagNV) else (raw, 0)
      | _ => (raw, 0)
    else
      let (r, fl) := convertTy t u mode false raw
      (r, match t with | .flt f => fl ||| snanFlag [f.decode raw] | _ => fl)
  | _, _ => (0, 0)

/-- vcvt (R134): t is the source type code and u the destination type code. -/
def execVcvt (st : BitVec 3) (d a u : BitVec 5) (k : BitVec 3) (t : BitVec 5) (s : State) : Res :=
  let ws := tyBits t.toNat
  let wd := tyBits u.toNat
  runVector { st := st, k := k, vs := [a], dst := .v d, writes := [d], shape := s.me.vec.width == max ws wd, wid := [(a, ws)] } (do
    let x ← get
    let run : M (Option (Flags × Option LoadRecord)) := do
      let fl ← elementwise (x.actives k x.es) (fun i => do
        let (raw, fl) ← srcElem a ws i
        let (r, g) := vecConvert t.toNat u.toNat x.me.hart.rm raw
        pure (r, fl ||| g)) (fun l => putElems d wd l 5 true)
      pure (some (fl, none))
    reusable { op := 0x2A0000 + t.toNat + 256 * u.toNat, srcs := [a], dst := d, readsDst := wd != s.me.vec.width, xs := [], k := k } 5 true run) s

/-- vunpk (R135): w is the source width code and g the sign bit. -/
def execVunpk (st : BitVec 3) (d a : BitVec 5) (w : BitVec 3) (g : BitVec 1) (k : BitVec 3) (s : State) : Res :=
  let ws := sewBits w.toNat
  runVector { st := st, k := k, vs := [a], dst := .v d, writes := [d],
              shape := decide (8 ≤ s.me.vec.width) && decide (w.toNat < s.me.vec.sew.toNat), wid := [(a, ws)] } (do
    let x ← get
    let wd := x.me.vec.width
    let run : M (Option (Flags × Option LoadRecord)) := do
      let fl ← elementwise (x.actives k x.es) (fun i => do
        let (raw, fl) ← srcElem a ws i
        pure (if g = 1 then ofIntBits wd (sextNat ws raw) else raw, fl)) (fun l => putElems d wd l 8 false)
      pure (some (fl, none))
    reusable { op := 0x2A1200 + w.toNat + 8 * g.toNat, srcs := [a], dst := d, readsDst := false, xs := [], k := k } 8 false run) s

/-- An entry of a table register (R136): of all of vb, whatever vl; beyond the strip of a bound table it is a free value (log
entries 6 and 20). -/
def tableEntry (b : BitVec 5) (w idx : Nat) : M Nat := do
  let s ← get
  if s.me.vec.vlmaxe ≤ idx then pure 0
  else
    match s.me.vec.stream? b with
    | none => pure (getElem s.me.vec.grant w (s.rV b) idx)
    | some st =>
      if idx < s.me.vec.vl.toNat then do
        let (v, _) ← stripElem st idx
        pure v
      else do
        set { s with fresh := s.fresh + 1 }
        pure ((Config.freeWord s.fresh).toNat % 2 ^ w)

/-- The flags of the decoding of element i of a table, which is read whole: they belong to the operation of element i (R37, R116). -/
def tableFlags (b : BitVec 5) (w i : Nat) : M Flags := do
  let (_, fl) ← srcElem b w i
  pure fl

/-- vlut (R136). -/
def execVlut (st : BitVec 3) (d a b : BitVec 5) (k : BitVec 3) (s : State) : Res :=
  runVector { st := st, k := k, vs := [a, b], dst := .v d, writes := [d] } (do
    let x ← get
    let w := x.me.vec.width
    let run : M (Option (Flags × Option LoadRecord)) := do
      let fl ← elementwise (x.actives k x.es) (fun i => do
        let (idx, fl) ← srcElem a w i
        let g ← tableFlags b w i
        let v ← tableEntry b w (idx % 2 ^ min w 8)
        pure (v, fl ||| g)) (fun l => putElems d w l 8 false)
      pure (some (fl, none))
    reusable { op := 0x2A13, srcs := [a, b], dst := d, readsDst := false, xs := [], k := k } 8 false run) s

/-- vexpand (R137). The read and the decoding of element i of a bound source belong to the operation of element i, which takes another
element of the strip (R37, R38, R116; log entry 20). -/
def execVexpand (st : BitVec 3) (d a : BitVec 5) (k : BitVec 3) (s : State) : Res :=
  runVector { st := st, k := k, vs := [a], dst := .v d, writes := [d], shape := decide (8 ≤ s.me.vec.width) } (do
    let x ← get
    let w := x.me.vec.width
    let all := x.actives k 0
    let run : M (Option (Flags × Option LoadRecord)) := do
      let src ← firmly (srcAll a w (List.range x.me.vec.vl.toNat))
      let fl ← elementwise (x.actives k x.es) (fun i => do
        let fl ← ownFlags i [src]
        let (v, _) ← pickSrc src (all.idxOf i)
        pure (v, fl)) (fun l => putElems d w l 8 false)
      pure (some (fl, none))
    reusable { op := 0x2A14, srcs := [a], dst := d, readsDst := false, xs := [], k := k } 8 false run) s

/-- vcompress (R137): whole-destination; its positions are not gated by the mask. -/
def execVcompress (st : BitVec 3) (d a : BitVec 5) (k : BitVec 3) (s : State) : Res :=
  runVector { st := st, k := k, vs := [a], dst := .v d, writes := [d], shape := decide (8 ≤ s.me.vec.width) } (do
    let x ← get
    let w := x.me.vec.width
    let els := x.actives k 0
    let run : M (Option (Flags × Option LoadRecord)) := wholeVector (do
      let l ← srcList a w els
      putElems d w (l.zipIdx.map (fun e => (e.2, e.1.2))) (8 + x.me.vec.grant) false
      modify (State.modHart (Hart.count 6 els.length))
      pure (some (0, none)))
    reusable { op := 0x2A15, srcs := [a], dst := d, readsDst := true, xs := [], k := k } 8 false run) s

/-! ### Permutation (R141) -/

/-- A permutation: `pick` gives, for element i, the source element that it takes: of va, of vb, or none, for 0; `skips` names the
elements that stay unchanged. All of a bound source is read; the read and the decoding of its element i are part of the operation of
element i, which traps as well where the element that it takes could not be read (R37, R38, R116; log entry 20). -/
def permOp (op : Nat) (st : BitVec 3) (d a : BitVec 5) (vb xb : Option (BitVec 5)) (k : BitVec 3) (usesB : Bool)
    (skips : State → Nat → Bool) (pick : State → Nat → Nat → Option (Bool × Nat)) (s : State) : Res :=
  let srcs := a :: vb.toList
  runVector { st := st, k := k, vs := srcs, rs := xb.toList.map .x, dst := .v d, writes := [d],
              shape := decide (8 ≤ s.me.vec.width) } (do
    let x ← get
    let w := x.me.vec.width
    let vl := x.me.vec.vl.toNat
    let lat := 8 + x.me.vec.grant
    let run : M (Option (Flags × Option LoadRecord)) := do
      let va ← firmly (srcAll a w (List.range vl))
      let vbs ← (match vb with
        | some b => firmly (srcAll b w (List.range vl))
        | none => pure [])
      let fl ← elementwise (x.actives k x.es) (fun i => do
        let fl ← ownFlags i [va, vbs]
        if skips x i then pure (0, fl)
        else
          let (ix, _) ← pickSrc vbs i
          match pick x i ix with
          | some (fromB, j) => do
            let (v, _) ← pickSrc (if fromB then vbs else va) j
            pure (v, fl)
          | none => pure (0, fl)) (fun l => putElems d w (l.filter (fun e => !skips x e.1)) lat false)
      pure (some (fl, none))
    reusable { op := op, srcs := srcs, dst := d, readsDst := usesB, xs := xb.toList.map x.rX, k := k } lat false
      run) s

/-- vperm (R141). -/
def execVperm (st : BitVec 3) (d a b : BitVec 5) (k : BitVec 3) (s : State) : Res :=
  permOp 0x2B00 st d a (some b) none k false (fun _ _ => false)
    (fun x _ ix => if ix < x.me.vec.vl.toNat then some (false, ix) else none) s

/-- vlift (R141): elements below x[b] are unchanged. -/
def execVlift (st : BitVec 3) (d a b : BitVec 5) (k : BitVec 3) (s : State) : Res :=
  permOp 0x2B01 st d a none (some b) k true (fun x i => decide (i < (x.rX b).toNat))
    (fun x i _ => some (false, i - (x.rX b).toNat)) s

/-- vdrop (R141). -/
def execVdrop (st : BitVec 3) (d a b : BitVec 5) (k : BitVec 3) (s : State) : Res :=
  permOp 0x2B02 st d a none (some b) k false (fun _ _ => false)
    (fun x i _ => if i + (x.rX b).toNat < x.me.vec.vl.toNat then some (false, i + (x.rX b).toNat) else none) s

/-- vbcast (R141). -/
def execVbcast (st : BitVec 3) (d a b : BitVec 5) (k : BitVec 3) (s : State) : Res :=
  permOp 0x2B03 st d a none (some b) k false (fun _ _ => false)
    (fun x _ _ => if (x.rX b).toNat < x.me.vec.vl.toNat then some (false, (x.rX b).toNat) else none) s

/-- vrev (R141). -/
def execVrev (st : BitVec 3) (d a : BitVec 5) (k : BitVec 3) (s : State) : Res :=
  permOp 0x2B04 st d a none none k false (fun _ _ => false) (fun x i _ => some (false, x.me.vec.vl.toNat - 1 - i)) s

/-- vzip (R141). -/
def execVzip (st : BitVec 3) (d a b : BitVec 5) (k : BitVec 3) (s : State) : Res :=
  permOp 0x2B05 st d a (some b) none k false (fun _ _ => false)
    (fun _ i _ => if i % 2 = 0 then some (false, i / 2) else some (true, (i - 1) / 2)) s

/-- vunzip (R141). -/
def execVunzip (st : BitVec 3) (d a b : BitVec 5) (k : BitVec 3) (s : State) : Res :=
  permOp 0x2B06 st d a (some b) none k false (fun _ _ => false)
    (fun x i _ =>
      let vl := x.me.vec.vl.toNat
      if 2 * i < vl then some (false, 2 * i) else some (true, 2 * i - vl)) s

/-! ### Reductions (R142) -/

/-- A reduction: all elements of a bound source are decoded, and the flags of that raised, before the first addition (R38 and R116 do not
order them; DEDUCED, log entry 59); then f combines the start value and the active elements, in index order, into the result with the flags of each
operation performed, in order. -/
def reduceOp (op : Nat) (st : BitVec 3) (d a b : BitVec 5) (k : BitVec 3) (ok : Bool) (lat : State → Nat → Nat)
    (f : State → Nat → List (Nat × Nat) → Nat × List Flags) (s : State) : Res :=
  runVector { st := st, k := k, vs := [a, b], dst := .v d, writes := [d], shape := ok } (do
    let x ← get
    let w := x.me.vec.width
    let els := x.actives k 0
    let n := lat x els.length
    let run : M (Option (Flags × Option LoadRecord)) := wholeVector (do
      let start ← srcWhole b w 0
      let l ← srcList a w els
      let (r, fls) := f x start l
      raiseEach fls
      putElems d w [(0, r)] n false
      modify (State.modHart (Hart.count 6 els.length))
      pure (some (fls.foldl (· ||| ·) 0, none)))
    reusable { op := op, srcs := [a, b], dst := d, readsDst := true, xs := [], k := k } n false run) s
where
  /-- The flags of several operations raised in order (R38). -/
  raiseEach : List Flags → M Unit
    | [] => pure ()
    | fl :: rest => do
      raiseFlags fl 0
      raiseEach rest

/-- An integer reduction: a fold over the active elements. -/
def intReduce (op : Nat) (st : BitVec 3) (d a b : BitVec 5) (k : BitVec 3) (f : Nat → Nat → Nat → Nat) (s : State) : Res :=
  reduceOp op st d a b k (decide (8 ≤ s.me.vec.width)) (fun _ _ => 16)
    (fun x start l => (l.foldl (fun acc e => f x.me.vec.width acc e.2 % 2 ^ x.me.vec.width) start, [])) s

/-- vrsum (R142). -/
def execVrsum (st : BitVec 3) (d a b : BitVec 5) (k : BitVec 3) (s : State) : Res :=
  intReduce 0x2C00 st d a b k (fun _ x y => x + y) s

/-- vrmin (R142). -/
def execVrmin (st : BitVec 3) (d a b : BitVec 5) (k : BitVec 3) (s : State) : Res :=
  intReduce 0x2C01 st d a b k (fun w x y => if sextNat w x ≤ sextNat w y then x else y) s

/-- vrmax (R142). -/
def execVrmax (st : BitVec 3) (d a b : BitVec 5) (k : BitVec 3) (s : State) : Res :=
  intReduce 0x2C02 st d a b k (fun w x y => if sextNat w x ≤ sextNat w y then y else x) s

/-- vrminn (R142). -/
def execVrminn (st : BitVec 3) (d a b : BitVec 5) (k : BitVec 3) (s : State) : Res :=
  intReduce 0x2C03 st d a b k (fun _ x y => min x y) s

/-- vrmaxn (R142). -/
def execVrmaxn (st : BitVec 3) (d a b : BitVec 5) (k : BitVec 3) (s : State) : Res :=
  intReduce 0x2C04 st d a b k (fun _ x y => max x y) s

/-- vrand (R142). -/
def execVrand (st : BitVec 3) (d a b : BitVec 5) (k : BitVec 3) (s : State) : Res :=
  intReduce 0x2C05 st d a b k (fun _ x y => x &&& y) s

/-- vrior (R142). -/
def execVrior (st : BitVec 3) (d a b : BitVec 5) (k : BitVec 3) (s : State) : Res :=
  intReduce 0x2C06 st d a b k (fun _ x y => x ||| y) s

/-- vrxor (R142). -/
def execVrxor (st : BitVec 3) (d a b : BitVec 5) (k : BitVec 3) (s : State) : Res :=
  intReduce 0x2C07 st d a b k (fun _ x y => x ^^^ y) s

/-- A floating-point reduction. -/
def fpReduce (op : Nat) (st : BitVec 3) (d a b : BitVec 5) (k : BitVec 3) (l : BitVec 1) (lat : State → Nat → Nat)
    (f : Fmt → Nat → State → Nat → List (Nat × Nat) → Nat × List Flags) (s : State) : Res :=
  reduceOp (op + 16 * l.toNat) st d a b k (vecFmt l s.me.vec.width).isSome lat
    (fun x start els => match vecFmt l x.me.vec.width with
      | some g => f g x.me.hart.rm x start els
      | none => (0, [])) s

/-- The ordered sum of R47. -/
def orderedSum (g : Fmt) (mode : Nat) : Nat → List (Nat × Nat) → Nat × List Flags
  | acc, [] => (acc, [])
  | acc, e :: rest =>
    let (r, fl) := g.add mode (g.decode acc) (g.decode e.2)
    let (t, fls) := orderedSum g mode r rest
    (t, fl :: fls)

/-- One level of the tree of R47: adjacent pairs combined, absent members passed over (R48). -/
def treeLevel (g : Fmt) (mode : Nat) : List (Option Nat) → List (Option Nat) × List Flags
  | x :: y :: rest =>
    let (l, fls) := treeLevel g mode rest
    match x, y with
    | some p, some q =>
      let (r, fl) := g.add mode (g.decode p) (g.decode q)
      (some r :: l, fl :: fls)
    | some p, none => (some p :: l, fls)
    | none, some q => (some q :: l, fls)
    | none, none => (none :: l, fls)
  | l => (l, [])

/-- The levels of the tree, from the leaves up: the additions of a level are performed from left to right, and a level before the next, which
decides which of several enabled flags traps (R38; DESIGN CHOICE, log entry 68). -/
def treeSum (g : Fmt) (mode : Nat) : Nat → List (Option Nat) → Option Nat × List Flags
  | 0, l => (l.headD none, [])
  | n + 1, l =>
    let (m, fls) := treeLevel g mode l
    let (r, more) := treeSum g mode n m
    (r, fls ++ more)

/-- The levels of a tree over indices 0 to P − 1 with P the smallest power of two that is at least vl (R47). -/
def treeLevels (vl : Nat) : Nat := if vl ≤ 1 then 0 else Nat.log2 (vl - 1) + 1

/-- vfrseq (R142). -/
def execVfrseq (st : BitVec 3) (d a b : BitVec 5) (k : BitVec 3) (l : BitVec 1) (s : State) : Res :=
  fpReduce 0x2C08 st d a b k l (fun _ n => 6 + 4 * n) (fun g m _ start els => orderedSum g m start els) s

/-- vfrpair (R142, R47, R48): the start value is combined last, as the left operand. -/
def execVfrpair (st : BitVec 3) (d a b : BitVec 5) (k : BitVec 3) (l : BitVec 1) (s : State) : Res :=
  fpReduce 0x2C09 st d a b k l (fun x _ => 9 + 5 * treeLevels x.me.vec.vl.toNat)
    (fun g m x start els =>
      let n := treeLevels x.me.vec.vl.toNat
      let (root, fls) := treeSum g m n ((List.range (2 ^ n)).map fun i => els.lookup i)
      match root with
      | some r =>
        let (t, fl) := g.add m (g.decode start) (g.decode r)
        (t, fls ++ [fl])
      | none => (start, fls)) s

/-- vfrmin or vfrmax (R142): the non-NaN values count, a signalling one raises NV, and NaNs alone give the canonical NaN. -/
def fpExtreme (op : Nat) (st : BitVec 3) (d a b : BitVec 5) (k : BitVec 3) (l : BitVec 1) (isMax : Bool) (s : State) : Res :=
  fpReduce op st d a b k l (fun _ _ => 16)
    (fun g _ _ start els =>
      els.foldl (fun (acc : Nat × List Flags) e =>
        let (r, fl) := g.minMax isMax acc.1 e.2
        (r, acc.2 ++ [fl])) (start, [])) s

/-- vfrmin (R142). -/
def execVfrmin (st : BitVec 3) (d a b : BitVec 5) (k : BitVec 3) (l : BitVec 1) (s : State) : Res :=
  fpExtreme 0x2C0A st d a b k l false s

/-- vfrmax (R142). -/
def execVfrmax (st : BitVec 3) (d a b : BitVec 5) (k : BitVec 3) (l : BitVec 1) (s : State) : Res :=
  fpExtreme 0x2C0B st d a b k l true s

/-! ### Compares and masks (R138, R139) -/

/-- A compare: element-wise into the bits of k[d]. -/
def compareOp (st d : BitVec 3) (a b : BitVec 5) (k : BitVec 3) (ok : Bool) (f : State → Nat → Nat → Nat → Bool × Flags)
    (s : State) : Res :=
  runVector { st := st, k := k, vs := [a, b], dst := .k d, shape := ok } (do
    let x ← get
    let w := x.me.vec.width
    let _ ← elementwise (x.actives k x.es) (fun i => do
      let (l, fl) ← srcElems w i [a, b]
      let (r, g) := f x w (l.getD 0 0) (l.getD 1 0)
      pure (b2n r, fl ||| g)) (fun l => putBits d l 3 true)) s

/-- An integer compare at widths 8 to 64. -/
def intCompare (st d : BitVec 3) (a b : BitVec 5) (k : BitVec 3) (f : Nat → Nat → Nat → Bool) (s : State) : Res :=
  compareOp st d a b k (decide (8 ≤ s.me.vec.width)) (fun _ w x y => (f w x y, 0)) s

/-- A floating-point compare. -/
def fpCompare (st d : BitVec 3) (a b : BitVec 5) (k : BitVec 3) (l : BitVec 1) (op : Nat) (s : State) : Res :=
  compareOp st d a b k (vecFmt l s.me.vec.width).isSome
    (fun _ w x y => match vecFmt l w with
      | some g => (g.decode x).compare op (g.decode y)
      | none => (false, 0)) s

/-- vmseq (R138). -/
def execVmseq (st d : BitVec 3) (a b : BitVec 5) (k : BitVec 3) (s : State) : Res :=
  intCompare st d a b k (fun _ x y => x == y) s

/-- vmsne (R138). -/
def execVmsne (st d : BitVec 3) (a b : BitVec 5) (k : BitVec 3) (s : State) : Res :=
  intCompare st d a b k (fun _ x y => x != y) s

/-- vmslt (R138). -/
def execVmslt (st d : BitVec 3) (a b : BitVec 5) (k : BitVec 3) (s : State) : Res :=
  intCompare st d a b k (fun w x y => decide (sextNat w x < sextNat w y)) s

/-- vmsle (R138). -/
def execVmsle (st d : BitVec 3) (a b : BitVec 5) (k : BitVec 3) (s : State) : Res :=
  intCompare st d a b k (fun w x y => decide (sextNat w x ≤ sextNat w y)) s

/-- vmsltn (R138). -/
def execVmsltn (st d : BitVec 3) (a b : BitVec 5) (k : BitVec 3) (s : State) : Res :=
  intCompare st d a b k (fun _ x y => decide (x < y)) s

/-- vmslen (R138). -/
def execVmslen (st d : BitVec 3) (a b : BitVec 5) (k : BitVec 3) (s : State) : Res :=
  intCompare st d a b k (fun _ x y => decide (x ≤ y)) s

/-- vmfeq (R138). -/
def execVmfeq (st d : BitVec 3) (a b : BitVec 5) (k : BitVec 3) (l : BitVec 1) (s : State) : Res := fpCompare st d a b k l 0 s

/-- vmflt (R138). -/
def execVmflt (st d : BitVec 3) (a b : BitVec 5) (k : BitVec 3) (l : BitVec 1) (s : State) : Res := fpCompare st d a b k l 1 s

/-- vmfle (R138). -/
def execVmfle (st d : BitVec 3) (a b : BitVec 5) (k : BitVec 3) (l : BitVec 1) (s : State) : Res := fpCompare st d a b k l 2 s

/-- Mask logic (R139): bits es to vl − 1 under the predicate alone. -/
def maskLogic (st d : BitVec 3) (srcs : List (BitVec 3)) (f : Bool → Bool → Bool) (s : State) : Res :=
  runVector { st := st, rs := srcs.map .k, dst := .k d, grant := false, kf := false } (do
    let x ← get
    let bit := fun (j i : Nat) => (x.rK (srcs.getD j 0)).getLsbD i
    let els := x.enabled 0 x.es
    putBits d (els.map (fun i => (i, b2n (f (bit 0 i) (bit 1 i))))) 3 true
    modify (State.modHart (Hart.count 6 els.length))) s

/-- kand (R139). -/
def execKand (st d a b : BitVec 3) (s : State) : Res := maskLogic st d [a, b] (fun x y => x && y) s

/-- kor (R139). -/
def execKor (st d a b : BitVec 3) (s : State) : Res := maskLogic st d [a, b] (fun x y => x || y) s

/-- kxor (R139). -/
def execKxor (st d a b : BitVec 3) (s : State) : Res := maskLogic st d [a, b] (fun x y => Bool.xor x y) s

/-- kandn (R139). -/
def execKandn (st d a b : BitVec 3) (s : State) : Res := maskLogic st d [a, b] (fun x y => x && !y) s

/-- knot (R139). -/
def execKnot (st d a : BitVec 3) (s : State) : Res := maskLogic st d [a] (fun x _ => !x) s

/-- kpopc or kfirst (R139): a whole-destination result over the active elements of the mask. -/
def maskCount (st : BitVec 3) (d : BitVec 5) (a k : BitVec 3) (f : List Nat → X) (s : State) : Res :=
  runVector { st := st, k := k, rs := [.k a], dst := .x d, grant := false } (do
    let x ← get
    let els := x.actives k 0
    putX d (f (els.filter (fun i => (x.rK a).getLsbD i))) false 3 true
    modify (State.modHart (Hart.count 6 els.length))) s

/-- kpopc (R139). -/
def execKpopc (st : BitVec 3) (d : BitVec 5) (a k : BitVec 3) (s : State) : Res :=
  maskCount st d a k (fun l => xOf l.length) s

/-- kfirst (R139). -/
def execKfirst (st : BitVec 3) (d : BitVec 5) (a k : BitVec 3) (s : State) : Res :=
  maskCount st d a k (fun l => match l with | i :: _ => xOf i | [] => BitVec.allOnes 64) s

/-- vsel (R140): k selects, and the predicate alone enables. Element i of both sources is read, whichever is selected, and the read and the
decoding of each belong to the operation of element i (R116; DEDUCED, log entry 20). -/
def execVsel (st : BitVec 3) (d a b : BitVec 5) (k : BitVec 3) (s : State) : Res :=
  runVector { st := st, k := k, vs := [a, b], dst := .v d, writes := [d], kf := false } (do
    let x ← get
    let w := x.me.vec.width
    let run : M (Option (Flags × Option LoadRecord)) := do
      let fl ← elementwise (x.enabled 0 x.es) (fun i => do
          let (l, fl) ← srcElems w i [a, b]
          pure (l.getD (if (x.rK k).getLsbD i then 0 else 1) 0, fl))
        (fun l => putElems d w l 3 true)
      pure (some (fl, none))
    reusable { op := 0x2D10, srcs := [a, b], dst := d, readsDst := false, xs := [], k := k, selects := true } 3 true run) s

/-! ### Moves (R143) -/

/-- vmv (R143). -/
def execVmv (st : BitVec 3) (d a : BitVec 5) (k : BitVec 3) (s : State) : Res :=
  vArith { op := 0x2E00, st := st, d := d, k := k, srcs := [a], shape := true, lat := fun _ => 3, fixed := true }
    (fun _ _ l => (l.getD 0 0, 0)) s

/-- vmvx (R143): it ignores es. It is no exception of R19, and R143 names no mask: while status.fm = 1 it reads element x[b] whatever kf holds, and its
completion clears kf and fm (DEDUCED, log entry 43); and a predicate other than that of pfx k0 with polarity 1 has no active element to take
away (R59; DEDUCED, log entry 43). -/
def execVmvx (st : BitVec 3) (d a b : BitVec 5) (s : State) : Res :=
  runVector { st := st, vs := [a], rs := [.x b], dst := .x d, anyEs := true } (wholeVector (do
    let x ← get
    let i := (x.rX b).toNat
    if i < x.me.vec.vl.toNat then
      let v ← srcWhole a x.me.vec.width i
      putX d (xOf v) false 6 false
      modify (State.modHart (Hart.count 6 1))
    else putX d 0 false 6 false)) s

/-- vins (R143): a is the value and b the element number. -/
def execVins (st : BitVec 3) (d a b : BitVec 5) (k : BitVec 3) (s : State) : Res :=
  runVector { st := st, k := k, rs := [.x a, .x b], dst := .v d, writes := [d] } (do
    let x ← get
    let i := (x.rX b).toNat
    let w := x.me.vec.width
    if decide (x.es ≤ i) && decide (i < x.me.vec.vl.toNat) && x.masked k i && x.kfOk i then
      putElems d w [(i, (x.rX a).toNat % 2 ^ w)] 6 false
      modify (State.modHart (Hart.count 6 1))
    else pure ()) s

/-- vmvvk (R143). -/
def execVmvvk (st d : BitVec 3) (a : BitVec 5) (k : BitVec 3) (s : State) : Res :=
  runVector { st := st, k := k, vs := [a], dst := .k d } (do
    let x ← get
    let w := x.me.vec.width
    let _ ← elementwise (x.actives k x.es) (fun i => do
      let (v, fl) ← srcElem a w i
      pure (b2n (v != 0), fl)) (fun l => putBits d l 8 false)) s

/-- vmvkv (R143): the generation of ka is part of the key (R256; log entry 21). -/
def execVmvkv (st : BitVec 3) (d : BitVec 5) (a k : BitVec 3) (s : State) : Res :=
  runVector { st := st, k := k, rs := [.k a], dst := .v d, writes := [d] } (do
    let x ← get
    let w := x.me.vec.width
    let run : M (Option (Flags × Option LoadRecord)) := do
      let fl ← elementwise (x.actives k x.es) (fun i => pure (b2n ((x.rK a).getLsbD i), 0)) (fun l => putElems d w l 8 false)
      pure (some (fl, none))
    reusable { op := 0x2E04, srcs := [], dst := d, readsDst := false, xs := [], k := k, ka := some a } 8 false run) s

end Sys2Proof.Machine
end

