-- ==== Sys2Proof/Machine/VMulti.lean ====
section
/-! DEFINITION. Multi-register transfers: vlm and vsm (R111), vlmn and vsmn with the named save area (R112, R113, R289). -/

namespace Sys2Proof.Machine

/-- A 64-bit word loaded by a transfer, with `left` words left (Table 2 of 14_traps_and_translation), and its translated address. -/
def transferLoad (va : X) (left hint : Nat) : M (Nat × Phys) := do
  let p ← access .vload va 8 left
  let v ← readVec p va 8 hint
  pure (v, p)

/-- A 64-bit word stored by a transfer, with `left` words left. -/
def transferStore (va : X) (v left hint : Nat) : M Unit := do
  let p ← access .vstore va 8 left
  liftRead (fun t => onOk (fun u => u.touchHome p 8 true hint u.hartAgent) (t.writeRaw p va 8 v 0 t.hartAgent))
  modify (State.noteStoreAt va p.pa 8)

/-- The words of an area that a transfer moves, in ascending order, from word e on: the words of a list of area word numbers. -/
def wordsFrom (e : Nat) (l : List Nat) : List Nat := l.filter (fun w => decide (e ≤ w))

/-- Words loaded in order, with `more` words left after the list: those below the first that stops, with their numbers and translated
addresses, and that stop. -/
def loadWords (base : X) (hint more : Nat) : List Nat → M (List (Nat × Nat × Phys) × ElemStop)
  | [] => pure ([], none)
  | e :: rest => do
    match ← observe (do trapPoint e; transferLoad (base + xOf (8 * e)) (rest.length + 1 + more) hint) with
    | .error r => pure ([], some (e, r))
    | .ok v =>
      let (l, r) ← loadWords base hint more rest
      pure ((e, v) :: l, r)

/-- Words stored in order, up to the first that stops. -/
def storeAll (base : X) (hint : Nat) (value : Nat → M Nat) : List Nat → M ElemStop
  | [] => pure none
  | e :: rest => do
    let one : M Unit := do
      trapPoint e
      let v ← value e
      transferStore (base + xOf (8 * e)) v (rest.length + 1) hint
    match ← observe one with
    | .error r => pure (some (e, r))
    | .ok _ => storeAll base hint value rest

/-- Stops at a word with es naming it (R111, R113). -/
def stopAtWord : ElemStop → M Unit
  | none => pure ()
  | some (e, r) => do
    setEs e
    throw r

/-- Word w of the image of v[n] as a transfer stores it. What a stream-bound register holds is lost at its vbind (R115) and is a
free value here (log entries 6 and 23). -/
def imageWord (n : BitVec 5) (w : Nat) : M Nat := do
  let s ← get
  if (s.me.vec.stream? n).isSome then
    set { s with fresh := s.fresh + 1 }
    pure (Config.freeWord s.fresh).toNat
  else pure (getElem s.me.vec.grant 64 (s.rV n) w)

/-- The registers n to n + count of a transfer (R111). -/
def regsFrom (d : BitVec 5) (n : BitVec 5) : List (BitVec 5) := (List.range (n.toNat + 1)).map fun r => d + BitVec.ofNat 5 r

/-- Words of the registers of a vlm put into their images: words [j × 16G, (j + 1) × 16G) belong to register d + j. -/
def putTransfer (d : BitVec 5) (lat : Nat) (l : List (Nat × Nat × Phys)) (regs : List (BitVec 5)) (s : State) : State :=
  let g := s.me.vec.grant
  regs.foldl (fun t r =>
    let j := (r - d).toNat
    let mine := (l.filter (fun e => e.1 / (16 * g) == j)).map fun e => (e.1 % (16 * g), e.2.1)
    if mine = [] then t else t.wVat r (setElems g 64 mine t.me.vec.v[r.toNat]) lat false) s

/-- vlm (R111). The operand field n holds the count less 1. Its words are not counted as elements (DESIGN CHOICE, log entry 44). -/
def execVlm (st : BitVec 3) (d a n : BitVec 5) (h : BitVec 2) (s : State) : Res :=
  runVector { st := st, rs := [.x a], writes := regsFrom d n, kf := false, anyEs := true, noPred := true } (do
    let t ← get
    require ((t.rX a).toNat % 8 == 0) 0x0C0 (t.rX a)
    let total := (n.toNat + 1) * 16 * t.me.vec.grant
    let (l, r) ← loadWords (t.rX a) h.toNat 0 (wordsFrom t.es (List.range total))
    modify (putTransfer d (t.vloadLatency (40 + 4 * (n.toNat + 1)) 0 (l.map (fun e => e.2.2))) l (regsFrom d n))
    stopAtWord r) s

/-- vsm (R111). Its words are not counted as elements (DESIGN CHOICE, log entry 44). -/
def execVsm (st : BitVec 3) (d a n : BitVec 5) (h : BitVec 2) (s : State) : Res :=
  runVector { st := st, rs := .x a :: (regsFrom d n).map .v, kf := false, anyEs := true, noPred := true } (do
    let t ← get
    require ((t.rX a).toNat % 8 == 0) 0x0C0 (t.rX a)
    let per := 16 * t.me.vec.grant
    stopAtWord (← storeAll (t.rX a) h.toNat (fun e => imageWord (d + BitVec.ofNat 5 (e / per)) (e % per))
      (wordsFrom t.es (List.range ((n.toNat + 1) * per))))) s

/-! ### The named save area (Table 4) -/

/-- The registers that a select word names, ascending (R112). -/
def selected (w : X) : List (BitVec 5) := ((List.range 32).filter (fun n => bitAt w n)).map (BitVec.ofNat 5)

/-- The distinct physical registers among the selected ones, in order of the lowest register mapped to each (R113). -/
def Vec.contents (v : Vec) (sel : List (BitVec 5)) : List Nat :=
  sel.foldl (fun l r => insertNew l (v.phys[r.toNat])) []

/-- The map entry of vn (Table 4). -/
def Vec.mapEntry (v : Vec) (sel : List (BitVec 5)) (n : Nat) : X :=
  let r : BitVec 5 := BitVec.ofNat 5 n
  if r ∈ sel then
    let idx := (v.contents sel).idxOf (v.phys[r.toNat])
    let name := match v.regName r with
      | some (crc, variant) => 2 ^ 50 + variant % 4 * 2 ^ 48 + crc.toNat
      | none => 0
    xOf (2 ^ 63 + idx * 2 ^ 58 + name)
  else 0

/-- The words of an area with D contents of C words: the header and map, then the contents; words 33 to 47 are skipped (R113). -/
def areaWords (d c : Nat) : List Nat := List.range 33 ++ (List.range (d * c)).map (fun w => 48 + w)

/-- vsmn (R112, R113). Its words are not counted as elements (DESIGN CHOICE, log entry 44). -/
def execVsmn (st : BitVec 3) (a b : BitVec 5) (h : BitVec 2) (s : State) : Res :=
  runVector { st := st, rs := [.x a, .x b] ++ (selected (s.rX b)).map .v, kf := false, anyEs := true, noPred := true } (do
    let t ← get
    require ((t.rX a).toNat % 128 == 0) 0x0C0 (t.rX a)
    let v := t.me.vec
    let sel := selected (t.rX b)
    let cs := v.contents sel
    let per := 16 * v.grant
    let value : Nat → M Nat := fun e =>
      if e = 0 then pure (v.grant * 256 + cs.length)
      else if e < 33 then pure (v.mapEntry sel (e - 1)).toNat
      else
        let id := cs.getD ((e - 48) / per) 0
        match sel.find? (fun r => v.phys[r.toNat] == id) with
        | some r => imageWord r ((e - 48) % per)
        | none => pure 0
    stopAtWord (← storeAll (t.rX a) h.toNat value (wordsFrom t.es (areaWords cs.length per)))) s

/-- Registers mapped onto one physical register that holds an image (R113, R251, R252). -/
def State.shareImage (regs : List (BitVec 5)) (img : Img) (lat : Nat) (s : State) : State :=
  match regs with
  | [] => s
  | r :: rest =>
    let t := s.wVat r img lat false
    rest.foldl (fun u q => (u.inFlight (.v q) (u.cycle + lat) false).mapV q (u.me.vec.phys[r.toNat]) img) t

/-- The contents of a vlmn, in order (R113, R289): each is loaded whole and then mapped; those that lie below es are mapped
already. A fault counts the words left in every content still to be loaded (R284). -/
def loadContents (base : X) (hint per lat : Nat) (map : Nat → List (BitVec 5)) : List Nat → M Unit
  | [] => pure ()
  | j :: rest => do
    let s0 ← get
    let (l, r) ← loadWords base hint (rest.length * per) ((List.range per).map (fun w => 48 + j * per + w))
    match r with
    | some (e, why) => do
      setEs e
      throw why
    | none => do
      let s ← get
      let img := setElems s.me.vec.grant 64 (l.map (fun x => (x.1 - 48 - j * per, x.2.1))) 0
      set (s.shareImage (map j) img (s0.vloadLatency lat 0 (l.map (fun e => e.2.2))))
      loadContents base hint per lat map rest

/-- vlmn (R112, R113, R289). A fault in the header and map counts the words left of those alone, since they say which contents follow
(log entry 52). Its words are not counted as elements (DESIGN CHOICE, log entry 44). -/
def execVlmn (st : BitVec 3) (a b : BitVec 5) (h : BitVec 2) (s : State) : Res :=
  runVector { st := st, rs := [.x a, .x b], writes := selected (s.rX b), kf := false, anyEs := true, noPred := true } (do
    let t ← get
    require ((t.rX a).toNat % 128 == 0) 0x0C0 (t.rX a)
    let sel := selected (t.rX b)
    let (l, r) ← loadWords (t.rX a) h.toNat 0 (List.range 33)
    match r with
    | some (e, why) => do
      setEs e
      throw why
    | none => pure ()
    let word := fun (e : Nat) => xOf (((l.lookup e).map (fun x => x.1)).getD 0)
    let count := fieldOf (word 0) 0 6
    let index := fun (q : BitVec 5) => fieldOf (word (1 + q.toNat)) 58 5
    require (fieldOf (word 0) 8 5 == t.me.vec.grant && decide (count ≤ 32) &&
      sel.all (fun q => bitAt (word (1 + q.toNat)) 63 && decide (index q < count))) 0x188 (t.rX a)
    let per := 16 * t.me.vec.grant
    let todo := (List.range 32).filter fun j => decide (t.es < 48 + (j + 1) * per) && sel.any (fun q => index q == j)
    loadContents (t.rX a) h.toNat per (40 + 4 * sel.length) (fun j => sel.filter (fun q => index q == j)) todo) s

end Sys2Proof.Machine
end

