-- ==== Sys2Proof/Machine/Dispatch.lean ====
section
/-! DEFINITION. The meaning of each instruction and event: one arm for each constructor of Instr. -/

namespace Sys2Proof.Machine

/-- The effect of one instruction or event. -/
def exec (i : Instr) (s : State) : Host.Outcome State Fault Refusal :=
  match i with
  | .ecall st n => Sys2Proof.Machine.execEcall st n s
  | .eret st e p => Sys2Proof.Machine.execEret st e p s
  | .wfi st => Sys2Proof.Machine.execWfi st s
  | .brk st n => Sys2Proof.Machine.execBrk st n s
  | .tlbi st a => Sys2Proof.Machine.execTlbi st a s
  | .tlbia st => Sys2Proof.Machine.execTlbia st s
  | .vname st d a => Sys2Proof.Machine.execVname st d a s
  | .fencei st => Sys2Proof.Machine.execFencei st s
  | .sysr st d c => Sys2Proof.Machine.execSysr st d c s
  | .sysw st a c => Sys2Proof.Machine.execSysw st a c s
  | .syswVown st a => Sys2Proof.Machine.execSyswVown st a s
  | .syswWpart st a => Sys2Proof.Machine.execSyswWpart st a s
  | .pfx k p e c r => Sys2Proof.Machine.execPfx k p e c r s
  | .addR st d a b => Sys2Proof.Machine.execAddR st d a b s
  | .subR st d a b => Sys2Proof.Machine.execSubR st d a b s
  | .andR st d a b => Sys2Proof.Machine.execAndR st d a b s
  | .orR st d a b => Sys2Proof.Machine.execOrR st d a b s
  | .xorR st d a b => Sys2Proof.Machine.execXorR st d a b s
  | .sll st d a b => Sys2Proof.Machine.execSll st d a b s
  | .srl st d a b => Sys2Proof.Machine.execSrl st d a b s
  | .sra st d a b => Sys2Proof.Machine.execSra st d a b s
  | .slt st d a b => Sys2Proof.Machine.execSlt st d a b s
  | .sltn st d a b => Sys2Proof.Machine.execSltn st d a b s
  | .minR st d a b => Sys2Proof.Machine.execMinR st d a b s
  | .maxR st d a b => Sys2Proof.Machine.execMaxR st d a b s
  | .minn st d a b => Sys2Proof.Machine.execMinn st d a b s
  | .maxn st d a b => Sys2Proof.Machine.execMaxn st d a b s
  | .addS st d a b => Sys2Proof.Machine.execAddS st d a b s
  | .subS st d a b => Sys2Proof.Machine.execSubS st d a b s
  | .clz st d a => Sys2Proof.Machine.execClz st d a s
  | .ctz st d a => Sys2Proof.Machine.execCtz st d a s
  | .popc st d a => Sys2Proof.Machine.execPopc st d a s
  | .addi st d a im => Sys2Proof.Machine.execAddi st d a im s
  | .andi st d a im => Sys2Proof.Machine.execAndi st d a im s
  | .ori st d a im => Sys2Proof.Machine.execOri st d a im s
  | .xori st d a im => Sys2Proof.Machine.execXori st d a im s
  | .slli st d a h => Sys2Proof.Machine.execSlli st d a h s
  | .srli st d a h => Sys2Proof.Machine.execSrli st d a h s
  | .srai st d a h => Sys2Proof.Machine.execSrai st d a h s
  | .slti st d a im => Sys2Proof.Machine.execSlti st d a im s
  | .sltin st d a im => Sys2Proof.Machine.execSltin st d a im s
  | .li st d im => Sys2Proof.Machine.execLi st d im s
  | .lih st d im => Sys2Proof.Machine.execLih st d im s
  | .mul st d a b => Sys2Proof.Machine.execMul st d a b s
  | .mulh st d a b => Sys2Proof.Machine.execMulh st d a b s
  | .mulhn st d a b => Sys2Proof.Machine.execMulhn st d a b s
  | .mulhsn st d a b => Sys2Proof.Machine.execMulhsn st d a b s
  | .div st d a b => Sys2Proof.Machine.execDiv st d a b s
  | .divn st d a b => Sys2Proof.Machine.execDivn st d a b s
  | .rem st d a b => Sys2Proof.Machine.execRem st d a b s
  | .remn st d a b => Sys2Proof.Machine.execRemn st d a b s
  | .fadd st d a b o m => Sys2Proof.Machine.execFadd st d a b o m s
  | .fsub st d a b o m => Sys2Proof.Machine.execFsub st d a b o m s
  | .fmul st d a b o m => Sys2Proof.Machine.execFmul st d a b o m s
  | .fdiv st d a b o m => Sys2Proof.Machine.execFdiv st d a b o m s
  | .fsqrt st d a o m => Sys2Proof.Machine.execFsqrt st d a o m s
  | .fma st d a b o m => Sys2Proof.Machine.execFma st d a b o m s
  | .fmin st d a b o m => Sys2Proof.Machine.execFmin st d a b o m s
  | .fmax st d a b o m => Sys2Proof.Machine.execFmax st d a b o m s
  | .feq st d a b o m => Sys2Proof.Machine.execFeq st d a b o m s
  | .flt st d a b o m => Sys2Proof.Machine.execFlt st d a b o m s
  | .fle st d a b o m => Sys2Proof.Machine.execFle st d a b o m s
  | .fkind st d a o m => Sys2Proof.Machine.execFkind st d a o m s
  | .fcvt st d a t o m => Sys2Proof.Machine.execFcvt st d a t o m s
  | .fcvtf st d a t o m => Sys2Proof.Machine.execFcvtf st d a t o m s
  | .lb st d a h im => Sys2Proof.Machine.execLb st d a h im s
  | .lh st d a h im => Sys2Proof.Machine.execLh st d a h im s
  | .lw st d a h im => Sys2Proof.Machine.execLw st d a h im s
  | .ld st d a h im => Sys2Proof.Machine.execLd st d a h im s
  | .lbn st d a h im => Sys2Proof.Machine.execLbn st d a h im s
  | .lhn st d a h im => Sys2Proof.Machine.execLhn st d a h im s
  | .lwn st d a h im => Sys2Proof.Machine.execLwn st d a h im s
  | .pref st t a im => Sys2Proof.Machine.execPref st t a im s
  | .sb st d a h im => Sys2Proof.Machine.execSb st d a h im s
  | .sh st d a h im => Sys2Proof.Machine.execSh st d a h im s
  | .sw st d a h im => Sys2Proof.Machine.execSw st d a h im s
  | .sd st d a h im => Sys2Proof.Machine.execSd st d a h im s
  | .mkref st d a => Sys2Proof.Machine.execMkref st d a s
  | .rtag st d a => Sys2Proof.Machine.execRtag st d a s
  | .pub st d a c => Sys2Proof.Machine.execPub st d a c s
  | .amoswap st d a c o z => Sys2Proof.Machine.execAmoswap st d a c o z s
  | .amoadd st d a c o z => Sys2Proof.Machine.execAmoadd st d a c o z s
  | .amoand st d a c o z => Sys2Proof.Machine.execAmoand st d a c o z s
  | .amoor st d a c o z => Sys2Proof.Machine.execAmoor st d a c o z s
  | .amoxor st d a c o z => Sys2Proof.Machine.execAmoxor st d a c o z s
  | .amomin st d a c o z => Sys2Proof.Machine.execAmomin st d a c o z s
  | .amomax st d a c o z => Sys2Proof.Machine.execAmomax st d a c o z s
  | .amominn st d a c o z => Sys2Proof.Machine.execAmominn st d a c o z s
  | .amomaxn st d a c o z => Sys2Proof.Machine.execAmomaxn st d a c o z s
  | .amocas st d a c o z => Sys2Proof.Machine.execAmocas st d a c o z s
  | .beq st a b im => Sys2Proof.Machine.execBeq st a b im s
  | .bne st a b im => Sys2Proof.Machine.execBne st a b im s
  | .blt st a b im => Sys2Proof.Machine.execBlt st a b im s
  | .bge st a b im => Sys2Proof.Machine.execBge st a b im s
  | .bltn st a b im => Sys2Proof.Machine.execBltn st a b im s
  | .bgen st a b im => Sys2Proof.Machine.execBgen st a b im s
  | .jump st im => Sys2Proof.Machine.execJump st im s
  | .jal st l im => Sys2Proof.Machine.execJal st l im s
  | .jalr st d a im => Sys2Proof.Machine.execJalr st d a im s
  | .orderedLoad st d a c o t => Sys2Proof.Machine.execOrderedLoad st d a c o t s
  | .orderedStore st d a c o t => Sys2Proof.Machine.execOrderedStore st d a c o t s
  | .fence st c o => Sys2Proof.Machine.execFence st c o s
  | .barinit st d a => Sys2Proof.Machine.execBarinit st d a s
  | .barbind st d a => Sys2Proof.Machine.execBarbind st d a s
  | .bararr st d a c => Sys2Proof.Machine.execBararr st d a c s
  | .barwait st t a c => Sys2Proof.Machine.execBarwait st t a c s
  | .barsync st a c => Sys2Proof.Machine.execBarsync st a c s
  | .barrierPhaseRelease barrier => Sys2Proof.Machine.execBarrierPhaseRelease barrier s
  | .joinSet st a => Sys2Proof.Machine.execJoinSet st a s
  | .leaveSet st a => Sys2Proof.Machine.execLeaveSet st a s
  | .wmset st w a => Sys2Proof.Machine.execWmset st w a s
  | .wmadv st w a c => Sys2Proof.Machine.execWmadv st w a c s
  | .wmrd st d w => Sys2Proof.Machine.execWmrd st d w s
  | .watermarkWaitEnd core slot => Sys2Proof.Machine.execWatermarkWaitEnd core slot s
  | .waitm st a => Sys2Proof.Machine.execWaitm st a s
  | .epush st c e => Sys2Proof.Machine.execEpush st c e s
  | .epushT st c e => Sys2Proof.Machine.execEpushT st c e s
  | .epop st d e => Sys2Proof.Machine.execEpop st d e s
  | .epopT st d e => Sys2Proof.Machine.execEpopT st d e s
  | .epushAt st c e => Sys2Proof.Machine.execEpushAt st c e s
  | .nest st x a => Sys2Proof.Machine.execNest st x a s
  | .nestAt st x a => Sys2Proof.Machine.execNestAt st x a s
  | .doneH st => Sys2Proof.Machine.execDoneH st s
  | .yieldH st => Sys2Proof.Machine.execYieldH st s
  | .setvl st d a v => Sys2Proof.Machine.execSetvl st d a v s
  | .setvlm st d a v => Sys2Proof.Machine.execSetvlm st d a v s
  | .vld st d a k h => Sys2Proof.Machine.execVld st d a k h s
  | .vlds st d a b k h => Sys2Proof.Machine.execVlds st d a b k h s
  | .vldl st d a k h => Sys2Proof.Machine.execVldl st d a k h s
  | .vldp st d p b k => Sys2Proof.Machine.execVldp st d p b k s
  | .vlm st d a n h => Sys2Proof.Machine.execVlm st d a n h s
  | .vlmn st a b h => Sys2Proof.Machine.execVlmn st a b h s
  | .vst st d a k h => Sys2Proof.Machine.execVst st d a k h s
  | .vsts st d a b k h => Sys2Proof.Machine.execVsts st d a b k h s
  | .vstl st d a k h => Sys2Proof.Machine.execVstl st d a k h s
  | .vsm st d a n h => Sys2Proof.Machine.execVsm st d a n h s
  | .vsmn st a b h => Sys2Proof.Machine.execVsmn st a b h s
  | .vldx st d a b k h => Sys2Proof.Machine.execVldx st d a b k h s
  | .vstx st d a b k h => Sys2Proof.Machine.execVstx st d a b k h s
  | .vbind st d a => Sys2Proof.Machine.execVbind st d a s
  | .vunbind st d a => Sys2Proof.Machine.execVunbind st d a s
  | .readAhead core slot v => Sys2Proof.Machine.execReadAhead core slot v s
  | .vpref st a k t => Sys2Proof.Machine.execVpref st a k t s
  | .vprefs st a b k t => Sys2Proof.Machine.execVprefs st a b k t s
  | .vadd st d a b k => Sys2Proof.Machine.execVadd st d a b k s
  | .vsub st d a b k => Sys2Proof.Machine.execVsub st d a b k s
  | .vaddSI st d a b k => Sys2Proof.Machine.execVaddSI st d a b k s
  | .vaddSN st d a b k => Sys2Proof.Machine.execVaddSN st d a b k s
  | .vsubSI st d a b k => Sys2Proof.Machine.execVsubSI st d a b k s
  | .vsubSN st d a b k => Sys2Proof.Machine.execVsubSN st d a b k s
  | .vmul st d a b k => Sys2Proof.Machine.execVmul st d a b k s
  | .vmulh st d a b k => Sys2Proof.Machine.execVmulh st d a b k s
  | .vmulhn st d a b k => Sys2Proof.Machine.execVmulhn st d a b k s
  | .vand st d a b k => Sys2Proof.Machine.execVand st d a b k s
  | .vor st d a b k => Sys2Proof.Machine.execVor st d a b k s
  | .vxor st d a b k => Sys2Proof.Machine.execVxor st d a b k s
  | .vsll st d a b k => Sys2Proof.Machine.execVsll st d a b k s
  | .vsrl st d a b k => Sys2Proof.Machine.execVsrl st d a b k s
  | .vsra st d a b k => Sys2Proof.Machine.execVsra st d a b k s
  | .vmin st d a b k => Sys2Proof.Machine.execVmin st d a b k s
  | .vmax st d a b k => Sys2Proof.Machine.execVmax st d a b k s
  | .vminn st d a b k => Sys2Proof.Machine.execVminn st d a b k s
  | .vmaxn st d a b k => Sys2Proof.Machine.execVmaxn st d a b k s
  | .vdiv st d a b k => Sys2Proof.Machine.execVdiv st d a b k s
  | .vdivn st d a b k => Sys2Proof.Machine.execVdivn st d a b k s
  | .vrem st d a b k => Sys2Proof.Machine.execVrem st d a b k s
  | .vremn st d a b k => Sys2Proof.Machine.execVremn st d a b k s
  | .vaddi st d a im k => Sys2Proof.Machine.execVaddi st d a im k s
  | .vrsubi st d a im k => Sys2Proof.Machine.execVrsubi st d a im k s
  | .vandi st d a im k => Sys2Proof.Machine.execVandi st d a im k s
  | .vori st d a im k => Sys2Proof.Machine.execVori st d a im k s
  | .vxori st d a im k => Sys2Proof.Machine.execVxori st d a im k s
  | .vslli st d a im k => Sys2Proof.Machine.execVslli st d a im k s
  | .vsrli st d a im k => Sys2Proof.Machine.execVsrli st d a im k s
  | .vsrai st d a im k => Sys2Proof.Machine.execVsrai st d a im k s
  | .vfadd st d a b k l => Sys2Proof.Machine.execVfadd st d a b k l s
  | .vfsub st d a b k l => Sys2Proof.Machine.execVfsub st d a b k l s
  | .vfmul st d a b k l => Sys2Proof.Machine.execVfmul st d a b k l s
  | .vfdiv st d a b k l => Sys2Proof.Machine.execVfdiv st d a b k l s
  | .vfsqrt st d a k l => Sys2Proof.Machine.execVfsqrt st d a k l s
  | .vfmin st d a b k l => Sys2Proof.Machine.execVfmin st d a b k l s
  | .vfmax st d a b k l => Sys2Proof.Machine.execVfmax st d a b k l s
  | .vfsgnj st d a b k l => Sys2Proof.Machine.execVfsgnj st d a b k l s
  | .vfsgnjn st d a b k l => Sys2Proof.Machine.execVfsgnjn st d a b k l s
  | .vfsgnjx st d a b k l => Sys2Proof.Machine.execVfsgnjx st d a b k l s
  | .vfexp2 st d a k l => Sys2Proof.Machine.execVfexp2 st d a k l s
  | .vflog2 st d a k l => Sys2Proof.Machine.execVflog2 st d a k l s
  | .vfrece st d a k l => Sys2Proof.Machine.execVfrece st d a k l s
  | .vfrsqe st d a k l => Sys2Proof.Machine.execVfrsqe st d a k l s
  | .vfkind st d a k l => Sys2Proof.Machine.execVfkind st d a k l s
  | .vfma st d a b k l => Sys2Proof.Machine.execVfma st d a b k l s
  | .vfms st d a b k l => Sys2Proof.Machine.execVfms st d a b k l s
  | .vfnma st d a b k l => Sys2Proof.Machine.execVfnma st d a b k l s
  | .vfnms st d a b k l => Sys2Proof.Machine.execVfnms st d a b k l s
  | .vmac st d a b k => Sys2Proof.Machine.execVmac st d a b k s
  | .vnmsac st d a b k => Sys2Proof.Machine.execVnmsac st d a b k s
  | .vdot st d a b k c => Sys2Proof.Machine.execVdot st d a b k c s
  | .vdistIp st d a b k c => Sys2Proof.Machine.execVdistIp st d a b k c s
  | .vdistL2 st d a b k c => Sys2Proof.Machine.execVdistL2 st d a b k c s
  | .vdistHam st d a b k c => Sys2Proof.Machine.execVdistHam st d a b k c s
  | .vqdec st d a k c => Sys2Proof.Machine.execVqdec st d a k c s
  | .vqenc st d a k c => Sys2Proof.Machine.execVqenc st d a k c s
  | .vqenco st d a k c => Sys2Proof.Machine.execVqenco st d a k c s
  | .vcvt st d a u k t => Sys2Proof.Machine.execVcvt st d a u k t s
  | .vunpk st d a w g k => Sys2Proof.Machine.execVunpk st d a w g k s
  | .vlut st d a b k => Sys2Proof.Machine.execVlut st d a b k s
  | .vexpand st d a k => Sys2Proof.Machine.execVexpand st d a k s
  | .vcompress st d a k => Sys2Proof.Machine.execVcompress st d a k s
  | .vperm st d a b k => Sys2Proof.Machine.execVperm st d a b k s
  | .vlift st d a b k => Sys2Proof.Machine.execVlift st d a b k s
  | .vdrop st d a b k => Sys2Proof.Machine.execVdrop st d a b k s
  | .vbcast st d a b k => Sys2Proof.Machine.execVbcast st d a b k s
  | .vrev st d a k => Sys2Proof.Machine.execVrev st d a k s
  | .vzip st d a b k => Sys2Proof.Machine.execVzip st d a b k s
  | .vunzip st d a b k => Sys2Proof.Machine.execVunzip st d a b k s
  | .vrsum st d a b k => Sys2Proof.Machine.execVrsum st d a b k s
  | .vrmin st d a b k => Sys2Proof.Machine.execVrmin st d a b k s
  | .vrmax st d a b k => Sys2Proof.Machine.execVrmax st d a b k s
  | .vrminn st d a b k => Sys2Proof.Machine.execVrminn st d a b k s
  | .vrmaxn st d a b k => Sys2Proof.Machine.execVrmaxn st d a b k s
  | .vrand st d a b k => Sys2Proof.Machine.execVrand st d a b k s
  | .vrior st d a b k => Sys2Proof.Machine.execVrior st d a b k s
  | .vrxor st d a b k => Sys2Proof.Machine.execVrxor st d a b k s
  | .vfrseq st d a b k l => Sys2Proof.Machine.execVfrseq st d a b k l s
  | .vfrpair st d a b k l => Sys2Proof.Machine.execVfrpair st d a b k l s
  | .vfrmin st d a b k l => Sys2Proof.Machine.execVfrmin st d a b k l s
  | .vfrmax st d a b k l => Sys2Proof.Machine.execVfrmax st d a b k l s
  | .vmseq st d a b k => Sys2Proof.Machine.execVmseq st d a b k s
  | .vmsne st d a b k => Sys2Proof.Machine.execVmsne st d a b k s
  | .vmslt st d a b k => Sys2Proof.Machine.execVmslt st d a b k s
  | .vmsle st d a b k => Sys2Proof.Machine.execVmsle st d a b k s
  | .vmsltn st d a b k => Sys2Proof.Machine.execVmsltn st d a b k s
  | .vmslen st d a b k => Sys2Proof.Machine.execVmslen st d a b k s
  | .vmfeq st d a b k l => Sys2Proof.Machine.execVmfeq st d a b k l s
  | .vmflt st d a b k l => Sys2Proof.Machine.execVmflt st d a b k l s
  | .vmfle st d a b k l => Sys2Proof.Machine.execVmfle st d a b k l s
  | .kand st d a b => Sys2Proof.Machine.execKand st d a b s
  | .kor st d a b => Sys2Proof.Machine.execKor st d a b s
  | .kxor st d a b => Sys2Proof.Machine.execKxor st d a b s
  | .kandn st d a b => Sys2Proof.Machine.execKandn st d a b s
  | .knot st d a => Sys2Proof.Machine.execKnot st d a s
  | .kpopc st d a k => Sys2Proof.Machine.execKpopc st d a k s
  | .kfirst st d a k => Sys2Proof.Machine.execKfirst st d a k s
  | .vsel st d a b k => Sys2Proof.Machine.execVsel st d a b k s
  | .vmv st d a k => Sys2Proof.Machine.execVmv st d a k s
  | .vmvx st d a b => Sys2Proof.Machine.execVmvx st d a b s
  | .vins st d a b k => Sys2Proof.Machine.execVins st d a b k s
  | .vmvvk st d a k => Sys2Proof.Machine.execVmvvk st d a k s
  | .vmvkv st d a k => Sys2Proof.Machine.execVmvkv st d a k s
  | .mopF64 st t a b im k => Sys2Proof.Machine.execMopF64 st t a b im k s
  | .mopF32 st t a b im k => Sys2Proof.Machine.execMopF32 st t a b im k s
  | .mopBf16 st t a b im k => Sys2Proof.Machine.execMopBf16 st t a b im k s
  | .mopE4m3 st t a b im k => Sys2Proof.Machine.execMopE4m3 st t a b im k s
  | .mopE5m2 st t a b im k => Sys2Proof.Machine.execMopE5m2 st t a b im k s
  | .mopQ4x st t a b im k => Sys2Proof.Machine.execMopQ4x st t a b im k s
  | .mopI4 st t a b im k => Sys2Proof.Machine.execMopI4 st t a b im k s
  | .halfRateWindow core => Sys2Proof.Machine.execHalfRateWindow core s
  | .mzero st t => Sys2Proof.Machine.execMzero st t s
  | .mrd st t d r k => Sys2Proof.Machine.execMrd st t d r k s
  | .mwr st t a r k => Sys2Proof.Machine.execMwr st t a r k s
  | .mld st t a => Sys2Proof.Machine.execMld st t a s
  | .mst st t a => Sys2Proof.Machine.execMst st t a s
  | .padd st d a b w t => Sys2Proof.Machine.execPadd st d a b w t s
  | .psub st d a b w t => Sys2Proof.Machine.execPsub st d a b w t s
  | .pmul st d a b w t => Sys2Proof.Machine.execPmul st d a b w t s
  | .pcmpeq st d a b w t => Sys2Proof.Machine.execPcmpeq st d a b w t s
  | .pcmplt st d a b w t => Sys2Proof.Machine.execPcmplt st d a b w t s
  | .pcmpltn st d a b w t => Sys2Proof.Machine.execPcmpltn st d a b w t s
  | .ptdot st d a b w t => Sys2Proof.Machine.execPtdot st d a b w t s
  | .pcred st d a g w t => Sys2Proof.Machine.execPcred st d a g w t s
  | .pneg st d a w t => Sys2Proof.Machine.execPneg st d a w t s
  | .pand st d a b w t => Sys2Proof.Machine.execPand st d a b w t s
  | .por st d a b w t => Sys2Proof.Machine.execPor st d a b w t s
  | .pxor st d a b w t => Sys2Proof.Machine.execPxor st d a b w t s
  | .pnot st d a w t => Sys2Proof.Machine.execPnot st d a w t s
  | .pmaj st d a b w t => Sys2Proof.Machine.execPmaj st d a b w t s
  | .psel st d a b w t => Sys2Proof.Machine.execPsel st d a b w t s
  | .pshl st d a k w t => Sys2Proof.Machine.execPshl st d a k w t s
  | .pshr st d a k w t => Sys2Proof.Machine.execPshr st d a k w t s
  | .pcopy st d a w t => Sys2Proof.Machine.execPcopy st d a w t s
  | .prun st d a b w t => Sys2Proof.Machine.execPrun st d a b w t s
  | .plock st a m => Sys2Proof.Machine.execPlock st a m s
  | .lockPlaced core slot => Sys2Proof.Machine.execLockPlaced core slot s
  | .punlock st a => Sys2Proof.Machine.execPunlock st a s
  | .lockRelease stack lock => Sys2Proof.Machine.execLockRelease stack lock s
  | .pfence st => Sys2Proof.Machine.execPfence st s
  | .phset st d a b => Sys2Proof.Machine.execPhset st d a b s
  | .phget st d p => Sys2Proof.Machine.execPhget st d p s
  | .microprogramStart op => Sys2Proof.Machine.execMicroprogramStart op s
  | .rowOperation op => Sys2Proof.Machine.execRowOperation op s
  | .syncWindow op => Sys2Proof.Machine.execSyncWindow op s
  | .refresh stack die => Sys2Proof.Machine.execRefresh stack die s
  | .dwcfg st a => Sys2Proof.Machine.execDwcfg st a s
  | .dwlaunch st e a b k => Sys2Proof.Machine.execDwlaunch st e a b k s
  | .dwlaunchAt st e a b k => Sys2Proof.Machine.execDwlaunchAt st e a b k s
  | .raceBegin core slot => Sys2Proof.Machine.execRaceBegin core slot s
  | .raceEnd core slot => Sys2Proof.Machine.execRaceEnd core slot s
  | .dwcap st d a k => Sys2Proof.Machine.execDwcap st d a k s
  | .dwrd st d l k => Sys2Proof.Machine.execDwrd st d l k s
  | .dwldw st a l k => Sys2Proof.Machine.execDwldw st a l k s
  | .dwmpMin st d a k => Sys2Proof.Machine.execDwmpMin st d a k s
  | .dwmpMax st d a k => Sys2Proof.Machine.execDwmpMax st d a k s
  | .dwrst st => Sys2Proof.Machine.execDwrst st s
  | .dwwin st a => Sys2Proof.Machine.execDwwin st a s
  | .meridianAlarm core slot => Sys2Proof.Machine.execMeridianAlarm core slot s
  | .waitmExpiry core slot => Sys2Proof.Machine.execWaitmExpiry core slot s
  | .asynchronousTrap core slot => Sys2Proof.Machine.execAsynchronousTrap core slot s
  | .sliceExpiry core slot => Sys2Proof.Machine.execSliceExpiry core slot s
  | .waitingSwitchOut core slot => Sys2Proof.Machine.execWaitingSwitchOut core slot s
  | .switchIn core slot => Sys2Proof.Machine.execSwitchIn core slot s
  | .waitConditionObserved pid hid => Sys2Proof.Machine.execWaitConditionObserved pid hid s
  | .nestHandoff stack core slot => Sys2Proof.Machine.execNestHandoff stack core slot s
  | .wayConversion stack position => Sys2Proof.Machine.execWayConversion stack position s
  | .engineCopy engine => Sys2Proof.Machine.execEngineCopy engine s
  | .engineCturn engine => Sys2Proof.Machine.execEngineCturn engine s
  | .enginePref engine => Sys2Proof.Machine.execEnginePref engine s
  | .engineSnap engine => Sys2Proof.Machine.execEngineSnap engine s
  | .engineFill engine => Sys2Proof.Machine.execEngineFill engine s
  | .startRoot pid rec => Sys2Proof.Machine.execStartRoot pid rec s
  | .configure pid cfg => Sys2Proof.Machine.execConfigure pid cfg s
  | .unconfigure pid => Sys2Proof.Machine.execUnconfigure pid s
  | .swapOut pid => Sys2Proof.Machine.execSwapOut pid s
  | .restorePart pid => Sys2Proof.Machine.execRestorePart pid s
  | .freezeSet pid => Sys2Proof.Machine.execFreezeSet pid s
  | .freezeClear pid => Sys2Proof.Machine.execFreezeClear pid s
  | .resumeMaster m => Sys2Proof.Machine.execResumeMaster m s
  | .abortMaster m => Sys2Proof.Machine.execAbortMaster m s
  | .logRead stack => Sys2Proof.Machine.execLogRead stack s
  | .logClear stack => Sys2Proof.Machine.execLogClear stack s
  | .attest pid nonce => Sys2Proof.Machine.execAttest pid nonce s
  | .imageTransfer image => Sys2Proof.Machine.execImageTransfer image s
  | .cxlMemRead who pa size => Sys2Proof.Machine.execCxlMemRead who pa size s
  | .cxlMemWrite who pa bytes => Sys2Proof.Machine.execCxlMemWrite who pa bytes s
  | .completionTimeout request => Sys2Proof.Machine.execCompletionTimeout request s
  | .hostSnoop pa => Sys2Proof.Machine.execHostSnoop pa s
  | .transferRepeat column pa first repeats => Sys2Proof.Machine.execTransferRepeat column pa first repeats s
  | .laneDiagnosis column pa failing passes => Sys2Proof.Machine.execLaneDiagnosis column pa failing passes s
  | .unitLoss unit => Sys2Proof.Machine.execUnitLoss unit s
  | .moduleReset => Sys2Proof.Machine.execModuleReset s
  | .coolantPressureLoss => Sys2Proof.Machine.execCoolantPressureLoss s
  | .powerWindow watts => Sys2Proof.Machine.execPowerWindow watts s
  | .illegalInstruction w => Sys2Proof.Machine.execIllegalInstruction w s
  | .temperatureThrottle inlet dies => Sys2Proof.Machine.execTemperatureThrottle inlet dies s
  | .softError pa bits => Sys2Proof.Machine.execSoftError pa bits s

end Sys2Proof.Machine
end

