-- ==== Sys2Proof/Machine/Due.lean ====
section
/-! DEFINITION. When a waiting hart may issue again, which event of the machine itself is due, issue selection (R272), and the
passage of time. -/

namespace Sys2Proof.Machine

/-! ### Waits of resident harts -/

/-- Whether the condition that a hart of a slot waits on holds (R265, Table 2), where no event of its own ends the wait. -/
def State.waitOver (s : State) (o : Slot) : Bool :=
  match o.hart.wait with
  | none => true
  | some (.barrier _ _ _) => false
  | some (.watermark _ _) => false
  | some (.meridian _) => false
  | some (.plock _ _) => false
  | some (.race _) => false
  | some (.drain _) => false
  | some w => s.conditionHolds o.hart.pid o.hart.hid (!o.hart.async.isEmpty || s.alarmDue o.hart) w

/-- Whether an asynchronous trap of a slot's hart waits for a MOP or a race of the slot to end (R152, R193, R287). -/
def State.trapHeld (s : State) (o : Slot) : Bool :=
  o.hart.ie && s.inFlightUnits o && (!o.hart.async.isEmpty || s.alarmDue o.hart)

/-- Whether a hart issues (R298): its partition runs, or halts while an instruction of the hart has to complete first (R287). -/
def State.mayIssue (s : State) (o : Slot) : Bool := o.hart.frame.isNone && s.goesOn o || s.runs o.hart.pid

/-- Whether the hart of a slot is ready (R272): its partition runs, its stall count and its waits are over, and no asynchronous
trap or switch-out waits to be taken. An instruction that was found not ready in this cycle is tried again in the next. -/
def State.ready (s : State) (o : Slot) : Bool :=
  o.live && !s.trapHeld o && !s.leaveHeld o && !o.hart.stopped && !(o.hart.held && o.hart.wait.isSome && o.hart.waitSince == s.cycle) && decide (o.hart.readyAt ≤ s.cycle) && s.mayIssue o && s.waitOver o

/-! ### Events of the machine -/

/-- The event of the first slot that satisfies a condition. -/
def State.slotEvent (s : State) (ok : Slot → Bool) (mk : Nat → Nat → Instr) : Option Instr :=
  (s.slots.find? ok).map fun o => mk o.core o.idx

/-- The event of the first slot whose hart waits in a way that a condition says is over. -/
def State.wakeEvent (s : State) (ok : Slot → Wait → Bool) (mk : Nat → Nat → Instr) : Option Instr :=
  s.slotEvent (fun o => o.live && s.runs o.hart.pid && o.hart.wait.any (ok o)) mk

/-- A refresh that is due (R170). -/
noncomputable def State.dueRefresh (s : State) : Option Instr :=
  ((List.range 8).find? fun st => decide (312 * s.refreshCount st ≤ s.cycle)).map fun st => .refresh st (s.refreshCount st % 16)

/-- The next event of a sequencer (R166, R167, R169). -/
noncomputable def State.dueSeq (s : State) : Option Instr :=
  match s.seq.find? (fun o => o.running && o.refused.isNone && o.prog.head? == some .sync && decide (o.nextAt ≤ s.cycle)) with
  | some o => some (.syncWindow o.id)
  | none =>
    match s.seq.find? s.rowDue with
    | some o => some (.rowOperation o.id)
    | none => (s.seq.find? s.canStart).map fun o => .microprogramStart o.id

/-- The slot whose hart waits at a plock for a reserved entry that can be placed (R178). -/
def State.placeable (s : State) (l : LockEntry) : Option Slot :=
  if l.placed || s.lockHeldBack l.pid l.hid l.handle then none
  else s.slots.find? fun o =>
    o.live && s.runs o.hart.pid && l.heldBy o.hart.pid o.hart.hid &&
      o.hart.wait.any fun w => match w with | .plock id _ => id == l.id | _ => false

/-- The next event of a lock (R178, R179): of the plocks that wait, the one that reserved its entry first goes first. -/
noncomputable def State.dueLock (s : State) : Option Instr :=
  match s.locks.find? s.lockDone with
  | some l => some (.lockRelease l.stack l.id)
  | none => ((s.locks.filterMap s.placeable).head?).map fun o => .lockPlaced o.core o.idx

/-- A barrier at which a waiting hart's phase has passed (R210). -/
noncomputable def State.dueBarrier (s : State) : Option Instr :=
  (s.slots.filterMap fun o =>
    match o.hart.wait with
    | some (.barrier n token short) =>
      if o.live && s.runs o.hart.pid && (s.barrier n).wakes token short then some n else none
    | _ => none).head?.map .barrierPhaseRelease

/-- Whether a watermark, waitm or timed race that a hart waits on is over (R194, R214, R215). -/
def State.markOver (s : State) : Wait → Bool
  | .watermark n c => decide (c ≤ (s.watermark n).count.toNat)
  | _ => false

/-- Whether a waitm is over (R215). -/
def State.timeOver (s : State) : Wait → Bool
  | .meridian t => decide (t.toNat ≤ s.cycle)
  | _ => false

/-- Whether a timed race can begin (R194). -/
def State.raceOver (s : State) (o : Slot) : Wait → Bool
  | .race t => decide (t.toNat ≤ s.cycle) && o.vec.raceEnd.isNone && !(s.part? o.hart.pid).any (·.frozen)
  | _ => false

/-- The first free slot of a running partition that satisfies a condition, among those of the stacks that have work. -/
def State.freeSlotFor (s : State) (work : List (Nat × Nat)) (ok : Nat → Nat → Bool) : Option (Nat × Nat) :=
  (work.flatMap fun w => ((s.part? w.2).map (fun p => s.freeSlots p w.1)).getD []).find? fun c => ok c.1 c.2

/-- The next event of the walkers and the scheduler (R268 to R274). -/
noncomputable def State.dueSched (s : State) : Option Instr :=
  match s.waiting.find? s.observed with
  | some r => some (.waitConditionObserved r.pid r.hid)
  | none =>
    match s.slotEvent s.asyncDue .asynchronousTrap with
    | some e => some e
    | none =>
      match s.freeSlotFor (s.walkers.map (fun r => (r.stack, r.pid))) (fun c i => s.handoffDue (stackOf c) c i) with
      | some c => some (.nestHandoff (stackOf c.1) c.1 c.2)
      | none =>
        match s.freeSlotFor (s.queue.map (fun r => (r.stack, r.pid))) (fun c i => (s.switchInNext c i).isSome) with
        | some c => some (.switchIn c.1 c.2)
        | none =>
          match s.slotEvent s.sliceDue .sliceExpiry with
          | some e => some e
          | none => s.slotEvent s.waiterDue .waitingSwitchOut

/-- The event that performs the head command of an engine. -/
noncomputable def engineEvent (k : EngineSt) : Instr :=
  match (k.cmds.head?.map (fun c => fieldOf c.w0 0 4)).getD 0 with
  | 2 => .engineCturn k.n
  | 3 => .enginePref k.n
  | 4 => .engineSnap k.n
  | 5 => .engineFill k.n
  | _ => .engineCopy k.n

/-- The next event of the base dies (R314, R329, R340, R343). -/
noncomputable def State.dueBase (s : State) : Option Instr :=
  match s.wparts.find? s.wayDue with
  | some w => some (.wayConversion w.stack w.pos)
  | none =>
    match s.engines.find? s.engineDue with
    | some k => some (engineEvent k)
    | none =>
      match s.requests.find? (fun r => decide (r.since + 1300000 ≤ s.cycle)) with
      | some r => some (.completionTimeout r.id)
      | none =>
        match s.failingBank with
        | some u => some (.unitLoss u)
        | none => if s.resetDue then some .moduleReset else none

/-- The first of some events. -/
def firstEvent : List (Option Instr) → Option Instr
  | [] => none
  | some e :: _ => some e
  | none :: rest => firstEvent rest

/-- The first event of the machine itself that is due, in a fixed order (log entry 1). -/
noncomputable def State.dueEvent (s : State) : Option Instr :=
  firstEvent
    [s.dueRefresh,
     s.slotEvent (fun o => o.vec.raceEnd.any (fun c => decide (c ≤ s.cycle))) .raceEnd,
     (s.cores.find? (fun c => c.halfUntil != 0 && decide (c.halfUntil ≤ s.cycle))).map fun c => .halfRateWindow c.id,
     s.dueSeq, s.dueLock, s.dueBarrier, s.wakeEvent (fun _ => s.markOver) .watermarkWaitEnd,
     s.wakeEvent (fun _ => s.timeOver) .waitmExpiry, s.wakeEvent s.raceOver .raceBegin, s.slotEvent s.alarmWakes .meridianAlarm,
     s.dueSched, s.dueBase]

/-! ### Accesses of the scheduler that wait -/

/-- s as if every SYNC window were open to the scheduler. -/
def State.opened (s : State) : State :=
  { s with seq := s.seq.map fun o => { o with window := true, nextAt := s.cycle + 1, admitted := [{ since := 0, rows := [], who := none, left := [] }] } }

/-- The records of harts that the scheduler or a walker would reach now, but for the windows that it waits for (R169, R263). -/
def State.recordsWanted (s : State) : List (Nat × BitVec 32) :=
  let t := s.opened
  let mine := fun (o : Slot) => (o.hart.pid, o.hart.hid)
  let free := (t.queue.map (fun r => (r.stack, r.pid)) ++ t.walkers.map (fun r => (r.stack, r.pid))).flatMap fun w =>
    ((t.part? w.2).map (fun p => t.freeSlots p w.1)).getD []
  (t.waiting.filter t.observed).map (fun r => (r.pid, r.hid)) ++
  (t.slots.filter fun o => t.sliceDue o && t.queueWaits (stackOf o.core) o.hart.pid || t.waiterDue o).map mine ++
  (free.flatMap fun c =>
    (((t.switchInNext c.1 c.2).map fun r => [(r.pid, r.hid), ((t.slotAt c.1 c.2).vec.ownerPid, (t.slotAt c.1 c.2).vec.owner)]).getD []) ++
      (if t.handoffDue (stackOf c.1) c.1 c.2 then ((t.slotPid c.1 c.2).bind fun pid => (t.freeRecord pid).map fun hid => (pid, hid)).toList
       else [])) ++
  s.starts.filterMap fun q => (s.startRecord q.1 q.2).map fun hid => (q.1, hid)

/-- Those that must wait, each since it first did. -/
def State.noteRecordWaits (s : State) : State :=
  if s.seq.any (·.running) then
    { s with recWaits := ((s.recordsWanted.dedup).filter fun q => s.recordBusy q.1 q.2).map fun q =>
        (s.recWaits.find? fun r => r.pid == q.1 && r.hid == q.2).getD { pid := q.1, hid := q.2, since := s.cycle } }
  else if s.recWaits = [] then s else { s with recWaits := [] }

/-! ### Issue selection -/

/-- Slot order after the slot that last issued: 0 for the next slot (R272). -/
def cyclicRank (last idx : Nat) : Nat := (idx + 3 - last) % 4

/-- The rank of a ready hart in its core's selection (R272): due harts first, then the highest priority, then cyclic slot
order. A hart is due when it has been ready for 192 cycles. -/
def State.issueRank (s : State) (o : Slot) : Nat :=
  let r := cyclicRank (s.coreSt o.core).lastSlot o.idx
  if 192 ≤ s.cycle - o.hart.readyAt then r else (8 - o.hart.prio) * 4 + r

/-- The position that two cores of a stack share with their vertical exclusion (R157). -/
def pairOf (core : Nat) : Nat := core / 16 * 8 + core % 8

/-- The slot that issues next in this cycle: at the lowest-numbered pair of cores with a ready hart whose core has not issued in the
cycle, the hart that R272 selects in each core; of the two, the one that has been ready for longer, whose ticket is the older, and L0's of
equals (R157; log entry 1). -/
def State.pick (s : State) : Option Slot :=
  let cands := s.slots.filter (fun o => s.ready o && (s.coreSt o.core).lastCycle != some s.cycle)
  match bestBy (fun o => pairOf o.core) cands with
  | none => none
  | some first =>
    let pair := cands.filter (fun o => pairOf o.core == pairOf first.core)
    let best := fun (layer : Nat) => bestBy s.issueRank (pair.filter (fun o => o.core / 8 % 2 == layer))
    match best 0, best 1 with
    | some a, some b => some (if b.hart.readyAt < a.hart.readyAt then b else a)
    | some a, none => some a
    | none, b => b

end Sys2Proof.Machine
end

