-- ==== Sys2Proof/Machine/Fetch.lean ====
section
/-! DEFINITION. Instruction fetch (R50, R303, R332), what an issue notes, the passage of time, and the placing of a word for the
host's question. -/

namespace Sys2Proof.Machine

/-- The granule of an instruction met by its fetch (R331, R332, R334): a line of the L1 instruction cache with an error is fetched again, and
one without needs no codeword. -/
def State.meetFetch (p : Phys) (s : State) : Decoded × State :=
  let s1 := s.decodeSram p.pa (.l1i s.me.core) s.hartAgent
  if decide (s1.me.core ∈ (s1.dirAt p.pa).instr) && !s1.poisonedAt p.managed p.pa then (.good, s1) else s1.meetGranule 0x02 p s1.hartAgent

/-- The word at the pc of the hart in focus, or why its fetch does not give it: a trap (R92, R303, R332), or a bank, row-lock or way that holds
it back (R169, R171, R178, R315). -/
def State.fetch (s : State) : Except Stop (BitVec 32) × State :=
  if fieldOf s.pc 0 2 ≠ 0 then (.error (.trap { code := 0x0C1, tval := s.pc }), s)
  else
    match s.locate .fetch s.pc with
    | (.error (.fault f), s1) => (.error (.trap (f.trap .fetch s.pc 0 1 1)), s1)
    | (.error (.busy pa), s1) => (.error (.wait (.bank pa false)), s1)
    | (.ok p, s1) =>
      match s1.meetFetch p with
      | (.good, s2) => (.ok (BitVec.ofNat 32 (leNat (memBytes s2.mem p.pa 4))), s2.touchFetch p s2.me.core s2.hartAgent)
      | (.poisoned, s2) => (.error (.trap (s2.errorTrap 0x300 s.pc p.pa (s1.poisonedAt p.managed p.pa))), s2)
      | (.uncorrectable, s2) => (.error (.trap (s2.errorTrap 0x302 s.pc p.pa false)), s2)

/-- A trap frame that waited is written (R284), where its hart has one. -/
def State.flushFrame (s : State) : State :=
  match s.me.hart.frame with
  | none => s
  | some ws => (s.modHart fun h => { h with wait := none }).putFrame ws

/-- What the core notes when the hart in focus issues (R21, R272); a hart that waited issues its instruction again (R265), and the open SYNC
windows serve no access of a new one (R169). -/
def State.noteIssue (s0 : State) : State :=
  let s := s0.flushFrame
  let who := (s.pid, s.me.hart.hid)
  let s1 : State :=
    if s.me.hart.wait.any Wait.unready then s
    else { s with seq := s.seq.map fun o => { o with admitted := o.admitted.filter (fun w => w.who != some who) } }
  (s1.setCore { s1.coreSt s1.me.core with lastSlot := s1.me.idx, lastCycle := some s1.cycle }).modHart fun h =>
    { h with wait := none, held := false, paused := false }.count 2 1

/-- The places of the hart in focus among those that wait for locks and at ports: kept where its instruction waits there or was found not ready,
and given up otherwise (R178, R217, R287). -/
def State.settlePlaces (s : State) : State :=
  let h := s.me.hart
  let atLock := h.held || h.wait.any fun w => match w with | .plock _ _ => true | _ => false
  let atPort := h.held || h.wait.any fun w => match w with | .epush _ => true | .epop _ => true | _ => false
  let s1 := if atLock then s else s.dropPlocker h.pid h.hid
  if atPort then s1 else s1.dropPortWait h.pid h.hid

/-- What is left of an issue (R272): where the instruction was found not ready, the core has not issued from the slot, and no cycle of issue is
counted (R21). `before` is the state in which the hart was selected. -/
def State.settleIssue (before : State) (core idx : Nat) (r : Res) : Res :=
  match r with
  | .next t =>
    let u := if t.me.core = core ∧ t.me.idx = idx then t.settlePlaces else t
    if u.me.core = core ∧ u.me.idx = idx ∧ u.me.live = true ∧ u.me.hart.held = true then
      let old := before.coreSt core
      .next ((u.setCore { u.coreSt core with lastSlot := old.lastSlot, lastCycle := old.lastCycle }).modHart (Hart.uncount 2))
    else .next u
  | r => r

/-- s after n cycles in which nothing happens (R21): a hart that does not wait counts those of its stall. -/
def State.advance (n : Nat) (s : State) : State :=
  { s with cycle := s.cycle + n }.mapSlots fun o =>
    if o.live then
      { o with hart :=
        let h := o.hart.count 1 n
        if h.wait = none then h.count 7 (min (s.cycle + n) h.stall.2 - max s.cycle h.stall.1) else h }
    else o

/-- Whether only the stall counts of harts are to be waited for: no unit has work under way. -/
def State.quiet (s : State) : Bool :=
  s.seq.isEmpty && s.requests.isEmpty && s.walkers.isEmpty && s.queue.isEmpty && s.waiting.isEmpty && s.engines.all (·.cmds.isEmpty) &&
    s.slots.all (fun o => !o.live || (o.hart.wait.isNone && o.vec.raceEnd.isNone)) && s.starts.isEmpty && !s.swapRuns &&
    s.parts.any (·.cond == .running)

/-- The next cycle at which something can happen: the first cycle after this one at which a live hart that is not waiting may
issue, where nothing else is under way, or the next cycle. -/
def State.nextCycle (s : State) : Nat :=
  let ts := s.slots.filterMap fun o =>
    if o.live && !o.hart.stopped && o.hart.wait.isNone && decide (s.cycle < o.hart.readyAt) then some o.hart.readyAt else none
  match bestBy id ts with
  | some t => if s.quiet then t else s.cycle + 1
  | none => s.cycle + 1

/-- The trap frames whose banks no longer hold them back written (R284). -/
def State.flushFrames (s : State) : State :=
  (s.slots.filter fun o => o.live && o.hart.frame.isSome && !s.dramWaits (s.frameOf o.hart) (some (o.hart.pid, o.hart.hid))).foldl
    (fun t o => (t.focus o.core o.idx).flushFrame) s

/-- The instructions completed that have waited for plane instructions alone (R95, R165). -/
def State.finishDrains (s : State) : State :=
  (s.slots.filter fun o => o.live && o.hart.wait.any fun w => match w with | .drain ops => s.drained ops | _ => false).foldl
    (fun t o => (t.focus o.core o.idx).completeWait) s

/-- What waits for no event of its own done as soon as it can be: requests of CXL.mem (R169, R170), STARTs (R345), trap frames (R284),
invalidations (R95) and a swap-out (R298). -/
def State.settle (s : State) : State :=
  ((((s.serveWaiting 4096).serveStarts s.starts.length).flushFrames).finishDrains).finishSwap

/-- Time passes to the next cycle at which something can happen. A hart whose wait goes on is ready from then on at the earliest (R272). -/
def State.passTime (s0 : State) : State :=
  let s := s0.settle
  let n := s.nextCycle - s.cycle
  let waits := fun (o : Slot) => o.live && o.hart.wait.isSome && !s.waitOver o
  ((s.noteRecordWaits.mapSlots fun o => if waits o then { o with hart := { o.hart with readyAt := s.cycle + n } } else o)).advance n

/-- The configuration of the partition that `placeWord` sets up: one slot of core 0 with every lane group, the scratch of
its core position, watermark 0, engine 0, and tables, pool and frames in row 0 of stack 0 (R344; log entry 5). -/
def placedCfg : PartCfg :=
  { root := 0x100000, pool := 0x40000, count := 16, frames := 0x30000, slice := 10,
    cores := [{ core := 0, mask := 1, part := 16 }], scratch := [(0, 0)], watermarks := [0], engines := [0], t3 := [],
    peers := [] }

/-- s with a hart of supervisor level live in slot 0 of core 0, the partition it belongs to, and a page table that maps
virtual addresses below 2 GiB to the same physical addresses, about to fetch the given word at 0x2000; nothing else is due, and the first
cycle from here on in which no die performs a refresh has come (R170; log entry 5). -/
def State.placeWord (w : BitVec 32) (s : State) : State :=
  let part : Part :=
    { pid := 0, cond := .running, cfg := placedCfg, frozen := false, invCount := 0, granted := [(0, 0)], sets := [], image := [],
      heldSeq := [], heldWalk := [] }
  let now := s.cycle + (48 - s.cycle % 312)
  let hart := { (Hart.creation 0 0).setStatus 15 1 1 with pc := 0x2000, readyAt := now }
  let me : Slot :=
    { core := 0, idx := 0, live := true, hart := hart, vec := Vec.creation 0 0, since := now, forWalker := false }
  let fw : Firmware := { s.fw with lost := [], losing := [], badRows := [], resetAt := none, inReset := false }
  let mem := memWrite (memWrite (memWrite s.mem 0x2000 (leBytes 4 w.toNat)) 0x100000 (leBytes 8 0x108001)) 0x108000 (leBytes 8 0xBF)
  { s with me := me, others := [], cycle := now, parts := [part], stats := [], inputs := [], cores := [], tlb := [], requests := [], queue := [],
           waiting := [], walkers := [], asyncs := [], refreshes := Vector.replicate 8 (now / 312 + 1), lateRefreshes := [], seq := [], locks := [], plockers := [], portWaits := [], recWaits := [],
           engines := [], wparts := [], barriers := [], flips := [], sram := [], under := [], starts := [], commands := [], i3c := [], buses := [], tags := [], rows := [], fw := fw, mem := mem }

end Sys2Proof.Machine
end

