-- ==== Sys2Proof/Machine/Step.lean ====
section
/-! DEFINITION. One step of the module: an offered event, an event that is due, the issue of one instruction, or the passage of
time (R272; log entry 1). -/

namespace Sys2Proof.Machine

/-- The issue of the instruction at the pc of the hart in focus: it is fetched, decoded and run; a word that is no instruction
takes the cause of R68. -/
noncomputable def issue (s : State) : Host.Outcome State Fault Refusal :=
  match s.fetch with
  | (.error r, s1) => .next (s1.stopBy r)
  | (.ok w, s1) =>
    match decode w with
    | .ok i => exec i (s1.modHart fun h => { h with word := w })
    | .error _ => exec (.illegalInstruction w) s1

/-- Whether the environment may offer an instruction as an event: it has no word, and it is not what the issue of a word that is no
instruction runs (log entry 1). -/
noncomputable def offered (e : Instr) : Bool :=
  match e with
  | .illegalInstruction _ => false
  | _ => (encodeNat e).isNone

/-- A slot whose hart is ready and has been passed over, after a look at its sources and units, without issue: where they are not current or do
not accept its instruction, it is ready from when they do, and stands before it till then (R272, R287). -/
noncomputable def State.lookedAt (s : State) (o : Slot) : Slot :=
  match issue (s.focus o.core o.idx).noteIssue with
  | .next u =>
    if u.me.core = o.core ∧ u.me.idx = o.idx ∧ u.me.live = true ∧ u.me.hart.held = true then
      { o with hart := { o.hart with readyAt := max u.me.hart.readyAt (s.cycle + 1), stall := u.me.hart.stall, held := true } }
    else o
  | _ => o

/-- s with the ready harts that the core of a slot passes over looked at. -/
noncomputable def State.passOver (s : State) (o : Slot) : State :=
  s.mapSlots fun c => if c.core = o.core ∧ c.idx ≠ o.idx ∧ s.ready c = true then s.lookedAt c else c

/-- One step. -/
noncomputable def step (s : State) : Host.Outcome State Fault Refusal :=
  match s.inputs with
  | e :: rest => if offered e then exec e { s with inputs := rest } else .next { s with inputs := rest }
  | [] =>
    match s.dueEvent with
    | some e => exec e s
    | none =>
      match s.pick with
      | some o =>
        let t := ((s.passOver o).focus o.core o.idx).noteIssue
        if t.me.hart.stopped then .next t else s.settleIssue o.core o.idx (issue t)
      | none => .next s.passTime

/-- s with an instruction placed where the next step fetches. -/
def State.withFetchWord (s : State) (nbits w : Nat) : State := s.placeWord (BitVec.ofNat 32 (w % 2 ^ nbits))

end Sys2Proof.Machine
end

