-- ==== Sys2Proof/Safety.lean ====
section
/-! DEFINITION. What counts as a safe state of the module, and the vocabulary of the claims: when a hart may run an instruction, and
what a completed instruction leaves, written out as record updates. -/

namespace Sys2Proof.Machine

/-! ### Invariants -/

/-- Memory is in its canonical form. -/
def State.memOk (s : State) : Prop := Memory.wf s.mem

/-! ### When an instruction runs undisturbed -/

/-- The hart in focus is live; no result is in flight (R55), no early value is chosen (R57), no prefix is pending (R58) and no step
trap is to follow (R290). -/
abbrev State.settled (s : State) : Prop :=
  s.me.live = true ∧ s.me.hart.pend = [] ∧ s.me.hart.overrides = [] ∧ s.me.hart.pv = false ∧
    (s.me.hart.ss && !s.me.hart.prv) = false

/-- A settled hart that owns its vector state, with lane groups, a legal configuration (R16), no fault mask (R19), nothing that an instruction
could reuse (reuse off, as R14 and R256 allow, or on with an empty table and no register that nothing holds, as reset leaves it), and nothing at
hand that could interrupt an instruction (R287). -/
abbrev State.vectorOwned (s : State) : Prop :=
  s.settled ∧ s.owns = true ∧ 1 ≤ s.me.vec.grant ∧ s.me.vec.grant ≤ 16 ∧ s.me.vec.vill = false ∧ s.me.vec.illegal = false ∧
    s.me.hart.fm = false ∧ (s.me.hart.ru = false ∨ (s.fife = [] ∧ s.freeAllRegs = s)) ∧ s.interruptAhead = none

/-- The same, with no register bound to a stream (R114). -/
abbrev State.vectorReady (s : State) : Prop := s.vectorOwned ∧ s.me.vec.streams = []

/-- No other slot of the core, and no image, holds the tiles (R147). -/
abbrev State.tilesFree (s : State) : Prop := s.tilesElsewhere = none

/-- No other slot of the core, and no image, holds the Dawn array, no race of the slot is in flight (R188, R193), and what was last written to
the array is ready (R191, R197). -/
abbrev State.dawnFree (s : State) : Prop := s.dawnElsewhere = none ∧ s.me.vec.raceEnd = none ∧ s.me.vec.dawnAt ≤ s.cycle

/-- An address that the hart in focus reaches at once for an access through the translations of a unit: its translation is held and permits the
access (R303, R304), its unit serves it, no microprogram, window or refresh holds its bank (R169, R170), its word is not poisoned, no codeword of its line is in error (R330, R331), and no
word of SRAM is (R334). -/
abbrev State.reachesBy (s : State) (unit : Nat) (k : Access) (va : X) (p : Phys) : Prop :=
  s.locateBy unit k va = (.ok p, s) ∧ s.unitOf p.pa s.me.hart.hid s.me.hart.pid = .serve ∧ tagAt s.tags (p.pa / 8) ≠ 3 ∧
    (isDram p.pa = true → s.refreshAt p.pa = false ∧ ∀ o ∈ s.seq, inBanks o.geo p.pa = true →
      s.holdsBanks o (some (s.me.hart.pid, s.me.hart.hid)) p.pa = false ∧ s.windowServes o (some (s.me.hart.pid, s.me.hart.hid)) p.pa = false) ∧
    s.sram = [] ∧ ∀ g, g / 8 = p.pa / 128 → flipsAt s.flips g = []

/-- An address that the hart in focus reaches at once through the translations of its core. -/
abbrev State.reaches (s : State) (k : Access) (va : X) (p : Phys) : Prop := s.reachesBy s.me.core k va p

/-! ### What a completed instruction leaves -/

/-- s after an instruction that writes nothing but the pc and what every completion writes: es and pfxs.pv cleared (R7), the next
issue after the stall count (R54), one more instruction counted (R21). -/
def State.after (s : State) (st : BitVec 3) (delay : Nat) (npc : X) : State :=
  { s with me := { s.me with hart := { s.me.hart with
      pc := npc, es := 0, pv := false, begun := none, reached := [], overrides := [], readyAt := s.cycle + max (1 + st.toNat) delay,
      stall := (s.cycle + 1, s.cycle + 1 + st.toNat), cnt := (s.me.hart.count 3 1).cnt } } }

/-- The registers of a hart after x[d] := v with a tag; a write of x0 is discarded (R9, R10). -/
def Hart.withX (h : Hart) (d : BitVec 5) (v : X) (tag : Bool) : Hart :=
  if d = 0 then h else { h with x := h.x.set d.toNat v, xtag := setField h.xtag d.toNat 1 (b2n tag) }

/-- s after an instruction that writes x[d] := v with a tag, a result of the given latency, and otherwise as `after`: the result is
in flight until then (R55, R56). -/
def State.afterX (s : State) (d : BitVec 5) (v : X) (tag : Bool) (lat : Nat) (fixed : Bool) (st : BitVec 3) (delay : Nat)
    (npc : X) : State :=
  let t := s.after st delay npc
  { t with me := { t.me with hart := { t.me.hart.withX d v tag with
      pend := if d = 0 ∨ lat ≤ 1 then []
        else [{ before := .x d s.me.hart.x[d.toNat], ready := s.cycle + lat, fixed := fixed }] } } }

/-- t is s but for what an instruction that writes v registers may change: the registers with their names and physical registers
(R249 to R254), their dirty bits, the Fife table (R255), and of the hart what every completion writes, the results in flight and
the event counters. Everything else is as before; the pc is at the next instruction. -/
def State.vecFrame (s t : State) (st : BitVec 3) (status : X) : Prop :=
  t = { s with
    fife := t.fife
    me := { s.me with
      hart := { s.me.hart with
        pc := s.pc + 4, es := 0, pv := false, begun := none, reached := [], overrides := [], readyAt := s.cycle + (1 + st.toNat),
        stall := (s.cycle + 1, s.cycle + 1 + st.toNat), status := status,
        pend := t.me.hart.pend, cnt := t.me.hart.cnt }
      vec := { s.me.vec with
        v := t.me.vec.v, phys := t.me.vec.phys, pregs := t.me.vec.pregs, vdirty := t.me.vec.vdirty } } }

/-- t is s but for what an instruction that writes a k register or an x register from vector sources may change. -/
def State.maskFrame (s t : State) (st : BitVec 3) (status : X) : Prop :=
  t = { s with
    fife := t.fife
    me := { s.me with
      hart := { s.me.hart with
        pc := s.pc + 4, es := 0, pv := false, begun := none, reached := [], overrides := [], readyAt := s.cycle + (1 + st.toNat),
        stall := (s.cycle + 1, s.cycle + 1 + st.toNat), status := status,
        x := t.me.hart.x, xtag := t.me.hart.xtag, pend := t.me.hart.pend, cnt := t.me.hart.cnt }
      vec := { s.me.vec with
        k := t.me.vec.k, kgen := t.me.vec.kgen, pregs := t.me.vec.pregs, vdirty := t.me.vec.vdirty } } }

/-- t is s but for the copies of lines: the lines of the banks, the directories, the halves that the host holds, codewords that a
line written back makes anew, and what a bank of scratch holds under a modified copy (R312, R315 to R317, R333). -/
def State.copiesFrame (s t : State) : Prop :=
  t = { s with lines := t.lines, dir := t.dir, flips := t.flips, under := t.under, hostHeld := t.hostHeld, hostOwned := t.hostOwned }

/-- t is s but for what a vector load may change: as vecFrame, with the copies of lines, the ticket counter (R103) and what an
acquire ends. -/
def State.loadFrame (s t : State) (st : BitVec 3) : Prop :=
  t = { s with
    fife := t.fife, lines := t.lines, dir := t.dir, flips := t.flips, under := t.under, hostHeld := t.hostHeld, hostOwned := t.hostOwned, tickets := t.tickets
    me := { s.me with
      hart := { s.me.hart with
        pc := s.pc + 4, es := 0, pv := false, begun := none, reached := [], overrides := [], readyAt := s.cycle + (1 + st.toNat),
        stall := (s.cycle + 1, s.cycle + 1 + st.toNat), pend := t.me.hart.pend,
        cnt := t.me.hart.cnt }
      vec := { s.me.vec with
        v := t.me.vec.v, phys := t.me.vec.phys, pregs := t.me.vec.pregs, vdirty := t.me.vec.vdirty } } }

/-- t is s but for what an instruction of the matrix unit that stores nothing may change: the tiles with their holder and chaining bits
(R147 to R149), msr, the v registers with their names, the issue record of the core (R157), the copies of lines, and of the hart
what every completion writes, the results in flight and the event counters. -/
def State.tileFrame (s t : State) (st : BitVec 3) (status : X) : Prop :=
  t = { s with
    fife := t.fife, lines := t.lines, dir := t.dir, flips := t.flips, under := t.under, hostHeld := t.hostHeld, hostOwned := t.hostOwned, cores := t.cores
    me := { s.me with
      hart := { s.me.hart with
        pc := s.pc + 4, es := 0, pv := false, begun := none, reached := [], overrides := [], readyAt := s.cycle + (1 + st.toNat),
        stall := (s.cycle + 1, s.cycle + 1 + st.toNat), status := status,
        pend := t.me.hart.pend, cnt := t.me.hart.cnt }
      vec := { s.me.vec with
        v := t.me.vec.v, phys := t.me.vec.phys, pregs := t.me.vec.pregs, vdirty := t.me.vec.vdirty, a := t.me.vec.a,
        tilesHeld := true, chain := t.me.vec.chain, msr := t.me.vec.msr } } }

/-- t is s but for memory, its tags, the copies of lines and what a store ends (R117, R260), and of the hart what every
completion writes, the results in flight, the event counters and `fresh`, the count of free values. -/
def State.storeFrame (s t : State) (st : BitVec 3) : Prop :=
  t = { s with
    mem := t.mem, tags := t.tags, lines := t.lines, dir := t.dir, flips := t.flips, under := t.under, hostHeld := t.hostHeld, hostOwned := t.hostOwned
    fife := t.fife, fresh := t.fresh, tickets := t.tickets
    me := { s.me with
      hart := { s.me.hart with
        pc := s.pc + 4, es := 0, pv := false, begun := none, reached := [], overrides := [], readyAt := s.cycle + (1 + st.toNat),
        stall := (s.cycle + 1, s.cycle + 1 + st.toNat), x := t.me.hart.x,
        xtag := t.me.hart.xtag, pend := t.me.hart.pend, cnt := t.me.hart.cnt }
      vec := { s.me.vec with pregs := t.me.vec.pregs, streams := t.me.vec.streams } } }

/-- Memory of t is that of s outside the n bytes from pa on, where the little-endian bytes of v stand (R81). -/
def State.stored (s t : State) (pa n v : Nat) : Prop :=
  (∀ a, a < pa ∨ pa + n ≤ a → memRead t.mem a = memRead s.mem a) ∧
    ∀ j < n, memRead t.mem (pa + j) = BitVec.ofNat 8 (v / 256 ^ j)

/-- The values f of w bits stand in memory of t at bit sh n of the physical address pa n, for the n that p names, and every other bit of
memory is that of s; the words stored to have tag 00, every other tag is as before (R32, R81, R101). -/
def State.bitsStored (s t : State) (w : Nat) (p : Nat → Prop) (pa sh f : Nat → Nat) : Prop :=
  (∀ n, p n → ∀ b < w, (memRead t.mem (pa n + (sh n + b) / 8)).getLsbD ((sh n + b) % 8) = (f n).testBit b) ∧
    (∀ a, ∀ b < 8, (∀ n, p n → ∀ c < w, ¬(a = pa n + (sh n + c) / 8 ∧ b = (sh n + c) % 8)) →
      (memRead t.mem a).getLsbD b = (memRead s.mem a).getLsbD b) ∧
    (∀ n, p n → tagAt t.tags (pa n / 8) = 0) ∧ ∀ j, (∀ n, p n → j ≠ pa n / 8) → tagAt t.tags j = tagAt s.tags j

/-- No two of the values of w bits at bit sh n of pa n share a bit of memory. -/
def bitsApart (w : Nat) (p : Nat → Prop) (pa sh : Nat → Nat) : Prop :=
  ∀ m n, p m → p n → m ≠ n → ∀ b < w, ∀ c < w, ¬(pa m + (sh m + b) / 8 = pa n + (sh n + c) / 8 ∧ (sh m + b) % 8 = (sh n + c) % 8)

/-- The status word with flags ORed into ff (R38). -/
def Hart.statusWith (h : Hart) (fl : Flags) : X := setField h.status 5 5 (h.ff ||| fl).toNat

/-! ### Elements -/

/-- Element i of v[n] at the element width in force (R25, R111). -/
def State.elem (s : State) (n : BitVec 5) (i : Nat) : Nat := getElem s.me.vec.grant s.me.vec.width s.me.vec.v[n.toNat] i

/-- Whether an element-wise instruction under mask k processes element i (R5, R122). -/
def State.active (s : State) (k : BitVec 3) (i : Nat) : Prop :=
  s.es ≤ i ∧ i < s.me.vec.vl.toNat ∧ (s.rK k).getLsbD i = true

/-- The v registers but one list are as before. -/
def State.keepsV (s t : State) (ds : List (BitVec 5)) : Prop :=
  ∀ n : BitVec 5, n ∉ ds → t.me.vec.v[n.toNat] = s.me.vec.v[n.toNat]

/-- In t, the elements of v[d] of width w that an element-wise instruction processes hold f, and the others are as before (R122). -/
def State.elemsBecome (s t : State) (d : BitVec 5) (w : Nat) (p : Nat → Prop) (f : Nat → Nat) : Prop :=
  ∀ i < s.me.vec.grant * 1024 / w,
    (p i → getElem s.me.vec.grant w t.me.vec.v[d.toNat] i = f i % 2 ^ w) ∧
    (¬p i → getElem s.me.vec.grant w t.me.vec.v[d.toNat] i = getElem s.me.vec.grant w s.me.vec.v[d.toNat] i)

end Sys2Proof.Machine
end

