-- ==== Sys2Proof/Certificates/Slice0/Obligations.lean ====
section
/-! DEFINITION. The statements for the provers. -/

open Sys2Proof Sys2Proof.Machine

/-! ### Encoding -/

/-- Every well-formed instruction is what its word decodes to, every operand at every value (R51, R53, R63 to R65, R68). -/
def Obligations.DecodeOfEncode : Prop :=
  ∀ (i : Instr) (w : Nat), i.wf = true → encodeNat i = some w → decode (BitVec.ofNat 32 w) = .ok i

/-- Words written out from the manual's encodings decode to the instructions that they stand for, and the permanently illegal words
and a reserved major do not decode (R65, R68, and the worked encodings of 03, 04, 08, 10 and 22). -/
def Obligations.WorkedWordsDecode : Prop :=
  decode 0x0914C700#32 = .ok (.addR 2 5 6 7) ∧ decode 0x2C0C8590#32 = .ok (.fadd 0 3 4 5 1 1) ∧
  decode 0x30204C02#32 = .ok (.ld 0 8 2 0 2) ∧ decode 0xD01890C0#32 = .ok (.padd 0 3 1 2 3 0) ∧
  decode 0xB8002004#32 = .ok (.vmvkv 0 0 1 0) ∧ decode 0x8803E000#32 = .ok (.vst 0 0 31 0 0) ∧
  decode 0x00000000#32 = .error .permanentlyIllegal ∧ decode 0xFFFFFFFF#32 = .error .permanentlyIllegal ∧
  decode 0x70000000#32 = .error .reservedMajor

/-! ### Steps -/

/-- Where the environment offers no event, none is due and a slot is picked, a step issues the instruction at that hart's pc: the
word fetched at the pc is decoded and run, with the word noted in the hart (R6, R50, R272); `passOver` has looked at the sources and units of the
ready harts that the core passes over, which are then ready no earlier than those (R272). Where the instruction is found not ready, the
core has not issued from the slot and no cycle of issue is counted (R21, R272). Otherwise the hart keeps its place among those that wait for a
row-lock or at an engine's port only where its instruction waits there (R178, R217; that places are kept in order is the model's reading, log
entry 64). -/
def Obligations.StepRunsTheDecodedInstruction : Prop :=
  ∀ (s u : State) (o : Slot) (w : BitVec 32) (i : Instr), s.inputs = [] → s.dueEvent = none → s.pick = some o →
    let t := ((s.passOver o).focus o.core o.idx).noteIssue
    t.me.hart.stopped = false → t.fetch = (.ok w, u) → decode w = .ok i →
    let v := u.modHart fun h => { h with word := w }
    let waitsAt := fun (r : State) (ok : Wait → Bool) => r.me.hart.wait.any ok
    let lock := fun (w : Wait) => match w with | .plock _ _ => true | _ => false
    let port := fun (w : Wait) => match w with | .epush _ => true | .epop _ => true | _ => false
    (∀ r, exec i v = .next r → r.me.hart.held = false → r.me.core = o.core → r.me.idx = o.idx →
      step s = .next { r with
        plockers := if waitsAt r lock then r.plockers else r.plockers.filter fun q => !(q.pid == r.me.hart.pid && q.hid == r.me.hart.hid)
        portWaits := if waitsAt r port then r.portWaits
          else r.portWaits.filter fun q => !(q.pid == r.me.hart.pid && q.hid == r.me.hart.hid) }) ∧
    ∀ r, exec i v = .next r → r.me.core = o.core → r.me.idx = o.idx → r.me.live = true → r.me.hart.held = true →
      step s = .next ((r.setCore { r.coreSt o.core with
        lastSlot := (s.coreSt o.core).lastSlot, lastCycle := (s.coreSt o.core).lastCycle }).modHart (Hart.uncount 2))

/-- A word that is no instruction takes an illegal-instruction trap at its pc with the word as tval: cause 0x001 for the two
permanently illegal words, 0x000 for every other (R68, R285). A place among those that wait for a row-lock or at a port is given up (log entry
64). -/
def Obligations.RejectedWordTraps : Prop :=
  ∀ (s u : State) (o : Slot) (w : BitVec 32) (r : Reject), s.inputs = [] → s.dueEvent = none → s.pick = some o →
    let t := ((s.passOver o).focus o.core o.idx).noteIssue
    t.me.hart.stopped = false → t.fetch = (.ok w, u) → decode w = .error r → u.me.live = true → u.me.core = o.core → u.me.idx = o.idx →
    let v := u.enterTrap false u.pc { code := if w = 0#32 ∨ w = 0xFFFFFFFF#32 then 0x001 else 0x000, tval := w.setWidth 64 }
    let mine := fun (p : Nat) (h : BitVec 32) => p == u.me.hart.pid && h == u.me.hart.hid
    step s = .next { v with
      plockers := v.plockers.filter fun q => !mine q.pid q.hid
      portWaits := v.portWaits.filter fun q => !mine q.pid q.hid }

/-- The module after reset: no hart exists, no partition is configured, no row is unchecked,
every queue is empty, and row o holds ones (R22, R159, R168, R349). That mtime is then 0 (log entry 4) and that no bit of a codeword is
flipped (log entry 2) is the model's choice, as the manual gives no reset value for them. The values of bytes that the manual leaves open are no
part of it (log entry 2). -/
def Obligations.ResetState : Prop :=
  State.reset.cycle = 0 ∧ (∀ o ∈ State.reset.slots, o.live = false) ∧ State.reset.parts = [] ∧ State.reset.rows = [] ∧
  State.reset.seq = [] ∧ State.reset.locks = [] ∧ State.reset.queue = [] ∧ State.reset.waiting = [] ∧
  State.reset.walkers = [] ∧ State.reset.engines = [] ∧ State.reset.flips = [] ∧
  ∀ pa, isDram pa = true → rowOf pa = 1022 → memRead State.reset.mem pa = 0xFF

/-- Memory is in canonical form right after reset. The form is the model's (log entry 2). -/
def Obligations.MemoryCanonicalAtReset : Prop := State.reset.memOk

/-- Every step keeps memory in canonical form. The form is the model's (log entry 2); that a step changes memory only by writes of
bytes is what makes it hold. -/
def Obligations.StepKeepsMemoryCanonical : Prop := ∀ s t : State, s.memOk → step s = .next t → t.memOk

/-! ### Scalar integer instructions -/

/-- i completes at s having written x[d] := v in one cycle, and nothing else but what every completion writes. -/
def Sys2Proof.Cert.gives (s : State) (i : Instr) (st : BitVec 3) (d : BitVec 5) (v : X) (lat : Nat := 1) : Prop :=
  exec i s = .next (s.afterX d v false lat true st 0 (s.pc + 4))

/-- s with its hart waiting at its instruction, which issues again when the wait is over (R265); an address that it waits for is noted. -/
def Sys2Proof.Cert.waiting (s : State) (w : Wait) : State :=
  s.modHart fun h => { h with wait := some w, waitSince := s.cycle, held := w.unready, overrides := [], reached := w.reach h.reached }

/-- i completes at s having written x[d] := v with tag 0, a result that readers wait for; how long is left open here. -/
def Sys2Proof.Cert.givesLate (s : State) (i : Instr) (st : BitVec 3) (d : BitVec 5) (v : X) : Prop :=
  ∃ lat, exec i s = .next (s.afterX d v false lat false st 0 (s.pc + 4))

/-- As `givesLate`, for an instruction that leaves t in place of s. -/
def Sys2Proof.Cert.givesLate' (t s : State) (i : Instr) (st : BitVec 3) (d : BitVec 5) (v : X) : Prop :=
  ∃ lat, exec i s = .next (t.afterX d v false lat false st 0 (s.pc + 4))

open Sys2Proof.Cert

/-- The results of the register-register integer instructions of major 0x02 (R75), for every operand, a destination x0 included:
then nothing is written (R9). A function code that Table 1 of 04_scalar_instructions does not list is no instruction: the word traps with
0x000. -/
def Sys2Proof.Cert.integerRegisterResults : Prop :=
  ∀ (s : State) (st : BitVec 3) (d a b : BitVec 5), s.settled →
    let x := s.rX a
    let y := s.rX b
    gives s (.addR st d a b) st d (x + y) ∧ gives s (.subR st d a b) st d (x - y) ∧
    gives s (.andR st d a b) st d (x &&& y) ∧ gives s (.orR st d a b) st d (x ||| y) ∧
    gives s (.xorR st d a b) st d (x ^^^ y) ∧
    gives s (.sll st d a b) st d (x <<< (y.extractLsb' 0 6)) ∧ gives s (.srl st d a b) st d (x >>> (y.extractLsb' 0 6)) ∧
    gives s (.sra st d a b) st d (x.sshiftRight' (y.extractLsb' 0 6)) ∧
    gives s (.slt st d a b) st d (if x.slt y then 1 else 0) ∧ gives s (.sltn st d a b) st d (if x.ult y then 1 else 0) ∧
    gives s (.minR st d a b) st d (BitVec.ofInt 64 (min x.toInt y.toInt)) ∧
    gives s (.maxR st d a b) st d (BitVec.ofInt 64 (max x.toInt y.toInt)) ∧
    gives s (.minn st d a b) st d (BitVec.ofNat 64 (min x.toNat y.toNat)) ∧
    gives s (.maxn st d a b) st d (BitVec.ofNat 64 (max x.toNat y.toNat)) ∧
    gives s (.addS st d a b) st d (BitVec.ofInt 64 (max (-2 ^ 63) (min (2 ^ 63 - 1) (x.toInt + y.toInt)))) ∧
    gives s (.subS st d a b) st d (BitVec.ofInt 64 (max (-2 ^ 63) (min (2 ^ 63 - 1) (x.toInt - y.toInt)))) ∧
    gives s (.clz st d a) st d x.clz ∧ gives s (.ctz st d a) st d x.ctz ∧ gives s (.popc st d a) st d x.cpop ∧
    ∀ w : BitVec 32, w.extractLsb' 26 6 = 0x02#6 → 0x13 ≤ (w.extractLsb' 0 8).toNat →
      (∃ r, decode w = .error r) ∧
      exec (.illegalInstruction w) s = .next (s.enterTrap false s.pc { code := 0x000, tval := w.setWidth 64 })

/-- The results of the integer instructions with an immediate, li and lih (R76, R77). -/
def Sys2Proof.Cert.integerImmediateResults : Prop :=
  ∀ (s : State) (st : BitVec 3) (d a : BitVec 5) (i : BitVec 13) (j : BitVec 12) (h : BitVec 6) (l : BitVec 17) (m : BitVec 16),
    s.settled →
    let x := s.rX a
    gives s (.addi st d a i) st d (x + i.signExtend 64) ∧ gives s (.andi st d a i) st d (x &&& i.signExtend 64) ∧
    gives s (.ori st d a i) st d (x ||| i.signExtend 64) ∧ gives s (.xori st d a i) st d (x ^^^ i.signExtend 64) ∧
    gives s (.slti st d a j) st d (if x.slt (j.signExtend 64) then 1 else 0) ∧
    gives s (.sltin st d a j) st d (if x.ult (j.setWidth 64) then 1 else 0) ∧
    gives s (.slli st d a h) st d (x <<< h.toNat) ∧ gives s (.srli st d a h) st d (x >>> h.toNat) ∧
    gives s (.srai st d a h) st d (x.sshiftRight h.toNat) ∧
    gives s (.li st d l) st d (l.signExtend 64) ∧
    gives s (.lih st d m) st d ((s.rX d).extractLsb' 0 48 ++ m)

/-- The results of the integer instructions: register-register (R75), with an immediate, li and lih (R76, R77). x[d] becomes the value of
the table with latency 1 and tag 0, and nothing else changes but what every completion writes. A function code of major 0x02 that the
table does not list is no instruction, and its word traps with 0x000. -/
def Obligations.IntegerResults : Prop := integerRegisterResults ∧ integerImmediateResults


/-- Multiplications give the low or the high half of the exact product with latency 3; divisions round toward zero, give all ones or
the dividend where the divisor is 0, wrap on overflow, and are scoreboarded for 8 to 40 cycles, 8 where the divisor is 0 or the quotient
is below 2^4; no flag is raised. The other function codes of major 0x0A are no instructions, and such a word traps with 0x000 (R78). -/
def Obligations.MultiplyDivideResults : Prop :=
  ∀ (s : State) (st : BitVec 3) (d a b : BitVec 5), s.settled →
    let x := s.rX a
    let y := s.rX b
    let late := fun (i : Instr) (v : X) (q : Nat) => ∃ lat, 8 ≤ lat ∧ lat ≤ 40 ∧ (y = 0 ∨ q < 16 → lat = 8) ∧
      exec i s = .next (s.afterX d v false lat false st 0 (s.pc + 4))
    gives s (.mul st d a b) st d (x * y) 3 ∧
    gives s (.mulh st d a b) st d ((x.signExtend 128 * y.signExtend 128).extractLsb' 64 64) 3 ∧
    gives s (.mulhn st d a b) st d ((x.setWidth 128 * y.setWidth 128).extractLsb' 64 64) 3 ∧
    gives s (.mulhsn st d a b) st d ((x.signExtend 128 * y.setWidth 128).extractLsb' 64 64) 3 ∧
    late (.div st d a b) (if y = 0 then BitVec.allOnes 64 else x.sdiv y) (x.sdiv y).toInt.natAbs ∧
    late (.divn st d a b) (if y = 0 then BitVec.allOnes 64 else x / y) (x / y).toNat ∧
    late (.rem st d a b) (if y = 0 then x else x.srem y) (x.sdiv y).toInt.natAbs ∧
    late (.remn st d a b) (if y = 0 then x else x % y) (x / y).toNat ∧
    ∀ w : BitVec 32, w.extractLsb' 26 6 = 0x0A#6 → 8 ≤ (w.extractLsb' 0 8).toNat →
      (∃ r, decode w = .error r) ∧
      exec (.illegalInstruction w) s = .next (s.enterTrap false s.pc { code := 0x000, tval := w.setWidth 64 })

/-! ### Scalar floating point -/

/-- A floating-point instruction with value and flags r: where no raised flag is enabled it completes with x[d] := the value and the
flags ORed into status.ff; otherwise it traps with the cause of its first enabled flag, the flags set and x[d] unchanged (R38, R79).
The latency is left open here, and fma with the terms 0 × infinity and a quiet NaN raises NV by the model's choice (log entry 46). -/
def Sys2Proof.Cert.fpGives (s : State) (i : Instr) (st : BitVec 3) (d : BitVec 5) (r : Nat × Flags) : Prop :=
  let t := s.modHart fun h => { h with status := h.statusWith r.2 }
  (r.2 &&& s.me.hart.fen = 0 →
    ∃ lat fixed, exec i s = .next (t.afterX d (BitVec.ofNat 64 r.1) false lat fixed st 0 (s.pc + 4))) ∧
  (r.2 &&& s.me.hart.fen ≠ 0 →
    exec i s = .next (t.enterTrap false s.pc { code := flagCause (r.2 &&& s.me.hart.fen), tval := 0 }))

/-- The scalar floating-point instructions, in the rounding mode of the word or of status.rm (R34, R79, R80): value and flags are
those of the operation of binary64 with the same name, fma with one rounding, and every raised flag is kept or traps. -/
def Obligations.ScalarFloatResults : Prop :=
  ∀ (s : State) (st : BitVec 3) (d a b c : BitVec 5) (o : BitVec 1) (m : BitVec 3), s.settled →
    let md := if o = 1 then m.toNat else s.me.hart.rm
    let x := Fmt.f64.decode (s.rX a).toNat
    let y := Fmt.f64.decode (s.rX b).toNat
    let z := Fmt.f64.decode (s.rX d).toNat
    fpGives s (.fadd st d a b o m) st d (Fmt.f64.add md x y) ∧ fpGives s (.fsub st d a b o m) st d (Fmt.f64.add md x y.negate) ∧
    fpGives s (.fmul st d a b o m) st d (Fmt.f64.mulTo md x y) ∧ fpGives s (.fdiv st d a b o m) st d (Fmt.f64.div md x y) ∧
    fpGives s (.fsqrt st d a o m) st d (Fmt.f64.sqrt md x) ∧ fpGives s (.fma st d a b o m) st d (Fmt.f64.fma md x y z) ∧
    fpGives s (.fmin st d a b o m) st d (Fmt.f64.minMax false (s.rX a).toNat (s.rX b).toNat) ∧
    fpGives s (.fmax st d a b o m) st d (Fmt.f64.minMax true (s.rX a).toNat (s.rX b).toNat) ∧
    fpGives s (.feq st d a b o m) st d (b2n (x.compare 0 y).1, (x.compare 0 y).2) ∧
    fpGives s (.flt st d a b o m) st d (b2n (x.compare 1 y).1, (x.compare 1 y).2) ∧
    fpGives s (.fle st d a b o m) st d (b2n (x.compare 2 y).1, (x.compare 2 y).2) ∧
    fpGives s (.fkind st d a o m) st d (Fmt.f64.kind (s.rX a).toNat, 0) ∧
    fpGives s (.fcvt st d a c o m) st d (fcvtTo c.toNat md (s.rX a)) ∧
    fpGives s (.fcvtf st d a c o m) st d (fcvtFrom c.toNat md (s.rX a))

/-- r is the encoding in f of (−1)^neg × x rounded in a mode of Table 4, with the flags (R30, R34, R35). The result overflows where x, rounded as if
the exponent were unbounded, exceeds the largest finite magnitude: it is then that magnitude where the mode rounds toward zero, and otherwise
infinity, for which E4M3 takes its NaN, or ±448 in the saturating form, and E2M1 ±6. Otherwise it is the magnitude that the mode names among
those of the format, with NX where it is not x, and UF too where x, rounded as if the exponent were unbounded, is below the least normal number. -/
def Sys2Proof.Cert.roundsTo (f : Fmt) (md : Nat) (sat neg : Bool) (x : ℝ) (r : Nat × Flags) : Prop :=
  let v : Nat → ℝ := fun b => match f.decode b with
    | .fin _ m e => (m : ℝ) * (2 : ℝ) ^ e
    | _ => 0
  let away := (md = 3 ∧ neg = false) ∨ (md = 2 ∧ neg = true)
  let near := md = 0 ∨ md = 4
  let top := v f.maxBits
  let ulp := top - v (f.maxBits - 1)
  let small : ℝ := (2 : ℝ) ^ (f.qmin + (f.fbits : Int))
  let exceeds := (near ∧ (top + ulp / 2 < x ∨ (x = top + ulp / 2 ∧ (md = 4 ∨ f.maxBits % 2 = 1)))) ∨ (away ∧ top < x) ∨
    (¬near ∧ ¬away ∧ top + ulp ≤ x)
  let tiny := (near ∧ x < small - (2 : ℝ) ^ (f.qmin - 2)) ∨ (away ∧ x ≤ small - (2 : ℝ) ^ (f.qmin - 1)) ∨ (¬near ∧ ¬away ∧ x < small)
  (exceeds → r.2 = flagOF ||| flagNX ∧
    (¬near ∧ ¬away → r.1 = f.signed neg f.maxBits) ∧
    (near ∨ away → r.1 = match f with
      | .e4m3 => if sat then f.signed neg f.maxBits else 0x7F
      | .e2m1 => f.signed neg f.maxBits
      | _ => f.signed neg f.infBits)) ∧
  (¬exceeds → ∃ b ≤ f.maxBits, r.1 = f.signed neg b ∧
    (near → ∀ c ≤ f.maxBits, |v b - x| ≤ |v c - x| ∧
      (c ≠ b → |v b - x| = |v c - x| → (md = 0 → b % 2 = 0) ∧ (md = 4 → v c < v b))) ∧
    (away → x ≤ v b ∧ ∀ c ≤ f.maxBits, x ≤ v c → v b ≤ v c) ∧
    (¬near ∧ ¬away → v b ≤ x ∧ ∀ c ≤ f.maxBits, v c ≤ x → v c ≤ v b) ∧
    (v b = x → r.2 = 0) ∧ (v b ≠ x → tiny → r.2 = flagUF ||| flagNX) ∧ (v b ≠ x → ¬tiny → r.2 = flagNX))

/-- The real number that a finite value stands for. -/
def Sys2Proof.Cert.standsFor (a : FV) (x : ℝ) : Prop :=
  match a with
  | .fin n m e => x = (if n then -1 else 1) * (m : ℝ) * (2 : ℝ) ^ e
  | _ => False

/-- The sign of a zero sum of operands with these signs: theirs where they agree, and otherwise + but under RDN (R35). -/
def Sys2Proof.Cert.sumZero (f : Fmt) (md : Nat) (p q : Bool) : Nat × Flags := (f.signed (if p = q then p else md == 2) 0, 0)

/-- The sign of a value. -/
def Sys2Proof.Cert.isNegative (a : FV) : Bool :=
  match a with
  | .fin n _ _ => n
  | .inf n => n
  | .nan _ => false

/-- round_to (R34 to R36), of which every floating-point operation on finite operands is one application: a number and its rounding; sums, products,
fused sums, quotients and square roots; and the conversions of Table 5 with the examples of R35, the saturating one as a conversion to an E4M3
number. -/
def Obligations.Rounding : Prop :=
  (∀ (f : Fmt) (md : Nat) (sat neg : Bool) (m : Nat) (e : Int), md ≤ 4 →
    roundsTo f md sat neg ((m : ℝ) * (2 : ℝ) ^ e) (f.round md sat neg m e false)) ∧
  (∀ (f : Fmt) (md : Nat) (a b c : FV) (x y z : ℝ), md ≤ 4 → standsFor a x → standsFor b y → standsFor c z →
    let crossed := Bool.xor (isNegative a) (isNegative b)
    (x + y ≠ 0 → roundsTo f md false (decide (x + y < 0)) |x + y| (f.add md a b)) ∧
    (x + y = 0 → f.add md a b = sumZero f md (isNegative a) (isNegative b)) ∧
    roundsTo f md false crossed |x * y| (f.mulTo md a b) ∧
    (x * y + z ≠ 0 → roundsTo f md false (decide (x * y + z < 0)) |x * y + z| (f.fma md a b c)) ∧
    (x * y + z = 0 → f.fma md a b c = sumZero f md crossed (isNegative c)) ∧
    (y ≠ 0 → roundsTo f md false crossed |x / y| (f.div md a b)) ∧
    (0 < x → roundsTo f md false false (Real.sqrt x) (f.sqrt md a))) ∧
  (vecConvert 10 12 0 0x3F800000 = (0x38, 0) ∧ vecConvert 10 12 0 0x3E99999A = (0x2A, flagNX) ∧
    vecConvert 10 13 0 0x47600000 = (0x7B, 0) ∧ vecConvert 10 13 0 0x47800000 = (0x7C, flagOF ||| flagNX) ∧
    vecConvert 10 12 0 0x3A800000 = (0x00, flagUF ||| flagNX) ∧ vecConvert 10 0 0 0xC0200000 = (0xFE, flagNX) ∧
    vecConvert 10 0 0 0x43960000 = (0x7F, flagNV) ∧ vecConvert 9 11 0 0x3FC0 = (0x3FF8000000000000, 0)) ∧
  (vecConvert 10 12 0 0x43E60000 = (0x7E, flagNX) ∧ vecConvert 10 12 0 0x43FA0000 = (0x7F, flagOF ||| flagNX) ∧
    vecConvert 10 12 1 0x43FA0000 = (0x7E, flagOF ||| flagNX) ∧
    convertTy (.flt .f32) (.flt .e4m3) 0 true 0x43FA0000 = (0x7E, flagOF ||| flagNX))

/-! ### Branches and jumps -/

/-- A conditional branch goes to pc + 4 × offset where its condition holds, and the next issue is then at least 2 cycles later;
otherwise to the next instruction. No register, flag or byte of memory changes (R86, R88). -/
def Sys2Proof.Cert.branches : Prop :=
  ∀ (s : State) (st : BitVec 3) (a b : BitVec 5) (i : BitVec 13), s.settled →
    let x := s.rX a
    let y := s.rX b
    let goes := fun (j : Instr) (c : Bool) =>
      exec j s = .next (if c then s.after st 2 (s.pc + 4 * i.signExtend 64) else s.after st 0 (s.pc + 4))
    goes (.beq st a b i) (x == y) ∧ goes (.bne st a b i) (x != y) ∧ goes (.blt st a b i) (x.slt y) ∧
    goes (.bge st a b i) (!x.slt y) ∧ goes (.bltn st a b i) (x.ult y) ∧ goes (.bgen st a b i) (!x.ult y)

/-- Jumps write the address of the next instruction to their link register and go to their target; a target of jalr whose bits [1:0]
are not zero traps with 0x0C1, the target as tval and the link register unchanged (R87, R88). -/
def Sys2Proof.Cert.jumps : Prop :=
  ∀ (s : State) (st : BitVec 3) (d a : BitVec 5) (i : BitVec 18) (j : BitVec 13), s.settled →
    (fieldOf s.pc 0 2 = 0 →
      exec (.jump st i) s = .next (s.after st 2 (s.pc + 4 * i.signExtend 64)) ∧
      exec (.jal st d i) s = .next (s.afterX d (s.pc + 4) false 1 true st 2 (s.pc + 4 * i.signExtend 64))) ∧
    (fieldOf (s.rX a + j.signExtend 64) 0 2 = 0 →
      exec (.jalr st d a j) s = .next (s.afterX d (s.pc + 4) false 1 true st 2 (s.rX a + j.signExtend 64))) ∧
    (fieldOf (s.rX a + j.signExtend 64) 0 2 ≠ 0 →
      exec (.jalr st d a j) s = .next (s.enterTrap false s.pc { code := 0x0C1, tval := s.rX a + j.signExtend 64 }))

/-- The branches and the jumps (R87, R88). -/
def Obligations.ControlTransfers : Prop := branches ∧ jumps


/-! ### Loads, stores and prefetch -/

/-- The value of the n bytes at a physical address, little-endian (R50, R81). -/
def Sys2Proof.Cert.bytesAt (s : State) (pa n : Nat) : Nat := leNat ((List.range n).map fun j => memRead s.mem (pa + j))

/-- i loads 2^l bytes into x[d]: r gives the register's value from the loaded number, and a 64-bit load takes the tag of the word. Its
hint decides about the copies of the line alone. -/
def Sys2Proof.Cert.loads (s : State) (i : Instr) (st : BitVec 3) (d : BitVec 5) (va : X) (l hint : Nat) (r : Nat → X) : Prop :=
  ∀ p, s.memOk → va.toNat % 2 ^ l = 0 → s.reaches .load va p →
    let tag := l == 3 && p.managed && tagAt s.tags (p.pa / 8) == 1
    let t := s.touch p (2 ^ l) false hint s.me.core s.hartAgent
    s.copiesFrame t ∧ ∃ lat, exec i s = .next (t.afterX d (r (bytesAt s p.pa (2 ^ l))) tag lat false st 0 (s.pc + 4))

/-- A scalar load from an aligned address that it reaches writes the bytes, sign- or zero-extended, with the reference tag of a 64-bit
load, for every hint; only the copies of lines change beside the hart (R81, R83, R84). -/
def Obligations.Loads : Prop :=
  ∀ (s : State) (st : BitVec 3) (d a : BitVec 5) (h : BitVec 2) (i : BitVec 8), s.settled →
    let at_ := fun (l : Nat) => s.rX a + i.signExtend 64 * BitVec.ofNat 64 (2 ^ l)
    loads s (.lb st d a h i) st d (at_ 0) 0 h.toNat (fun v => (BitVec.ofNat 8 v).signExtend 64) ∧
    loads s (.lh st d a h i) st d (at_ 1) 1 h.toNat (fun v => (BitVec.ofNat 16 v).signExtend 64) ∧
    loads s (.lw st d a h i) st d (at_ 2) 2 h.toNat (fun v => (BitVec.ofNat 32 v).signExtend 64) ∧
    loads s (.ld st d a h i) st d (at_ 3) 3 h.toNat (fun v => BitVec.ofNat 64 v) ∧
    loads s (.lbn st d a h i) st d (at_ 0) 0 h.toNat (fun v => BitVec.ofNat 64 v) ∧
    loads s (.lhn st d a h i) st d (at_ 1) 1 h.toNat (fun v => BitVec.ofNat 64 v) ∧
    loads s (.lwn st d a h i) st d (at_ 2) 2 h.toNat (fun v => BitVec.ofNat 64 v)

/-- i stores the low 2^l bytes of x[d]: exactly those bytes of memory change, and their word gets tag 00. -/
def Sys2Proof.Cert.stores (s : State) (i : Instr) (st : BitVec 3) (d : BitVec 5) (va : X) (l : Nat) : Prop :=
  ∀ p, va.toNat % 2 ^ l = 0 → s.reaches .store va p → ¬(p.managed = true ∧ l = 3 ∧ s.rTag d = true) →
    ∃ t, exec i s = .next t ∧ s.storeFrame t st ∧ t.me.hart.x = s.me.hart.x ∧ t.me.hart.xtag = s.me.hart.xtag ∧
      s.stored t p.pa (2 ^ l) ((s.rX d).toNat % 256 ^ 2 ^ l) ∧
      ∀ w, tagAt t.tags w = if w = p.pa / 8 then 0 else tagAt s.tags w

/-- The header of the object that may contain the word at a physical address, as the check of R205 and the class of R259 read it, holds no poison,
and no codeword of it is in error. -/
abbrev Sys2Proof.Cert.headerClear (s : State) (pa : Nat) : Prop :=
  ∀ h, s.headerBelow (pa / 8) = some h → flipsAt s.flips (h / 2) = [] ∧ s.poisonedAt false (8 * h) = false

/-- i stores the tagged reference x[d] to an aligned word of a managed page (R81, R205). The header that the reference names is read: where it is
no valid header with tag 10 the store traps with 0x142 and the reference as tval. Where the scope T of the object that contains the word is not
private, and is wider than that of the header or the header has pd set, it traps with 0x140, the address as tval and T with the register number
as frame information. Otherwise the word is stored and gets tag 01. The headers' addresses in the frame, and the tval where the containing
object's header is invalid, are left open here (log entry 13). -/
def Sys2Proof.Cert.storesReference (s : State) (i : Instr) (st : BitVec 3) (d : BitVec 5) (va : X) : Prop :=
  ∀ p q, va.toNat % 8 = 0 → s.reaches .store va p → p.managed = true → s.rTag d = true → s.reaches .otherRead (s.rX d) q →
    let ref := s.rX d
    let named := ref.toNat % 8 = 0 ∧ q.managed = true ∧ tagAt s.tags (q.pa / 8) = 2
    let h : X := BitVec.ofNat 64 (bytesAt s q.pa 8)
    let u := s.touch q 8 false 0 s.me.core s.hartAgent
    (¬named → exec i s = .next (s.enterTrap false s.pc { code := 0x142, tval := ref })) ∧
    (named → s.memOk → headerValid h = false → exec i s = .next (u.enterTrap false s.pc { code := 0x142, tval := ref })) ∧
    (named → s.memOk → headerValid h = true → headerClear s p.pa → (∀ h, s.headerBelow (p.pa / 8) = some h → h / 8 ∉ s.hostOwned) →
      (∀ a, s.containing p.pa = .error a → ∃ v, exec i s = .next (u.enterTrap false s.pc { code := 0x142, tval := v })) ∧
      ∀ c, s.containing p.pa = .ok c →
        let scope := match c with | some (_, w) => fieldOf w 36 4 | none => 8
        let escapes := scope ≠ 15 ∧ (scopeRank (fieldOf h 36 4) < scopeRank scope ∨ h.getLsbD 0 = true)
        (escapes → ∃ info, exec i s = .next (u.enterTrap false s.pc
          { code := 0x140, tval := va, info0 := BitVec.ofNat 64 (scope + 256 * d.toNat), info1 := info })) ∧
        (¬escapes → ∃ t, exec i s = .next t ∧ s.storeFrame t st ∧ t.me.hart.x = s.me.hart.x ∧ t.me.hart.xtag = s.me.hart.xtag ∧
          s.stored t p.pa 8 ref.toNat ∧ ∀ w, tagAt t.tags w = if w = p.pa / 8 then 1 else tagAt s.tags w))

/-- A store to a poisoned word of a managed page: one of the whole word clears the poison and stores, a narrower one traps with 0x301 and the
word's physical address (R81, R284, R333). -/
def Sys2Proof.Cert.storesToPoison : Prop :=
  ∀ (s : State) (st : BitVec 3) (d a : BitVec 5) (h : BitVec 2) (i : BitVec 8) (p : Phys), s.settled →
    let at_ := fun (l : Nat) => s.rX a + i.signExtend 64 * BitVec.ofNat 64 (2 ^ l)
    let poisoned := fun (l : Nat) => (at_ l).toNat % 2 ^ l = 0 ∧ s.locate .store (at_ l) = (.ok p, s) ∧ p.managed = true ∧
      tagAt s.tags (p.pa / 8) = 3 ∧ s.sram = [] ∧ ∀ g, g / 8 = p.pa / 128 → flipsAt s.flips g = []
    let denied := fun (j : Instr) (l : Nat) => poisoned l → exec j s = .next (s.enterTrap false s.pc
      { code := 0x301, tval := at_ l, info0 := BitVec.ofNat 64 (p.pa / 8 * 8) })
    denied (.sb st d a h i) 0 ∧ denied (.sh st d a h i) 1 ∧ denied (.sw st d a h i) 2 ∧
    (poisoned 3 → s.rTag d = false →
      ∃ t, exec (.sd st d a h i) s = .next t ∧ s.storeFrame t st ∧ s.stored t p.pa 8 (s.rX d).toNat ∧
        ∀ w, tagAt t.tags w = if w = p.pa / 8 then 0 else tagAt s.tags w)

/-- The stores of plain data. -/
def Sys2Proof.Cert.plainStores : Prop :=
  ∀ (s : State) (st : BitVec 3) (d a : BitVec 5) (h : BitVec 2) (i : BitVec 8), s.settled →
    let at_ := fun (l : Nat) => s.rX a + i.signExtend 64 * BitVec.ofNat 64 (2 ^ l)
    stores s (.sb st d a h i) st d (at_ 0) 0 ∧ stores s (.sh st d a h i) st d (at_ 1) 1 ∧
    stores s (.sw st d a h i) st d (at_ 2) 2 ∧ stores s (.sd st d a h i) st d (at_ 3) 3

/-- A scalar store to an aligned address that it reaches changes exactly the bytes that it stores to, for every hint; a 64-bit store
of a tagged reference to a managed page, ordered or not, passes the escape check, and its word then holds the tag 01; a store to poison (R81, R83,
R201, R205). -/
def Obligations.Stores : Prop :=
  plainStores ∧ storesToPoison ∧
  ∀ (s : State) (st : BitVec 3) (d a : BitVec 5) (h : BitVec 2) (i : BitVec 8) (c : BitVec 4) (o t : BitVec 3), s.settled →
    storesReference s (.sd st d a h i) st d (s.rX a + i.signExtend 64 * 8#64) ∧
    (t.toNat % 4 = 3 → storesReference s (.orderedStore st d a c o t) st d (s.rX a))

/-- The cause and the walk level of the fault of an access that needs no walk: to an address that is not canonical (R82, R301), or to a page whose
translation the core's first TLB holds and does not permit it (R303, R304). -/
def Sys2Proof.Cert.denial (s : State) (kind : Access) (va : X) : Option (Nat × Nat) :=
  if canonical va = false then some (0x080 + kind.cls, 0)
  else
    match s.tlb.find? (fun e => e.covers s.me.core (firstTlb s.me.core kind) s.me.hart.pid va.toNat) with
    | some e => if ptePermits e.pte kind s.me.hart.prv then none else some (0x083 + kind.cls, 3)
    | none => none

/-- The trap that such a fault takes in a vector access (R105, R108, and Table 2 of 14_traps_and_translation): with its stride, the count of
elements left, and the number of pages. -/
def Sys2Proof.Cert.denialTrap (kind : Access) (va : X) (c : Nat × Nat) (stride : X) (left pages : Nat) : Trap :=
  { code := c.1, tval := va, info0 := stride,
    info1 := BitVec.ofNat 64 (left * 2 ^ 32 + c.2 * 2 ^ 28 + kind.code * 2 ^ 24 + min 15 pages * 2 ^ 20), info2 := 0 }

/-- A scalar access whose address is not a multiple of its size traps with 0x0C0 and that address, whatever the address maps to: loads,
stores, ordered accesses, atomics, mkref, and pub of a tagged reference (R81, R201, R203, R205, R206). -/
def Sys2Proof.Cert.misalignedAccessesTrap : Prop :=
  ∀ (s : State) (st : BitVec 3) (d a : BitVec 5) (h : BitVec 2) (i : BitVec 8) (c : BitVec 4) (o : BitVec 3) (z : BitVec 1),
    s.settled →
    let at_ := fun (l : Nat) => s.rX a + i.signExtend 64 * BitVec.ofNat 64 (2 ^ l)
    let trapsAt := fun (j : Instr) (va : X) (l : Nat) =>
      va.toNat % 2 ^ l ≠ 0 → exec j s = .next (s.enterTrap false s.pc { code := 0x0C0, tval := va })
    trapsAt (.lh st d a h i) (at_ 1) 1 ∧ trapsAt (.lw st d a h i) (at_ 2) 2 ∧ trapsAt (.ld st d a h i) (at_ 3) 3 ∧
    trapsAt (.lhn st d a h i) (at_ 1) 1 ∧ trapsAt (.lwn st d a h i) (at_ 2) 2 ∧
    trapsAt (.sh st d a h i) (at_ 1) 1 ∧ trapsAt (.sw st d a h i) (at_ 2) 2 ∧ trapsAt (.sd st d a h i) (at_ 3) 3 ∧
    (∀ t : BitVec 3, trapsAt (.orderedLoad st d a c o t) (s.rX a) (t.toNat % 4)) ∧
    (∀ t : BitVec 3, trapsAt (.orderedStore st d a c o t) (s.rX a) (t.toNat % 4)) ∧
    trapsAt (.amoswap st d a c o z) (s.rX a) (2 + z.toNat) ∧ trapsAt (.amoadd st d a c o z) (s.rX a) (2 + z.toNat) ∧
    trapsAt (.amocas st d a c o z) (s.rX a) (2 + z.toNat) ∧ trapsAt (.amoand st d a c o z) (s.rX a) (2 + z.toNat) ∧
    trapsAt (.amoor st d a c o z) (s.rX a) (2 + z.toNat) ∧ trapsAt (.amoxor st d a c o z) (s.rX a) (2 + z.toNat) ∧
    trapsAt (.amomin st d a c o z) (s.rX a) (2 + z.toNat) ∧ trapsAt (.amomax st d a c o z) (s.rX a) (2 + z.toNat) ∧
    trapsAt (.amominn st d a c o z) (s.rX a) (2 + z.toNat) ∧ trapsAt (.amomaxn st d a c o z) (s.rX a) (2 + z.toNat) ∧
    trapsAt (.mkref st d a) (s.rX a) 3 ∧ (s.rTag d = true → trapsAt (.pub st d a c) (s.rX a) 3)

/-- The faults of an aligned scalar access: an address that is not canonical or a page that does not permit the access traps with the cause of class
0x2 and the frame information of Table 2 of 14_traps_and_translation, a row above the usable ones with 0x20B, a scratch block that the core's
ways do not grant with 0x086 (R81, R82, R159, R284, R301, R304, R310, R315). A load of poison traps with 0x300 and the address of its word (R81,
R332). -/
def Sys2Proof.Cert.accessFaults : Prop :=
  ∀ (s : State) (st : BitVec 3) (d a : BitVec 5) (h : BitVec 2) (i : BitVec 8) (c : BitVec 4) (o : BitVec 3) (z : BitVec 1),
    s.settled →
    let at_ := fun (l : Nat) => s.rX a + i.signExtend 64 * BitVec.ofNat 64 (2 ^ l)
    let faults := fun (j : Instr) (kind : Access) (va : X) (l : Nat) =>
      let traps := fun (t : Trap) => exec j s = .next (s.enterTrap false s.pc t)
      va.toNat % 2 ^ l = 0 →
        (∀ q, denial s kind va = some q → traps (denialTrap kind va q 0 1 1)) ∧
        (∀ p, s.translate s.me.core s.pid s.me.hart.prv kind va s.hartAgent = (.ok p, s) →
          (isDram p.pa = true → 1008 ≤ rowOf p.pa → traps { code := 0x20B, tval := va }) ∧
          (isDram p.pa = false → isScratch p.pa = true → s.scratchLost p.pa = false →
            64 * (s.wpart (p.pa / 2 ^ 36 % 8) (p.pa / 2 ^ 14 % 8)).req ≤ p.pa / 2 ^ 17 % 1024 →
            traps (denialTrap kind va (0x086, 3) 0 1 1))) ∧
        (∀ p, kind = .load → s.locate .load va = (.ok p, s) → s.sram = [] → (∀ g, g / 8 = p.pa / 128 → flipsAt s.flips g = []) →
          tagAt s.tags (p.pa / 8) = 3 → p.managed = true ∨ (tagAt s.tags (p.pa / 16 * 2) = 3 ∧ tagAt s.tags (p.pa / 16 * 2 + 1) = 3) →
          traps { code := 0x300, tval := va, info0 := BitVec.ofNat 64 (p.pa / 8 * 8) })
    let amo := fun (j : Instr) => faults j .store (s.rX a) (2 + z.toNat)
    faults (.lb st d a h i) .load (at_ 0) 0 ∧ faults (.lh st d a h i) .load (at_ 1) 1 ∧ faults (.lw st d a h i) .load (at_ 2) 2 ∧
    faults (.ld st d a h i) .load (at_ 3) 3 ∧ faults (.lbn st d a h i) .load (at_ 0) 0 ∧ faults (.lhn st d a h i) .load (at_ 1) 1 ∧
    faults (.lwn st d a h i) .load (at_ 2) 2 ∧ faults (.sb st d a h i) .store (at_ 0) 0 ∧ faults (.sh st d a h i) .store (at_ 1) 1 ∧
    faults (.sw st d a h i) .store (at_ 2) 2 ∧ faults (.sd st d a h i) .store (at_ 3) 3 ∧
    (∀ t : BitVec 3, faults (.orderedLoad st d a c o t) .load (s.rX a) (t.toNat % 4)) ∧
    (∀ t : BitVec 3, faults (.orderedStore st d a c o t) .store (s.rX a) (t.toNat % 4)) ∧
    amo (.amoswap st d a c o z) ∧ amo (.amoadd st d a c o z) ∧ amo (.amocas st d a c o z) ∧ amo (.amoand st d a c o z) ∧
    amo (.amoor st d a c o z) ∧ amo (.amoxor st d a c o z) ∧ amo (.amomin st d a c o z) ∧ amo (.amomax st d a c o z) ∧
    amo (.amominn st d a c o z) ∧ amo (.amomaxn st d a c o z)

/-- The traps of scalar accesses. -/
def Obligations.ScalarAccessTraps : Prop := misalignedAccessesTrap ∧ accessFaults

/-- A prefetch completes whatever its address maps to, never traps on it, and changes no register, no tag and no byte of memory of a
module without flipped bits, in which no bank, row-lock or way holds an access back; vpref and vprefs, which packed elements make trap with 0x183, leave kf (R85, R101, R118). -/
def Obligations.PrefetchesComplete : Prop :=
  ∀ (s : State) (st : BitVec 3) (a b : BitVec 5) (i : BitVec 8) (k : BitVec 3) (t : BitVec 2), s.flips = [] → s.sram = [] → s.seq = [] →
    s.locks = [] → s.wparts = [] → (∀ die < 16, refreshRest die s.cycle = 0) → s.lateRefreshes = [] →
    let quiet := fun (j : Instr) => ∃ u, exec j s = .next u ∧ u.pc = s.pc + 4 ∧ u.me.hart.es = 0 ∧ u.mem = s.mem ∧ u.tags = s.tags ∧
      u.me.hart.x = s.me.hart.x ∧ u.me.hart.xtag = s.me.hart.xtag ∧ u.me.hart.status = s.me.hart.status ∧
      u.me.vec = s.me.vec ∧ u.me.hart.p = s.me.hart.p
    (s.settled → quiet (.pref st t a i)) ∧ (s.vectorReady → 8 ≤ s.me.vec.width → quiet (.vpref st a k t) ∧ quiet (.vprefs st a b k t))

/-! ### Prefixes and early reads -/

/-- PFX makes its word pending for the next instruction and goes on in the next cycle; under a pending prefix it traps with 0x004 (R8, R58, R62),
and the tval is then the word under issue, which is the model's choice (log entry 16). What the event counters do is left open here (log entry 44). -/
def Sys2Proof.Cert.prefixBecomesPending : Prop :=
  ∀ (s : State) (k : BitVec 3) (p e : BitVec 1) (c : BitVec 2) (r : BitVec 5), s.me.live = true →
    (s.me.hart.pv = false →
      ∃ t, exec (.pfx k p e c r) s = .next t ∧ t = s.modHart fun h => { h with
        pv := true, pword := 0b000001#6 ++ k ++ p ++ e ++ c ++ r ++ 0#14, es := 0, pc := s.pc + 4, readyAt := s.cycle + 1,
        overrides := [], cnt := t.me.hart.cnt }) ∧
    (s.me.hart.pv = true →
      exec (.pfx k p e c r) s = .next (s.enterTrap false s.pc { code := 0x004, tval := s.me.hart.word.setWidth 64 }))

/-- Under a pending prefix whose predicate is 0 at element 0, the scalar instructions named here have no effect: each completes with
registers and memory as they were and the prefix used up (R59). That `after` leaves pfxs.word as it was, with pfxs.pv clear, is the
model's choice (log entry 34). -/
def Sys2Proof.Cert.falsePredicateHasNoEffect : Prop :=
  ∀ (s : State) (st : BitVec 3) (d a b : BitVec 5) (i : BitVec 13) (h : BitVec 2) (j : BitVec 8),
    s.me.live = true → s.me.hart.pend = [] → s.me.hart.overrides = [] → s.me.hart.pv = true →
    s.me.hart.pword.getLsbD 21 = false → s.vecDenied = false → s.pred 0 = false → (s.me.hart.ss && !s.me.hart.prv) = false →
    let nothing := fun (n : Instr) => exec n s = .next (s.after st 0 (s.pc + 4))
    nothing (.addR st d a b) ∧ nothing (.addi st d a i) ∧ nothing (.mul st d a b) ∧ nothing (.div st d a b) ∧
    nothing (.ld st d a h j) ∧ nothing (.sd st d a h j) ∧ nothing (.beq st a b i) ∧ nothing (.jalr st d a i) ∧
    nothing (.mkref st d a)

/-- Under a pending prefix, with add, vadd and vmseq as examples (R59, R60): a scalar successor whose predicate is 1 has its effect; a vector successor processes only the elements that the
predicate and its own mask enable, and has no effect under pfx k0 with polarity 1; a copy register of the class of the
destination gets the same result, the same elements of it and the same tag, and keeps its others; a copy register of another class traps with
0x004. That the tval is then the word is the model's choice (log entry 16), and so is that `after` and the frames leave pfxs.word (log
entry 34). -/
def Sys2Proof.Cert.prefixedResults : Prop :=
  ∀ (s : State) (st e : BitVec 3) (d a b : BitVec 5) (k : BitVec 3), s.me.live = true → s.me.hart.pend = [] → s.me.hart.overrides = [] →
    s.me.hart.pv = true → s.vecDenied = false → (s.me.hart.ss && !s.me.hart.prv) = false →
    let pw := s.me.hart.pword
    let pk := pw.extractLsb' 23 3
    let on := fun n => (s.rK pk).getLsbD n != pw.getLsbD 22
    let noOp := pk = 0 ∧ pw.getLsbD 22 = true
    let copies := pw.getLsbD 21
    let c := pw.extractLsb' 14 5
    let ck := pw.extractLsb' 14 3
    let pairs := fun (cls : BitVec 2) => copies = true → pw.extractLsb' 19 2 = cls
    let apart := fun (i : Instr) => exec i s = .next (s.enterTrap false s.pc { code := 0x004, tval := s.me.hart.word.setWidth 64 })
    (¬pairs 0 → apart (.addR st d a b)) ∧
    (pairs 0 → on 0 = true → ∃ t, exec (.addR st d a b) s = .next t ∧
      (∀ r, t.rX r = if (r = d ∨ (copies = true ∧ r = c)) ∧ r ≠ 0 then s.rX a + s.rX b else s.rX r) ∧
      (∀ r, t.rTag r = if (r = d ∨ (copies = true ∧ r = c)) ∧ r ≠ 0 then false else s.rTag r) ∧
      t = (s.after st 0 (s.pc + 4)).modHart fun h => { h with x := t.me.hart.x, xtag := t.me.hart.xtag }) ∧
    ((s.modHart fun h => { h with pv := false }).vectorReady → 8 ≤ s.me.vec.width →
      let w := s.me.vec.width
      let p := fun n => s.active k n ∧ on n = true
      let sum := fun n => s.elem a n + s.elem b n
      (¬pairs 1 → apart (.vadd st d a b k)) ∧
      (pairs 1 → noOp → exec (.vadd st d a b k) s = .next (s.after st 0 (s.pc + 4))) ∧
      (pairs 1 → ¬noOp → ∃ t, exec (.vadd st d a b k) s = .next t ∧ s.elemsBecome t d w p sum ∧
        (copies = true → s.elemsBecome t c w p sum) ∧ s.keepsV t (if copies then [d, c] else [d]) ∧ s.vecFrame t st s.me.hart.status) ∧
      (¬pairs 2 → apart (.vmseq st e a b k)) ∧
      (pairs 2 → ¬noOp → ∃ t, exec (.vmseq st e a b k) s = .next t ∧ s.maskFrame t st s.me.hart.status ∧ t.me.hart.x = s.me.hart.x ∧
        t.me.hart.xtag = s.me.hart.xtag ∧
        ∀ n, ∀ j < 4096, ((n = e ∨ (copies = true ∧ n = ck)) ∧ n ≠ 0 ∧ p j → (t.rK n).getLsbD j = (s.elem a j == s.elem b j)) ∧
          (¬((n = e ∨ (copies = true ∧ n = ck)) ∧ n ≠ 0 ∧ p j) → (t.rK n).getLsbD j = (s.rK n).getLsbD j)))

/-- The prefix, the predicate that it holds, and the copy register that it names. -/
def Obligations.Prefixes : Prop := prefixBecomesPending ∧ falsePredicateHasNoEffect ∧ prefixedResults


/-- The early reads of x registers, of add as an example: with status.sc set, a source whose fixed-latency result is not current traps: 0x040
with the register in bits [7:0] and the missing cycles in bits [15:8] (R57). With status.sc clear it is read as the register's value before the producer, or as the result; that an
instruction which reads a register twice reads one value is the model's (log entry 7). A scoreboarded result is waited for instead: the
instruction issues again in the cycle in which the result is ready (R55). -/
def Sys2Proof.Cert.scalarEarlyReads : Prop :=
  ∀ (s : State) (st : BitVec 3) (d a b : BitVec 5) (p : Pend) (v : X), s.me.live = true → s.me.hart.pv = false → a ≠ 0 →
    s.me.hart.pend = [p] → p.before = .x a v → s.cycle < p.ready → p.ready < s.cycle + 256 →
    (p.fixed = true → s.me.hart.sc = true →
      exec (.addR st d a b) s = .next (s.enterTrap false s.pc
        { code := 0x040, tval := BitVec.ofNat 64 (a.toNat + 256 * (p.ready - s.cycle)) })) ∧
    (p.fixed = true → s.me.hart.sc = false → s.me.hart.overrides = [] → (s.me.hart.ss && !s.me.hart.prv) = false →
      ∃ t y, exec (.addR st d a b) s = .next t ∧ (y = v ∨ y = s.rX a) ∧ t.pc = s.pc + 4 ∧ t.mem = s.mem ∧
        ∀ r, t.rX r = if r = d ∧ d ≠ 0 then y + (if b = a then y else s.rX b) else s.rX r) ∧
    (p.fixed = false →
      exec (.addR st d a b) s = .next (s.modHart fun h => { h with
        readyAt := p.ready, stall := (s.cycle, p.ready), held := true, overrides := [] }))

/-- The early reads of v and k registers with status.sc set, of vadd and kand as examples: they trap with 0x041 and 0x042 and the same tval (R57).
A scoreboarded result is waited for. -/
def Sys2Proof.Cert.vectorEarlyReads : Prop :=
  ∀ (s : State) (st c : BitVec 3) (d a b : BitVec 5) (k e f : BitVec 3) (p : Pend), (s.modHart fun h => { h with pend := [] }).vectorReady →
    s.me.hart.pend = [p] → s.cycle < p.ready → p.ready < s.cycle + 256 →
    let early := fun (i : Instr) (code num : Nat) =>
      (p.fixed = true → s.me.hart.sc = true → exec i s = .next (s.enterTrap false s.pc
        { code := code, tval := BitVec.ofNat 64 (num + 256 * (p.ready - s.cycle)) })) ∧
      (p.fixed = false → exec i s = .next (s.modHart fun h => { h with
        readyAt := p.ready, stall := (s.cycle, p.ready), held := true, overrides := [] }))
    (∀ v, p.before = .v a v → 8 ≤ s.me.vec.width →
      early (.vadd st d a b k) 0x041 a.toNat ∧ early (.vadd st d b a k) 0x041 a.toNat) ∧
    ∀ v, p.before = .k c v → c ≠ 0 → early (.kand st e c f) 0x042 c.toNat ∧ early (.kand st e f c) 0x042 c.toNat

/-- What a read of a register whose result is in flight does. -/
def Obligations.EarlyReads : Prop := scalarEarlyReads ∧ vectorEarlyReads

/-! ### Traps, returns and levels -/

/-- Taking a trap (R283, R284): the cause with bit 63 for an asynchronous one, epc and tval are saved, the level and the interrupt enable
move to pp and pie, the hart goes on at supervisor level with interrupts off at tvec, es and the pending prefix are cleared after the
frame of eight words has been stored at the hart's frame address, and the first instruction of the handler issues 16 cycles later, after
a race in flight (R193). No other register, no register of the vector state and no other byte of memory changes. Where the frame's bank
or row-lock holds it back, it is stored once they do not (R169, R178); where its address backs no memory, the hart stops (R284). -/
def Obligations.TrapEntry : Prop :=
  ∀ (s : State) (isAsync : Bool) (epc : X) (t : Trap),
    let h := s.me.hart
    let frame := ((s.part? h.pid).map (fun p => p.cfg.frames)).getD 0 + 64 * h.hid.toNat
    let cause : X := BitVec.ofNat 64 ((if isAsync then 2 ^ 63 else 0) + t.code)
    let words := [cause, epc, t.tval, BitVec.ofNat 64 ((if h.pv then 2 ^ 63 else 0) + h.pword.toNat), h.es.setWidth 64, t.info0, t.info1,
      t.info2]
    let race := s.me.vec.raceEnd.getD 0
    let reserved := isDram frame = true ∧ 1008 ≤ rowOf frame
    let u := s.enterTrap isAsync epc t
    let entered := { h with
      cause := cause, epc := epc, tval := t.tval, status := u.me.hart.status, es := 0, pv := false, pword := 0, begun := none,
      reached := [], held := false, paused := false,
      pc := h.tvec &&& ~~~3#64, readyAt := max s.cycle race + 16, stall := (0, 0), pend := [], overrides := [], wait := none,
      waitSince := s.cycle, frame := none }
    u.me.hart.prv = true ∧ u.me.hart.pp = h.prv ∧ u.me.hart.ie = false ∧ u.me.hart.pie = h.ie ∧
    (∀ i, ¬(15 ≤ i ∧ i ≤ 18) → u.me.hart.status.getLsbD i = h.status.getLsbD i) ∧
    (s.dramWaits frame (some (h.pid, h.hid)) = false → ¬reserved → (isDram frame = true → s.dramLost frame = false) →
      (isScratch frame = true → s.scratchLost frame = false) → (∀ g ∈ granules frame 64, flipsAt s.flips (g / 16) = []) →
      u.me.hart = entered ∧ (∀ a, a < frame ∨ frame + 64 ≤ a → memRead u.mem a = memRead s.mem a) ∧
      (∀ j < 8, ∀ b < 8, memRead u.mem (frame + 8 * j + b) = ((words.getD j 0).extractLsb' (8 * b) 8 : BitVec 8)) ∧
      u = { s with
        me := { s.me with hart := u.me.hart, vec := { s.me.vec with pregs := u.me.vec.pregs, streams := u.me.vec.streams } }
        fife := u.fife, mem := u.mem, tags := u.tags, flips := u.flips, sram := u.sram, hostHeld := u.hostHeld, hostOwned := u.hostOwned }) ∧
    (s.dramWaits frame (some (h.pid, h.hid)) = true →
      u.me.hart = { entered with wait := some (.bank frame true), frame := some words } ∧ u = { s with me := { s.me with hart := u.me.hart } }) ∧
    (s.dramWaits frame (some (h.pid, h.hid)) = false → reserved →
      u.me.hart = { entered with stopped := true } ∧ u.mem = s.mem)

/-- ecall traps with 0x380 from user level and 0x381 from supervisor level, break with 0x340, whatever status.ss; tval is the word's
operand, and epc the address of the instruction itself. An ecall word with n = 0 is no instruction: it traps with 0x001 where its stall
count is 0, and with 0x000 otherwise (R90, R91). -/
def Obligations.CallsTrap : Prop :=
  ∀ (s : State) (st : BitVec 3) (n : BitVec 5), s.me.live = true → s.me.hart.pend = [] → s.me.hart.pv = false →
    let w := st.setWidth 32 <<< 23
    exec (.ecall st n) s =
      .next (s.enterTrap false s.pc { code := if s.me.hart.prv then 0x381 else 0x380, tval := n.setWidth 64 }) ∧
    exec (.brk st n) s = .next (s.enterTrap false s.pc { code := 0x340, tval := n.setWidth 64 }) ∧
    decode w = .error (if st = 0 then .permanentlyIllegal else .badOperand) ∧
    exec (.illegalInstruction w) s =
      .next (s.enterTrap false s.pc { code := if st = 0 then 0x001 else 0x000, tval := w.setWidth 64 })

/-- eret at supervisor level goes to epc, with es and the pending prefix taken from its operands, prv from pp, ie from pie, pie set and pp cleared; the
resumed instruction issues 8 cycles later, and a return to user level in another hart's vector state sets the lazy switch (R92, R283,
R295). A prefix operand that is no PFX word traps with 0x000 and that word. -/
def Obligations.ReturnFromTrap : Prop :=
  ∀ (s : State) (st : BitVec 3) (e p : BitVec 5), s.settled → s.me.hart.prv = true →
    let xe := s.rX e
    let xp := s.rX p
    (¬(xp.getLsbD 63 = true ∧ legalPfx (xp.extractLsb' 0 32) = false) →
      ∃ t, exec (.eret st e p) s = .next t ∧
        t.me.hart = { s.me.hart with
          pc := s.me.hart.epc, es := xe.extractLsb' 0 18, pv := xp.getLsbD 63, pword := xp.extractLsb' 0 32, readyAt := s.cycle + 8,
          stall := (0, 0), overrides := [], reached := [], status := t.me.hart.status, cnt := (s.me.hart.count 3 1).cnt } ∧
        t.me.hart.prv = s.me.hart.pp ∧ t.me.hart.ie = s.me.hart.pie ∧ t.me.hart.pie = true ∧ t.me.hart.pp = false ∧
        (∀ i, ¬(15 ≤ i ∧ i ≤ 18) → t.me.hart.status.getLsbD i = s.me.hart.status.getLsbD i) ∧
        t.me.vec = (if s.me.hart.pp = false ∧ s.owns = false then { s.me.vec with lz := true } else s.me.vec) ∧
        t = { s with me := t.me }) ∧
    (xp.getLsbD 63 = true → legalPfx (xp.extractLsb' 0 32) = false →
      exec (.eret st e p) s = .next (s.enterTrap false s.pc { code := 0x000, tval := (xp.extractLsb' 0 32).setWidth 64 }))

/-- At user level, the instructions of supervisor level and the accesses to control registers that are closed to user level trap with
0x002 (R12, R92, R93, R95). -/
def Sys2Proof.Cert.userLevelMayNot : Prop :=
  ∀ (s : State) (st : BitVec 3) (d e p a : BitVec 5) (c : BitVec 9), s.me.live = true → s.me.hart.pend = [] → s.me.hart.pv = false →
    s.me.hart.prv = false →
    let denied := fun (i : Instr) => exec i s = .next (s.enterTrap false s.pc { code := 0x002 })
    denied (.eret st e p) ∧ denied (.wfi st) ∧ denied (.tlbi st a) ∧ denied (.tlbia st) ∧ denied (.syswVown st a) ∧
    denied (.syswWpart st a) ∧
    ((1 ≤ c.toNat ∧ c.toNat ≤ 4) ∨ c = 0x18 ∨ c = 0x19 ∨ c = 0x21 ∨ c = 0x30 ∨ (0x48 ≤ c.toNat ∧ c.toNat ≤ 0x4F) →
      denied (.sysr st d c) ∧ denied (.sysw st a c))

/-- Instructions that read or write the vector state, of which these stand for all: a hart that does not own it traps with 0x180 while vown.lz is set, or at user
level (R18, R295); one without lane groups traps with 0x182 where a v register is read or written (R24); with vtype.vill set those that depend on
the configuration trap with 0x183 (R16). -/
def Sys2Proof.Cert.vectorStateDenied : Prop :=
  ∀ (s : State) (st : BitVec 3) (d a b : BitVec 5) (k e f : BitVec 3) (h : BitVec 2) (l : BitVec 1) (c : BitVec 9) (t : BitVec 2),
    s.me.live = true → s.me.hart.pv = false →
    let traps := fun (code : Nat) (i : Instr) => exec i s = .next (s.enterTrap false s.pc { code := code })
    let elems : List Instr :=
      [.vadd st d a b k, .vfadd st d a b k l, .vmseq st e a b k, .vmvx st d a b, .vsel st d a b k, .vperm st d a b k, .vrsum st d a b k,
       .vld st d a k h, .vst st d a k h, .vlds st d a b k h, .vldx st d a b k h, .vstx st d a b k h, .vbind st d a, .vname st d a]
    (s.owns = false → s.me.vec.lz = true ∨ s.me.hart.prv = false →
      (∀ i ∈ elems, traps 0x180 i) ∧ traps 0x180 (.kand st e f k) ∧ traps 0x180 (.setvl st d a b) ∧ traps 0x180 (.setvlm st d a b) ∧
      traps 0x180 (.dwrst st) ∧ (s.me.vec.vill = false → traps 0x180 (.mzero st t)) ∧
      (c = 0x011 ∨ c = 0x012 ∨ c = 0x015 ∨ c = 0x016 ∨ (0x100 ≤ c.toNat ∧ c.toNat ≤ 0x13F) →
        traps 0x180 (.sysr st d c) ∧ traps 0x180 (.sysw st a c))) ∧
    (s.owns = true → s.me.vec.grant = 0 → (∀ i ∈ elems, traps 0x182 i) ∧ (s.me.vec.vill = false → traps 0x182 (.mzero st t))) ∧
    (s.owns = true → 1 ≤ s.me.vec.grant → s.me.vec.vill = true →
      (∀ i ∈ elems, traps 0x183 i) ∧ traps 0x183 (.kand st e f k) ∧ traps 0x183 (.mzero st t))

/-- What the level, and the holder and the configuration of the vector state, deny. -/
def Obligations.DeniedInstructionsTrap : Prop := userLevelMayNot ∧ vectorStateDenied

/-! ### Control registers and system instructions -/

/-- sysr writes the value of the control register to x[d], a result that readers wait for: the registers of R12 by number, at every level that
may read them, and those of the vector state for its owner. status, es, vl, vtype and kf are read once every earlier instruction of
the hart has completed, its MOPs, its race and its writes of the Dawn array among them (R13), and dwin once a dwwin has written it (R55, R191). A number that Table 2 of 01_machine_state does not list traps sysr and
sysw with 0x003 and the word (R12 to R21, R68, R97). How long readers wait is left open here (log entry 41). -/
def Obligations.ControlRegisterReads : Prop :=
  ∀ (s : State) (st : BitVec 3) (d : BitVec 5) (c : BitVec 9), s.settled →
    let h := s.me.hart
    let v := s.me.vec
    (cregSupervisor c.toNat = true → h.prv = true) → (cregVector c.toNat = true → s.vecDenied = false) →
    let all := max ((v.chain.map (fun q => q.2) ++ v.raceEnd.toList).foldl max 0) v.dawnAt
    let late := c = 0x000 ∨ c = 0x010 ∨ c = 0x011 ∨ c = 0x012 ∨ (0x100 ≤ c.toNat ∧ c.toNat ≤ 0x13F)
    let busy := if late then all else if c = 0x016 then v.dawnAt else 0
    let reads := fun (w : X) => busy ≤ s.cycle → givesLate s (.sysr st d c) st d w
    (late ∨ c = 0x016 → s.cycle < busy → exec (.sysr st d c) s = .next (s.modHart fun r => { r with
      readyAt := busy, stall := (s.cycle, busy), held := true, overrides := [] })) ∧
    (c = 0x000 → reads h.status) ∧ (c = 0x001 → reads h.cause) ∧ (c = 0x002 → reads h.epc) ∧ (c = 0x003 → reads h.tval) ∧
    (c = 0x004 → reads h.tvec) ∧ (c = 0x005 → reads (h.hid.setWidth 64)) ∧ (c = 0x010 → reads (h.es.setWidth 64)) ∧
    (c = 0x011 → reads v.vl) ∧
    (c = 0x012 → reads (BitVec.ofNat 64 ((if v.vill then 2 ^ 63 else 0) + v.bl.toNat * 8 + v.sew.toNat))) ∧
    (c = 0x013 → reads (BitVec.ofNat 64 ((if s.vecDenied then 0 else v.grant) * 1024))) ∧ (c = 0x014 → reads s.lanes) ∧ (c = 0x015 → reads (v.msr.setWidth 64)) ∧
    (c = 0x016 → reads (v.dwin.setWidth 64)) ∧
    (c = 0x017 → reads (BitVec.ofNat 64 ((if h.pv then 2 ^ 63 else 0) + h.pword.toNat))) ∧ (c = 0x018 → reads v.vdirty) ∧
    (c = 0x019 → reads (BitVec.ofNat 64 ((if v.lz then 2 ^ 63 else 0) + v.owner.toNat))) ∧ (c = 0x020 → reads (BitVec.ofNat 64 s.cycle)) ∧
    (c = 0x021 → reads h.mcmp) ∧ (c = 0x030 → reads s.wpartWord) ∧
    (∀ j : Fin 8, c.toNat = 0x040 + j.val → reads h.cnt[j]) ∧ (∀ j : Fin 8, c.toNat = 0x048 + j.val → reads h.cntev[j]) ∧
    (∀ j < 64, c.toNat = 0x100 + j → reads (v.kf.extractLsb' (64 * j) 64)) ∧
    (¬(c.toNat ≤ 0x005 ∨ (0x010 ≤ c.toNat ∧ c.toNat ≤ 0x019) ∨ c = 0x020 ∨ c = 0x021 ∨ c = 0x030 ∨
        (0x040 ≤ c.toNat ∧ c.toNat ≤ 0x04F) ∨ (0x100 ≤ c.toNat ∧ c.toNat ≤ 0x13F)) →
      let absent := s.enterTrap false s.pc { code := 0x003, tval := h.word.setWidth 64 }
      exec (.sysr st d c) s = .next absent ∧ exec (.sysw st d c) s = .next absent)

/-- sysw at supervisor level writes the writable fields of the register that it names and nothing else: the read-only registers and bits
stay (R12 to R21, R97). es and pfxs get their value after the clearing of R7. That a sysw of a counter or of its event is itself counted after its
write is the model's choice (log entry 35). -/
def Sys2Proof.Cert.controlRegisterWrites : Prop :=
  ∀ (s : State) (st : BitVec 3) (a : BitVec 5) (c : BitVec 9), s.settled → s.me.hart.prv = true → s.vecDenied = false →
    let w := s.rX a
    let hart := fun (f : Hart → Hart) => exec (.sysw st a c) s = .next ((s.after st 0 (s.pc + 4)).modHart f)
    let vec := fun (f : Vec → Vec) =>
      exec (.sysw st a c) s = .next ((s.after st 0 (s.pc + 4)).modVec fun v => { f v with vdirty := v.vdirty ||| 0x100000000000#64 })
    (c = 0x001 → hart fun h => { h with cause := w &&& 0x80000000000003FF#64 }) ∧ (c = 0x002 → hart fun h => { h with epc := w }) ∧
    (c = 0x003 → hart fun h => { h with tval := w }) ∧ (c = 0x004 → hart fun h => { h with tvec := w &&& ~~~3#64 }) ∧
    (c = 0x005 → hart id) ∧ (c = 0x011 → vec fun v => { v with vl := w, vill := ({ v with vl := w } : Vec).illegal }) ∧
    (c = 0x012 → vec fun v =>
      let u : Vec := { v with bl := w.extractLsb' 3 2, sew := w.extractLsb' 0 3 }
      { u with vill := u.illegal }) ∧
    (∀ j : Fin 8, c.toNat = 0x040 + j.val → exec (.sysw st a c) s =
      .next ((s.modHart fun h => { h with cnt := h.cnt.set j w }).after st 0 (s.pc + 4))) ∧
    (∀ j : Fin 8, c.toNat = 0x048 + j.val → exec (.sysw st a c) s =
      .next ((s.modHart fun h => { h with cntev := h.cntev.set j (w &&& 0xFF) }).after st 0 (s.pc + 4))) ∧
    (c = 0x010 → hart fun h => { h with es := w.extractLsb' 0 18 }) ∧ (c = 0x013 → hart id) ∧
    (c = 0x014 → hart fun h => { h with lanesReq := if 17 ≤ (w.extractLsb' 0 5).toNat then 16 else w.extractLsb' 0 5 }) ∧
    (c = 0x015 → vec fun v => { v with msr := w.extractLsb' 0 5 }) ∧
    (c = 0x016 → w.extractLsb' 0 10 ≠ 0#10 → vec fun v => { v with dwin := w.extractLsb' 0 10 }) ∧
    (c = 0x016 → w.extractLsb' 0 10 = 0#10 → hart id) ∧
    (c = 0x017 → hart fun h => { h with pv := w.getLsbD 63, pword := w.extractLsb' 0 32 }) ∧ (c = 0x020 → hart id) ∧
    (c = 0x018 → exec (.sysw st a c) s =
      .next ((s.after st 0 (s.pc + 4)).modVec fun v => { v with vdirty := w &&& 0x1FFEFFFFFFFF#64 })) ∧
    (c = 0x021 → hart fun h => { h with mcmp := w }) ∧
    (∀ j < 64, c.toNat = 0x100 + j → vec fun v => { v with kf := setField v.kf (64 * j) 64 w.toNat })

/-- The write of status (R14): at supervisor level the fields sc, ru, rm, ff, fen, pp to fm follow the operand, at user level only those
below bit 15; a reserved rounding mode leaves rm; prv and the bits from 25 on never change, and nothing else changes but what every completion
writes. -/
def Sys2Proof.Cert.statusWrites : Prop :=
  ∀ (s : State) (st : BitVec 3) (a : BitVec 5), s.settled →
    let w := s.rX a
    let rm := (w.extractLsb' 2 3).toNat
    ∃ t, exec (.sysw st a 0x000) s = .next t ∧
      (∀ i, i < 2 ∨ (5 ≤ i ∧ i < 15) → t.me.hart.status.getLsbD i = w.getLsbD i) ∧
      (∀ i, 2 ≤ i ∧ i < 5 → t.me.hart.status.getLsbD i = if rm ≤ 4 then w.getLsbD i else s.me.hart.status.getLsbD i) ∧
      (∀ i, 16 ≤ i ∧ i < 25 → t.me.hart.status.getLsbD i = if s.me.hart.prv then w.getLsbD i else s.me.hart.status.getLsbD i) ∧
      (∀ i, i = 15 ∨ 25 ≤ i → t.me.hart.status.getLsbD i = s.me.hart.status.getLsbD i) ∧
      t = (s.after st 0 (s.pc + 4)).modHart fun h => { h with status := t.me.hart.status }

/-- sysw at user level by a hart that owns its vector state (R12): es, lanes.req, msr, dwin and kf take the operand as at supervisor level; the
registers that user level may only read, hid, vl, vtype, vlmax, pfxs, mtime and the counters, stay, and the write does not trap. -/
def Sys2Proof.Cert.userLevelWrites : Prop :=
  ∀ (s : State) (st : BitVec 3) (a : BitVec 5) (c : BitVec 9), s.settled → s.me.hart.prv = false → s.owns = true →
    let w := s.rX a
    let hart := fun (f : Hart → Hart) => exec (.sysw st a c) s = .next ((s.after st 0 (s.pc + 4)).modHart f)
    let vec := fun (f : Vec → Vec) =>
      exec (.sysw st a c) s = .next ((s.after st 0 (s.pc + 4)).modVec fun v => { f v with vdirty := v.vdirty ||| 0x100000000000#64 })
    (c = 0x010 → hart fun h => { h with es := w.extractLsb' 0 18 }) ∧
    (c = 0x014 → hart fun h => { h with lanesReq := if 17 ≤ (w.extractLsb' 0 5).toNat then 16 else w.extractLsb' 0 5 }) ∧
    (c = 0x015 → vec fun v => { v with msr := w.extractLsb' 0 5 }) ∧
    (c = 0x016 → w.extractLsb' 0 10 ≠ 0#10 → vec fun v => { v with dwin := w.extractLsb' 0 10 }) ∧
    (c = 0x016 → w.extractLsb' 0 10 = 0#10 → hart id) ∧
    (∀ j < 64, c.toNat = 0x100 + j → vec fun v => { v with kf := setField v.kf (64 * j) 64 w.toNat }) ∧
    (c = 0x005 ∨ c = 0x011 ∨ c = 0x012 ∨ c = 0x013 ∨ c = 0x017 ∨ c = 0x020 ∨ (0x040 ≤ c.toNat ∧ c.toNat ≤ 0x047) →
      exec (.sysw st a c) s = .next (s.after st 0 (s.pc + 4)))

/-- The writes of control registers at either level, of status among them. -/
def Obligations.ControlRegisterWritesTakeEffect : Prop := controlRegisterWrites ∧ statusWrites ∧ userLevelWrites


/-- What the other system instructions do (R93 to R96): wfi completes where an asynchronous cause is pending and waits otherwise; fencei only
completes; tlbi and tlbia drop the translations that they cover at once, and then wait for the accepted plane instructions of the partition that
they cover, if any (R165); tlbi of a non-canonical address drops none; vname gives bit 63, the variant and the CRC of a named register, and 0 for an unnamed one; how
long readers of its result wait is left open here (log entry 41). -/
def Obligations.SystemInstructions : Prop :=
  ∀ (s : State) (st : BitVec 3) (d a : BitVec 5), s.settled →
    exec (.fencei st) s = .next (s.after st 0 (s.pc + 4)) ∧
    (s.me.hart.prv = true → s.me.hart.async ≠ [] ∨ s.alarmDue s.me.hart = true → exec (.wfi st) s = .next (s.after st 0 (s.pc + 4))) ∧
    (s.me.hart.prv = true → s.me.hart.async = [] → s.alarmDue s.me.hart = false →
      exec (.wfi st) s = .next (waiting s .wfi)) ∧
    (s.me.hart.prv = true → canonical (s.rX a) = false → exec (.tlbi st a) s = .next (s.after st 0 (s.pc + 4))) ∧
    (s.me.hart.prv = true → canonical (s.rX a) = true → s.planeWork s.pid (some (s.rX a)) = [] →
      ∃ t, exec (.tlbi st a) s = .next t ∧ t.pc = s.pc + 4 ∧ t.me.hart.x = s.me.hart.x ∧ t.mem = s.mem ∧
        (∀ e ∈ t.tlb, e ∈ s.tlb ∧ ¬(e.pid = s.pid ∧ e.va = (s.rX a).toNat / e.size)) ∧
        ∀ e ∈ s.tlb, ¬(e.pid = s.pid ∧ e.va = (s.rX a).toNat / e.size) → e ∈ t.tlb) ∧
    (s.me.hart.prv = true → s.planeWork s.pid none = [] →
      ∃ t, exec (.tlbia st) s = .next t ∧ t.pc = s.pc + 4 ∧ t.me.hart.x = s.me.hart.x ∧ t.mem = s.mem ∧
        (∀ e, e ∈ t.tlb ↔ e ∈ s.tlb ∧ e.pid ≠ s.pid) ∧
        ∀ n : Fin 16, s.me.hart.p[n].word.getLsbD 63 = true → t.me.hart.p[n].word.getLsbD 16 = true) ∧
    (s.me.hart.prv = true → canonical (s.rX a) = true → s.planeWork s.pid (some (s.rX a)) ≠ [] →
      exec (.tlbi st a) s =
        .next (waiting (s.invalidate s.pid (some (s.rX a))) (.drain (s.planeWork s.pid (some (s.rX a)))))) ∧
    (s.me.hart.prv = true → s.planeWork s.pid none ≠ [] →
      exec (.tlbia st) s = .next (waiting (s.invalidate s.pid none) (.drain (s.planeWork s.pid none)))) ∧
    (s.owns = true → 1 ≤ s.me.vec.grant → s.me.vec.vill = false →
      givesLate s (.vname st d a) st d (match s.me.vec.regName a with
        | some (crc, variant) => BitVec.ofNat 64 (2 ^ 63 + variant % 4 * 2 ^ 48 + crc.toNat)
        | none => 0))

/-- sysw of vown by another owner's number hands the vector state over, once the MOPs and the race of the slot have ended: it becomes the creation values with no lane group, the slot's
Fife-table entries die, and the operand's bit 63 becomes lz; with the number of the owner, a hart of the same partition, only lz changes (R261,
R296). sysw of wpart records the request of a partition that owns the scratch of the core's position, and is ignored for any other (R313);
a request of 16 and above is ignored as well (R313). A lower request discards what L1s hold of the scratch lines beyond it: the bytes that
stand beneath those lines are memory again, and no other byte changes (R366). -/
def Obligations.OwnershipWrites : Prop :=
  ∀ (s : State) (st : BitVec 3) (a : BitVec 5), s.settled → s.me.hart.prv = true →
    let w := s.rX a
    (w.extractLsb' 0 32 = s.me.vec.owner → s.me.vec.ownerPid = s.pid →
      exec (.syswVown st a) s = .next ((s.after st 0 (s.pc + 4)).modVec fun v => { v with lz := w.getLsbD 63 })) ∧
    (¬(w.extractLsb' 0 32 = s.me.vec.owner ∧ s.me.vec.ownerPid = s.pid) → s.me.vec.busyUntil ≤ s.cycle →
      ∃ t, exec (.syswVown st a) s = .next t ∧ t.me.hart = (s.after st 0 (s.pc + 4)).me.hart ∧
        t.me.vec = { Vec.creation s.pid (w.extractLsb' 0 32) with lz := w.getLsbD 63 } ∧
        (∀ e ∈ t.fife, ¬(e.core = s.me.core ∧ e.slot = s.me.idx)) ∧ t.mem = s.mem) ∧
    (((s.part? s.pid).map (fun p => decide ((stackOf s.me.core, positionOf s.me.core) ∈ p.cfg.scratch))).getD false = false →
      exec (.syswWpart st a) s = .next (s.after st 0 (s.pc + 4))) ∧
    (((s.part? s.pid).map (fun p => decide ((stackOf s.me.core, positionOf s.me.core) ∈ p.cfg.scratch))).getD false = true →
      (16 ≤ (w.extractLsb' 0 5).toNat → exec (.syswWpart st a) s = .next (s.after st 0 (s.pc + 4))) ∧
      ((w.extractLsb' 0 5).toNat < 16 →
      ∃ t, exec (.syswWpart st a) s = .next t ∧ t.me = (s.after st 0 (s.pc + 4)).me ∧
        ((s.wpart (stackOf s.me.core) (positionOf s.me.core)).req ≤ (w.extractLsb' 0 5).toNat ∨ s.under = [] → t.mem = s.mem) ∧
        ((w.extractLsb' 0 5).toNat < (s.wpart (stackOf s.me.core) (positionOf s.me.core)).req → s.memOk →
          (∀ o ∈ s.under, o.bytes.length = 128) → s.under.Pairwise (fun o q => o.pa + 128 ≤ q.pa ∨ q.pa + 128 ≤ o.pa) →
          let gone := fun (o : UnderLine) => isScratch o.pa = true ∧ o.pa / 2 ^ 36 % 8 = stackOf s.me.core ∧
            o.pa / 2 ^ 14 % 8 = positionOf s.me.core ∧ 64 * (w.extractLsb' 0 5).toNat ≤ o.pa / 2 ^ 17 % 1024
          (∀ o ∈ s.under, gone o → (∀ j, j < 128 → memRead t.mem (o.pa + j) = o.bytes.getD j 0) ∧ o ∉ t.under) ∧
          (∀ o ∈ s.under, ¬gone o → o ∈ t.under) ∧
          ∀ b, (∀ o ∈ s.under, gone o → ¬(o.pa ≤ b ∧ b < o.pa + 128)) → memRead t.mem b = memRead s.mem b) ∧
        (t.wpart (stackOf s.me.core) (positionOf s.me.core)).req = (w.extractLsb' 0 5).toNat ∧
        (t.wpart (stackOf s.me.core) (positionOf s.me.core)).cur = (s.wpart (stackOf s.me.core) (positionOf s.me.core)).cur))

/-! ### References, atomics and ordered accesses -/

/-- A header word at an address that the hart reaches: a managed page, tag 10, and a valid header (R204, R205). -/
abbrev Sys2Proof.Cert.headerAt (s : State) (ref : X) (p : Phys) : Prop :=
  s.memOk ∧ ref.toNat % 8 = 0 ∧ s.reaches .otherRead ref p ∧ p.managed = true ∧ tagAt s.tags (p.pa / 8) = 2 ∧
    headerValid (BitVec.ofNat 64 (bytesAt s p.pa 8)) = true

/-- pub at scope c of an object whose body holds no reference and which the walk enters, being of a narrower scope or having pd set (R206, R207):
the header gets scope c where it was narrower, and pd clear where its scope is then c, keeping owner and size; the reference is stored, with
tag 01 where the word stored to is in a managed page. The word stored to is in an unmanaged page, or in no object with c the system scope, so that
the escape check passes (R205). A reference that names no header with tag 10 makes pub trap with 0x142. No other byte and no other tag of memory
changes. -/
def Sys2Proof.Cert.publishes : Prop :=
  ∀ (s : State) (st : BitVec 3) (d a : BitVec 5) (c : BitVec 4) (p q : Phys) (ps : Nat → Phys), s.settled → s.interruptAhead = none →
    s.rTag d = true → c.toNat ≤ 8 → (s.rX a).toNat % 8 = 0 → s.reaches .store (s.rX a) q →
    let ref := s.rX d
    let h : X := BitVec.ofNat 64 (bytesAt s p.pa 8)
    let scope := fieldOf h 36 4
    let size := fieldOf h 40 24
    let header : X := if scopeRank scope < c.toNat then setField (setField h 36 4 c.toNat) 0 1 0
      else if scope = c.toNat then setField h 0 1 0 else h
    (s.reaches .otherRead ref p → ¬(ref.toNat % 8 = 0 ∧ p.managed = true ∧ tagAt s.tags (p.pa / 8) = 2) →
      exec (.pub st d a c) s = .next (s.enterTrap false s.pc { code := 0x142, tval := ref })) ∧
    (headerAt s ref p → scopeRank scope < c.toNat ∨ h.getLsbD 0 = true →
      (∀ j, 1 ≤ j → j ≤ size → s.reaches .otherRead (ref + BitVec.ofNat 64 (8 * j)) (ps j) ∧
        ¬((ps j).managed = true ∧ tagAt s.tags ((ps j).pa / 8) = 1)) →
      q.managed = false ∨ (c = 8 ∧ s.headerBelow (q.pa / 8) = none) → q.pa / 8 ≠ p.pa / 8 →
      ∃ t, exec (.pub st d a c) s = .next t ∧ s.storeFrame t st ∧ t.me.hart.x = s.me.hart.x ∧ t.me.hart.xtag = s.me.hart.xtag ∧
        (∀ b, memRead t.mem b =
          if q.pa ≤ b ∧ b < q.pa + 8 then (ref.extractLsb' (8 * (b - q.pa)) 8 : BitVec 8)
          else if p.pa ≤ b ∧ b < p.pa + 8 then (header.extractLsb' (8 * (b - p.pa)) 8 : BitVec 8)
          else memRead s.mem b) ∧
        ∀ w, tagAt t.tags w = if w = q.pa / 8 then (if q.managed then 1 else 0) else tagAt s.tags w)

/-- mkref of the address of a valid header makes x[d] that address tagged as a reference, and reads nothing but the header; rtag gives the tag
of x[a] as 0 or 1 (R205). pub to an object that the store's address reaches in an object-free word, of an object that is already published at
the system scope and is no candidate, stores the reference with tag 01 and leaves the registers (R205 to R207); pub of an object that is not
published yet raises it to its scope. -/
def Obligations.ReferenceInstructions : Prop :=
  publishes ∧
  ∀ (s : State) (st : BitVec 3) (d a : BitVec 5) (p q : Phys), s.settled →
    exec (.rtag st d a) s = .next (s.afterX d (if s.rTag a then 1 else 0) false 1 true st 0 (s.pc + 4)) ∧
    (headerAt s (s.rX a) p →
      ∃ t, exec (.mkref st d a) s = .next t ∧ t.pc = s.pc + 4 ∧ t.mem = s.mem ∧ t.tags = s.tags ∧
        (∀ n, t.rX n = if n = d ∧ d ≠ 0 then s.rX a else s.rX n) ∧ (∀ n, t.rTag n = if n = d ∧ d ≠ 0 then true else s.rTag n)) ∧
    (s.rTag d = true → headerAt s (s.rX d) p → fieldOf (BitVec.ofNat 64 (bytesAt s p.pa 8)) 36 4 = 8 →
      bitAt (BitVec.ofNat 64 (bytesAt s p.pa 8)) 0 = false → s.interruptAhead = none → (s.rX a).toNat % 8 = 0 →
      s.reaches .store (s.rX a) q → q.managed = true →
      s.headerBelow (q.pa / 8) = none →
      ∃ t, exec (.pub st d a 8) s = .next t ∧ t.pc = s.pc + 4 ∧ s.stored t q.pa 8 (s.rX d).toNat ∧
        (∀ w, tagAt t.tags w = if w = q.pa / 8 then 1 else tagAt s.tags w) ∧
        (∀ n, t.rX n = s.rX n) ∧ (∀ n, t.rTag n = s.rTag n))

/-- i reads n bytes at x[a] into x[d], sign-extended, and stores in their place what f gives from the old value and the low n bytes of
x[d] and of x[d + 1]; where f gives nothing, no byte changes. -/
def Sys2Proof.Cert.swaps (s : State) (i : Instr) (st : BitVec 3) (d a : BitVec 5) (z : BitVec 1)
    (f : (w : Nat) → BitVec w → BitVec w → BitVec w → Option (BitVec w)) : Prop :=
  let n := if z = 0 then 4 else 8
  ∀ p, s.memOk → (s.rX a).toNat % n = 0 → s.reaches .store (s.rX a) p → (p.managed = true → tagAt s.tags (p.pa / 8) = 0) →
    let old := BitVec.ofNat (8 * n) (bytesAt s p.pa n)
    ∃ t, exec i s = .next t ∧ s.storeFrame t st ∧
      (∀ r, t.rX r = if r = d ∧ d ≠ 0 then old.signExtend 64 else s.rX r) ∧
      (∀ r, t.rTag r = if r = d ∧ d ≠ 0 then false else s.rTag r) ∧
      match f (8 * n) old ((s.rX d).setWidth (8 * n)) ((s.rX (d + 1)).setWidth (8 * n)) with
      | some new => s.stored t p.pa n new.toNat
      | none => ∀ b, memRead t.mem b = memRead s.mem b

/-- The atomics (R203): the old value, sign-extended, goes to x[d], and memory gets the operation's value, whatever the order and scope; the
bytes outside the operand are unchanged. -/
def Obligations.Atomics : Prop :=
  ∀ (s : State) (st : BitVec 3) (d a : BitVec 5) (c : BitVec 4) (o : BitVec 3) (z : BitVec 1), s.settled →
    swaps s (.amoswap st d a c o z) st d a z (fun _ _ x _ => some x) ∧
    swaps s (.amoadd st d a c o z) st d a z (fun _ m x _ => some (m + x)) ∧
    swaps s (.amoand st d a c o z) st d a z (fun _ m x _ => some (m &&& x)) ∧
    swaps s (.amoor st d a c o z) st d a z (fun _ m x _ => some (m ||| x)) ∧
    swaps s (.amoxor st d a c o z) st d a z (fun _ m x _ => some (m ^^^ x)) ∧
    swaps s (.amomin st d a c o z) st d a z (fun _ m x _ => some (if x.slt m then x else m)) ∧
    swaps s (.amomax st d a c o z) st d a z (fun _ m x _ => some (if m.slt x then x else m)) ∧
    swaps s (.amominn st d a c o z) st d a z (fun _ m x _ => some (if x.ult m then x else m)) ∧
    swaps s (.amomaxn st d a c o z) st d a z (fun _ m x _ => some (if m.ult x then x else m)) ∧
    swaps s (.amocas st d a c o z) st d a z (fun _ m x y => if m = x then some y else none)

/-- Ordered accesses load and store as the scalar accesses of displacement 0 do, and a fence changes no register and no byte of memory;
an operation of order .sc draws a ticket (R200 to R202, R237). -/
def Obligations.OrderedAccesses : Prop :=
  ∀ (s : State) (st : BitVec 3) (d a : BitVec 5) (c : BitVec 4) (o t : BitVec 3), s.settled →
    let l := t.toNat % 4
    let drawn := s.tickets + (if o = 4 then 1 else 0)
    (∀ p, s.memOk → (s.rX a).toNat % 2 ^ l = 0 → s.reaches .load (s.rX a) p →
      let v := bytesAt s p.pa (2 ^ l)
      ∃ u, exec (.orderedLoad st d a c o t) s = .next u ∧ s.storeFrame u st ∧ u.mem = s.mem ∧ u.tags = s.tags ∧ u.tickets = drawn ∧
        (∀ r, u.rX r = if r = d ∧ d ≠ 0 then
          (if 4 ≤ t.toNat then BitVec.ofNat 64 v else (BitVec.ofNat (8 * 2 ^ l) v).signExtend 64) else s.rX r) ∧
        ∀ r, u.rTag r = if r = d ∧ d ≠ 0 then (l == 3 && p.managed && tagAt s.tags (p.pa / 8) == 1) else s.rTag r) ∧
    (∀ p, (s.rX a).toNat % 2 ^ l = 0 → s.reaches .store (s.rX a) p → ¬(p.managed = true ∧ l = 3 ∧ s.rTag d = true) →
      ∃ u, exec (.orderedStore st d a c o t) s = .next u ∧ s.storeFrame u st ∧ u.me.hart.x = s.me.hart.x ∧
        u.me.hart.xtag = s.me.hart.xtag ∧ u.tickets = drawn ∧ s.stored u p.pa (2 ^ l) ((s.rX d).toNat % 256 ^ 2 ^ l)) ∧
    (s.sram = [] → ∃ u, exec (.fence st c o) s = .next u ∧ s.storeFrame u st ∧ u.me.hart.x = s.me.hart.x ∧ u.me.hart.xtag = s.me.hart.xtag ∧
      u.mem = s.mem ∧ u.tags = s.tags ∧ u.tickets = drawn)

/-! ### Barriers, hart sets, watermarks and waits -/

/-- The barrier instructions at a barrier that the partition holds (R209 to R211): barinit sets the expected count and clears the rest;
barbind binds the set of x[s][11:0], whose members it then expects, or none where x[s] is 0, and discards the arrivals, the same for any x[s] other
than 0, its bits from 12 on being without effect, which is the model's choice (log entry 15); bararr releases at its
scope and gives the phase before the arrival, and the last arrival starts the next phase; barwait acquires and completes where the phase of
its token has passed, and waits otherwise; barsync releases, arrives, and completes with an acquire where its own arrival ends the phase; otherwise it waits for its phase, of which it notes 16 bits in es;
issued again with that mark it completes with an acquire where the phase noted has passed, and waits otherwise. An arrival at a barrier that expects none traps with 0x282, and
a count that is none from 1 to 65,535 with 0x280. How long readers of bararr's result wait is left open here (log entry 41). -/
def Obligations.Barriers : Prop :=
  ∀ (s : State) (st : BitVec 3) (d a : BitVec 5) (c : BitVec 4), s.settled →
    let b := (s.rX a).toNat
    b < 65536 → s.holdsBarrier s.pid b = true →
    let k := s.barrier b
    let r := s.release c.toNat
    let x := s.rX d
    let passed := fun (q token : BitVec 32) (half : Nat) => 1 ≤ (q - token).toNat % (2 * half) ∧ (q - token).toNat % (2 * half) ≤ half
    let set16 : BitVec 16 := (x.extractLsb' 0 12).setWidth 16
    let arrived : Barrier :=
      if k.expect ≠ 0 ∧ k.expect.toNat ≤ (k.arrived + 1).toNat then { k with arrived := 0, phase := k.phase + 1, who := [], renewed := false }
      else { k with arrived := k.arrived + 1, who := k.who ++ [s.me.hart.hid] }
    let none_ := k.bound = 0 ∧ k.expect = 0
    let token : BitVec 32 := (s.me.hart.es.extractLsb' 0 16).setWidth 32
    (1 ≤ x.toNat → x.toNat < 65536 → exec (.barinit st d a) s = .next ((s.setBarrier {
      n := b, pid := s.pid, expect := x.setWidth 32, arrived := 0, phase := 0, bound := 0, who := [], renewed := true }).after st 0 (s.pc + 4))) ∧
    (¬(1 ≤ x.toNat ∧ x.toNat < 65536) →
      exec (.barinit st d a) s = .next (s.enterTrap false s.pc { code := 0x280, tval := x })) ∧
    exec (.barbind st d a) s = .next ((s.setBarrier { k with
      pid := s.pid, bound := set16, arrived := 0, who := []
      expect := if x = 0 then k.expect else BitVec.ofNat 32 (s.membership s.pid set16) }).after st 0 (s.pc + 4)) ∧
    (¬none_ → givesLate' (r.setBarrier arrived) s (.bararr st d a c) st d (k.phase.setWidth 64)) ∧
    (none_ → exec (.bararr st d a c) s = .next (s.enterTrap false s.pc { code := 0x282, tval := s.rX a })) ∧
    (passed k.phase (x.setWidth 32) (2 ^ 31) → exec (.barwait st d a c) s = .next (s.acquire.after st 0 (s.pc + 4))) ∧
    (¬passed k.phase (x.setWidth 32) (2 ^ 31) →
      exec (.barwait st d a c) s = .next (waiting s (.barrier b (x.setWidth 32) false))) ∧
    (s.me.hart.es.getLsbD 17 = false → ¬none_ → passed arrived.phase k.phase (2 ^ 31) →
      exec (.barsync st a c) s = .next ((r.setBarrier arrived).acquire.after st 0 (s.pc + 4))) ∧
    (s.me.hart.es.getLsbD 17 = false → ¬none_ → ¬passed arrived.phase k.phase (2 ^ 31) →
      exec (.barsync st a c) s = .next (waiting ((r.setBarrier arrived).modHart fun h => { h with
        es := BitVec.ofNat 18 (2 ^ 17 + k.phase.toNat % 2 ^ 16) }) (.barrier b k.phase false))) ∧
    (s.me.hart.es.getLsbD 17 = false → none_ →
      exec (.barsync st a c) s = .next (s.enterTrap false s.pc { code := 0x282, tval := s.rX a })) ∧
    (s.me.hart.es.getLsbD 17 = true → ¬passed k.phase token (2 ^ 15) →
      exec (.barsync st a c) s = .next (waiting ((s.setBarrier k).modHart fun h => { h with
        es := BitVec.ofNat 18 (2 ^ 17 + token.toNat) }) (.barrier b token true))) ∧
    (s.me.hart.es.getLsbD 17 = true → passed k.phase token (2 ^ 15) →
      exec (.barsync st a c) s = .next ((s.setBarrier k).acquire.after st 0 (s.pc + 4)))

/-- A hart joins and leaves a set (R211): a set from 1 to 4,095, at most 8 sets for each hart; joining twice and leaving a set that the hart
is not in change nothing; a barrier bound to the set expects one more or one fewer, and completes its phase where the arrivals then suffice.
Both complete once the table has been updated, 40 cycles after issue where it is in the hart's own stack and 120 elsewhere (R275). -/
def Obligations.HartSets : Prop :=
  ∀ (s : State) (st : BitVec 3) (a : BitVec 5) (p : Part), s.settled → s.part? s.pid = some p →
    let g : BitVec 16 := (s.rX a).setWidth 16
    1 ≤ (s.rX a).toNat → (s.rX a).toNat < 4096 →
    let mine := s.setsOf s.pid s.me.hart.hid
    let delay := if (p.cfg.cores.map (fun c => stackOf c.core)).foldr min 7 = stackOf s.me.core then 40 else 120
    let counts := fun (k : Barrier) (e : BitVec 32) =>
      if e ≠ 0 ∧ e.toNat ≤ k.arrived.toNat then { k with expect := e, arrived := 0, phase := k.phase + 1, who := [], renewed := false }
      else { k with expect := e }
    (g ∈ mine → exec (.joinSet st a) s = .next (s.after st delay (s.pc + 4))) ∧
    (g ∉ mine → mine.length < 8 →
      ∃ t, exec (.joinSet st a) s = .next t ∧ t.me = (s.after st delay (s.pc + 4)).me ∧ t.mem = s.mem ∧
        g ∈ t.setsOf s.pid s.me.hart.hid ∧
        ∀ k ∈ s.barriers, k.bound = g → k.pid = s.pid → counts k (k.expect + 1) ∈ t.barriers) ∧
    (g ∉ mine → 8 ≤ mine.length →
      exec (.joinSet st a) s = .next (s.enterTrap false s.pc { code := 0x285, tval := s.rX a })) ∧
    (g ∉ mine → exec (.leaveSet st a) s = .next (s.after st delay (s.pc + 4))) ∧
    (g ∈ mine →
      ∃ t, exec (.leaveSet st a) s = .next t ∧ t.me = (s.after st delay (s.pc + 4)).me ∧ t.mem = s.mem ∧
        g ∉ t.setsOf s.pid s.me.hart.hid ∧
        (2 ≤ s.membership s.pid g → ∀ k ∈ s.barriers, k.bound = g → k.pid = s.pid → s.me.hart.hid ∉ k.who →
          counts k (k.expect - 1) ∈ t.barriers))

/-- The watermark instructions at a watermark that the partition holds (R212, R213): wmset takes base, elements and element size from its
descriptor and clears the count; wmadv never lowers the count and never passes the number of elements; wmrd reads it. waitm completes once
mtime has reached its operand, and waits before (R215). -/
def Obligations.WatermarksAndWaitm : Prop :=
  ∀ (s : State) (st : BitVec 3) (w a d : BitVec 5) (c : BitVec 4), s.settled →
    ((s.rX w).toNat < 256 → s.holdsWatermark s.pid (s.rX w).toNat = true →
      let k := s.watermark (s.rX w).toNat
      exec (.wmadv st w a c) s = .next (((s.release c.toNat).setWatermark { k with
          count := BitVec.ofNat 64 (max k.count.toNat (min (s.rX a).toNat k.elems.toNat)), scope := c }).after st 0 (s.pc + 4)) ∧
      givesLate s (.wmrd st d w) st d k.count ∧
      ∀ ps : Fin 4 → Phys, s.memOk → (s.rX a).toNat % 32 = 0 →
        (∀ j : Fin 4, s.reaches .otherRead (s.rX a + BitVec.ofNat 64 (8 * j.val)) (ps j)) →
        let word := fun (j : Fin 4) => (BitVec.ofNat 64 (bytesAt s (ps j).pa 8) : X)
        (word 0).toNat % 128 = 0 → 1 ≤ (word 1).toNat → (word 1).toNat ≤ 2 ^ 40 → (word 2).toNat < 4 → word 3 = 0 →
        ∃ t, exec (.wmset st w a) s = .next t ∧ t.me = (s.after st 0 (s.pc + 4)).me ∧ t.mem = s.mem ∧
          { k with pid := s.pid, base := word 0, elems := word 1, esz := word 2, count := 0 } ∈ t.watermarks) ∧
    ((s.rX a).toNat ≤ s.cycle → exec (.waitm st a) s = .next (s.after st 0 (s.pc + 4))) ∧
    (s.cycle < (s.rX a).toNat →
      exec (.waitm st a) s = .next (waiting s (.meridian (s.rX a))))

/-! ### Engine ports and nests -/

/-- Pushes and pops at the port of an engine that the partition owns and that is not frozen (R216): a push appends the command in x[c] to
x[c + 3], with the start time in x28 for epush.at; a full port makes epush and epush.at wait, and epush.t sets bit 63 of x[e], which it clears
where it pushed; a push to a frozen engine traps with 0x2C1; a pop takes the oldest completion and acquires; an empty port makes epop wait and
gives 0 to epop.t. Places and completions that are free go to the harts that came first and still wait, so that no hart is starved (R217): that
these are served in order of arrival is the model's reading (log entry 64). How long readers of a result wait is left open here (log entry
41). -/
def Obligations.EnginePorts : Prop :=
  ∀ (s : State) (st : BitVec 3) (c e d : BitVec 5), s.settled →
    let n := (s.rX e).toNat % 256
    let k := s.engine n
    (s.rX e).extractLsb' 8 55 = 0#55 → ((s.part? s.pid).map (fun p => decide (n ∈ p.cfg.engines))).getD false = true →
    let cmd := fun (start : Option X) => ({
      w0 := s.rX c, w1 := s.rX (c + 1), w2 := s.rX (c + 2), w3 := s.rX (c + 3), pid := s.pid,
      hid := s.me.hart.hid, prv := s.me.hart.prv, start := start, accepted := s.cycle } : Command)
    let pushed := fun (start : Option X) => s.setEngine { k with cmds := k.cmds ++ [cmd start] }
    let ahead := fun (pop : Bool) => s.aheadAt n pop s.pid s.me.hart.hid
    let mine := fun (pop : Bool) => s.portWaits.filter fun q => q.engine == n && q.pop == pop && q.pid == s.pid
    let waits := fun (pop : Bool) => waiting (s.addPortWait n pop s.pid s.me.hart.hid)
    let popped := fun (rest : List X) => (s.setEngine { k with done := rest }).acquire
    (∀ pop, ahead pop ≤ (mine pop).length ∧ (mine pop = [] ∨ (∃ q, (mine pop).head? = some q ∧ q.hid = s.me.hart.hid) → ahead pop = 0)) ∧
    (k.frozen = none → k.cmds.length + ahead false < 16 →
      exec (.epush st c e) s = .next ((pushed none).after st 0 (s.pc + 4)) ∧
      exec (.epushAt st c e) s = .next ((pushed (some (s.rX 28))).after st 0 (s.pc + 4)) ∧
      givesLate' (pushed none) s (.epushT st c e) st e (setField (s.rX e) 63 1 0)) ∧
    (k.frozen = none → 16 ≤ k.cmds.length + ahead false →
      exec (.epush st c e) s = .next (waits false (.epush n)) ∧ exec (.epushAt st c e) s = .next (waits false (.epush n)) ∧
      givesLate s (.epushT st c e) st e (setField (s.rX e) 63 1 1)) ∧
    (k.frozen ≠ none →
      let stops := s.enterTrap false s.pc { code := 0x2C1, tval := s.rX e }
      exec (.epush st c e) s = .next stops ∧ exec (.epushAt st c e) s = .next stops ∧ exec (.epushT st c e) s = .next stops) ∧
    (∀ w rest, k.done = w :: rest → ahead true ≤ rest.length →
      givesLate' (popped rest) s (.epop st d e) st d w ∧ givesLate' (popped rest) s (.epopT st d e) st d w) ∧
    (k.done.length ≤ ahead true → exec (.epop st d e) s = .next (waits true (.epop n)) ∧ givesLate s (.epopT st d e) st d 0)

/-- nest and nest.at hand a valid record of 64 bytes, read through the translations of the walker (R305), to the walker of a stack that x[s] selects, the hart's own where x[s][3] is clear, where its
queue has room: the walker gets the record's eight words, the hart's level and tvec, and for nest.at the start time in x28, in its place
among the records by the cycle of acceptance, 12 cycles after issue in the own stack and 44 in another, and the hart goes on then. A record
without iterations hands out none; a full queue makes both wait (R218, R219, R273, R280). -/
def Obligations.Nests : Prop :=
  ∀ (s : State) (st : BitVec 3) (x a : BitVec 5) (ps : Fin 8 → Phys), s.settled → s.memOk → (s.rX a).toNat % 64 = 0 →
    let sel := s.rX x
    let own := stackOf s.me.core
    let stack := if sel.getLsbD 3 then (sel.extractLsb' 0 3).toNat else own
    (∀ j : Fin 8, s.reachesBy (4000 + stack) .otherRead (s.rX a + BitVec.ofNat 64 (8 * j)) (ps j)) →
    let delay := if stack = own then 12 else 44
    let ws := (List.finRange 8).map fun j => (BitVec.ofNat 64 (bytesAt s (ps j).pa 8) : X)
    let ctl := ws.getD 4 0
    let queued := (s.walkers.filter (fun r => r.stack == stack)).length
    nestValid ws = true → sel.extractLsb' 4 60 = 0#60 → s.holdsStack s.pid stack = true →
    (ctl.getLsbD 19 = true → s.holdsWatermark s.pid (fieldOf ctl 20 8) = true) →
    ∀ before later, s.walkers = before ++ later → (∀ r ∈ before, r.accepted ≤ s.cycle + delay) →
      (∀ r ∈ later.head?, s.cycle + delay < r.accepted) →
    let handed := fun (i : Instr) (start : Option X) => ∃ t, exec i s = .next t ∧ t.me = (s.after st delay (s.pc + 4)).me ∧ t.mem = s.mem ∧
      t.walkers = before ++ (if nestCount ws = 0 then [] else [{
        id := s.nextId, stack := stack, pid := s.pid, hid := s.me.hart.hid, prv := s.me.hart.prv,
        tvec := s.me.hart.tvec, addr := s.rX a, words := ws, start := start, accepted := s.cycle + delay, next := 0 }]) ++ later
    let waits := fun (i : Instr) => ∃ t, exec i s = .next t ∧ t.me = (waiting s (.walker stack)).me ∧ t.mem = s.mem ∧ t.walkers = s.walkers
    (queued < 16 → handed (.nest st x a) none ∧ handed (.nestAt st x a) (some (s.rX 28))) ∧
    (16 ≤ queued → waits (.nest st x a) ∧ waits (.nestAt st x a))

/-- No word of the record of a hart is poisoned, and no bit of a codeword or of SRAM is flipped, so that the record reads and is written as it
stands (R331, R333). -/
abbrev Sys2Proof.Cert.recordSound (s : State) (pid : Nat) (hid : BitVec 32) : Prop :=
  s.flips = [] ∧ s.sram = [] ∧ ∀ i < 64, s.poisonedAt false (s.recordAddr pid hid + 8 * i) = false

/-- The record of a hart holds it (R264, R271), in a state, as the scheduler reads it: its pc and its x registers stand in their words. The record
is sound, and its handle area, if it has one, lies apart from it. -/
def Sys2Proof.Cert.savedIn (s t : State) (h : Hart) (state : Nat) : Prop :=
  let a := s.recordAddr h.pid h.hid
  let area := (s.physWord (a + 0x70)).toNat
  recordSound s h.pid h.hid → area = 0 ∨ area + 0x108 ≤ a ∨ a + 512 ≤ area →
  t.recordState h.pid h.hid = state ∧ t.physWord (a + 0x08) = h.pc ∧ ∀ j : Fin 32, j ≠ 0 → t.physWord (a + 0x100 + 8 * j.val) = h.x[j]

/-- done ends the hart: its slot becomes free, its record goes to state 0, and a vector state that it owns is released to the creation values
with no owner (R221, R296). yield completes once its MOPs and its race have ended, and the hart leaves its slot for its record in state 2 and the end of the stack's runnable queue
(R221, R268, R271). -/
def Obligations.DoneAndYield : Prop :=
  ∀ (s : State) (st : BitVec 3), s.settled → s.memOk → s.recordWait s.pid s.me.hart.hid (s.pid, s.me.hart.hid) = none →
    recordSound s s.pid s.me.hart.hid →
    (∃ t, exec (.doneH st) s = .next t ∧ t.me.live = false ∧
      (s.owns = true → t.me.vec.ownerPid = 64 ∧ t.me.vec.groups = [] ∧ t.me.vec.streams = [] ∧ t.me.vec.tilesHeld = false ∧
        t.me.vec.dawnHeld = false) ∧
      t.setsOf s.pid s.me.hart.hid = [] ∧ t.recordState s.pid s.me.hart.hid = 0) ∧
    (s.me.vec.busyUntil ≤ s.cycle → ∃ t, exec (.yieldH st) s = .next t ∧ t.me.live = false ∧ t.me.vec = s.me.vec ∧
      savedIn s t (s.after st 0 (s.pc + 4)).me.hart 2 ∧
      t.queue = s.queue ++ [{ stack := stackOf s.me.core, pid := s.pid, hid := s.me.hart.hid }])

/-! ### Vector configuration -/

/-- setvl and setvlm of a hart that owns its vector state (R23, R99, R100): the configuration is that of the word, vl the number of elements
asked for (all of them for setvlm), within the vlmax of the grant and 4,096 and rounded down to whole blocks, and 0 with vill where the
configuration is illegal; x[d] becomes vl. A grant that stays keeps the v registers; one that changes, once earlier vector work has
completed, clears them; a request with no free lane group traps with 0x181, and setvlm has then written lanes.req (R99). -/
def Obligations.VectorConfiguration : Prop :=
  ∀ (s : State) (st : BitVec 3) (d a vt : BitVec 5), s.settled → s.owns = true →
    let sew := vt.extractLsb' 0 3
    let bl := vt.extractLsb' 3 2
    let block := blockLen bl.toNat
    let legal := sew.toNat ≤ 5 ∧ (bl = 0 ∨ sew = 1 ∨ sew = 2)
    let configured := fun (i : Instr) (groups : List Nat) (ask : Nat) (lanesReq : BitVec 5) => ∃ t, exec i s = .next t ∧ t.pc = s.pc + 4 ∧
      t.mem = s.mem ∧ t.me.vec.sew = sew ∧ t.me.vec.bl = bl ∧ t.me.hart.lanesReq = lanesReq ∧ t.me.hart.status = s.me.hart.status ∧
      t.me.vec.grant = groups.length ∧ t.me.vec.k = s.me.vec.k ∧
      (groups.length = s.me.vec.grant → t.me.vec.v = s.me.vec.v) ∧ (groups.length ≠ s.me.vec.grant → ∀ n : Fin 32, t.me.vec.v[n] = 0) ∧
      (legal →
        let len := min ask (min (groups.length * 1024 / sewBits sew.toNat) 4096)
        t.me.vec.vill = false ∧ t.me.vec.vl.toNat = if bl = 0 then len else len / block * block) ∧
      (¬legal → t.me.vec.vill = true ∧ t.me.vec.vl = 0) ∧
      ∀ r, t.rX r = if r = d ∧ d ≠ 0 then t.me.vec.vl else s.rX r
    let ready := fun (groups : List Nat) => groups.length ≠ s.me.vec.grant → s.vecBusy ≤ s.cycle
    let n := (s.rX a).toNat
    let own := s.me.hart.lanesReq
    let mine := s.newGroups own.toNat
    let wide := s.newGroups (min n 16)
    (mine ≠ [] ∨ own = 0 → ready mine → configured (.setvl st d a vt) mine n own) ∧
    (mine = [] → own ≠ 0 → exec (.setvl st d a vt) s = .next (s.enterTrap false s.pc { code := 0x181, tval := own.setWidth 64 })) ∧
    (wide ≠ [] ∨ n = 0 → ready wide → configured (.setvlm st d a vt) wide 4096 (BitVec.ofNat 5 (min n 16))) ∧
    (wide = [] → n ≠ 0 → exec (.setvlm st d a vt) s = .next ((s.modHart fun h => { h with lanesReq := BitVec.ofNat 5 (min n 16) }).enterTrap
      false s.pc { code := 0x181, tval := BitVec.ofNat 64 (min n 16) }))

/-! ### Element-wise vector arithmetic -/

/-- i completes at s, having written to v[d] the elements of width w that p names, with the values f; nothing else changes but what an
instruction that writes a v register may change. -/
def Sys2Proof.Cert.vecGives (s : State) (i : Instr) (st : BitVec 3) (d : BitVec 5) (w : Nat) (p : Nat → Prop) (f : Nat → Nat) : Prop :=
  ∃ t, exec i s = .next t ∧ s.elemsBecome t d w p f ∧ s.keepsV t [d] ∧ s.vecFrame t st s.me.hart.status

/-- i writes f of the elements of v[a] and v[b] to the active elements of v[d], as numbers of the element width, which is 8 to 64. -/
abbrev Sys2Proof.Cert.vec2 (s : State) (i : Instr) (st : BitVec 3) (d a b : BitVec 5) (k : BitVec 3)
    (f : (w : Nat) → BitVec w → BitVec w → BitVec w) : Prop :=
  let w := s.me.vec.width
  vecGives s i st d w (s.active k) fun n => (f w (BitVec.ofNat w (s.elem a n)) (BitVec.ofNat w (s.elem b n))).toNat

/-- The vector integer instructions of two sources (R122, R124): the active elements of v[d] get the operation of the elements of v[a] and
v[b] at the element width, modulo its power of two or clamped for the saturating ones; every other element and every other register is as
before. -/
def Sys2Proof.Cert.vectorIntegerResults : Prop :=
  ∀ (s : State) (st : BitVec 3) (d a b : BitVec 5) (k : BitVec 3), s.vectorReady → 8 ≤ s.me.vec.width →
    let gives := fun (i : Instr) f => vec2 s i st d a b k f
    gives (.vadd st d a b k) (fun _ x y => x + y) ∧ gives (.vsub st d a b k) (fun _ x y => x - y) ∧
    gives (.vaddSI st d a b k)
      (fun w x y => BitVec.ofInt w (max (-2 ^ (w - 1)) (min (2 ^ (w - 1) - 1) (x.toInt + y.toInt)))) ∧
    gives (.vaddSN st d a b k) (fun w x y => BitVec.ofNat w (min (2 ^ w - 1) (x.toNat + y.toNat))) ∧
    gives (.vsubSI st d a b k)
      (fun w x y => BitVec.ofInt w (max (-2 ^ (w - 1)) (min (2 ^ (w - 1) - 1) (x.toInt - y.toInt)))) ∧
    gives (.vsubSN st d a b k) (fun w x y => BitVec.ofNat w (x.toNat - y.toNat)) ∧ gives (.vmul st d a b k) (fun _ x y => x * y) ∧
    gives (.vmulh st d a b k) (fun w x y => (x.signExtend (2 * w) * y.signExtend (2 * w)).extractLsb' w w) ∧
    gives (.vmulhn st d a b k) (fun w x y => (x.setWidth (2 * w) * y.setWidth (2 * w)).extractLsb' w w) ∧
    gives (.vand st d a b k) (fun _ x y => x &&& y) ∧ gives (.vor st d a b k) (fun _ x y => x ||| y) ∧
    gives (.vxor st d a b k) (fun _ x y => x ^^^ y) ∧ gives (.vsll st d a b k) (fun w x y => x <<< (y.toNat % w)) ∧
    gives (.vsrl st d a b k) (fun w x y => x >>> (y.toNat % w)) ∧ gives (.vsra st d a b k) (fun w x y => x.sshiftRight (y.toNat % w)) ∧
    gives (.vmin st d a b k) (fun _ x y => if y.slt x then y else x) ∧ gives (.vmax st d a b k) (fun _ x y => if x.slt y then y else x) ∧
    gives (.vminn st d a b k) (fun _ x y => if y.ult x then y else x) ∧ gives (.vmaxn st d a b k) (fun _ x y => if x.ult y then y else x) ∧
    gives (.vdiv st d a b k) (fun w x y => if y = 0 then BitVec.allOnes w else x.sdiv y) ∧
    gives (.vdivn st d a b k) (fun w x y => if y = 0 then BitVec.allOnes w else x / y) ∧
    gives (.vrem st d a b k) (fun _ x y => if y = 0 then x else x.srem y) ∧
    gives (.vremn st d a b k) (fun _ x y => if y = 0 then x else x % y)

/-- The vector integer instructions with an immediate of 5 bits, and the multiply-accumulate instructions, whose third operand is the old
v[d] (R125, R129). -/
def Sys2Proof.Cert.vectorImmediateAndAccumulateResults : Prop :=
  ∀ (s : State) (st : BitVec 3) (d a b i : BitVec 5) (k : BitVec 3), s.vectorReady → 8 ≤ s.me.vec.width →
    let w := s.me.vec.width
    let gives := fun (j : Instr) (f : BitVec w → BitVec w) =>
      vecGives s j st d w (s.active k) fun n => (f (BitVec.ofNat w (s.elem a n))).toNat
    let adds := fun (j : Instr) (f : BitVec w → BitVec w → BitVec w → BitVec w) =>
      vecGives s j st d w (s.active k) fun n =>
        (f (BitVec.ofNat w (s.elem d n)) (BitVec.ofNat w (s.elem a n)) (BitVec.ofNat w (s.elem b n))).toNat
    gives (.vaddi st d a i k) (fun x => x + i.signExtend w) ∧ gives (.vrsubi st d a i k) (fun x => i.signExtend w - x) ∧
    gives (.vandi st d a i k) (fun x => x &&& i.signExtend w) ∧ gives (.vori st d a i k) (fun x => x ||| i.signExtend w) ∧
    gives (.vxori st d a i k) (fun x => x ^^^ i.signExtend w) ∧ gives (.vslli st d a i k) (fun x => x <<< (i.toNat % w)) ∧
    gives (.vsrli st d a i k) (fun x => x >>> (i.toNat % w)) ∧ gives (.vsrai st d a i k) (fun x => x.sshiftRight (i.toNat % w)) ∧
    adds (.vmac st d a b k) (fun z x y => z + x * y) ∧ adds (.vnmsac st d a b k) (fun z x y => z - x * y)

/-- While status.fm is set, an element-wise instruction processes only the elements that kf names too, and its completion clears kf and
status.fm, vadd as an example; vsel neither heeds nor clears them (R19, R140). -/
def Sys2Proof.Cert.restrictedByFaultMask : Prop :=
  ∀ (s : State) (st : BitVec 3) (d a b : BitVec 5) (k : BitVec 3), (s.modHart fun h => { h with status := setField h.status 24 1 0 }).vectorReady →
    s.me.hart.fm = true →
    let w := s.me.vec.width
    (8 ≤ w → ∃ t, exec (.vadd st d a b k) s = .next t ∧ t.pc = s.pc + 4 ∧ s.keepsV t [d] ∧ t.mem = s.mem ∧ t.me.hart.x = s.me.hart.x ∧
      t.me.vec.kf = 0 ∧ t.me.hart.status = setField s.me.hart.status 24 1 0 ∧
      s.elemsBecome t d w (fun n => s.active k n ∧ s.me.vec.kf.getLsbD n = true) (fun n => s.elem a n + s.elem b n)) ∧
    ∃ t, exec (.vsel st d a b k) s = .next t ∧ s.keepsV t [d] ∧ s.vecFrame t st s.me.hart.status ∧
      s.elemsBecome t d w (s.active 0) (fun n => if (s.rK k).getLsbD n then s.elem a n else s.elem b n)

/-- The name of v[n] as a key holds it (R250, R256). -/
def Sys2Proof.Cert.nameOf (s : State) (n : BitVec 5) : Option (BitVec 48 × Nat) :=
  (s.me.vec.pregs.find? (fun p => p.id == s.me.vec.phys[n.toNat])).bind fun p => p.name

/-- Whether an instruction under mask k that does not read its destination writes all of it (R256; that a configuration whose elements do
not fill the register does not is the model's reading, log entry 21). -/
def Sys2Proof.Cert.writesWhole (s : State) (k : BitVec 3) : Bool :=
  k == 0 && s.me.vec.vl.toNat == s.me.vec.vlmaxe && s.me.vec.vlmaxe * s.me.vec.width == s.me.vec.grant * 1024

/-- The key of vadd (R256), none where a register that belongs to it has no name. -/
def Sys2Proof.Cert.vaddKey (s : State) (d a b : BitVec 5) (k : BitVec 3) : Option FifeKey :=
  match nameOf s a, nameOf s b, if writesWhole s k then some none else (nameOf s d).map some with
  | some x, some y, some prior =>
    some { op := 0x2500, srcs := [x, y], prior := prior, xs := [], vl := s.me.vec.vl, vtype := s.me.vec.vtype.toNat,
           mask := (k.toNat, s.me.vec.kgen[k.toNat]), ksrc := none, pred := none, rm := s.me.hart.rm }
  | _, _, _ => none

/-- The reuse of results, of vadd as an example (R250 to R258), with status.ru set. Where the slot's table holds an entry with the instruction's key,
v[d] is mapped onto the entry's register and reads its contents, and the entry's flags are raised. Otherwise the sums are written; v[d] is
mapped onto a register with those contents, whose name, if it has one, begins with the CRC of its bytes; where a named register that
a v register maps onto holds those contents already, v[d] is mapped onto a register that was there; and an execution that has a key, names its
result and leaves its sources makes an entry. -/
def Sys2Proof.Cert.reuseOfResults : Prop :=
  ∀ (s : State) (st : BitVec 3) (d a b : BitVec 5) (k : BitVec 3), s.settled → s.owns = true → 1 ≤ s.me.vec.grant → s.me.vec.grant ≤ 16 →
    s.me.vec.vill = false → s.me.vec.illegal = false → s.me.hart.fm = false → s.me.hart.ru = true → s.interruptAhead = none →
    s.me.vec.streams = [] → 8 ≤ s.me.vec.width → s.es = 0 → 0 < s.me.vec.vl.toNat →
    let g := s.me.vec.grant
    let key := vaddKey s d a b k
    let hit := key.bind fun q => s.fife.find? fun e =>
      e.core == s.me.core && e.slot == s.me.idx && decide (e.key = q) && e.flags &&& s.me.hart.fen == 0
    (∀ e p, hit = some e → s.me.vec.pregs.find? (fun p => p.id == e.result) = some p →
      ∃ t, exec (.vadd st d a b k) s = .next t ∧ t.me.vec.v[d.toNat] = p.img ∧ t.me.vec.phys[d.toNat] = e.result ∧ s.keepsV t [d] ∧
        s.vecFrame t st (s.me.hart.statusWith e.flags)) ∧
    (hit = none →
      ∃ t, exec (.vadd st d a b k) s = .next t ∧ t.pc = s.pc + 4 ∧ t.mem = s.mem ∧ t.me.hart.x = s.me.hart.x ∧ t.me.vec.k = s.me.vec.k ∧
        s.elemsBecome t d s.me.vec.width (s.active k) (fun n => s.elem a n + s.elem b n) ∧ s.keepsV t [d] ∧
        (∃ p ∈ t.me.vec.pregs, p.id = t.me.vec.phys[d.toNat] ∧ p.img = t.me.vec.v[d.toNat] ∧
          ∀ n ∈ p.name, n.1 = crc48 (imageBytes g p.img)) ∧
        (∀ n : BitVec 5, n ≠ d → ∀ q ∈ s.me.vec.pregs, q.id = s.me.vec.phys[n.toNat] → q.img = t.me.vec.v[d.toNat] →
          q.name.map (fun m => m.1) = some (crc48 (imageBytes g q.img)) →
          ∃ r ∈ s.me.vec.pregs, r.id = t.me.vec.phys[d.toNat] ∧ r.img = t.me.vec.v[d.toNat]) ∧
        ((s.me.vec.pregs.filterMap fun p => p.name).Nodup → (∀ o ∈ s.others, ¬(o.core = s.me.core ∧ o.idx = s.me.idx)) → d ≠ a → d ≠ b →
          writesWhole s k = true → ∀ q ∈ key, nameOf t d ≠ none →
          ∃ e ∈ t.fife, e.core = s.me.core ∧ e.slot = s.me.idx ∧ e.key = q ∧ e.result = t.me.vec.phys[d.toNat] ∧ e.flags = 0))

/-- The integer element instructions: those with an immediate and those that accumulate, with what they do under a fault mask and with the reuse
of their results. -/
def Obligations.VectorInteger : Prop :=
  vectorIntegerResults ∧ vectorImmediateAndAccumulateResults ∧ restrictedByFaultMask ∧ reuseOfResults


/-- An element-wise instruction whose element n has the value and flags r n: where no active element raises an enabled flag it completes
with the flags of all active elements ORed into status.ff; otherwise the first such element e traps with the cause of its first enabled
flag, tval and es e, the elements below e written, and e and those above it unchanged (R38, R122). -/
def Sys2Proof.Cert.vecFlagged (s : State) (i : Instr) (st : BitVec 3) (d : BitVec 5) (w : Nat) (p : Nat → Prop) (r : Nat → Nat × Flags) :
    Prop :=
  ((∀ n, p n → (r n).2 &&& s.me.hart.fen = 0) →
    ∃ t fl, exec i s = .next t ∧ s.elemsBecome t d w p (fun n => (r n).1) ∧ s.keepsV t [d] ∧
      s.vecFrame t st (s.me.hart.statusWith fl) ∧ ∀ b < 5, fl.getLsbD b = true ↔ ∃ n, p n ∧ (r n).2.getLsbD b = true) ∧
  ∀ e, p e → (r e).2 &&& s.me.hart.fen ≠ 0 → (∀ n < e, p n → (r n).2 &&& s.me.hart.fen = 0) →
    ∃ t, exec i s = .next (t.enterTrap false s.pc { code := flagCause ((r e).2 &&& s.me.hart.fen), tval := BitVec.ofNat 64 e }) ∧
      t.es = e ∧ s.elemsBecome t d w (fun n => p n ∧ n < e) (fun n => (r n).1) ∧ s.keepsV t [d] ∧ t.mem = s.mem ∧
      t.me.hart.x = s.me.hart.x ∧ t.me.vec.k = s.me.vec.k

/-- The vector floating-point instructions and the fused ones (R126 to R129): at width 16, 32 or 64 (bfloat16 by alt at width 16), every
active element gets the operation of its format with the same name, in the mode of status.rm, with the flags and traps of R38. At any
other width they trap with 0x183. That vfexp2 and vflog2 round what the model computes of
the exact result, 320 bits of a power and 128 fraction bits of a logarithm, is the model's choice (log entry 17), and so is that 0 times
infinity with a quiet NaN as addend raises NV in vfma, vfms, vfnma and vfnms (log entry 46). -/
def Obligations.VectorFloatResults : Prop :=
  ∀ (s : State) (st : BitVec 3) (d a b : BitVec 5) (k : BitVec 3) (l : BitVec 1), s.vectorReady →
    let m := s.me.hart.rm
    let gives := fun (i : Instr) (f : Fmt → FV → FV → FV → Nat × Flags) =>
      (∀ g, vecFmt l s.me.vec.width = some g → vecFlagged s i st d g.bits (s.active k) fun n =>
        f g (g.decode (s.elem a n)) (g.decode (s.elem b n)) (g.decode (s.elem d n))) ∧
      (vecFmt l s.me.vec.width = none → exec i s = .next (s.enterTrap false s.pc { code := 0x183 }))
    let bits := fun (i : Instr) (f : Fmt → Nat → Nat → Nat × Flags) =>
      (∀ g, vecFmt l s.me.vec.width = some g → vecFlagged s i st d g.bits (s.active k) fun n => f g (s.elem a n) (s.elem b n)) ∧
      (vecFmt l s.me.vec.width = none → exec i s = .next (s.enterTrap false s.pc { code := 0x183 }))
    gives (.vfadd st d a b k l) (fun g x y _ => g.add m x y) ∧ gives (.vfsub st d a b k l) (fun g x y _ => g.add m x y.negate) ∧
    gives (.vfmul st d a b k l) (fun g x y _ => g.mulTo m x y) ∧ gives (.vfdiv st d a b k l) (fun g x y _ => g.div m x y) ∧
    gives (.vfsqrt st d a k l) (fun g x _ _ => g.sqrt m x) ∧ gives (.vfexp2 st d a k l) (fun g x _ _ => g.exp2 m x) ∧
    gives (.vflog2 st d a k l) (fun g x _ _ => g.log2 x) ∧ gives (.vfrece st d a k l) (fun g x _ _ => g.recip x) ∧
    gives (.vfrsqe st d a k l) (fun g x _ _ => g.rsqrt x) ∧
    gives (.vfma st d a b k l) (fun g x y z => g.fma m x y z) ∧ gives (.vfms st d a b k l) (fun g x y z => g.fma m x y z.negate) ∧
    gives (.vfnma st d a b k l) (fun g x y z => g.fma m x.negate y z.negate) ∧
    gives (.vfnms st d a b k l) (fun g x y z => g.fma m x.negate y z) ∧
    bits (.vfmin st d a b k l) (fun g x y => g.minMax false x y) ∧ bits (.vfmax st d a b k l) (fun g x y => g.minMax true x y) ∧
    bits (.vfsgnj st d a b k l) (fun g x y => (x % 2 ^ (g.bits - 1) + y / 2 ^ (g.bits - 1) % 2 * 2 ^ (g.bits - 1), 0)) ∧
    bits (.vfsgnjn st d a b k l) (fun g x y => (x % 2 ^ (g.bits - 1) + (1 - y / 2 ^ (g.bits - 1) % 2) * 2 ^ (g.bits - 1), 0)) ∧
    bits (.vfsgnjx st d a b k l)
      (fun g x y => (x % 2 ^ (g.bits - 1) + (x / 2 ^ (g.bits - 1) + y / 2 ^ (g.bits - 1)) % 2 * 2 ^ (g.bits - 1), 0)) ∧
    bits (.vfkind st d a k l) (fun g x _ => (g.kind x, 0))

/-! ### Masks, selections and moves -/

/-- i completes at s, having written the bits of k[d] that p names with the values f; a write of k0 is discarded (R9). -/
def Sys2Proof.Cert.maskGives (s : State) (i : Instr) (st d : BitVec 3) (p : Nat → Prop) (f : Nat → Bool) (status : X) : Prop :=
  ∃ t, exec i s = .next t ∧ s.maskFrame t st status ∧ t.me.hart.x = s.me.hart.x ∧ t.me.hart.xtag = s.me.hart.xtag ∧
    (∀ n, n ≠ d ∨ d = 0 → t.rK n = s.rK n) ∧
    (d ≠ 0 → ∀ j < 4096, (p j → (t.rK d).getLsbD j = f j) ∧ (¬p j → (t.rK d).getLsbD j = (s.rK d).getLsbD j))

/-- The compares write their active bits of k[d] (R138): the integer ones at widths 8 to 64; the floating-point ones with the flags of each
compare, where none is enabled. -/
def Sys2Proof.Cert.compares : Prop :=
  ∀ (s : State) (st d : BitVec 3) (a b : BitVec 5) (k : BitVec 3) (l : BitVec 1), s.vectorReady →
    let w := s.me.vec.width
    let ints := fun (i : Instr) (f : BitVec w → BitVec w → Bool) => 8 ≤ w →
      maskGives s i st d (s.active k) (fun n => f (BitVec.ofNat w (s.elem a n)) (BitVec.ofNat w (s.elem b n))) s.me.hart.status
    let flts := fun (i : Instr) (op : Nat) => ∀ g, vecFmt l w = some g →
      let r := fun n => (g.decode (s.elem a n)).compare op (g.decode (s.elem b n))
      (∀ n, s.active k n → (r n).2 &&& s.me.hart.fen = 0) →
      ∃ fl, maskGives s i st d (s.active k) (fun n => (r n).1) (s.me.hart.statusWith fl) ∧
        ∀ b < 5, fl.getLsbD b = true ↔ ∃ n, s.active k n ∧ (r n).2.getLsbD b = true
    ints (.vmseq st d a b k) (fun x y => x == y) ∧ ints (.vmsne st d a b k) (fun x y => x != y) ∧
    ints (.vmslt st d a b k) (fun x y => x.slt y) ∧ ints (.vmsle st d a b k) (fun x y => x.sle y) ∧
    ints (.vmsltn st d a b k) (fun x y => x.ult y) ∧ ints (.vmslen st d a b k) (fun x y => x.ule y) ∧
    flts (.vmfeq st d a b k l) 0 ∧ flts (.vmflt st d a b k l) 1 ∧ flts (.vmfle st d a b k l) 2

/-- The mask instructions (R139): logic on bits es to vl − 1, and the count and the first of the active set bits, which are those of all
elements whatever es, where es is below vl. -/
def Sys2Proof.Cert.maskResults : Prop :=
  ∀ (s : State) (st d a b k : BitVec 3) (e : BitVec 5), s.vectorReady →
    let logic := fun (i : Instr) (f : Bool → Bool → Bool) =>
      maskGives s i st d (s.active 0) (fun n => f ((s.rK a).getLsbD n) ((s.rK b).getLsbD n)) s.me.hart.status
    let bitsSet := (List.range s.me.vec.vl.toNat).filter fun n => (s.rK k).getLsbD n && (s.rK a).getLsbD n
    let gives := fun (i : Instr) (v : X) => ∃ t, exec i s = .next t ∧ s.maskFrame t st s.me.hart.status ∧ t.me.vec = s.me.vec ∧
      (∀ r, t.rX r = if r = e ∧ e ≠ 0 then v else s.rX r) ∧ ∀ r, t.rTag r = if r = e ∧ e ≠ 0 then false else s.rTag r
    logic (.kand st d a b) (fun x y => x && y) ∧ logic (.kor st d a b) (fun x y => x || y) ∧ logic (.kxor st d a b) (fun x y => x ^^ y) ∧
    logic (.kandn st d a b) (fun x y => x && !y) ∧ logic (.knot st d a) (fun x _ => !x) ∧
    (s.es < s.me.vec.vl.toNat →
      gives (.kpopc st e a k) (BitVec.ofNat 64 bitsSet.length) ∧
      gives (.kfirst st e a k) ((bitsSet.head?.map fun n => BitVec.ofNat 64 n).getD (BitVec.allOnes 64)))

/-- The instructions that write or read mask registers: the compares and the mask logic (R138, R139). -/
def Obligations.ComparesAndMasks : Prop := compares ∧ maskResults


/-- Selections and moves (R140, R143): vsel takes v[a] where k is set and v[b] elsewhere, in every element from es on; vmv copies active
elements; vmvx gives the element that x[b] names, 0 outside vl; vins sets that element where it is active; vmvvk tells the elements that are
not 0; vmvkv makes elements of mask bits. -/
def Obligations.SelectionsAndMoves : Prop :=
  ∀ (s : State) (st c e k : BitVec 3) (d a b : BitVec 5), s.vectorReady →
    let w := s.me.vec.width
    vecGives s (.vsel st d a b k) st d w (s.active 0) (fun n => if (s.rK k).getLsbD n then s.elem a n else s.elem b n) ∧
    vecGives s (.vmv st d a k) st d w (s.active k) (fun n => s.elem a n) ∧
    (∃ t, exec (.vmvx st d a b) s = .next t ∧ s.maskFrame t st s.me.hart.status ∧ t.me.vec = s.me.vec ∧
      ∀ r, t.rX r = if r = d ∧ d ≠ 0 then
        (if (s.rX b).toNat < s.me.vec.vl.toNat then BitVec.ofNat 64 (s.elem a (s.rX b).toNat) else 0) else s.rX r) ∧
    vecGives s (.vins st d a b k) st d w (fun n => n = (s.rX b).toNat ∧ s.active k n) (fun _ => (s.rX a).toNat) ∧
    maskGives s (.vmvvk st c a k) st c (s.active k) (fun n => s.elem a n != 0) s.me.hart.status ∧
    vecGives s (.vmvkv st d e k) st d w (s.active k) (fun n => b2n ((s.rK e).getLsbD n))

/-! ### Narrow, blocked and distance instructions -/

/-- fl holds exactly the flags of the r n with p n. -/
def Sys2Proof.Cert.flagsOf (fl : Flags) (p : Nat → Prop) (r : Nat → Nat × Flags) : Prop :=
  ∀ b < 5, fl.getLsbD b = true ↔ ∃ n, p n ∧ (r n).2.getLsbD b = true

/-- The exact value of element i of v[n] in a class, with its flags: under the header of its block in v[n + 1] where the class is scaled
(R40, R42, R43, R130). -/
def Sys2Proof.Cert.narrowOf (s : State) (n : BitVec 5) (code i : Nat) : FV × Flags :=
  let blk := s.me.vec.block
  let raw := s.elem n i
  if s.me.vec.isScaled code then
    narrowValue code raw (some (getElem s.me.vec.grant 32 s.me.vec.v[(n + 1).toNat] (i / blk)))
      (code == 16 && raw == 8 && (List.range (i % blk)).all fun j => s.elem n (i / blk * blk + j) != 8)
  else narrowValue code raw none false

/-- vdot and vdist (R130 to R132): for every segment with an active element, element j of v[d] as 32 bits becomes the old one plus the exact
sum of the segment's terms, rounded once or modulo 2^32; the other elements are unchanged. Here no trap is enabled. That opposite
infinities that follow a quiet NaN in one sum raise no NV is the model's choice (log entry 46). -/
def Obligations.DotAndDistanceResults : Prop :=
  ∀ (s : State) (st : BitVec 3) (d a b : BitVec 5) (k : BitVec 3) (c : BitVec 2), s.vectorReady → s.me.hart.fen = 0 →
    s.es < s.me.vec.vl.toNat → s.me.vec.classOk c = true →
    let v := s.me.vec
    let code := v.classOf c
    let m := s.me.hart.rm
    let gives := fun (i : Instr) (seg : Nat) (isInt : Bool) (term : Nat → FV × Flags) =>
      let mine := fun j => (List.range v.vl.toNat).filter fun n => (s.rK k).getLsbD n && n / seg == j
      let r := fun j => segmentSum isInt m (getElem v.grant 32 v.v[d.toNat] j) ((mine j).map term)
      ∃ t fl, exec i s = .next t ∧ s.elemsBecome t d 32 (fun j => mine j ≠ []) (fun j => (r j).1) ∧ s.keepsV t [d] ∧
        s.vecFrame t st (s.me.hart.statusWith fl) ∧ flagsOf fl (fun j => mine j ≠ []) r
    let product := fun n =>
      let x := narrowOf s a code n
      let y := narrowOf s b code n
      ((x.1.mul y.1).1, x.2 ||| y.2 ||| (x.1.mul y.1).2)
    let square := fun n =>
      let x := narrowOf s a code n
      let y := narrowOf s b code n
      let e := exactSum2 m x.1 y.1.negate
      ((e.1.mul e.1).1, x.2 ||| y.2 ||| e.2 ||| (e.1.mul e.1).2)
    let whole := if v.block = 0 then max v.vl.toNat 1 else v.block
    let ints := integerCode code (v.block != 0)
    (v.headerOk a code = true → v.headerOk b code = true →
      gives (.vdot st d a b k c) (32 / v.width) ints product ∧ gives (.vdistIp st d a b k c) whole ints product ∧
      gives (.vdistL2 st d a b k c) whole ints square) ∧
    gives (.vdistHam st d a b k c) whole true
      (fun n => (FV.ofInt (popCount 8 (s.elem a n ^^^ s.elem b n) : Nat), 0))

/-- Element i of the wide group of 32-bit elements at v[n] (R130). -/
def Sys2Proof.Cert.wideElem (s : State) (n : BitVec 5) (i : Nat) : Nat :=
  let e := 32 * s.me.vec.grant
  getElem s.me.vec.grant 32 s.me.vec.v[(n + BitVec.ofNat 5 (i / e)).toNat] (i % e)

/-- vqdec makes binary32 values of the narrow elements, in the wide group at d; vqenc makes the codes of binary32 values under the scale of
the block's header, 1 without one, each active element for itself (R130, R133). -/
def Sys2Proof.Cert.quantiseResults : Prop :=
  ∀ (s : State) (st : BitVec 3) (d a : BitVec 5) (k : BitVec 3) (c : BitVec 2), s.vectorReady → s.me.vec.classOk c = true →
    let v := s.me.vec
    let code := v.classOf c
    let m := s.me.hart.rm
    (v.headerOk a code = true → wideOk d v.width = true → s.me.hart.fen = 0 →
      let r := fun n =>
        let x := narrowOf s a code n
        ((Fmt.f32.ofFV m false x.1).1, x.2 ||| (Fmt.f32.ofFV m false x.1).2)
      ∃ t fl, exec (.vqdec st d a k c) s = .next t ∧ s.keepsV t (wideRegs d v.width) ∧ s.vecFrame t st (s.me.hart.statusWith fl) ∧
        flagsOf fl (s.active k) r ∧
        ∀ n < v.grant * 1024 / v.width, (s.active k n → wideElem t d n = (r n).1 % 2 ^ 32) ∧
          (¬s.active k n → wideElem t d n = wideElem s d n)) ∧
    (v.encodeOk d a c = true →
      vecFlagged s (.vqenc st d a k c) st d v.width (s.active k) fun n =>
        quantise code m (wideElem s a n) (if v.isScaled code then headerScale (getElem v.grant 32 v.v[(d + 1).toNat] (n / v.block))
          else some (1, 0)))

/-- vqenco on Q4X blocks (R133): in every block with an active element the active elements get their codes, at most one of them the marker;
where there is one, the outlier byte of the block's header in v[d + 1] is its E4M3 code. Everything else of the two registers is as
before. -/
def Sys2Proof.Cert.outlierEncoding : Prop :=
  ∀ (s : State) (st : BitVec 3) (d a : BitVec 5) (k : BitVec 3) (c : BitVec 2), s.vectorReady → s.me.hart.fen = 0 →
    s.es < s.me.vec.vl.toNat → s.me.vec.encodeOk d a c = true → s.me.vec.classOf c = 16 → s.me.vec.block ≠ 0 →
    let v := s.me.vec
    let blk := v.block
    let on := fun n => decide (n < v.vl.toNat) && (s.rK k).getLsbD n
    let mine := fun b => (List.range v.vl.toNat).filter fun n => on n && n / blk == b
    let head := fun b => getElem v.grant 32 v.v[(d + 1).toNat] b
    let marked := fun b => (List.range blk).any fun j => !on (b * blk + j) && s.elem d (b * blk + j) == 8
    let r := fun b => encodeBlock s.me.hart.rm (wideElem s a) (headerScale (head b)) (marked b) (mine b)
    ∃ t fl, exec (.vqenco st d a k c) s = .next t ∧ s.keepsV t [d, d + 1] ∧ s.vecFrame t st (s.me.hart.statusWith fl) ∧
      s.elemsBecome t d 4 (fun n => on n = true) (fun n => ((r (n / blk)).1.lookup n).getD 0) ∧
      s.elemsBecome t (d + 1) 32 (fun b => mine b ≠ [] ∧ (r b).2.1 ≠ none)
        (fun b => (r b).2.1.getD 0 * 2 ^ 24 + head b % 2 ^ 24) ∧
      flagsOf fl (fun b => mine b ≠ []) (fun b => (0, (r b).2.2))

/-- The quantising instructions and the outlier format. -/
def Obligations.Quantisation : Prop := quantiseResults ∧ outlierEncoding


/-! ### Conversion, transformation and permutation -/

/-- vcvt at the wider of its two widths converts each active element from its source to its destination type (R134; that the T2 code 0b10 is
returned as it is where both are .t2 is the model's reading, log entry 45); vunpk widens elements
of a narrower width with zeros or with their sign (R135). -/
def Obligations.ConversionResults : Prop :=
  ∀ (s : State) (st : BitVec 3) (d a u : BitVec 5) (k w : BitVec 3) (t : BitVec 5) (g : BitVec 1), s.vectorReady →
    let v := s.me.vec
    let from_ := fun (ws n : Nat) => getElem v.grant ws v.v[a.toNat] n
    (v.width = max (tyBits t.toNat) (tyBits u.toNat) →
      vecFlagged s (.vcvt st d a u k t) st d (tyBits u.toNat) (s.active k) fun n =>
        vecConvert t.toNat u.toNat s.me.hart.rm (from_ (tyBits t.toNat) n)) ∧
    (8 ≤ v.width → w.toNat < v.sew.toNat →
      vecGives s (.vunpk st d a w g k) st d v.width (s.active k) fun n =>
        let x := BitVec.ofNat (sewBits w.toNat) (from_ (sewBits w.toNat) n)
        if g = 1 then (x.signExtend v.width).toNat else x.toNat)

/-- The table, the expansion and the compression of R136 and R137, and the permutations of R141. -/
def Obligations.PermutationResults : Prop :=
  ∀ (s : State) (st : BitVec 3) (d a b : BitVec 5) (k : BitVec 3), s.vectorReady →
    let v := s.me.vec
    let w := v.width
    let vl := v.vl.toNat
    let x := s.elem a
    let y := s.elem b
    let by_ := (s.rX b).toNat
    let on := (List.range vl).filter fun n => (s.rK k).getLsbD n
    let gives := fun (i : Instr) (f : Nat → Nat) => vecGives s i st d w (s.active k) f
    gives (.vlut st d a b k) (fun n => let j := x n % 2 ^ min w 8; if v.vlmaxe ≤ j then 0 else y j) ∧
    (8 ≤ w →
      gives (.vexpand st d a k) (fun n => x (on.filter fun j => j < n).length) ∧
      (s.es < vl → vecGives s (.vcompress st d a k) st d w (fun n => n < on.length) (fun n => x (on.getD n 0))) ∧
      gives (.vperm st d a b k) (fun n => if y n < vl then x (y n) else 0) ∧
      vecGives s (.vlift st d a b k) st d w (fun n => s.active k n ∧ by_ ≤ n) (fun n => x (n - by_)) ∧
      gives (.vdrop st d a b k) (fun n => if n + by_ < vl then x (n + by_) else 0) ∧
      gives (.vbcast st d a b k) (fun _ => if by_ < vl then x by_ else 0) ∧
      gives (.vrev st d a k) (fun n => x (vl - 1 - n)) ∧
      gives (.vzip st d a b k) (fun n => if n % 2 = 0 then x (n / 2) else y (n / 2)) ∧
      gives (.vunzip st d a b k) (fun n => if 2 * n < vl then x (2 * n) else y (2 * n - vl)))

/-! ### Reductions -/

/-- The reductions (R142): element 0 of v[d] becomes the start value v[b][0] combined with every active element of v[a] in ascending order,
whatever es; every other element is unchanged. -/
def Sys2Proof.Cert.integerReductions : Prop :=
  ∀ (s : State) (st : BitVec 3) (d a b : BitVec 5) (k : BitVec 3), s.vectorReady → 8 ≤ s.me.vec.width → s.es < s.me.vec.vl.toNat →
    let w := s.me.vec.width
    let on := (List.range s.me.vec.vl.toNat).filter fun n => (s.rK k).getLsbD n
    let folds := fun (i : Instr) (f : BitVec w → BitVec w → BitVec w) =>
      vecGives s i st d w (fun n => n = 0)
        (fun _ => (on.foldl (fun acc n => f acc (BitVec.ofNat w (s.elem a n))) (BitVec.ofNat w (s.elem b 0))).toNat)
    folds (.vrsum st d a b k) (fun x y => x + y) ∧ folds (.vrmin st d a b k) (fun x y => if y.slt x then y else x) ∧
    folds (.vrmax st d a b k) (fun x y => if x.slt y then y else x) ∧ folds (.vrminn st d a b k) (fun x y => if y.ult x then y else x) ∧
    folds (.vrmaxn st d a b k) (fun x y => if x.ult y then y else x) ∧ folds (.vrand st d a b k) (fun x y => x &&& y) ∧
    folds (.vrior st d a b k) (fun x y => x ||| y) ∧ folds (.vrxor st d a b k) (fun x y => x ^^^ y)

/-- The floating-point reductions (R47, R48, R142): the ordered sum, the sum over the tree of R47 with the start value last, and the extreme of
the values that are not NaN, each with the flags of all its operations; here no trap is enabled. -/
def Sys2Proof.Cert.floatReductions : Prop :=
  ∀ (s : State) (st : BitVec 3) (d a b : BitVec 5) (k : BitVec 3) (l : BitVec 1) (g : Fmt), s.vectorReady → s.me.hart.fen = 0 →
    s.es < s.me.vec.vl.toNat → vecFmt l s.me.vec.width = some g →
    let m := s.me.hart.rm
    let vl := s.me.vec.vl.toNat
    let on := ((List.range vl).filter fun n => (s.rK k).getLsbD n).map fun n => (n, s.elem a n)
    let start := s.elem b 0
    let gives := fun (i : Instr) (r : Nat × Flags) => ∃ t, exec i s = .next t ∧
      s.elemsBecome t d g.bits (fun n => n = 0) (fun _ => r.1) ∧ s.keepsV t [d] ∧ s.vecFrame t st (s.me.hart.statusWith r.2)
    let one := fun (f : Nat → Nat → Nat × Flags) =>
      on.foldl (fun (acc : Nat × Flags) e => ((f acc.1 e.2).1, acc.2 ||| (f acc.1 e.2).2)) (start, 0)
    let depth := treeLevels vl
    let tree := treeSum g m depth ((List.range (2 ^ depth)).map fun n => on.lookup n)
    gives (.vfrseq st d a b k l) (one fun x y => g.add m (g.decode x) (g.decode y)) ∧
    gives (.vfrmin st d a b k l) (one fun x y => g.minMax false x y) ∧ gives (.vfrmax st d a b k l) (one fun x y => g.minMax true x y) ∧
    gives (.vfrpair st d a b k l)
      (match tree.1 with
      | some r => ((g.add m (g.decode start) (g.decode r)).1, tree.2.foldl (· ||| ·) 0 ||| (g.add m (g.decode start) (g.decode r)).2)
      | none => (start, tree.2.foldl (· ||| ·) 0))

/-- The reductions of integer and of floating-point elements. -/
def Obligations.Reductions : Prop := integerReductions ∧ floatReductions


/-! ### Vector loads and stores -/

/-- i loads into the elements of v[d] that p names the value of w bits at bit sh n of the address va n, where the hart reaches each of these
addresses and no watermark holds one back (R214). -/
def Sys2Proof.Cert.loadsElems (s : State) (i : Instr) (st : BitVec 3) (d : BitVec 5) (p : Nat → Prop) (kind : Access) (va : Nat → X)
    (sh : Nat → Nat) (ok : (Nat → Phys) → Prop) : Prop :=
  let w := s.me.vec.width
  ∀ ps : Nat → Phys, s.memOk → (∀ n, p n → s.reaches kind (va n) (ps n) ∧
      ((ps n).managed = true → headerClear s (ps n).pa) ∧
      ∀ m ∈ s.marksOn (va n) (elemBytes w), m.need (va n) (elemBytes w) ≤ m.count.toNat) → ok ps →
    ∃ t, exec i s = .next t ∧ s.elemsBecome t d w p (fun n => bytesAt s (ps n).pa (elemBytes w) / 2 ^ sh n) ∧ s.keepsV t [d] ∧
      s.loadFrame t st

/-- Whether the active elements of a lane-local access lie in the columns of their lane groups (R107). -/
def Sys2Proof.Cert.inColumns (s : State) (p : Nat → Prop) (ps : Nat → Phys) : Prop :=
  ∀ n, p n → inColumn s.me.core (s.me.vec.groups.getD (n % s.me.vec.grant) 0) (ps n).pa = true

/-- The address of element n of a lane-local access (R107). -/
def Sys2Proof.Cert.laneVa (s : State) (a : BitVec 5) (n : Nat) : X :=
  s.rX a + BitVec.ofNat 64 (n % s.me.vec.grant * 1024 + n / s.me.vec.grant * s.me.vec.width / 8)

/-- The address of element n of a gather or scatter (R108). -/
def Sys2Proof.Cert.indexVa (s : State) (a b : BitVec 5) (n : Nat) : X :=
  s.rX a + (BitVec.ofNat s.me.vec.width (s.elem b n)).signExtend 64 * BitVec.ofNat 64 (s.me.vec.width / 8)

/-- s without the mark of a fault mask in status.fm (R19). -/
def Sys2Proof.Cert.unmasked (s : State) : State := s.modHart fun h => { h with status := setField h.status 24 1 0 }

/-- Whether an instruction that kf restricts processes element n (R19). -/
def Sys2Proof.Cert.chosenElem (s : State) (k : BitVec 3) (n : Nat) : Prop :=
  s.active k n ∧ (s.me.hart.fm = true → s.me.vec.kf.getLsbD n = true)

/-- The elements of a gather or scatter that are to be performed and whose access is denied. -/
def Sys2Proof.Cert.deniedElems (s : State) (k : BitVec 3) (kind : Access) (va : Nat → X) : List Nat :=
  (List.range s.me.vec.vl.toNat).filter fun n => decide (s.es ≤ n) && (s.rK k).getLsbD n &&
    (!s.me.hart.fm || s.me.vec.kf.getLsbD n) && (denial s kind (va n)).isSome

/-- A gather or scatter over its elements: without a denied one it completes, and the fault mask that restricted it is gone (R19); otherwise it
traps with the cause and the address of the lowest, the elements that have not completed stand in kf with status.fm set and es 0, and
the others have completed: those not denied, or with h = 11 those below the lowest denied one (R108; for h = 11 the model's choice, log
entry 58). `did` says what the elements that completed did. -/
def Sys2Proof.Cert.underFaultMask (s : State) (i : Instr) (k : BitVec 3) (h : BitVec 2) (kind : Access) (va : Nat → X)
    (did : State → (Nat → Prop) → Prop) : Prop :=
  let bad := deniedElems s k kind va
  (bad = [] → ∃ t, exec i s = .next t ∧ t.pc = s.pc + 4 ∧ t.es = 0 ∧ t.me.hart.x = s.me.hart.x ∧ t.me.vec.k = s.me.vec.k ∧ t.me.hart.fm = false ∧
    t.me.vec.kf = (if s.me.hart.fm then 0 else s.me.vec.kf) ∧ did t (chosenElem s k)) ∧
  ∀ e ∈ bad.head?, ∀ c ∈ denial s kind (va e),
    let rest := fun n => chosenElem s k n ∧ (if h = 3 then e ≤ n else n ∈ bad)
    let pages := ((if h = 3 then [e] else bad).map fun n => (va n).toNat / 2 ^ 19).dedup.length
    ∃ t, ∃ left : List Nat, (∀ n, n ∈ left ↔ rest n) ∧ left.Nodup ∧
      exec i s = .next (t.enterTrap false s.pc (denialTrap kind (va e) c 0 left.length pages)) ∧
      t.me.hart.fm = true ∧ t.es = 0 ∧ (∀ n < 4096, t.me.vec.kf.getLsbD n = decide (n ∈ left)) ∧ t.me.hart.x = s.me.hart.x ∧
      t.me.vec.k = s.me.vec.k ∧ did t fun n => chosenElem s k n ∧ ¬rest n

/-- Gathers, under a fault mask or not (R19, R108; with h = 11 those below the lowest denied element are performed, the model's choice, log entry
58). -/
def Sys2Proof.Cert.gatherFaults : Prop :=
  ∀ (s : State) (st : BitVec 3) (d a b : BitVec 5) (k : BitVec 3) (h : BitVec 2) (ps : Nat → Phys), (unmasked s).vectorReady →
    let w := s.me.vec.width
    let va := indexVa s a b
    8 ≤ w → (s.rX a).toNat % (w / 8) = 0 → s.memOk →
    (∀ n, chosenElem s k n → denial s .gather (va n) = none → s.reaches .gather (va n) (ps n) ∧
      ((ps n).managed = true → headerClear s (ps n).pa) ∧
      ∀ m ∈ s.marksOn (va n) (w / 8), m.need (va n) (w / 8) ≤ m.count.toNat) →
    underFaultMask s (.vldx st d a b k h) k h .gather va fun t p =>
      s.elemsBecome t d w p (fun n => bytesAt s (ps n).pa (w / 8)) ∧ s.keepsV t [d] ∧ t.mem = s.mem ∧ t.tags = s.tags

/-- Fault-only-first loads (R105): where the lowest denied element i, rounded down to a whole block, is above es, vl becomes that number and
the elements below it are loaded; otherwise the load traps with the cause and the address of i, and es and v[d] stay. -/
def Sys2Proof.Cert.faultOnlyFirst : Prop :=
  ∀ (s : State) (st : BitVec 3) (d a b : BitVec 5) (k : BitVec 3) (h : BitVec 2) (ps : Nat → Phys) (i : Nat) (c : Nat × Nat),
    s.vectorReady → s.me.hart.begun = none →
    let w := s.me.vec.width
    let kept := if s.me.vec.block = 0 then i else i - i % s.me.vec.block
    let ends := fun (j : Instr) (stride : X) (va : Nat → X) (sh : Nat → Nat) =>
      s.memOk → s.active k i → denial s .vload (va i) = some c →
      (∀ n < i, s.active k n → s.reaches .vload (va n) (ps n) ∧
        ∀ m ∈ s.marksOn (va n) (elemBytes w), m.need (va n) (elemBytes w) ≤ m.count.toNat) →
      (kept ≤ s.es → ∃ t, exec j s = .next (t.enterTrap false s.pc (denialTrap .vload (va i) c stride (s.me.vec.vl.toNat - s.es) 1)) ∧
        t.es = s.es ∧ t.me.vec.vl = s.me.vec.vl ∧ s.keepsV t [] ∧ t.mem = s.mem ∧ t.me.hart.x = s.me.hart.x) ∧
      (s.es < kept → ∃ t, exec j s = .next t ∧ t.pc = s.pc + 4 ∧ t.es = 0 ∧ t.me.vec.vl = BitVec.ofNat 64 kept ∧ s.keepsV t [d] ∧
        s.elemsBecome t d w (fun n => s.active k n ∧ n < kept) (fun n => bytesAt s (ps n).pa (elemBytes w) / 2 ^ sh n) ∧
        t.mem = s.mem ∧ t.me.hart.x = s.me.hart.x)
    (s.rX a).toNat % elemBytes w = 0 →
      ends (.vld st d a k h) (BitVec.ofNat 64 (elemBytes w)) (fun n => s.rX a + BitVec.ofNat 64 (n * w / 8))
        (fun n => if w < 8 then n * w % 8 else 0) ∧
      (8 ≤ w → (s.rX b).toNat % (w / 8) = 0 →
        ends (.vlds st d a b k h) (s.rX b) (fun n => s.rX a + BitVec.ofNat 64 n * s.rX b) (fun _ => 0))

/-- The vector loads (R101, R104, R107, R108), with every hint: each active element gets the value at its address, packed elements the bits
of their byte (log entry 33 for lane-local ones); every other element and register is as before. -/
def Sys2Proof.Cert.vectorLoads : Prop :=
  ∀ (s : State) (st : BitVec 3) (d a b : BitVec 5) (k : BitVec 3) (h : BitVec 2), s.vectorReady →
    let w := s.me.vec.width
    let g := s.me.vec.grant
    let base := (s.rX a).toNat % elemBytes w = 0
    let none_ := fun (_ : Nat → Phys) => True
    (base → loadsElems s (.vld st d a k h) st d (s.active k) .vload (fun n => s.rX a + BitVec.ofNat 64 (n * w / 8))
      (fun n => if w < 8 then n * w % 8 else 0) none_) ∧
    (base → 8 ≤ w → (s.rX b).toNat % (w / 8) = 0 →
      loadsElems s (.vlds st d a b k h) st d (s.active k) .vload (fun n => s.rX a + BitVec.ofNat 64 n * s.rX b) (fun _ => 0) none_) ∧
    (base → loadsElems s (.vldl st d a k h) st d (s.active k) .vload (laneVa s a) (fun n => if w < 8 then n / g * w % 8 else 0)
      (inColumns s (s.active k))) ∧
    (base → 8 ≤ w → loadsElems s (.vldx st d a b k h) st d (s.active k) .gather (indexVa s a b) (fun _ => 0) none_)

/-- The vector loads, those of which an element faults among them: fault-only-first loads (R105) and gathers under a fault mask (R19, R108). -/
def Obligations.VectorLoads : Prop := vectorLoads ∧ faultOnlyFirst ∧ gatherFaults

/-- i stores the values f of w bits that p names at bit sh n of the addresses va n, which the hart reaches and which share no bit. -/
def Sys2Proof.Cert.storesElems (s : State) (i : Instr) (st : BitVec 3) (w : Nat) (p : Nat → Prop) (kind : Access) (va : Nat → X)
    (sh f : Nat → Nat) (ok : (Nat → Phys) → Prop) : Prop :=
  ∀ ps : Nat → Phys, (∀ n, p n → s.reaches kind (va n) (ps n)) → bitsApart w p (fun n => (ps n).pa) sh → ok ps →
    ∃ t, exec i s = .next t ∧ s.storeFrame t st ∧ t.me.hart.x = s.me.hart.x ∧ t.me.hart.xtag = s.me.hart.xtag ∧
      s.bitsStored t w p (fun n => (ps n).pa) sh f

/-- The vector stores (R101, R104, R107, R108), with every hint: exactly the bits of the active elements of v[d] are stored at their
addresses, and their words get tag 00. -/
def Sys2Proof.Cert.vectorStores : Prop :=
  ∀ (s : State) (st : BitVec 3) (d a b : BitVec 5) (k : BitVec 3) (h : BitVec 2), s.vectorReady →
    let w := s.me.vec.width
    let g := s.me.vec.grant
    let base := (s.rX a).toNat % elemBytes w = 0
    let none_ := fun (_ : Nat → Phys) => True
    (base → storesElems s (.vst st d a k h) st w (s.active k) .vstore (fun n => s.rX a + BitVec.ofNat 64 (n * w / 8))
      (fun n => if w < 8 then n * w % 8 else 0) (s.elem d) none_) ∧
    (base → 8 ≤ w → (s.rX b).toNat % (w / 8) = 0 →
      storesElems s (.vsts st d a b k h) st w (s.active k) .vstore (fun n => s.rX a + BitVec.ofNat 64 n * s.rX b) (fun _ => 0)
        (s.elem d) none_) ∧
    (base → storesElems s (.vstl st d a k h) st w (s.active k) .vstore (laneVa s a) (fun n => if w < 8 then n / g * w % 8 else 0)
      (s.elem d) (inColumns s (s.active k))) ∧
    (base → 8 ≤ w → storesElems s (.vstx st d a b k h) st w (s.active k) .scatter (indexVa s a b) (fun _ => 0) (s.elem d) none_)

/-- Scatters, under a fault mask or not (R19, R108; with h = 11 those below the lowest denied element are performed, the model's choice, log entry
58). -/
def Sys2Proof.Cert.scatterFaults : Prop :=
  ∀ (s : State) (st : BitVec 3) (d a b : BitVec 5) (k : BitVec 3) (h : BitVec 2) (ps : Nat → Phys), (unmasked s).vectorReady →
    let w := s.me.vec.width
    let va := indexVa s a b
    let fine := fun n => chosenElem s k n ∧ denial s .scatter (va n) = none
    8 ≤ w → (s.rX a).toNat % (w / 8) = 0 → (∀ n, fine n → s.reaches .scatter (va n) (ps n)) →
    bitsApart w fine (fun n => (ps n).pa) (fun _ => 0) →
    underFaultMask s (.vstx st d a b k h) k h .scatter va fun t p =>
      s.bitsStored t w p (fun n => (ps n).pa) (fun _ => 0) (s.elem d) ∧ s.keepsV t []

/-- A unit-stride or strided store of which the lowest denied element is i (R105, R247): it traps with the cause and the address of i, and es i; the
elements below i are stored, and above it some of those that are not denied, none with h = 11. -/
def Sys2Proof.Cert.storeFaults : Prop :=
  ∀ (s : State) (st : BitVec 3) (d a b : BitVec 5) (k : BitVec 3) (h : BitVec 2) (ps : Nat → Phys) (i : Nat) (c : Nat × Nat),
    s.vectorReady →
    let w := s.me.vec.width
    let stops := fun (j : Instr) (stride : X) (va : Nat → X) (sh : Nat → Nat) =>
      let fine := fun n => s.active k n ∧ denial s .vstore (va n) = none
      s.active k i → denial s .vstore (va i) = some c → (∀ n < i, s.active k n → fine n) →
      (∀ n, fine n → s.reaches .vstore (va n) (ps n)) → bitsApart w fine (fun n => (ps n).pa) sh →
      ∃ t, ∃ q : Nat → Prop, (∀ n, q n → i < n ∧ fine n) ∧ (h = 3 → ∀ n, ¬q n) ∧
        exec j s = .next (t.enterTrap false s.pc (denialTrap .vstore (va i) c stride (s.me.vec.vl.toNat - i) 1)) ∧ t.es = i ∧
        t.me.hart.x = s.me.hart.x ∧ s.keepsV t [] ∧
        s.bitsStored t w (fun n => (fine n ∧ n < i) ∨ q n) (fun n => (ps n).pa) sh (s.elem d)
    (s.rX a).toNat % elemBytes w = 0 →
      stops (.vst st d a k h) (BitVec.ofNat 64 (elemBytes w)) (fun n => s.rX a + BitVec.ofNat 64 (n * w / 8))
        (fun n => if w < 8 then n * w % 8 else 0) ∧
      (8 ≤ w → (s.rX b).toNat % (w / 8) = 0 →
        stops (.vsts st d a b k h) (s.rX b) (fun n => s.rX a + BitVec.ofNat 64 n * s.rX b) (fun _ => 0))

/-- The vector stores, those of which an element faults among them. -/
def Obligations.VectorStores : Prop := vectorStores ∧ scatterFaults ∧ storeFaults

/-- The transfers of n + 1 registers (R111): word e of the area, from es on, is word e mod 16G of register d + e div 16G, whatever sew and
vl. -/
def Sys2Proof.Cert.multiRegisterTransfers : Prop :=
  ∀ (s : State) (st : BitVec 3) (d a n : BitVec 5) (h : BitVec 2), s.vectorReady → (s.rX a).toNat % 8 = 0 →
    let g := s.me.vec.grant
    let per := 16 * g
    let p := fun e => s.es ≤ e ∧ e < (n.toNat + 1) * per
    let va := fun e => s.rX a + BitVec.ofNat 64 (8 * e)
    let reg := fun j => (d + BitVec.ofNat 5 j).toNat
    (∀ ps : Nat → Phys, s.memOk → (∀ e, p e → s.reaches .vload (va e) (ps e)) →
      ∃ t, exec (.vlm st d a n h) s = .next t ∧ s.keepsV t (regsFrom d n) ∧ s.loadFrame t st ∧
        ∀ j ≤ n.toNat, ∀ e < per, getElem g 64 (t.me.vec.v.toList.getD (reg j) 0) e =
          if s.es ≤ j * per + e then bytesAt s (ps (j * per + e)).pa 8 else getElem g 64 (s.me.vec.v.toList.getD (reg j) 0) e) ∧
    storesElems s (.vsm st d a n h) st 64 p .vstore va (fun _ => 0)
      (fun e => getElem g 64 (s.me.vec.v.toList.getD (reg (e / per)) 0) (e % per)) (fun _ => True)

/-- The named save area (R112, R113, R289): vsmn stores the header, the map entry of each register and the distinct contents of the selected
registers; vlmn reads such an area and gives every selected register the contents that its map entry names, but for contents that lie
whole below es. -/
def Sys2Proof.Cert.namedTransfers : Prop :=
  ∀ (s : State) (st : BitVec 3) (a b : BitVec 5) (h : BitVec 2), s.vectorReady → (s.rX a).toNat % 128 = 0 →
    let v := s.me.vec
    let g := v.grant
    let per := 16 * g
    let sel := selected (s.rX b)
    let held := v.contents sel
    let va := fun e => s.rX a + BitVec.ofNat 64 (8 * e)
    storesElems s (.vsmn st a b h) st 64 (fun e => s.es ≤ e ∧ (e < 33 ∨ (48 ≤ e ∧ e < 48 + held.length * per))) .vstore va (fun _ => 0)
      (fun e =>
        if e = 0 then g * 256 + held.length
        else if e < 33 then (v.mapEntry sel (e - 1)).toNat
        else ((sel.find? fun r => v.phys[r.toNat] == held.getD ((e - 48) / per) 0).map
          fun r => getElem g 64 v.v[r.toNat] ((e - 48) % per)).getD 0) (fun _ => True) ∧
    ∀ ps : Nat → Phys, s.memOk →
      let word := fun e => (BitVec.ofNat 64 (bytesAt s (ps e).pa 8) : X)
      let index := fun (q : BitVec 5) => fieldOf (word (1 + q.toNat)) 58 5
      let loaded := fun (q : BitVec 5) => s.es < 48 + (index q + 1) * per
      fieldOf (word 0) 8 5 = g → fieldOf (word 0) 0 6 ≤ 32 →
      (∀ q ∈ sel, bitAt (word (1 + q.toNat)) 63 = true ∧ index q < fieldOf (word 0) 0 6) →
      (∀ e, e < 33 ∨ (∃ q ∈ sel, loaded q ∧ 48 + index q * per ≤ e ∧ e < 48 + (index q + 1) * per) → s.reaches .vload (va e) (ps e)) →
      ∃ t, exec (.vlmn st a b h) s = .next t ∧ s.keepsV t sel ∧ s.loadFrame t st ∧
        ∀ q ∈ sel, ∀ e < per, getElem g 64 t.me.vec.v[q.toNat] e =
          if loaded q then (word (48 + index q * per + e)).toNat else getElem g 64 v.v[q.toNat] e

/-- The transfers of whole registers, in order and by name. -/
def Obligations.MultiRegisterTransfers : Prop := multiRegisterTransfers ∧ namedTransfers

/-- vbind of a valid record binds the register with the record's fields, where a binding slot is free, and writes no register; vunbind
ends the binding and leaves the register with zeros, storing the record at its base unless that is x0; of a register that is not bound it
has no other effect (R114, R115). -/
def Obligations.StreamBindings : Prop :=
  ∀ (s : State) (st : BitVec 3) (d a : BitVec 5) (ps : Nat → Phys), s.vectorOwned →
    let va := fun j => s.rX a + BitVec.ofNat 64 (8 * j)
    let words := (List.range 8).map fun j => (BitVec.ofNat 64 (bytesAt s (ps j).pa 8) : X)
    let word := fun j => words.getD j 0
    (s.memOk → (s.rX a).toNat % 64 = 0 → (∀ j < 8, s.reaches .otherRead (va j) (ps j)) → validStream words = true →
      s.bindingsUsed < 4 →
      ∃ t, exec (.vbind st d a) s = .next t ∧ t.pc = s.pc + 4 ∧ t.mem = s.mem ∧ t.me.vec.v = s.me.vec.v ∧ t.me.hart.x = s.me.hart.x ∧
        t.me.vec.streams = s.me.vec.streams.filter (fun b => b.reg != d) ++ [{
          reg := d, data := word 0, scale := word 1, count := word 2, bounded := word 2 != 0, ctl := word 3, ahead := [] }]) ∧
    (s.me.vec.stream? d = none →
      ∃ t, exec (.vunbind st d a) s = .next t ∧ t.pc = s.pc + 4 ∧ t.mem = s.mem ∧ t.me.vec = s.me.vec ∧ t.me.hart.x = s.me.hart.x) ∧
    ∀ b : Stream, s.me.vec.stream? d = some b →
      let gone := fun (t : State) => t.pc = s.pc + 4 ∧ s.keepsV t [d] ∧ t.me.vec.v[d.toNat] = 0 ∧ t.me.hart.x = s.me.hart.x ∧
        t.me.vec.streams.map (fun o => o.reg) = (s.me.vec.streams.map (fun o => o.reg)).filter (fun r => r != d)
      (a = 0 → ∃ t, exec (.vunbind st d a) s = .next t ∧ gone t ∧ t.mem = s.mem) ∧
      (a ≠ 0 → (s.rX a).toNat % 64 ≠ 0 →
        exec (.vunbind st d a) s = .next (s.enterTrap false s.pc { code := 0x0C0, tval := s.rX a })) ∧
      (a ≠ 0 → (s.rX a).toNat % 64 = 0 → (∀ j < 8, s.reaches .otherWrite (va j) (ps j)) →
        bitsApart 64 (fun j => j < 8) (fun j => (ps j).pa) (fun _ => 0) →
        ∃ t, exec (.vunbind st d a) s = .next t ∧ gone t ∧
          s.bitsStored t 64 (fun j => j < 8) (fun j => (ps j).pa) (fun _ => 0) (fun j =>
            ([b.data, b.scale, if b.bounded then b.count else 0, b.ctl].getD j 0).toNat))

/-! ### Matrix unit -/

/-- The MOPs (R150 to R152): entry (r, c) of the tile, for a row r with bit r of k and a column c with bit 64 + c, becomes the old entry plus
the exact sum of the products of the row's and the column's elements of the slice, rounded once or modulo 2^32; every other entry and
tile is as before. Here the tiles are free, no trap is enabled and the unit takes a MOP at full rate (R157). That opposite infinities that
follow a quiet NaN in one sum raise no NV is the model's choice (log entry 46). -/
def Obligations.OuterProducts : Prop :=
  ∀ (s : State) (st : BitVec 3) (t : BitVec 2) (a b i : BitVec 5) (k : BitVec 3), s.vectorReady → s.tilesFree → s.me.hart.fen = 0 →
    s.heldBack = false → (s.coreSt s.me.core).half s.cycle = false → (s.coreSt s.me.core).mopFree ≤ s.cycle →
    ((s.coreSt (pairCore s.me.core)).lastMop ≠ some s.cycle ∨ (s.coreSt (pairCore s.me.core)).half s.cycle = true) →
    let v := s.me.vec
    let gives := fun (j : Instr) (f : MopForm) =>
      v.width = f.e → (f.code = 16 → v.block ≠ 0) → v.headerOk a f.code = true → v.headerOk b f.code = true →
      2048 * (i.toNat + 1) ≤ 1024 * v.grant →
      let row := fun r => (List.range f.r).map fun n => narrowOf s a f.code (32 * f.r * i.toNat + f.r * r + n)
      let col := fun c => (List.range f.r).map fun n => narrowOf s b f.code (f.n * f.r * i.toNat + f.r * c + n)
      let entry := fun (tile : Tile) r c => rowEntry f.width (tileRow tile r) c
      let on := fun r c => (s.rK k).getLsbD r && (s.rK k).getLsbD (64 + c)
      let new := fun r c => f.update s.me.hart.rm (entry v.a[t.toNat] r c) (mopProducts (row r) (col c))
      ∃ u fl, exec j s = .next u ∧ s.tileFrame u st (s.me.hart.statusWith fl) ∧ s.keepsV u [] ∧ u.me.vec.msr = v.msr ∧
        (∀ q : BitVec 2, q ≠ t → u.me.vec.a[q.toNat] = v.a[q.toNat]) ∧
        (∀ r < 32, ∀ c < f.n, entry u.me.vec.a[t.toNat] r c = if on r c then (new r c).1 % 2 ^ f.width else entry v.a[t.toNat] r c) ∧
        ∀ n < 5, fl.getLsbD n = true ↔ ∃ r c, r < 32 ∧ c < f.n ∧ on r c = true ∧ (new r c).2.getLsbD n = true
    gives (.mopF64 st t a b i k) { e := 64, code := 11, r := 1, n := 32, acc := some .f64 } ∧
    gives (.mopF32 st t a b i k) { e := 32, code := 10, r := 1, n := 64, acc := some .f32 } ∧
    gives (.mopBf16 st t a b i k) { e := 16, code := 9, r := 2, n := 64, acc := some .f32 } ∧
    gives (.mopE4m3 st t a b i k) { e := 8, code := 12, r := 4, n := 64, acc := some .f32 } ∧
    gives (.mopE5m2 st t a b i k) { e := 8, code := 13, r := 4, n := 64, acc := some .f32 } ∧
    gives (.mopQ4x st t a b i k) { e := 4, code := 16, r := 8, n := 64, acc := some .f32 } ∧
    gives (.mopI4 st t a b i k) { e := 4, code := 15, r := 8, n := 64, acc := none }

/-- The moves of the matrix unit (R153 to R155): mzero clears a tile; mrd and mwr move the active entries of a row, whatever es, at the widths
32 and 64; mld and mst move rows msr to 31 of a tile from and to its image of 8 KiB and leave msr 0. -/
def Obligations.TileMoves : Prop :=
  ∀ (s : State) (st : BitVec 3) (t : BitVec 2) (d a r : BitVec 5) (k : BitVec 3), s.vectorReady → s.tilesFree →
    let v := s.me.vec
    let w := v.width
    let m := rowEntries w
    let tile := v.a[t.toNat]
    let on := fun j => j < m ∧ j < v.vl.toNat ∧ (s.rK k).getLsbD j = true
    let others := fun (u : State) => ∀ q : BitVec 2, q ≠ t → u.me.vec.a[q.toNat] = v.a[q.toNat]
    let va := fun e => s.rX a + BitVec.ofNat 64 (8 * e)
    let p := fun e => 32 * v.msr.toNat ≤ e ∧ e < 1024
    (∃ u, exec (.mzero st t) s = .next u ∧ s.tileFrame u st s.me.hart.status ∧ s.keepsV u [] ∧ u.me.vec.msr = v.msr ∧ others u ∧
      u.me.vec.a[t.toNat] = 0) ∧
    (m ≠ 0 → m ≤ v.vlmaxe →
      (∃ u, exec (.mrd st t d r k) s = .next u ∧ s.tileFrame u st s.me.hart.status ∧ s.keepsV u [d] ∧ u.me.vec.msr = v.msr ∧
        u.me.vec.a = v.a ∧ s.elemsBecome u d w on (rowEntry w (tileRow tile r.toNat))) ∧
      (∃ u, exec (.mwr st t a r k) s = .next u ∧ s.tileFrame u st s.me.hart.status ∧ s.keepsV u [] ∧ u.me.vec.msr = v.msr ∧ others u ∧
        (∀ j < m, on j → rowEntry w (tileRow u.me.vec.a[t.toNat] r.toNat) j = s.elem a j) ∧
        (∀ j < m, ¬on j → rowEntry w (tileRow u.me.vec.a[t.toNat] r.toNat) j = rowEntry w (tileRow tile r.toNat) j) ∧
        ∀ i < 32, i ≠ r.toNat → tileRow u.me.vec.a[t.toNat] i = tileRow tile i)) ∧
    ((s.rX a).toNat % 8 = 0 → ∀ ps : Nat → Phys, s.memOk →
      (∀ e, p e → s.reaches .vload (va e) (ps e) ∧ ∀ q ∈ s.marksOn (va e) 8, q.need (va e) 8 ≤ q.count.toNat) →
      ∃ u, exec (.mld st t a) s = .next u ∧ s.tileFrame u st s.me.hart.status ∧ s.keepsV u [] ∧ u.me.vec.msr = 0 ∧ others u ∧
        ∀ e < 1024, rowEntry 64 (tileRow u.me.vec.a[t.toNat] (e / 32)) (e % 32) =
          if 32 * v.msr.toNat ≤ e then bytesAt s (ps e).pa 8 else rowEntry 64 (tileRow tile (e / 32)) (e % 32)) ∧
    ((s.rX a).toNat % 8 = 0 → ∀ ps : Nat → Phys, (∀ e, p e → s.reaches .vstore (va e) (ps e)) →
      bitsApart 64 p (fun e => (ps e).pa) (fun _ => 0) →
      ∃ u, exec (.mst st t a) s = .next u ∧ u.pc = s.pc + 4 ∧ u.me.hart.x = s.me.hart.x ∧ u.me.vec.v = v.v ∧ u.me.vec.a = v.a ∧
        u.me.vec.msr = 0 ∧
        s.bitsStored u 64 p (fun e => (ps e).pa) (fun _ => 0) (fun e => rowEntry 64 (tileRow tile (e / 32)) (e % 32)))

/-! ### Plane instructions -/

/-- A handle register whose phset is ready (R163). -/
abbrev Sys2Proof.Cert.handleReady (s : State) (n : BitVec 4) : Prop := ∀ q ∈ s.me.hart.pready, q.1 = n.toNat → q.2 ≤ s.cycle

/-- A handle that is ready and neither null nor stale (R163, R172). -/
abbrev Sys2Proof.Cert.live (s : State) (n : BitVec 4) : Prop :=
  hValid (s.rP n).word = true ∧ hStale (s.rP n).word = false ∧ handleReady s n

/-- The sequencer of a handle's stack has room, and none of the partition's work there is frozen (R166, R294). -/
abbrev Sys2Proof.Cert.room (s : State) (geo : X) : Prop :=
  (s.seq.filter (fun o => !o.running && hStack o.geo == hStack geo)).length < 16 ∧ s.seqFrozen (hStack geo) s.pid = false

/-- l falls into the instructions accepted no later than a cycle and those from the first that is accepted later on (R166). -/
def Sys2Proof.Cert.inOrder (l before later : List SeqOp) (cycle : Nat) : Prop :=
  l = before ++ later ∧ (∀ o ∈ before, o.accepted ≤ cycle) ∧ ∀ o ∈ later.head?, cycle < o.accepted

/-- i is accepted at s as a microprogram for the banks of a handle (R166, R172): acceptance is 8 cycles after issue in the own stack and 40 in
another, and it joins the sequencer's instructions in the order of acceptance, while the hart issues on. -/
def Sys2Proof.Cert.accepts (s : State) (i : Instr) (st : BitVec 3) (t : BitVec 1) (geo : X) (handles : List Handle) (prog : List RowOp)
    (extra : Nat) : Prop :=
  let delay := extra + if hStack geo = stackOf s.me.core then 8 else 40
  ∃ before later, inOrder s.seq before later (s.cycle + delay) ∧
    exec i s = .next (({ s with nextId := s.nextId + 1, seq := before ++ {
      id := s.nextId, pid := s.pid, hid := s.me.hart.hid, geo := geo, handles := handles,
      rows := dataRows (prog.flatMap fun q => q.reads ++ q.wrote), writes := dataRows (prog.flatMap RowOp.wrote),
      accepted := s.cycle + delay, start := if t = 1 then some (s.rX 28) else none, running := false, prog := sealProg prog,
      unchecked := [], nextAt := 0, window := false, sinceSync := 0, owed := [], admitted := [], refused := none } :: later } : State).after
        st 0 (s.pc + 4))

/-- The plane instructions (R172 to R177) over handles that are live, of one geometry, wide enough and overlap only as they may: each is
accepted with the microprogram of its expansion, ended by SYNC and END, with the start time of x28 where it is timed. -/
def Sys2Proof.Cert.planeInstructionsAccepted : Prop :=
  ∀ (s : State) (st : BitVec 3) (d a b k : BitVec 4) (w : BitVec 5) (t : BitVec 1), s.settled →
    let D := (s.rP d).word
    let A := (s.rP a).word
    let B := (s.rP b).word
    let n := w.toNat + 1
    let apart := fun (x l y m : Nat) => x + l ≤ y ∨ y + m ≤ x
    let rows2 : PlaneRows := { d := hBase D, a := hBase A, b := hBase B, scratch := hScratch D }
    let rows1 : PlaneRows := { d := hBase D, a := hBase A, b := 0, scratch := hScratch D }
    let one := fun (i : Instr) (expand : PlaneRows → Nat → List RowOp) =>
      accepts s i st t D [s.rP d, s.rP a] (expand rows1 n) 0
    let two := fun (i : Instr) (expand : PlaneRows → Nat → List RowOp) =>
      accepts s i st t D [s.rP d, s.rP a, s.rP b] (expand rows2 n) 0
    live s d → live s a → sameGeometry D A = true → room s D → n ≤ hWidth A →
    (n ≤ hWidth D → hBase D = hBase A ∨ apart (hBase D) n (hBase A) n →
      one (.pneg st d a w t) expandNeg ∧ one (.pnot st d a w t) expandNot ∧ one (.pcopy st d a w t) expandCopy ∧
      one (.pshl st d a k w t) (expandShift true (k.toNat + 1)) ∧ one (.pshr st d a k w t) (expandShift false (k.toNat + 1)) ∧
      (1 ≤ k.toNat → k.toNat ≤ 13 → one (.pcred st d a k w t) (expandCred k.toNat))) ∧
    (live s b → sameGeometry D B = true →
      (n ≤ hWidth B →
        two (.pcmpeq st d a b w t) expandEq ∧ two (.pcmplt st d a b w t) (expandLt true) ∧
        two (.pcmpltn st d a b w t) (expandLt false)) ∧
      (n ≤ hWidth D → n ≤ hWidth B → hBase D = hBase A ∨ apart (hBase D) n (hBase A) n →
        hBase D = hBase B ∨ apart (hBase D) n (hBase B) n →
        two (.padd st d a b w t) expandAdd ∧ two (.psub st d a b w t) expandSub ∧ two (.pand st d a b w t) expandAnd ∧
        two (.por st d a b w t) expandOr ∧ two (.pxor st d a b w t) expandXor ∧ two (.pmaj st d a b w t) expandMaj) ∧
      (n ≤ hWidth D → n ≤ hWidth B → apart (hBase D) n (hBase A) n → apart (hBase D) n (hBase B) n →
        two (.pmul st d a b w t) expandMul) ∧
      (n ≤ hWidth D → hBase D = hBase A ∨ apart (hBase D) n (hBase A) n →
        (2 ≤ hWidth B → apart (hBase D) n (hBase B) 2 → two (.ptdot st d a b w t) expandTdot) ∧
        (1 ≤ hWidth B → two (.psel st d a b w t) expandSel)))

/-- prun (R176, R177) of a program of at most 256 words that ends with its only END, all of them valid for its iterations: it is accepted with
its body repeated n times, 24 cycles and one for each word later, while the hart issues on. A misaligned program traps with 0x0C0. -/
def Sys2Proof.Cert.microprogramAccepted : Prop :=
  ∀ (s : State) (st : BitVec 3) (d a b : BitVec 4) (w : BitVec 5) (t : BitVec 1) (ps : Nat → Phys) (l : Nat), s.settled → live s d →
    handleReady s a → handleReady s b →
    let va := fun j => s.rX 29 + BitVec.ofNat 64 (4 * j)
    let h : RunHandles := { a := (s.rP a).word, b := (s.rP b).word, d := (s.rP d).word }
    let n := w.toNat + 1
    let words := (List.range (l + 1)).map fun j => (BitVec.ofNat 64 (bytesAt s (ps j).pa 4) : X)
    let used := (if namesSpace 0 words then [a] else []) ++ (if namesSpace 1 words then [b] else [])
    ((s.rX 29).toNat % 4 = 0 → s.memOk → l < 256 → (∀ j ≤ l, s.reaches .load (va j) (ps j)) →
      (∀ j ≤ l, fieldOf (words.getD j 0) 28 4 = 0 ↔ j = l) → (∀ x ∈ words, runWord h n 0 x.toNat ≠ none) →
      (∀ q ∈ used, live s q ∧ sameGeometry h.d (s.rP q).word = true) → room s h.d →
      let delay := 24 + (l + 1) + if hStack h.d = stackOf s.me.core then 8 else 40
      ∃ v o before later, exec (.prun st d a b w t) s = .next v ∧ v.pc = s.pc + 4 ∧ v.mem = s.mem ∧ v.me.hart.x = s.me.hart.x ∧
        v.me.hart.readyAt = s.cycle + (1 + st.toNat) ∧ inOrder s.seq before later (s.cycle + delay) ∧
        v.seq = before ++ o :: later ∧ o.accepted = s.cycle + delay ∧ o.geo = h.d ∧ o.handles = (d :: used).map s.rP ∧ o.pid = s.pid ∧ o.hid = s.me.hart.hid ∧
        o.running = false ∧ o.start = (if t = 1 then some (s.rX 28) else none) ∧
        o.prog = sealProg ((List.range n).flatMap fun i =>
          (words.filterMap (fun y => runWord h n i y.toNat)).filter (· ≠ .fin))) ∧
    ((s.rX 29).toNat % 4 ≠ 0 →
      exec (.prun st d a b w t) s = .next (s.enterTrap false s.pc { code := 0x0C0, tval := s.rX 29 }))

/-- The plane instructions and prun, handed to the sequencer. -/
def Obligations.PlaneWorkAccepted : Prop := planeInstructionsAccepted ∧ microprogramAccepted


/-- The number whose bits, lowest first, are those of lane l of the planes of a handle (R110, R162). -/
def Sys2Proof.Cert.laneValue (s : State) (h : X) (l : Nat) : Nat :=
  let at_ := laneOf h l
  (List.range (hWidth h)).foldr (fun m acc =>
    b2n ((memRead s.mem (hStack h * 2 ^ 36 + hSub h * 2 ^ 31 + (hBase h + m) * 2 ^ 21 + at_.1 * 2 ^ 17 + at_.2.1 * 2 ^ 10 + at_.2.2 / 8)).getLsbD
      (at_.2.2 % 8)) + 2 * acc) 0

/-- Row-locks, fences, handles and vldp (R110, R163, R164, R178 to R180, R354): plock places its lock, or reserves its entry and waits behind
those that came before; plock and pfence acquire (R233, R260); punlock completes at acceptance, while the hart issues on; a handle that phset
writes is ready 20 cycles later and 2 more for each page of its range, and one that is not a multiple of four dies traps. That this trap, for a
descriptor whose blocks break no check of R163, has the address of its first block as tval is the model's choice (log entry 60); that plocks
that wait go on in order of their coming, so that one may wait where no other hart holds its rows, is read by inference (log entry 64); that
vldp reads a row marked as scratch through any handle as the bits that stand there is the model's choice (log entry 61). -/
def Obligations.PlaneControl : Prop :=
  ∀ (s : State) (st : BitVec 3) (p : BitVec 4) (m : BitVec 2) (d a b : BitVec 5) (k : BitVec 3), s.settled →
    let h := (s.rP p).word
    let x := (s.dropReserved s.pid s.me.hart.hid).dropPlocker s.pid s.me.hart.hid
    let same := fun (l : LockEntry) => sameGeometry l.handle h && fieldOf l.handle 17 15 == fieldOf h 17 15
    let lock := fun (placed : Bool) => ({ x with nextId := x.nextId + 1, locks := x.locks ++ [{
      stack := hStack h, id := x.nextId, pid := s.pid, hid := s.me.hart.hid, handle := h, mode := m, placed := placed,
      releasing := false, after := [] }] } : State)
    let ready := handleReady s p
    (m ≠ 0 → live s p → x.locks.any (fun l => l.heldBy s.pid s.me.hart.hid && l.covers h) = false →
      (x.locks.filter (fun l => l.stack == hStack h)).length < 64 →
      (s.lockHeldBack s.pid s.me.hart.hid h = false → exec (.plock st p m) s = .next ((lock true).acquire.after st 0 (s.pc + 4))) ∧
      (s.lockHeldBack s.pid s.me.hart.hid h = true → exec (.plock st p m) s =
        .next (waiting { lock false with plockers := (s.addPlocker s.pid s.me.hart.hid h).plockers } (.plock x.nextId h)))) ∧
    (s.lockedByOther s.pid s.me.hart.hid h = true → s.lockHeldBack s.pid s.me.hart.hid h = true) ∧
    (s.lockedByOther s.pid s.me.hart.hid h = false → s.plockers = [] → s.lockHeldBack s.pid s.me.hart.hid h = false) ∧
    (ready → hValid h = true → s.locks.any (fun l => l.placed && l.heldBy s.pid s.me.hart.hid && same l) = true →
      exec (.punlock st p) s = .next ((s.beginRelease s.pid s.me.hart.hid
        (s.cycle + if hStack h = stackOf s.me.core then 8 else 40) same).after st 0 (s.pc + 4))) ∧
    (s.planesOf s.pid s.me.hart.hid = false → exec (.pfence st) s = .next (s.acquire.after st 0 (s.pc + 4))) ∧
    (s.planesOf s.pid s.me.hart.hid = true → exec (.pfence st) s = .next (waiting s .planes)) ∧
    (∀ ps : Nat → Phys,
      let g := planeDesc (s.rX b)
      let pages := ((List.range (g.w * g.nd)).map (fun n => ((s.rX a).toNat + n * 2 ^ 17) / 2 ^ 19)).dedup.length
      ready → validDesc (s.rX b) = true → (s.rX a).toNat % 2 ^ 17 = 0 →
      (∀ n < g.w * g.nd, s.translate s.me.core s.pid s.me.hart.prv .otherWrite (s.rX a + BitVec.ofNat 64 (n * 2 ^ 17)) s.hartAgent =
        (.ok (ps n), s) ∧ blockFits g (ps 0).pa (ps n) (n / g.nd) (n % g.nd) = true) →
      (g.nd % 4 ≠ 0 ∨ paDie (ps 0).pa % 4 ≠ 0 →
        exec (.phset st p a b) s = .next (s.enterTrap false s.pc { code := 0x203, tval := s.rX a })) ∧
      (g.nd % 4 = 0 → paDie (ps 0).pa % 4 = 0 → exec (.phset st p a b) s = .next ((s.after st 0 (s.pc + 4)).modHart fun r => { r with
        p := r.p.set p.toNat { word := handleWord g (ps 0).pa, va := s.rX a }
        pready := r.pready.filter (fun q => q.1 != p.toNat) ++ [(p.toNat, s.cycle + 20 + 2 * pages)] }))) ∧
    (ready → exec (.phget st d p) s = .next (s.afterX d h false 1 true st 0 (s.pc + 4))) ∧
    (s.vectorReady → s.memOk → s.flips = [] → s.sram = [] → (∀ c ∈ s.tags, c.2 ≠ 3) → live s p → s.setLost h = false →
      (s.rX b).toNat + s.me.vec.vl.toNat ≤ laneCount h → hWidth h ≤ s.me.vec.width → s.rowsWait s.pid s.me.hart.hid h = false →
      vecGives s (.vldp st d p b k) st d s.me.vec.width (s.active k) (fun n => laneValue s h ((s.rX b).toNat + n)))

/-! ### Dawn array -/

/-- t is s but for what an instruction of the Dawn array may change (R187, R188): the array with its holder, its window and its race, the v
registers with their names, and of the hart what every completion writes, the results in flight and the event counters. What it writes to the
array is ready after some cycles (R191, R197). -/
def Sys2Proof.Cert.dawnFrame (s t : State) (st : BitVec 3) (ready : Nat := 0) : Prop :=
  t = { s with
    fife := t.fife
    me := { s.me with
      hart := { s.me.hart with
        pc := s.pc + 4, es := 0, pv := false, begun := none, reached := [], overrides := [], readyAt := s.cycle + (1 + st.toNat),
        stall := (s.cycle + 1, s.cycle + 1 + st.toNat), pend := t.me.hart.pend, cnt := t.me.hart.cnt }
      vec := { s.me.vec with
        v := t.me.vec.v, phys := t.me.vec.phys, pregs := t.me.vec.pregs, vdirty := t.me.vec.vdirty, dawn := t.me.vec.dawn,
        dwin := t.me.vec.dwin, dawnHeld := true, raceEnd := t.me.vec.raceEnd, dawnAt := s.cycle + ready } } }

/-- The tick of lane l (R186, R192): the element of v[a], with the delay of v[b] where there is one, 1023 for a lane that is not active or
outside the window. -/
def Sys2Proof.Cert.tick (s : State) (delays : Bool) (a b : BitVec 5) (k : BitVec 3) (l : Nat) : Nat :=
  let x := s.elem a l
  let y := if delays then s.elem b l else 0
  if l < s.me.vec.vl.toNat ∧ (s.rK k).getLsbD l = true ∧ x < 1023 ∧ x + y < s.me.vec.dwin.toNat then x + y else 1023

/-- t is s after a race of the array over 1,024 lanes (R192, R193): each group has its first tick, or its last in mode 1; the first 64
arrivals are captured in order of tick and then of lane; rdy is clear; the array is occupied until the race ends. -/
def Sys2Proof.Cert.raced (s t : State) (delays : Bool) (a b : BitVec 5) (k : BitVec 3) (st : BitVec 3) : Prop :=
  let old := s.me.vec.dawn
  let size := 2 ^ old.gs.toNat
  let ticks := (List.range 1024).map (tick s delays a b k)
  dawnFrame s t st ∧ s.keepsV t [] ∧ t.me.vec.dwin = s.me.vec.dwin ∧
    t.me.vec.raceEnd = some (s.cycle + ((s.me.vec.dwin.toNat + 7) / 8 + 16)) ∧
    t.me.vec.dawn = { old with rdy := false, r := t.me.vec.dawn.r, c := t.me.vec.dawn.c } ∧
    (∀ j : Fin 1024, t.me.vec.dawn.r[j] = if j.val < 1024 / size then
      BitVec.ofNat 10 (groupResult old.mode ((ticks.drop (j.val * size)).take size)) else 1023) ∧
    ∀ j : Fin 64, t.me.vec.dawn.c[j] = captureEntry (arrivals ticks)[j.val]?

/-- The instructions of the Dawn array (R191 to R198), where no other slot holds it, no race is in flight, and what was written to it is ready.
A launch at a time waits for that time, and for the end of a debug freeze of its partition (R280, R292, R294). -/
def Obligations.DawnInstructions : Prop :=
  ∀ (s : State) (st : BitVec 3) (e : BitVec 1) (d a b l : BitVec 5) (k : BitVec 3), s.dawnFree → s.me.hart.fm = false →
    let v := s.me.vec
    let x := s.rX a
    let on := fun n => n < v.vl.toNat ∧ (s.rK k).getLsbD n = true
    let sets := fun (i : Instr) (f : Vec → Vec) =>
      exec i s = .next ((s.after st 0 (s.pc + 4)).modVec fun o =>
        { f o with vdirty := o.vdirty ||| 0x100000000000#64, dawnHeld := true, dawnAt := s.cycle + 2 })
    let item := dawnItem l.toNat
    (s.settled → s.owns = true →
      (fieldOf x 0 4 ≤ 10 → fieldOf x 5 59 = 0 →
        sets (.dwcfg st a) (fun o => { o with dawn := { o.dawn with gs := x.extractLsb' 0 4, mode := x.getLsbD 4 } })) ∧
      sets (.dwrst st) (fun o => { o with dawn := { o.dawn with rdy := true } }) ∧
      (1 ≤ x.toNat → x.toNat ≤ 1023 → sets (.dwwin st a) (fun o => { o with dwin := x.extractLsb' 0 10 }))) ∧
    (s.vectorReady → v.width = 16 → v.dawn.rdy = true →
      (∃ t, exec (.dwlaunch st e a b k) s = .next t ∧ raced s t (decide (e = 1)) a b k st) ∧
      ((s.rX 28).toNat ≤ s.cycle → s.frozen = false →
        ∃ t, exec (.dwlaunchAt st e a b k) s = .next t ∧ raced s t (decide (e = 1)) a b k st) ∧
      (s.cycle < (s.rX 28).toNat ∨ s.frozen = true → exec (.dwlaunchAt st e a b k) s = .next (waiting s (.race (s.rX 28)))) ∧
      let wire := fun (i j : Nat) => (v.dawn.w.toList.getD (32 * i + j) 63).toNat
      let tickIn := fun (i : Nat) => if i < v.vl.toNat ∧ (s.rK k).getLsbD i = true then min 1023 (s.elem a i) else 1023
      let reach := fun (j i : Nat) =>
        if 1023 ≤ tickIn i ∨ v.dwin.toNat ≤ tickIn i + wire i j then 1023 else tickIn i + wire i j
      let outs := fun (j : Nat) => ((List.range 32).filter fun i => wire i j != 63).map (reach j)
      let gives := fun (i : Instr) (f : List Nat → Nat) => ∃ t, exec i s = .next t ∧ dawnFrame s t st ∧ s.keepsV t [d] ∧
        t.me.vec.dwin = v.dwin ∧ t.me.vec.dawn = { v.dawn with rdy := false } ∧
        t.me.vec.raceEnd = some (s.cycle + ((v.dwin.toNat + 7) / 8 + 16)) ∧
        s.elemsBecome t d 16 (fun n => n < 32 ∧ on n) (fun n => if outs n = [] then 1023 else f (outs n))
      gives (.dwmpMin st d a k) (fun r => r.foldl min 1023) ∧ gives (.dwmpMax st d a k) (fun r => r.foldl max 0)) ∧
    (s.vectorReady →
      let reads := fun (i : Instr) (w count : Nat) (f : Nat → Nat) => ∃ t, exec i s = .next t ∧ dawnFrame s t st ∧ s.keepsV t [d] ∧
        t.me.vec.dawn = v.dawn ∧ t.me.vec.dwin = v.dwin ∧ t.me.vec.raceEnd = none ∧
        s.elemsBecome t d w (fun n => n < count ∧ on n) f
      (v.width = 32 → 1 ≤ x.toNat → x.toNat ≤ 64 →
        reads (.dwcap st d a k) 32 x.toNat (fun n => (v.dawn.c.toList.getD n 0).toNat)) ∧
      (v.width = item.1 → l = 0 → reads (.dwrd st d l k) 16 1024 (fun n => (v.dawn.r.toList.getD n 0).toNat)) ∧
      (v.width = item.1 → l = 1 → reads (.dwrd st d l k) 8 1024 (fun n => (v.dawn.w.toList.getD n 0).toNat)) ∧
      (v.width = item.1 → l = 3 →
        reads (.dwrd st d l k) 64 1 (fun _ => v.dawn.gs.toNat + 16 * b2n v.dawn.mode + 32 * b2n v.dawn.rdy)) ∧
      (v.width = item.1 → l.toNat < 4 → (l = 3 → on 0 → s.elem a 0 < 64 ∧ s.elem a 0 % 16 ≤ 10) →
        ∃ t, exec (.dwldw st a l k) s = .next t ∧ dawnFrame s t st 4 ∧ s.keepsV t [] ∧ t.me.vec.dwin = v.dwin ∧
          t.me.vec.raceEnd = none ∧
          (∀ j : Fin 1024, t.me.vec.dawn.r[j] = if l = 0 ∧ on j.val then BitVec.ofNat 10 (s.elem a j.val) else v.dawn.r[j]) ∧
          (∀ j : Fin 1024, t.me.vec.dawn.w[j] = if l = 1 ∧ on j.val then BitVec.ofNat 6 (s.elem a j.val) else v.dawn.w[j]) ∧
          (∀ j : Fin 64, t.me.vec.dawn.c[j] = if l = 2 ∧ on j.val then
            (if (s.elem a j.val).testBit 31 then 0x800003FF else BitVec.ofNat 32 (s.elem a j.val) &&& 0x03FF03FF#32) else v.dawn.c[j]) ∧
          (if l = 3 ∧ on 0 then t.me.vec.dawn.gs.toNat = s.elem a 0 % 16 ∧ t.me.vec.dawn.mode = (s.elem a 0).testBit 4 ∧
            t.me.vec.dawn.rdy = (s.elem a 0).testBit 5
          else t.me.vec.dawn.gs = v.dawn.gs ∧ t.me.vec.dawn.mode = v.dawn.mode ∧ t.me.vec.dawn.rdy = v.dawn.rdy)))

/-! ### Events of harts, of the scheduler and of the sequencers -/

/-- i changes nothing at s but every slot, as f says. -/
def Sys2Proof.Cert.slotsBecome (s : State) (i : Instr) (f : Slot → Slot) : Prop := exec i s = .next (s.mapSlots f)

/-- The ends of waits and the asynchronous changes of a hart, each where it is due (R20, R68, R117, R157, R178, R193, R194, R210, R214, R215,
R283, R285): the hart goes on, completes the instruction that waited, a plock as an acquire (R243), or takes its trap. -/
def Obligations.HartEvents : Prop :=
  ∀ (s : State) (core slot n : Nat) (w : BitVec 32),
    let here := fun (o : Slot) => o.core == core && o.idx == slot
    let o := s.slotAt core slot
    let u := s.focus core slot
    let h := u.me.hart
    let released := fun (o : Slot) => { o with hart := { o.hart with wait := none, readyAt := max o.hart.readyAt s.cycle } }
    let awake := u.modHart fun r => { r with wait := none }
    let passes := fun (o : Slot) => o.live && s.runs o.hart.pid && o.hart.wait.any fun q =>
      match q with
      | .barrier b token short => b == n && phasePassed (s.barrier n).phase token short && !(s.barrier n).renewed
      | _ => false
    ((s.slots.map fun o => (o.core, o.idx)).Nodup → (∀ o ∈ s.slots, passes o = true → (o.hart.ss && !o.hart.prv) = false) →
      ∃ t, exec (.barrierPhaseRelease n) s = .next t ∧ t.mem = s.mem ∧ t.barriers = s.barriers ∧ t.cycle = s.cycle ∧
        ∀ o ∈ s.slots, (passes o = false → o ∈ t.slots) ∧ (passes o = true → ∃ q ∈ t.slots, q.core = o.core ∧ q.idx = o.idx ∧
          q.hart = (({ s with me := { o with hart := { o.hart with wait := none } } } : State).after (o.hart.word.extractLsb' 23 3) 0
            (o.hart.pc + 4)).me.hart)) ∧
    slotsBecome s (.waitmExpiry core slot) (fun o =>
      match o.hart.wait with
      | some (.meridian t) => if here o ∧ o.live ∧ t.toNat ≤ s.cycle then released o else o
      | _ => o) ∧
    (∀ b c, u.me.live = true → h.wait = some (.watermark b c) → c ≤ (s.watermark b).count.toNat → u.me ∈ s.slots →
      ∃ t, exec (.watermarkWaitEnd core slot) s = .next t ∧ t.me.hart = (released u.me).hart ∧ t.mem = s.mem ∧ t.tags = s.tags) ∧
    (o.live = true → s.runs o.hart.pid = true → o.hart.wait = some .wfi → s.alarmDue o.hart = true →
      exec (.meridianAlarm core slot) s = .next (awake.complete (h.word.extractLsb' 23 3) 0 (h.pc + 4))) ∧
    (∀ id g l, u.me.live = true → h.wait = some (.plock id g) →
      u.locks.find? (fun q => q.id == id && !q.placed && q.heldBy h.pid h.hid) = some l → u.lockHeldBack h.pid h.hid l.handle = false →
      exec (.lockPlaced core slot) s = .next (({ awake.dropPlocker h.pid h.hid with
        locks := u.locks.map fun q => if q.id = id then { q with placed := true } else q } : State).acquire.complete
          (h.word.extractLsb' 23 3) 0 (h.pc + 4))) ∧
    (∀ c, u.me.vec.raceEnd = some c → c ≤ u.cycle →
      exec (.raceEnd core slot) s = .next ((u.modVec fun v => { v with raceEnd := none }).modHart (Hart.count 9 1))) ∧
    (∀ t, u.me.live = true → h.wait = some (.race t) → t.toNat ≤ u.cycle → u.frozen = false → awake.vectorReady → awake.dawnFree →
      u.me.vec.width = 16 → u.me.vec.dawn.rdy = true →
      ∃ v, exec (.raceBegin core slot) s = .next v ∧
        raced awake v (h.word.getLsbD 18) (h.word.extractLsb' 13 5) (h.word.extractLsb' 8 5) (h.word.extractLsb' 5 3)
          (h.word.extractLsb' 23 3)) ∧
    ((s.coreSt core).halfUntil ≠ 0 → (s.coreSt core).halfUntil ≤ s.cycle →
      ∃ t, exec (.halfRateWindow core) s = .next t ∧ t = { s with cores := t.cores } ∧
        t.coreSt core = { s.coreSt core with halfUntil := 0 }) ∧
    (s.asyncDue (s.slotAt core slot) = true →
      let x := ((u.dropReserved u.pid h.hid).dropPlocker u.pid h.hid).dropPortWait u.pid h.hid
      (∀ a, firstAsync h.async = some a →
        exec (.asynchronousTrap core slot) s = .next ((x.modHart fun r => { r with async := r.async.erase a }).enterTrap true h.pc
          { code := a.code, tval := a.tval, info0 := a.info0, info1 := a.info1 })) ∧
      (h.async = [] → ∃ v, exec (.asynchronousTrap core slot) s =
        .next (({ x with fresh := x.fresh + 1 } : State).enterTrap true h.pc { code := 0x382, tval := v }))) ∧
    (s.me.live = true →
      exec (.illegalInstruction w) s = .next (s.enterTrap false s.pc
        { code := if w = 0#32 ∨ w = 0xFFFFFFFF#32 then 0x001 else 0x000, tval := w.setWidth 64 })) ∧
    (∀ r b p, u.me ∈ s.slots → u.me.live = true → u.owns = true → u.me.vec.stream? r = some b →
      let va := b.nextAhead
      (va - b.data).toNat + b.bytes ≤ fieldOf b.ctl 10 4 * (u.me.vec.vl.toNat * b.width / 8) → u.marksOn va b.bytes = [] →
      u.memOk → u.reaches .vload va p →
      ∃ t, exec (.readAhead core slot r) s = .next t ∧ t.mem = s.mem ∧ t.me.hart = h ∧ t.me.vec.v = u.me.vec.v ∧
        t.me.vec.streams = u.me.vec.streams.map fun o => if o.reg = r then { o with
          ahead := o.ahead ++ (List.range b.bytes).map fun j => ((va + BitVec.ofNat 64 j).toNat, memRead u.mem (p.pa + j)) } else o)

/-- The events of the scheduler (R264 to R274), each where it is due. A hart switched out leaves its slot for its record, in state 4 where its
wait is one of Table 2 of 13_execution_and_scheduling and in state 2 otherwise, with its pc and its x registers, and nothing issues from the slot for 192 cycles; a slice that
expires with nothing queued starts again; a switch-in takes the record's pc and registers; a hart whose wait has ended enters the queue; a
hand-off makes a new hart of the iteration, and the walker hands out no other for 4 cycles. That a record's pc is taken over whole, bits [1:0]
as well, is the model's choice (log entry 49). -/
def Obligations.SchedulerEvents : Prop :=
  ∀ (s : State) (core slot : Nat) (pid : Nat) (hid : BitVec 32), s.memOk →
    let o := s.slotAt core slot
    let u := s.focus core slot
    let h := u.me.hart
    let left := fun (i : Instr) => ∃ t, exec i s = .next t ∧ t.me.core = core ∧ t.me.idx = slot ∧ t.me.live = false ∧
      t.me.vec = u.me.vec ∧ t.me.since = s.cycle + 192 ∧ savedIn s t h (if h.wait.any Wait.inTable2 then 4 else 2) ∧
      (h.wait.any Wait.inTable2 = false →
        t.queue = s.queue ++ [{ stack := stackOf core, pid := h.pid, hid := h.hid }] ∧ t.waiting = s.waiting) ∧
      (h.wait.any Wait.inTable2 = true →
        t.waiting = s.waiting ++ [{ stack := stackOf core, pid := h.pid, hid := h.hid }] ∧ t.queue = s.queue)
    let arrives := fun (i : Instr) (p : Nat) (q : BitVec 32) (pc : X) (x : Nat → X) => ∃ t, exec i s = .next t ∧ t.me.core = core ∧
      t.me.idx = slot ∧ t.me.live = true ∧ t.me.hart.pid = p ∧ t.me.hart.hid = q ∧ t.me.hart.pc = pc ∧
      (∀ j : Fin 32, t.me.hart.x[j] = x j.val) ∧ t.recordState p q = 3 ∧ s.cycle ≤ t.me.hart.readyAt
    let word := fun (p : Nat) (q : BitVec 32) (at_ : Nat) => s.physWord (s.recordAddr p q + at_)
    (s.sliceDue o = true → s.queueWaits (stackOf core) o.hart.pid = true → left (.sliceExpiry core slot)) ∧
    (s.sliceDue o = true → s.queueWaits (stackOf core) o.hart.pid = false →
      slotsBecome s (.sliceExpiry core slot) (fun q => if q.core = core ∧ q.idx = slot then { q with since := s.cycle } else q)) ∧
    (s.waiterDue o = true → left (.waitingSwitchOut core slot)) ∧
    (∀ r, s.switchInNext core slot = some r → recordSound s r.pid r.hid →
      (s.recordState r.pid r.hid = 1 → arrives (.switchIn core slot) r.pid r.hid (word r.pid r.hid 0x08) (fun j =>
        if j = 25 then word r.pid r.hid 0x10 else if j = 26 then BitVec.ofNat 64 (s.recordAddr r.pid r.hid) else 0)) ∧
      (s.recordState r.pid r.hid = 2 → arrives (.switchIn core slot) r.pid r.hid (word r.pid r.hid 0x08) (fun j =>
        if j = 0 then 0 else word r.pid r.hid (0x100 + 8 * j)))) ∧
    (∀ r, s.waiting.find? (fun q => q.pid == pid && q.hid == hid && s.observed q) = some r → recordSound s pid hid →
      ∃ t, exec (.waitConditionObserved pid hid) s = .next t ∧ t.me = s.me ∧ t.queue = s.queue ++ [r] ∧
        t.waiting = s.waiting.filter (fun q => !(q.pid == pid && q.hid == hid)) ∧ t.recordState pid hid = 2) ∧
    (∀ r, s.handoffDue (stackOf core) core slot = true → s.slotPid core slot = some pid → s.nextRecord (stackOf core) pid = some r →
      s.freeRecord pid = some hid → recordSound s pid hid →
      let dims := fieldOf (r.words.getD 4 0) 0 2 + 1
      (∃ t, exec (.nestHandoff (stackOf core) core slot) s = .next t ∧ t.paced (stackOf core) = false ∧
        ∀ q ∈ t.walkers, q.id = r.id → ∃ q0 ∈ s.walkers, q = { q0 with next := q0.next + 1 }) ∧
      arrives (.nestHandoff (stackOf core) core slot) r.pid hid (r.words.getD 0 0) (fun j =>
        if 20 ≤ j ∧ j < 20 + dims then BitVec.ofNat 64 (nestIndex r.words r.next (j - 20))
        else if j = 24 then BitVec.ofNat 64 r.next
        else if j = 25 then r.words.getD 1 0
        else if j = 26 then r.addr
        else if j = 27 then BitVec.ofNat 64 (fieldOf (r.words.getD 5 0) 0 12)
        else 0))

/-- The events of the sequencers (R166 to R170, R179), each where it is due: a microprogram that ends leaves the refreshes that it owes to its
banks; a SYNC window performs in each bank the refresh that its die owes and the rewrites of its unchecked rows, a row time each, lasts as long as
the bank with the most of them needs where nothing waits, and admits the accesses that wait for its banks in order of arrival, at most 8 at a
bank, and serves no others: one that it does not admit finds a bank of its own full, and one of which no row in a bank is left before it is served
there. The first row operation of a run checks the blocks behind its rows, and a block that is refused freezes the microprogram. And what a row operation does to the rows of a bank: TRA makes
the majority of m0, m1 and m2 in each of them, AAP copies a row or complements a dual-contact row, SHL1 and SHR1 shift by a column and
leave the source in h; every row that is not named keeps its bits. -/
def Sys2Proof.Cert.sequencerEvents : Prop :=
  ∀ (s : State) (stack lock die : Nat) (o : SeqOp) (q : RowOp) (rest : List RowOp),
    let blocks := fun (o : SeqOp) =>
      (dataRows ((runAhead o.prog).flatMap fun q => q.reads ++ q.wrote)).flatMap (rowBlocks o)
    let need := fun (b : Nat) => (o.unchecked.filter fun r => decide (s.rowCond (rowPa b r) = some .unchecked)).length +
      if paDie b ∈ o.owed then 1 else 0
    (s.seqOp? o.id = some o →
      (s.canStart o = true →
        exec (.microprogramStart o.id) s = .next (s.setSeqOp { o with running := true, nextAt := s.cycle })) ∧
      (o.prog = .fin :: rest → s.rowDue o = true →
        ∃ t, exec (.rowOperation o.id) s = .next t ∧ t.seq = s.seq.filter (fun r => r.id != o.id) ∧ t.me = s.me ∧
          ∀ d ∈ o.owed, ({ geo := o.geo, die := d, doneAt := s.cycle + 48 } : LateRefresh) ∈ t.lateRefreshes) ∧
      (o.prog = q :: rest → q ≠ .fin → s.rowDue o = true → o.sinceSync = 0 →
        ∀ va, s.refusedBlock o (blocks o) = (some (.inl va), s) →
        ∃ t, exec (.rowOperation o.id) s = .next t ∧ t.mem = s.mem ∧
          t.seqOp? o.id = some { o with refused := some va, window := true, waitsOn := none } ∧
          ∀ p ∈ t.slots, p.live = true → p.hart.pid = o.pid → p.hart.hid = o.hid → p.hart.async.any (fun a => a.code == 0x3C1) = true) ∧
      (o.prog = q :: rest → q ≠ .fin → o.sinceSync ≠ 0 ∨ s.refusedBlock o (blocks o) = (none, s) → s.rowDue o = true →
        ∃ t r, exec (.rowOperation o.id) s = .next t ∧ t.mem = (rowStepAll o q s).mem ∧ t.seqOp? o.id = some r ∧
          r = { o with
            prog := if o.sinceSync + 1 = 32 ∧ rest.head? ≠ some .sync then .sync :: rest else rest
            nextAt := o.nextAt + 48
            window := false
            admitted := []
            items := []
            served := []
            waitsOn := none
            sinceSync := o.sinceSync + 1
            unchecked := r.unchecked }) ∧
      (o.prog = .sync :: rest → o.running = true → o.refused = none → o.nextAt ≤ s.cycle →
        ∃ t r, exec (.syncWindow o.id) s = .next t ∧ t.seqOp? o.id = some r ∧
          r = { o with
            prog := rest
            nextAt := r.nextAt
            window := true
            sinceSync := 0
            unchecked := []
            owed := []
            opened := o.nextAt
            items := r.items
            served := r.served
            admitted := r.admitted } ∧
          (∀ b ∈ bankBases o.geo, o.nextAt + 48 * need b ≤ r.nextAt) ∧
          (∀ m, s.waitersOn o.geo = [] → (∀ b ∈ bankBases o.geo, need b ≤ m) → r.nextAt ≤ o.nextAt + 48 * m) ∧
          (let is := fun (w q : Waiter) => w = { q with left := w.left }
          let rows := fun (l : List Waiter) => l.flatMap fun w => w.rows
          let inBank := fun (l : List (Nat × Nat)) (b : Nat) => l.countP fun i => i.1 == b
          r.admitted.Pairwise (fun v w => v.since ≤ w.since) ∧ (∀ w ∈ r.admitted, ∃ q ∈ s.waitersOn o.geo, is w q) ∧
          (∀ q ∈ s.waitersOn o.geo, (∃ w ∈ r.admitted, is w q) ∨
            ∃ i ∈ q.rows, 8 < inBank (rows (r.admitted.filter fun w => decide (w.since ≤ q.since)) ++ q.rows) i.1) ∧
          (∀ b, inBank (rows r.admitted) b ≤ 8) ∧ r.served = rows r.admitted ∧
          (∀ who pa, t.windowServes r (some who) pa = true → ∃ w ∈ r.admitted, w.who = some who ∧ rowItem pa ∈ w.rows) ∧
          ∀ before w after pa, r.admitted = before ++ w :: after → rowItem pa ∈ w.rows → t.cycle < r.nextAt →
            (∀ v ∈ before, ∀ i ∈ v.left, i.1 ≠ (rowItem pa).1) → t.windowServes r w.who pa = true) ∧
          ∀ b ∈ bankBases o.geo, ∀ n ∈ o.unchecked, t.rowCond (rowPa b n) ≠ some .unchecked)) ∧
    (∀ l, s.locks.find? (fun r => r.stack == stack && r.id == lock) = some l → s.lockDone l = true →
      ∃ t, exec (.lockRelease stack lock) s = .next t ∧ t.locks = s.locks.filter (fun r => r.id != lock) ∧ t.me = s.me) ∧
    (stack < 8 → s.refreshCount stack % 16 = die → 312 * s.refreshCount stack ≤ s.cycle →
      ∃ t, exec (.refresh stack die) s = .next t ∧ t.mem = s.mem ∧ t.refreshCount stack = s.refreshCount stack + 1 ∧
        ∀ r ∈ s.seq, r.running = true → hStack r.geo = stack → hDieLo r.geo ≤ die → die ≤ hDieHi r.geo →
          ({ r with owed := insertNew r.owed die } : SeqOp) ∈ t.seq) ∧
    (s.memOk → ∀ b ∈ bankBases o.geo, ∀ src dst : Nat, ∀ loose : Bool, src < 1024 → dst < 1024 → dst ≠ rowZ → dst ≠ rowO →
      let bits := fun (t : State) n => t.rowBits (rowPa b n)
      let maj := majority (bits s (rowM 0)) (bits s (rowM 1)) (bits s (rowM 2))
      let keeps := fun (t : State) (l : List Nat) => ∀ n < 1024, n ∉ l → bits t n = bits s n
      let tra := rowStep o .tra b s
      let aap := rowStep o (.aap (.row src) dst loose) b s
      let neg := rowStep o (.aap (.neg (rowD 0)) dst loose) b s
      let shl := rowStep o (.shl (.row src) dst loose) b s
      let shr := rowStep o (.shr (.row src) dst loose) b s
      (∀ i < 3, bits tra (rowM i) = maj) ∧ keeps tra [rowM 0, rowM 1, rowM 2] ∧
      bits aap dst = bits s src ∧ keeps aap [dst] ∧ bits neg dst = (2 ^ 8192 - 1) ^^^ bits s (rowD 0) ∧ keeps neg [dst] ∧
      (dst ≠ rowH → bits shl rowH = bits s src ∧ bits shr rowH = bits s src) ∧
      bits shl dst = bits s src * 2 % 2 ^ 8192 ∧ bits shr dst = bits s src / 2 ∧ keeps shl [rowH, dst] ∧ keeps shr [rowH, dst])

/-- The number whose bits, lowest first, stand in column l of w rows of a bank from row n on: the value of a lane in that bank (R162, R172). -/
def Sys2Proof.Cert.columnValue (s : State) (bank n w l : Nat) : Nat :=
  ((List.range w).map fun i => if (s.rowBits (rowPa bank (n + i))).testBit l then 2 ^ i else 0).sum

/-- The arithmetic of the expansions (R172 to R175), in each bank: run row operation by row operation over the rows that the sequencer may name
together, each leaves in every lane of D the value of Table 6, modulo 2^w, and the data rows that D does not name as they were. Rows z and o
hold their constants (R159). -/
def Sys2Proof.Cert.expansionResults : Prop :=
  ∀ (s : State) (o : SeqOp) (r : PlaneRows) (bank w : Nat), s.memOk → bank ∈ bankBases o.geo → 1 ≤ w → w ≤ 32 → r.d + w ≤ 1008 → r.a + w ≤ 1008 →
    r.b + 2 ≤ 1008 → s.rowBits (rowPa bank rowZ) = 0 → s.rowBits (rowPa bank rowO) = 2 ^ 8192 - 1 →
    let A := columnValue s bank r.a w
    let B := columnValue s bank r.b w
    let D := columnValue s bank r.d w
    let apart := fun (x m : Nat) => r.d + w ≤ x ∨ x + m ≤ r.d
    let fits := fun (x : Nat) => r.d = x ∨ apart x w
    let leaves := fun (prog : List RowOp) (m : Nat) (f : Nat → Nat) =>
      let t := prog.foldl (fun u q => rowStep o q bank u) s
      (∀ l < 8192, columnValue t bank r.d m l = f l) ∧
      ∀ n < 1008, ¬(r.d ≤ n ∧ n < r.d + m) → t.rowBits (rowPa bank n) = s.rowBits (rowPa bank n)
    let ones := 2 ^ w - 1
    let bit := fun (n l : Nat) => (s.rowBits (rowPa bank n)).testBit l
    let signed := fun (x : Nat) => (BitVec.ofNat w x).toInt
    (fits r.a →
      leaves (expandNeg r w) w (fun l => (2 ^ w - A l) % 2 ^ w) ∧ leaves (expandNot r w) w (fun l => ones - A l) ∧ leaves (expandCopy r w) w A ∧
      (∀ k, 1 ≤ k → k ≤ 16 → leaves (expandShift true k r w) w (fun l => if k ≤ l then A (l - k) else 0) ∧
        leaves (expandShift false k r w) w (fun l => if l + k < 8192 then A (l + k) else 0)) ∧
      (∀ g, 1 ≤ g → g ≤ 13 → leaves (expandCred g r w) w
        (fun l => ((List.range (2 ^ g)).map fun t => if l + t < 8192 then A (l + t) else 0).sum % 2 ^ w)) ∧
      leaves (expandSel r w) w (fun l => if bit r.b l then A l else D l) ∧
      (apart r.b 2 → leaves (expandTdot r w) w (fun l => match bit (r.b + 1) l, bit r.b l with
        | false, true => (D l + A l) % 2 ^ w
        | true, true => (D l + (2 ^ w - A l)) % 2 ^ w
        | _, false => D l))) ∧
    (r.b + w ≤ 1008 →
      (fits r.a → fits r.b →
        leaves (expandAdd r w) w (fun l => (A l + B l) % 2 ^ w) ∧ leaves (expandSub r w) w (fun l => (A l + (2 ^ w - B l)) % 2 ^ w) ∧
        leaves (expandAnd r w) w (fun l => A l &&& B l) ∧ leaves (expandOr r w) w (fun l => A l ||| B l) ∧
        leaves (expandXor r w) w (fun l => A l ^^^ B l) ∧ leaves (expandMaj r w) w (fun l => majority (D l) (A l) (B l))) ∧
      (apart r.a w → apart r.b w → leaves (expandMul r w) w (fun l => A l * B l % 2 ^ w)) ∧
      leaves (expandEq r w) 1 (fun l => b2n (decide (A l = B l))) ∧ leaves (expandLt false r w) 1 (fun l => b2n (decide (A l < B l))) ∧
      leaves (expandLt true r w) 1 (fun l => b2n (decide (signed (A l) < signed (B l)))))

/-- What the sequencers do, event by event, row operation by row operation, and over whole expansions. -/
def Obligations.SequencerEvents : Prop := sequencerEvents ∧ expansionResults

/-! ### Events of the engines and of the banks -/

/-- Nothing holds engine n back at an address: no microprogram, window or refresh its bank, and no lock its row (R169, R170, R178). -/
abbrev Sys2Proof.Cert.engFree (s : State) (n pa : Nat) : Prop :=
  (isDram pa = true → s.refreshAt pa = false ∧ ∀ o ∈ s.seq, inBanks o.geo pa = true →
    s.holdsBanks o (engineAsker n) pa = false ∧ s.windowServes o (engineAsker n) pa = false) ∧ s.rowLocked pa (engineAsker n) = false

/-- An address that engine n reaches for a command: its translation is held (R322), the address is in DRAM that nothing holds back, its word
is not poisoned, and no codeword of its line is in error. -/
abbrev Sys2Proof.Cert.engReaches (s : State) (n : Nat) (c : Command) (k : Access) (va : X) (p : Phys) : Prop :=
  s.translate (1000 + n) c.pid c.prv k va (engineAgent n) = (.ok p, s) ∧ isDram p.pa = true ∧ reservedRow p.pa = false ∧
    engFree s n p.pa ∧ s.scratchMarked p.pa = false ∧ tagAt s.tags (p.pa / 8) ≠ 3 ∧
    ∀ g, g / 8 = p.pa / 128 → flipsAt s.flips g = []

/-- The head command c of engine n, due and begun anew, completes with a status: its completion word enters the port (R216, R323). -/
def Sys2Proof.Cert.completes (s t : State) (n : Nat) (c : Command) (status : Nat) : Prop :=
  t.engine n = { s.engine n with
    cmds := (s.engine n).cmds.tail, progress := 0, emitted := 0, bad := false, readyAt := 0, waitsOn := none, started := false
    spoiled := []
    done := (s.engine n).done ++
      [BitVec.ofNat 64 (2 ^ 63 + status * 2 ^ 56 + fieldOf c.w0 0 4 * 2 ^ 52 + fieldOf c.w0 32 32)] } ∧
  t.me = s.me

/-- The commands of the engines (R216, R322 to R328) and the conversion of a way (R314), where they are due: a way that becomes scratch, or
leaves it, is zero; a malformed command completes with status 1, one of length 0 with status 0, and the others, over addresses that
the engine reaches, with status 0 once COPY has copied its elements between the layouts, CTURN has gathered aligned elements from planes or
spread them over planes, PREF has changed no byte, SNAP has compared the hash of each block and emitted the changed ones, and FILL has
repeated its pattern. -/
def Obligations.EngineCommands : Prop :=
  ∀ (s : State) (n : Nat) (c : Command) (rest : List Command), s.memOk → s.sram = [] →
    let k := s.engine n
    let kind := fieldOf c.w0 0 4
    let event : Instr :=
      if kind = 2 then .engineCturn n else if kind = 3 then .enginePref n else if kind = 4 then .engineSnap n
      else if kind = 5 then .engineFill n else .engineCopy n
    let len := fieldOf c.w3 0 40
    (∀ stack pos, let w := s.wpart stack pos
      w.stack = stack → w.pos = pos → ∀ cur at_, w.way = some (cur, at_) → at_ ≤ s.cycle →
        ∃ t, exec (.wayConversion stack pos) s = .next t ∧ (t.wpart stack pos).cur = cur ∧ (t.wpart stack pos).req = w.req ∧
          ((t.wpart stack pos).way = none ↔ cur = w.req) ∧ t.me = s.me ∧
          ∀ a, memRead t.mem a = if inWay stack pos (min w.cur cur) a then 0 else memRead s.mem a) ∧
    (k.cmds = c :: rest → s.engineDue k = true → k.progress = 0 → k.emitted = 0 → k.bad = false → k.spoiled = [] →
    (cmdMalformed c = true → ∃ t, exec event s = .next t ∧ completes s t n c 1 ∧ t.mem = s.mem) ∧
    (cmdMalformed c = false → cmdEmpty c = true → ∃ t, exec event s = .next t ∧ completes s t n c 0 ∧ t.mem = s.mem) ∧
    (cmdMalformed c = false → cmdEmpty c = false → ∀ ps qs : Nat → Phys,
      (kind = 1 →
        let esz := 2 ^ fieldOf c.w0 8 2
        let g := fieldOf c.w0 10 4 + 1
        let total := len / esz
        (∀ i < total, engReaches s n c .otherRead (c.w1 + BitVec.ofNat 64 (layoutOffset (fieldOf c.w0 4 2) g esz i)) (ps i)) →
        (∀ i < total, engReaches s n c .otherWrite (c.w2 + BitVec.ofNat 64 (layoutOffset (fieldOf c.w0 6 2) g esz i)) (qs i)) →
        bitsApart (8 * esz) (fun i => i < total) (fun i => (qs i).pa) (fun _ => 0) →
        (∀ i < total, ∀ j < total, (ps i).pa + esz ≤ (qs j).pa ∨ (qs j).pa + esz ≤ (ps i).pa) →
        ∃ t, exec (.engineCopy n) s = .next t ∧ completes s t n c 0 ∧
          s.bitsStored t (8 * esz) (fun i => i < total) (fun i => (qs i).pa) (fun _ => 0) (fun i => bytesAt s (ps i).pa esz)) ∧
      (kind = 2 → bitAt c.w0 4 = true →
        let esz := 2 ^ fieldOf c.w0 5 2
        let g := planeDesc (turnDesc c)
        let count := fieldOf c.w0 8 24
        let first := fieldOf c.w3 24 23
        ∀ rs : Nat → Nat → Phys, c.w1.toNat % esz = 0 →
        g.nd % 4 = 0 → paDie (ps 0).pa % 4 = 0 →
        (∀ b < g.w * g.nd, engReaches s n c .otherWrite (c.w2 + BitVec.ofNat 64 (b * 2 ^ 17)) (ps b) ∧
          blockFits g (ps 0).pa (ps b) (b / g.nd) (b % g.nd) = true) →
        let h := handleWord g (ps 0).pa
        (∀ i < g.w, ∀ j < count, engReaches s n c .otherRead (Machine.laneVa c h i (first + j)) (rs i j)) →
        (∀ j < count, engReaches s n c .otherWrite (c.w1 + BitVec.ofNat 64 (j * esz)) (qs j)) →
        bitsApart (8 * esz) (fun j => j < count) (fun j => (qs j).pa) (fun _ => 0) →
        (∀ i < g.w, ∀ j < count, ∀ m < count, (rs i j).pa < (qs m).pa ∨ (qs m).pa + esz ≤ (rs i j).pa) →
        ∃ t, exec (.engineCturn n) s = .next t ∧ completes s t n c 0 ∧
          s.bitsStored t (8 * esz) (fun j => j < count) (fun j => (qs j).pa) (fun _ => 0) (fun j =>
            (List.range g.w).foldr (fun i acc => b2n ((memRead s.mem (rs i j).pa).getLsbD ((first + j) % 8)) + 2 * acc) 0)) ∧
      (kind = 2 → bitAt c.w0 4 = false →
        let esz := 2 ^ fieldOf c.w0 5 2
        let g := planeDesc (turnDesc c)
        let count := fieldOf c.w0 8 24
        let first := fieldOf c.w3 24 23
        ∀ rs : Nat → Nat → Phys, c.w1.toNat % esz = 0 →
        g.nd % 4 = 0 → paDie (ps 0).pa % 4 = 0 →
        (∀ b < g.w * g.nd, engReaches s n c .otherWrite (c.w2 + BitVec.ofNat 64 (b * 2 ^ 17)) (ps b) ∧
          blockFits g (ps 0).pa (ps b) (b / g.nd) (b % g.nd) = true) →
        let h := handleWord g (ps 0).pa
        (∀ i < g.w, ∀ j < count, engReaches s n c .otherRead (Machine.laneVa c h i (first + j)) (rs i j) ∧
          engReaches s n c .otherWrite (Machine.laneVa c h i (first + j)) (rs i j)) →
        (∀ j < count, engReaches s n c .otherRead (c.w1 + BitVec.ofNat 64 (j * esz)) (qs j)) →
        (∀ i < g.w, ∀ j < count, ∀ m < count, (rs i j).pa < (qs m).pa ∨ (qs m).pa + esz ≤ (rs i j).pa) →
        let p := fun (q : Nat) => q < g.w * count
        let at_ := fun (q : Nat) => (rs (q / count) (q % count)).pa
        let sh := fun (q : Nat) => (first + q % count) % 8
        bitsApart 1 p at_ sh →
        ∃ t, exec (.engineCturn n) s = .next t ∧ completes s t n c 0 ∧
          s.bitsStored t 1 p at_ sh (fun q => bytesAt s (qs (q % count)).pa esz / 2 ^ (q / count) % 2)) ∧
      (kind = 3 →
        (∀ i < (c.w1.toNat + len + 127) / 128 - c.w1.toNat / 128, let va := BitVec.ofNat 64 ((c.w1.toNat / 128 + i) * 128)
          canonical va = false ∨ (s.translate (1000 + n) c.pid c.prv .otherRead va (engineAgent n) = (.ok (ps i), s) ∧
            engFree s n (ps i).pa ∧ ∀ b, b / 8 = (ps i).pa / 128 → flipsAt s.flips b = [])) →
        ∃ t, exec (.enginePref n) s = .next t ∧ completes s t n c 0 ∧ t.mem = s.mem ∧ t.tags = s.tags) ∧
      (kind = 4 →
        let count := fieldOf c.w0 8 24
        let words := fun (b : Nat) => (List.range 512).map fun i => bytesAt s (ps (512 * b + i)).pa 8
        let hash := fun (b : Nat) => snapHash (words b)
        let changed := fun (b : Nat) => decide (BitVec.ofNat 64 (bytesAt s (qs (514 * b)).pa 8) ≠ hash b)
        let before := fun (b : Nat) => ((List.range b).filter changed).length
        let va := fun (i : Nat) =>
          if i = 514 * count then c.w3
          else if i % 514 = 0 then c.w2 + BitVec.ofNat 64 (8 * (i / 514))
          else c.w3 + BitVec.ofNat 64 (8 + 4104 * before (i / 514) + 8 * (i % 514 - 1))
        let p := fun (i : Nat) => i = 514 * count ∨ (i < 514 * count ∧ changed (i / 514) = true)
        (∀ i < 512 * count, engReaches s n c .otherRead (c.w1 + BitVec.ofNat 64 (8 * i)) (ps i)) →
        (∀ b < count, engReaches s n c .otherRead (va (514 * b)) (qs (514 * b))) →
        (∀ i, p i → engReaches s n c .otherWrite (va i) (qs i)) →
        (∀ i j, i ≤ 514 * count → i % 514 = 0 ∨ p i → p j → i ≠ j → (qs i).pa + 8 ≤ (qs j).pa ∨ (qs j).pa + 8 ≤ (qs i).pa) →
        (∀ i < 512 * count, ∀ j, p j → (ps i).pa + 8 ≤ (qs j).pa ∨ (qs j).pa + 8 ≤ (ps i).pa) →
        ∃ t, exec (.engineSnap n) s = .next t ∧ completes s t n c 0 ∧
          s.bitsStored t 64 p (fun i => (qs i).pa) (fun _ => 0) (fun i =>
            if i = 514 * count then before count
            else if i % 514 = 0 then (hash (i / 514)).toNat
            else if i % 514 = 1 then i / 514
            else (words (i / 514)).getD (i % 514 - 2) 0)) ∧
      (kind = 5 →
        let size := 2 ^ fieldOf c.w0 4 2
        let total := len / size
        (∀ i < total, engReaches s n c .otherWrite (c.w1 + BitVec.ofNat 64 (i * size)) (qs i)) →
        bitsApart (8 * size) (fun i => i < total) (fun i => (qs i).pa) (fun _ => 0) →
        ∃ t, exec (.engineFill n) s = .next t ∧ completes s t n c 0 ∧
          s.bitsStored t (8 * size) (fun i => i < total) (fun i => (qs i).pa) (fun _ => 0) (fun _ => c.w2.toNat))))

/-! ### Events from outside -/

/-- s with one more answer of firmware to the host, by the code of the command (R347). -/
def Sys2Proof.Cert.answered (s : State) (command : Nat) (code : Nat) : State :=
  { s with replies := s.replies ++ [.status command code] }

/-- Every resident hart that satisfies who has an asynchronous cause of this code pending (R285). -/
abbrev Sys2Proof.Cert.posted (t : State) (who : Hart → Bool) (code : Nat) : Prop :=
  ∀ o ∈ t.slots, o.live = true → who o.hart = true → o.hart.async.any (fun a => a.code == code) = true

/-- The host's writes of a start register (R266, R345, R346): a START whose record cannot be read yet waits, and so does one behind an earlier
one of its partition; any other gives its result. -/
def Sys2Proof.Cert.starts : Prop :=
  ∀ (s : State) (pid : Nat) (rec : BitVec 64), pid < 64 →
    let gives := fun (t : State) (r : Nat) =>
      exec (.startRoot pid rec) s = .next { t with stats := t.stats.filter (fun q => q.1 != pid) ++ [(pid, r)] }
    let a := fieldOf rec 0 52
    (s.nextStart = none → s.startBusy pid rec = true ∨ (∃ q ∈ s.starts, q.1 = pid) →
      exec (.startRoot pid rec) s = .next { s with starts := s.starts ++ [(pid, rec)] }) ∧
    (s.starts = [] → s.startBusy pid rec = false →
      (s.part? pid = none → gives s 3) ∧
      ∀ p : Part, s.part? pid = some p →
        let isRecord := p.cfg.pool ≤ a ∧ a < p.cfg.pool + 512 * p.cfg.count ∧ (a - p.cfg.pool) % 512 = 0
        let hid := BitVec.ofNat 32 ((a - p.cfg.pool) / 512)
        let root : Runnable := { stack := p.firstStack, pid := pid, hid := hid }
        let u := s.meetHead pid hid
        (p.cond = .swapped → gives s 3) ∧ (p.cond ≠ .swapped → ¬isRecord → gives s 1) ∧
        (p.cond ≠ .swapped → isRecord → u.recordState pid hid ≠ 1 → gives u 2) ∧
        (isRecord → u.recordState pid hid = 1 → (∀ r ∈ s.queue, r.pid = pid → r.hid ≠ hid) →
          (p.cond ≠ .swapped → p.cond ≠ .idle → ∃ t, gives t 0 ∧ t = { u with parts := t.parts, queue := s.queue ++ [root] } ∧
            t.part? pid = some p) ∧
          (p.cond = .idle → ∃ t, gives t 0 ∧ t = { u with parts := t.parts, queue := s.queue ++ [root], barriers := t.barriers } ∧
            t.part? pid = some { p with cond := .running } ∧ ∀ k ∈ t.barriers, s.holdsBarrier pid k.n = false)))

/-- What becomes of a management command, over the mailbox or over I3C (R347, R350, R353): while a swap-out runs it waits, but for the end of a
freeze that the swap-out waits for; in recovery and in reset the mailbox takes a new image and attests, and answers any other with 2, while I3C
goes on with all but a configuration. -/
def Sys2Proof.Cert.acceptance : Prop :=
  ∀ (s : State) (pid : Nat) (cfg : PartCfg) (nonce : List (BitVec 8)) (image : FwImage) (stack : Nat) (m : BusMaster),
    let viaI3c := s.i3c.headD false
    let u : State := { s with i3c := s.i3c.tail }
    let all : List (Instr × HostCommand × Nat) :=
      [(.configure pid cfg, .configure pid cfg, 0xC000), (.unconfigure pid, .unconfigure pid, 0xC001), (.swapOut pid, .swapOut pid, 0xC002),
       (.restorePart pid, .restorePart pid, 0xC003), (.freezeSet pid, .freezeSet pid, 0xC004), (.freezeClear pid, .freezeClear pid, 0xC005),
       (.resumeMaster m, .resumeMaster m, 0xC006), (.abortMaster m, .abortMaster m, 0xC007), (.logRead stack, .logRead stack, 0xC008),
       (.logClear stack, .logClear stack, 0xC009), (.attest pid nonce, .attest pid nonce, 0xC00A),
       (.imageTransfer image, .imageTransfer image, 0xC00B)]
    ∀ q ∈ all,
      (s.swapRuns = true → s.endsHalt q.2.1 = false → exec q.1 s = .next { u with commands := s.commands ++ [(viaI3c, q.2.1)] }) ∧
      (s.swapRuns = false ∨ s.endsHalt q.2.1 = true →
        (s.fw.recovery = true ∨ s.fw.inReset = true → viaI3c = false → q.2.2 < 0xC00A → exec q.1 s = .next (answered u q.2.2 2)) ∧
        (s.fw.recovery = true ∨ s.fw.inReset = true → viaI3c = true → q.2.2 = 0xC000 → exec q.1 s = .next (answered u q.2.2 2)) ∧
        (s.fw.recovery = true ∨ s.fw.inReset = true → viaI3c = false → 0xC00A ≤ q.2.2 → exec q.1 s = .next (q.2.1.effect u)) ∧
        (s.fw.recovery = true ∨ s.fw.inReset = true → viaI3c = true → q.2.2 ≠ 0xC000 → exec q.1 s = .next (q.2.1.effect u)) ∧
        (s.fw.recovery = false → s.fw.inReset = false → exec q.1 s = .next (q.2.1.effect u))) ∧
      (s.endsHalt q.2.1 = true → q.2.2 = 0xC006 ∨ q.2.2 = 0xC007)

/-- The management commands that concern a partition, where firmware takes them at once (R292, R298 to R300, R344, R347). -/
def Sys2Proof.Cert.partitionCommands : Prop :=
  ∀ (s : State) (pid : Nat) (p : Part) (cfg : PartCfg), s.fw.recovery = false → s.fw.inReset = false →
    let u : State := { s with i3c := s.i3c.tail }
    let ans := fun (i : Instr) (t : State) (c : Nat) (r : Nat) => exec i s = .next (answered t c r)
    (p.cond = .halting → s.part? pid = some p → s.parts.find? (fun q => q.cond == .halting && s.halted q) = some p → ∃ v : State,
      s.finishSwap = s.commands.foldl (fun t c => State.mailbox c.1 c.2 t) ({ v with commands := [] } : State) ∧ v.mem = s.mem ∧
      v.part? pid = some { p with
        cond := .swapped, image := ((s.slots.filter p.hasSlot).filter Slot.holdsState).map (Slot.imaged s.cycle)
        heldSeq := s.seq.filter (fun o => o.pid == pid), heldWalk := s.walkers.filter (fun r => r.pid == pid) } ∧
      (∀ o ∈ v.slots, p.hasSlot o = true → o.live = false) ∧ (∀ o ∈ v.seq, o.pid ≠ pid) ∧ (∀ r ∈ v.walkers, r.pid ≠ pid) ∧
      v.replies = s.replies ++ [.status 0xC002 0]) ∧
    (s.swapRuns = false →
    (s.part? pid = none →
      (s.cfgMalformed pid cfg = false → ans (.configure pid cfg)
        { u with
          nextId := s.nextId + 1
          parts := s.parts ++ [{
            pid := pid, cond := .idle, cfg := cfg, frozen := false, invCount := 0
            granted := cfg.cores.map fun c => (c.core, s.nextId)
            sets := [], image := [], heldSeq := [], heldWalk := [] }] }
        0xC000 0) ∧
      (s.cfgMalformed pid cfg = true → ans (.configure pid cfg) u 0xC000 1) ∧
      ans (.unconfigure pid) u 0xC001 2 ∧ ans (.swapOut pid) u 0xC002 2 ∧ ans (.restorePart pid) u 0xC003 2 ∧
      ans (.freezeSet pid) u 0xC004 2 ∧ ans (.freezeClear pid) u 0xC005 2) ∧
    (s.part? pid = some p →
      (p.cond ≠ .swapped → ans (.configure pid cfg) u 0xC000 2 ∧ ans (.restorePart pid) u 0xC003 2) ∧
      (p.cond = .swapped →
        (s.cfgMalformed pid cfg = true → ans (.configure pid cfg) u 0xC000 1) ∧
        (s.cfgMalformed pid cfg = false → s.cfgRemoves p cfg = true → ans (.configure pid cfg) u 0xC000 3) ∧
        (s.cfgMalformed pid cfg = false → s.cfgRemoves p cfg = false →
          ∃ t, ans (.configure pid cfg) t 0xC000 0 ∧
            t = { u with nextId := s.nextId + 1, parts := t.parts, tlb := s.tlb.filter (fun e => e.pid != pid) } ∧
            t.part? pid = some { p with
              cfg := cfg, granted := cfg.cores.map fun c => (c.core, (p.granted.lookup c.core).getD s.nextId) })) ∧
      (s.hasHart p = true → ans (.unconfigure pid) u 0xC001 2) ∧
      (s.hasHart p = false → ∃ t, exec (.unconfigure pid) s = .next t ∧ t.part? pid = none ∧ (∀ r ∈ t.walkers, r.pid ≠ p.pid) ∧
        (∀ e ∈ t.tlb, e.pid ≠ p.pid) ∧ (∀ l ∈ t.locks, l.pid ≠ p.pid) ∧ t.replies.getLast? = some (.status 0xC001 0)) ∧
      (p.cond = .running → ∃ t, exec (.swapOut pid) s = .next t ∧ t = { u with parts := t.parts } ∧
        t.part? pid = some { p with cond := .halting }) ∧
      (p.cond = .idle ∨ p.cond = .swapped → ans (.swapOut pid) u 0xC002 2) ∧
      (p.cond = .swapped → p.image.Pairwise (fun u v => ¬(u.core = v.core ∧ u.idx = v.idx)) →
        ∃ t, exec (.restorePart pid) s = .next t ∧ t.mem = s.mem ∧ t.part? pid = some { p with
            cond := .running, image := [], heldSeq := [], heldWalk := [] } ∧
          (∀ o ∈ p.image, s.revived o ∈ t.slots) ∧ (∀ o ∈ p.heldSeq, ({ o with accepted := max o.accepted s.cycle } : SeqOp) ∈ t.seq) ∧
          (∀ r ∈ p.heldWalk, ({ r with accepted := max r.accepted s.cycle } : WalkerRec) ∈ t.walkers) ∧
          t.replies = s.replies ++ [.status 0xC003 0]) ∧
      (∃ t, exec (.freezeSet pid) s = .next t ∧ t.part? pid = some { p with frozen := true } ∧ t.mem = s.mem ∧
        (p.frozen = false → posted t (fun h => h.pid == pid) 0x342) ∧ t.replies = s.replies ++ [.status 0xC004 0]) ∧
      ∃ t, exec (.freezeClear pid) s = .next (answered t 0xC005 0) ∧ t = { u with parts := t.parts } ∧
        t.part? pid = some { p with frozen := false }))

/-- The end of the freeze of an engine, a peer or a sequencer (R294), and the logs, attestation and images (R339, R350, R351). -/
def Sys2Proof.Cert.moduleCommands : Prop :=
  ∀ (s : State) (pid : Nat) (nonce : List (BitVec 8)) (image : FwImage) (stack : Nat),
    let u : State := { s with i3c := s.i3c.tail }
    let ans := fun (i : Instr) (t : State) (c : Nat) (r : Nat) => exec i s = .next (answered t c r)
    let taken := fun (m : BusMaster) => s.swapRuns = false ∨ s.endsHalt (.resumeMaster m) = true
    (s.fw.recovery = false → s.fw.inReset = false →
    (∀ n, taken (.engine n) → let k := s.engine n
      (k.frozen = none → ans (.resumeMaster (.engine n)) u 0xC006 2 ∧ ans (.abortMaster (.engine n)) u 0xC007 2) ∧
      (k.frozen ≠ none →
        (∃ t, ans (.resumeMaster (.engine n)) t 0xC006 0 ∧ t = { u with engines := t.engines } ∧ t.engine n = { k with frozen := none }) ∧
        ∃ t, ans (.abortMaster (.engine n)) t 0xC007 0 ∧ t = { u with engines := t.engines } ∧ t.engine n = { k with
          frozen := none, cmds := [], progress := 0, emitted := 0, bad := false, readyAt := 0, waitsOn := none, started := false
          spoiled := []
          done := k.done ++ k.cmds.map fun c =>
            BitVec.ofNat 64 (2 ^ 63 + 4 * 2 ^ 56 + fieldOf c.w0 0 4 * 2 ^ 52 + fieldOf c.w0 32 32) })) ∧
    (∀ id ∈ s.peersFrozen, s.swapRuns = false → ∃ t, ans (.resumeMaster (.peer id)) t 0xC006 0 ∧ ans (.abortMaster (.peer id)) t 0xC007 0 ∧
      t = { u with peersFrozen := t.peersFrozen } ∧ id ∉ t.peersFrozen) ∧
    (∀ id, s.swapRuns = false → id ∉ s.peersFrozen → ans (.resumeMaster (.peer id)) u 0xC006 2 ∧ ans (.abortMaster (.peer id)) u 0xC007 2) ∧
    (taken (.sequencer stack pid) → s.seqFrozen stack pid = true →
      (∃ t, ans (.resumeMaster (.sequencer stack pid)) t 0xC006 0 ∧ t = { u with seq := t.seq } ∧ t.seqFrozen stack pid = false) ∧
      ((∀ o ∈ s.seq, o.refused ≠ none → o.running = true) → ∃ t, ans (.abortMaster (.sequencer stack pid)) t 0xC007 0 ∧
        t.seqFrozen stack pid = false ∧ ∀ o ∈ t.seq, o ∈ s.seq)) ∧
    (s.swapRuns = false → s.seqFrozen stack pid = false → ans (.resumeMaster (.sequencer stack pid)) u 0xC006 2 ∧
      ans (.abortMaster (.sequencer stack pid)) u 0xC007 2) ∧
    (s.swapRuns = false → stack < 8 →
      let mine := (s.logs.filter (fun e => e.stack == stack)).reverse
      let lost := ((s.logLost.find? (fun l => l.1 == stack)).map (·.2)).getD 0
      (ans (.logRead stack) { u with replies := s.replies ++ [.bytes
        (mine.flatMap (fun e => [e.time, e.word, e.pa, e.agent].flatMap fun w => leBytes 8 w.toNat) ++ leBytes 4 lost.toNat)] }
        0xC008 0) ∧
      ∃ t, ans (.logClear stack) t 0xC009 0 ∧ t = { u with logs := t.logs, logLost := t.logLost } ∧
        (∀ e, e ∈ t.logs ↔ e ∈ s.logs ∧ e.stack ≠ stack) ∧ ∀ l ∈ t.logLost, l.1 ≠ stack)) ∧
    (s.swapRuns = false → nonce.length = 32 → pid < 64 →
      let fields := nonce ++ sha256 s.fw.image.bytes ++ sha256 (Config.cfgBytes ((s.part? pid).map (·.cfg))) ++
        Config.serialNumber ++ sha256 (Config.unitBytes s.fw.lost)
      ans (.attest pid nonce) { u with replies := s.replies ++ [.bytes (fields ++ (Config.attestSignature fields).toList)] } 0xC00A 0) ∧
    (s.swapRuns = false → ans (.imageTransfer image) { u with fw := { s.fw with pending := some image } } 0xC00B
      (if Config.signatureValid image = true ∧ s.fw.minVersion ≤ image.version then 0 else 4))

/-- The host's writes of a start register and its management commands (R266, R292, R294, R298 to R300, R339, R344 to R347, R350, R351). These
clauses are the model's choice: the order in which the refusals of CONFIGURE are found and their status, the status 2 for the end of a freeze of
an agent that is not frozen, for FREEZE commands of a partition that does not exist and for commands that are not taken in recovery or in
reset, the end of a freeze taken during a swap-out, the bytes of a log read, an image that is stored whatever its signature with status 4, and
what the abort of a sequencer discards (log entry 39); the bytes and the constants that an attestation covers (log entry 28). -/
def Obligations.ManagementEvents : Prop := Cert.starts ∧ acceptance ∧ partitionCommands ∧ moduleCommands

/-- CXL.mem requests by ports that work, and the host's accesses to its own memory (R225, R245, R317, R318, R343, R348). -/
def Sys2Proof.Cert.hostAccesses : Prop :=
  ∀ (s : State) (port pa n : Nat) (bytes : List Byte), s.memOk → s.sram = [] → s.fw.inReset = false →
    let who := fun (w : Requester) => s.reachable w = true ∧
      (w = .host port ∨ ∃ i, w = .peer i ∧ i ∉ s.peersFrozen ∧ s.peerGranted i pa n = true)
    let asker := some (requestAsker s.nextId)
    let good := fun (g : Nat) => s.backsNothing g = false ∧ s.scratchMarked g = false ∧ s.dramWaits g asker = false ∧
      tagAt s.tags (g / 8) ≠ 3 ∧ tagAt s.tags (g / 8 + 1) ≠ 3 ∧ flipsAt s.flips (g / 16) = []
    let replied := fun (t : State) (r : Reply) => t.replies = s.replies ++ [r] ∧ t.nextId = s.nextId + 1 ∧ t.me = s.me
    (0 < n → pa + n ≤ 2 ^ 39 →
      (∀ w, who w → (∀ g ∈ granules pa n, good g) → ∃ t, exec (.cxlMemRead w pa n) s = .next t ∧ t.mem = s.mem ∧
        replied t (.data s.nextId ((List.range n).map fun j => memRead s.mem (pa + j))) ∧
        (w = .host port → ∀ j < n, (pa + j) / 64 ∈ t.hostHeld)) ∧
      (∀ w, who w → (∀ g ∈ granules pa n, s.dramWaits g asker = false) →
        (∃ g ∈ granules pa n, s.backsNothing g = true ∨ s.scratchMarked g = true) →
        ∃ t, exec (.cxlMemRead w pa n) s = .next t ∧ t.mem = s.mem ∧ replied t (.poisoned s.nextId)) ∧
      (∀ w, who w → bytes.length = n → (∀ g ∈ granules pa n, good g) → ∃ t, exec (.cxlMemWrite w pa bytes) s = .next t ∧
        s.stored t pa n (leNat bytes) ∧ replied t (.writeOk s.nextId) ∧
        (∀ j, pa / 8 ≤ j → j < (pa + n + 7) / 8 → tagAt t.tags j = 0) ∧
        (∀ j, j < pa / 8 ∨ (pa + n + 7) / 8 ≤ j → tagAt t.tags j = tagAt s.tags j) ∧
        ∀ i, w = .peer i → ∀ j < n, (pa + j) / 64 ∉ t.hostHeld) ∧
      (∀ w, who w → bytes.length = n → (∀ g ∈ granules pa n, s.dramWaits g asker = false) →
        (∃ g ∈ granules pa n, s.backsNothing g = true) →
        ∃ t, exec (.cxlMemWrite w pa bytes) s = .next t ∧ t.mem = s.mem ∧ t.tags = s.tags ∧ replied t (.writeRefused s.nextId)) ∧
      (∀ w, who w → (∃ g ∈ granules pa n, s.dramWaits g asker = true) →
        let queued := fun (o : Option (List Byte)) => Host.Outcome.next { s with
          nextId := s.nextId + 1
          requests := s.requests ++ [{ id := s.nextId, who := w, pa := pa, size := n, write := o, since := s.cycle }] }
        exec (.cxlMemRead w pa n) s = queued none ∧ (bytes.length = n → exec (.cxlMemWrite w pa bytes) s = queued (some bytes))) ∧
      (∀ w, s.reachable w = false → exec (.cxlMemRead w pa n) s = .next s ∧
        (bytes.length = n → exec (.cxlMemWrite w pa bytes) s = .next s)) ∧
      ∀ i, s.reachable (.peer i) = true → i ∈ s.peersFrozen ∨ s.peerGranted i pa n = false →
        let stopped := fun (j : Instr) => ∃ t, exec j s = .next t ∧ t.mem = s.mem ∧ i ∈ t.peersFrozen ∧ replied t (.abort s.nextId)
        stopped (.cxlMemRead (.peer i) pa n) ∧ (bytes.length = n → stopped (.cxlMemWrite (.peer i) pa bytes))) ∧
    (0 < n → 2 ^ 51 ≤ pa → pa + n ≤ 2 ^ 52 → s.portWorks port = true →
      (∃ t, exec (.cxlMemRead (.host port) pa n) s = .next t ∧ t.mem = s.mem ∧
        replied t (.data s.nextId ((List.range n).map fun j => memRead s.mem (pa + j)))) ∧
      (bytes.length = n → ∃ t, exec (.cxlMemWrite (.host port) pa bytes) s = .next t ∧ s.stored t pa n (leNat bytes) ∧
        replied t (.writeOk s.nextId))) ∧
    (∀ r, s.requests.find? (fun q => q.id == n && decide (q.since + 1300000 ≤ s.cycle)) = some r →
      exec (.completionTimeout n) s = .next { s with
        requests := s.requests.filter (fun q => q.id != n)
        replies := s.replies ++ [if r.write = none then .poisoned n else .writeRefused n] }) ∧
    ∃ t, exec (.hostSnoop pa) s = .next t ∧ t = { s with lines := t.lines, dir := t.dir, flips := t.flips, under := t.under } ∧
      (2 ^ 51 ≤ pa → ∀ k ∈ t.lines, k.pa = pa / 128 * 128 → if pa % 128 < 64 then k.lowHalf = false else k.highHalf = false)

/-- Transfers of a column bus that fail their parity check, repeated up to 4 times, and the diagnosis after a fourth that fails (R336, R337,
R339): while the procedure runs, the bus carries no other transfer. -/
def Sys2Proof.Cert.busErrors : Prop :=
  ∀ (s : State) (pa : Nat) (c : ColumnRef) (lane : Nat), c.stack < 8 → c.column < 128 →
    let logged := fun (t : State) (kind action pos : Nat) => ∃ e, t.logs.head? = some e ∧ e.stack = c.stack ∧
      e.pa = BitVec.ofNat 64 pa ∧ fieldOf e.word 56 8 = kind ∧ fieldOf e.word 52 4 = action ∧ fieldOf e.word 48 4 = c.stack ∧
      fieldOf e.word 37 7 = c.column ∧ fieldOf e.word 8 8 = pos
    let fails := fun (a : LaneFlips) => failingGroups a ≠ []
    let group := fun (a : LaneFlips) => (failingGroups a).headD 0
    let bad := fun (a : LaneFlips) =>
      ((a.find? fun f => decide (f.2 < 128) && decide (f.2 / 16 = group a)).map (fun f => f.2)).getD (16 * group a)
    (∀ (first last : LaneFlips) (again : List LaneFlips), fails first → (∀ a ∈ again, fails a) → s.busTaken c = false →
      (again.length < 4 → ¬fails last → (∀ f ∈ last, 8 ≤ f.1 ∨ 128 ≤ f.2) →
        ∃ t, exec (.transferRepeat c pa first (again ++ [last])) s = .next t ∧ logged t 4 3 (bad first) ∧ t.mem = s.mem ∧
          t.me = s.me ∧ t.fw = s.fw ∧ t.busTaken c = true) ∧
      (again.length = 3 → fails last →
        ∃ t, exec (.transferRepeat c pa first (again ++ [last])) s = .next t ∧ logged t 4 3 (bad first) ∧ t.mem = s.mem ∧
          t.me = s.me ∧ t.fw.diagnosing.lookup c = some (group last))) ∧
    (∀ (first : LaneFlips) (again : List LaneFlips), s.busTaken c = true → exec (.transferRepeat c pa first again) s = .next s) ∧
    ∀ g < 8, s.fw.diagnosing.lookup c = some g →
      let rest := s.fw.diagnosing.filter fun q => q.1 != c
      let loses := fun (passes : Bool) (l : List Nat) => ∃ t, exec (.laneDiagnosis c pa l passes) s = .next t ∧
        t.fw.losing = s.fw.losing ++ [.bus c.stack c.column] ∧ t.fw.diagnosing = rest ∧ posted t (fun _ => true) 0x3C0
      (inGroup g lane = true → s.swapsOf c < 4 → ∃ t, exec (.laneDiagnosis c pa [lane] true) s = .next t ∧ logged t 5 4 lane ∧
        t.me = s.me ∧ t.fw = { s.fw with diagnosing := rest, laneSwaps := s.fw.laneSwaps ++ [(c, lane)] }) ∧
      (.bus c.stack c.column ∉ s.fw.losing → .bus c.stack c.column ∉ s.fw.lost →
        (inGroup g lane = true → loses false [lane]) ∧
        ∀ l : List Nat, (∀ m ∈ l, inGroup g m = true) → l.length ≠ 1 ∨ 4 ≤ s.swapsOf c → loses true l)

/-- Losses and the module's restart (R340, R341), and power and temperature, with dies that burn (R338, R352). -/
def Sys2Proof.Cert.lossesAndHeat : Prop :=
  ∀ (s : State) (n : Nat),
    (∀ u, unitOk u = true → u ∉ s.fw.losing → u ∉ s.fw.lost → ∃ t, exec (.unitLoss u) s = .next t ∧ t.mem = s.mem ∧
      t.fw = { s.fw with losing := s.fw.losing ++ [u], resetAt := some (s.fw.resetAt.getD (s.cycle + 13000)) } ∧
      posted t (fun _ => true) 0x3C0) ∧
    (s.resetDue = true → ∃ t, exec .moduleReset s = .next t ∧ t.me = State.reset.me ∧ t.others = [] ∧ t.mem = [] ∧ t.tags = [] ∧
      t.parts = [] ∧ t.tlb = [] ∧ t.cycle = 0 ∧ t.logs = s.logs ∧ t.logLost = s.logLost ∧ t.fw.lost = s.fw.lost ++ s.fw.losing ∧
      t.fw.losing = [] ∧ t.fw.laneSwaps = s.fw.laneSwaps ∧
      t.fw.inReset = (s.fw.coolantLost || !meshOk (s.fw.lost ++ s.fw.losing))) ∧
    (s.fw.coolantLost = false → ∃ t, exec .coolantPressureLoss s = .next t ∧ t.mem = s.mem ∧
      t.fw = { s.fw with coolantLost := true, resetAt := some (s.fw.resetAt.getD (s.cycle + 13000)) } ∧
      posted t (fun _ => true) 0x3C0) ∧
    exec (.powerWindow n) s = .next { s with fw := { s.fw with powerHigh := decide (2400 < n) } } ∧
    ∀ dies : List Heated,
      let hot := decide (35 < n ∨ ∃ q ∈ dies, 95 < q.2)
      ((∀ q ∈ dies, q.2 < 105) →
        exec (.temperatureThrottle n dies) s = .next { s with fw := { s.fw with tempHigh := hot } }) ∧
      ∃ t, exec (.temperatureThrottle n dies) s = .next t ∧ t.mem = s.mem ∧ t.fw.tempHigh = hot ∧
        ∀ stack die heat, (ModuleUnit.die stack die, heat) ∈ dies → 105 ≤ heat → stack < 8 → die < 16 →
          .die stack die ∈ t.fw.losing ∨ .die stack die ∈ t.fw.lost

/-- Flips (R330, R334): the bits of a word flip in one of the places that hold it, the one that the free choice names, and stay flipped until
they are read; a granule of DRAM that holds poison stays as it is. The next reader of a word of SRAM finds one flipped bit, which is corrected and
logged, or two, which poison the line where the copy is the only one that is up to date, and make a clean copy be fetched again; an
instruction line is fetched again in any case. -/
def Sys2Proof.Cert.softErrors : Prop :=
  ∀ (s : State) (pa : Nat) (bits : List Nat) (a : Agent),
    let flip := fun (old : List Nat) => bits.foldl (fun l x => if x ∈ l then l.filter (fun j => j != x) else l ++ [x]) old
    let held := fun (t : State) (k : ErrorSite) =>
      ((t.sram.find? fun f => f.pa == pa / 8 * 8 && decide (f.site = k)).map (fun f => f.bits)).getD []
    let logged := fun (t : State) (kind action : Nat) =>
      ∃ e, t.logs.head? = some e ∧ fieldOf e.word 56 8 = kind ∧ fieldOf e.word 52 4 = action
    (∀ k, (s.errorSites pa)[Config.freeChoice s.fresh 0 % max 1 (s.errorSites pa).length]? = some k →
      ∃ t, exec (.softError pa bits) s = .next t ∧ t.mem = s.mem ∧ t.tags = s.tags ∧ t.me = s.me ∧
        match k with
        | .dram => t.sram = s.sram ∧ (∀ g, g ≠ pa / 16 → flipsAt t.flips g = flipsAt s.flips g) ∧
          flipsAt t.flips (pa / 16) =
            if s.poisonedAt false pa = true then flipsAt s.flips (pa / 16) else flip (flipsAt s.flips (pa / 16))
        | k => t.flips = s.flips ∧ held t k = flip (held s k) ∧ ∀ j, j ≠ k → held t j = held s j) ∧
    (s.errorSites pa = [] → exec (.softError pa bits) s = .next s) ∧
    ∀ k b c, k ≠ .dram → (∀ m, k = .l1 m → m < 128) → b < 128 →
      let t := s.decodeSram pa k a
      (held s k ≠ [] → held t k = []) ∧
      (∀ m, k = .l1i m → held s k ≠ [] → m ∉ (t.dirAt pa).instr ∧ t.mem = s.mem ∧ t.tags = s.tags) ∧
      ((∀ m, k ≠ .l1i m) →
        (held s k = [b] → logged t 0x07 1 ∧ t.mem = s.mem ∧ t.tags = s.tags ∧ t.lines = s.lines ∧ t.dir = s.dir) ∧
        (held s k = [b, c] → s.siteDirty pa k = true →
          logged t 0x08 2 ∧ t.mem = s.mem ∧ ∀ j, j / 16 = pa / 128 → tagAt t.tags j = 3) ∧
        (held s k = [b, c] → s.siteDirty pa k = false → k ∉ t.errorSites pa ∧ t.mem = s.mem ∧ t.tags = s.tags))

/-- The events of the buses and of the module from outside. The lane that a log entry of a bus names is the model's choice where none of the
data lanes of the group flips (log entry 31), and so are the cycle 0 (log entry 4), the empty memory and the tags of 00 after a restart (log
entry 2), and the place that a soft error strikes where several hold the word (log entry 6). -/
def Obligations.BusEvents : Prop := hostAccesses ∧ busErrors ∧ lossesAndHeat ∧ softErrors
end

