-- ==== Sys2Proof/Laws/Memory.lean ====
section
/-! SUPPORT. Laws of the bytes of physical memory: the canonical form is kept, and a read after a write gives what was written. -/

namespace Sys2Proof.Machine

/-- The cells of a run lie in the run, rise, and differ from the default. -/
theorem mem_cellsOf (bytes : List Byte) (a : Nat) (c : Host.Cell) (h : c ∈ cellsOf a bytes) :
    a ≤ c.1 ∧ c.1 < a + bytes.length ∧ c.2 ≠ memDefault c.1 := by
  induction bytes generalizing a with
  | nil => simp [cellsOf] at h
  | cons b r ih =>
    unfold cellsOf at h
    split at h
    · obtain ⟨h1, h2, h3⟩ := ih (a + 1) h
      exact ⟨by omega, by simp only [List.length_cons]; omega, h3⟩
    · rcases List.mem_cons.mp h with rfl | h
      · exact ⟨le_refl _, by simp, by assumption⟩
      · obtain ⟨h1, h2, h3⟩ := ih (a + 1) h
        exact ⟨by omega, by simp only [List.length_cons]; omega, h3⟩

theorem pairwise_cellsOf (bytes : List Byte) (a : Nat) : (cellsOf a bytes).Pairwise (fun c d => c.1 < d.1) := by
  induction bytes generalizing a with
  | nil => simp [cellsOf]
  | cons b r ih =>
    unfold cellsOf
    split
    · exact ih (a + 1)
    · refine List.pairwise_cons.mpr ⟨fun d hd => ?_, ih (a + 1)⟩
      have := mem_cellsOf r (a + 1) d hd
      show a < d.1
      omega

/-- A write keeps the canonical form. -/
theorem memWrite_wf (m : List Host.Cell) (a : Nat) (bytes : List Byte) (h : Memory.wf m) : Memory.wf (memWrite m a bytes) := by
  obtain ⟨hp, hd⟩ := h
  refine ⟨?_, ?_⟩
  · unfold memWrite
    refine List.pairwise_append.mpr ⟨List.pairwise_append.mpr ⟨hp.filter _, pairwise_cellsOf _ _, ?_⟩, hp.filter _, ?_⟩
    · intro c hc d hd
      have := mem_cellsOf _ _ _ hd
      simp only [List.mem_filter, decide_eq_true_eq] at hc
      omega
    · intro c hc d hd
      simp only [List.mem_filter, decide_eq_true_eq] at hd
      rcases List.mem_append.mp hc with hc | hc
      · simp only [List.mem_filter, decide_eq_true_eq] at hc
        omega
      · have := mem_cellsOf _ _ _ hc
        omega
  · intro c hc
    unfold memWrite at hc
    simp only [List.mem_append, List.mem_filter] at hc
    rcases hc with (hc | hc) | hc
    · exact hd c hc.1
    · exact (mem_cellsOf _ _ _ hc).2.2
    · exact hd c hc.1

/-- Cells dropped from a canonical memory leave a canonical memory. -/
theorem filter_wf (m : List Host.Cell) (p : Host.Cell → Bool) (h : Memory.wf m) : Memory.wf (m.filter p) :=
  ⟨h.1.filter _, fun c hc => h.2 c (List.mem_filter.mp hc).1⟩

theorem find_cellsOf (bytes : List Byte) (a x : Nat) (h1 : a ≤ x) (h2 : x < a + bytes.length) :
    ((cellsOf a bytes).find? (fun c => c.1 == x)).elim (memDefault x) (·.2) = bytes.getD (x - a) 0 := by
  induction bytes generalizing a with
  | nil => simp at h2; omega
  | cons b r ih =>
    have tail : x ≠ a → ((cellsOf (a + 1) r).find? (fun c => c.1 == x)).elim (memDefault x) (·.2) = (b :: r).getD (x - a) 0 := by
      intro hx
      rw [ih (a + 1) (by omega) (by simp only [List.length_cons] at h2; omega), show x - a = (x - (a + 1)) + 1 by omega]
      simp
    unfold cellsOf
    by_cases hx : x = a
    · subst hx
      split
      · rename_i hb
        have : (cellsOf (x + 1) r).find? (fun c => c.1 == x) = none := by
          refine List.find?_eq_none.mpr fun c hc => ?_
          have := mem_cellsOf r (x + 1) c hc
          simp
          omega
        simp [this, hb]
      · simp
    · split
      · exact tail hx
      · rw [List.find?_cons_of_neg (by simp; omega)]
        exact tail hx

theorem memRead_eq (m : List Host.Cell) (x : Nat) : memRead m x = (m.find? (fun c => c.1 == x)).elim (memDefault x) (·.2) := by
  unfold memRead
  cases m.find? (fun c => c.1 == x) <;> rfl

/-- A byte outside a write reads as before. -/
theorem memRead_memWrite_outside (m : List Host.Cell) (a x : Nat) (bytes : List Byte) (h : x < a ∨ a + bytes.length ≤ x) :
    memRead (memWrite m a bytes) x = memRead m x := by
  have mid : (cellsOf a bytes).find? (fun c => c.1 == x) = none := by
    refine List.find?_eq_none.mpr fun c hc => ?_
    have := mem_cellsOf _ _ _ hc
    simp
    omega
  have drop : ∀ p : Nat → Bool, p x = true → (m.filter (fun c => p c.1)).find? (fun c => c.1 == x) = m.find? (fun c => c.1 == x) := by
    intro p hp
    rw [List.find?_filter]
    congr 1
    funext c
    by_cases hc : c.1 = x <;> simp [hc, hp]
  have none_ : ∀ p : Nat → Bool, p x = false → (m.filter (fun c => p c.1)).find? (fun c => c.1 == x) = none := by
    intro p hp
    refine List.find?_eq_none.mpr fun c hc => ?_
    have := (List.mem_filter.mp hc).2
    simp
    rintro rfl
    simp_all
  simp only [memRead_eq, memWrite, List.find?_append, mid, Option.or_none]
  rcases h with h | h
  · rw [drop (fun y => decide (y < a)) (by simpa using h), none_ (fun y => decide (a + bytes.length ≤ y)) (by simp; omega),
      Option.or_none]
  · rw [none_ (fun y => decide (y < a)) (by simp; omega), drop (fun y => decide (a + bytes.length ≤ y)) (by simpa using h),
      Option.none_or]

/-- A byte inside a write reads as what was written. -/
theorem memRead_memWrite_inside (m : List Host.Cell) (a x : Nat) (bytes : List Byte) (h1 : a ≤ x) (h2 : x < a + bytes.length) :
    memRead (memWrite m a bytes) x = bytes.getD (x - a) 0 := by
  have none_ : ∀ p : Nat → Bool, p x = false → (m.filter (fun c => p c.1)).find? (fun c => c.1 == x) = none := by
    intro p hp
    refine List.find?_eq_none.mpr fun c hc => ?_
    have := (List.mem_filter.mp hc).2
    simp
    rintro rfl
    simp_all
  rw [memRead_eq, memWrite, List.find?_append, List.find?_append, none_ (fun y => decide (y < a)) (by simp; omega),
    none_ (fun y => decide (a + bytes.length ≤ y)) (by simp; omega), Option.none_or, Option.or_none]
  exact find_cellsOf bytes a x h1 h2

/-- The bytes read along a canonical list are those of its single reads. -/
theorem readAlong_eq (m : List Host.Cell) (a n : Nat) (hp : m.Pairwise (fun c d => c.1 < d.1)) (ha : ∀ c ∈ m, a ≤ c.1) :
    readAlong m a n = (List.range n).map (fun j => memRead m (a + j)) := by
  induction n generalizing m a with
  | zero => cases m <;> rfl
  | succ n ih =>
    rw [List.range_succ_eq_map, List.map_cons, List.map_map]
    cases m with
    | nil =>
      simp only [readAlong]
      rw [ih [] (a + 1) List.Pairwise.nil (by simp)]
      simp [memRead, Function.comp_def, Nat.add_assoc, Nat.add_comm 1]
    | cons c r =>
      have hr := List.pairwise_cons.mp hp
      simp only [readAlong]
      split
      · rename_i hc
        rw [ih r (a + 1) hr.2 (fun d hd => by have := hr.1 d hd; omega)]
        congr 1
        · simp [memRead, hc]
        · refine List.map_congr_left fun j _ => ?_
          show memRead r (a + 1 + j) = memRead (c :: r) (a + (j + 1))
          unfold memRead
          rw [List.find?_cons_of_neg (by simp; omega), show a + 1 + j = a + (j + 1) by omega]
      · rename_i hc
        have hgt : a < c.1 := by have := ha c (by simp); omega
        rw [ih (c :: r) (a + 1) hp (fun d hd => by
          rcases List.mem_cons.mp hd with rfl | hd
          · omega
          · have := hr.1 d hd; omega)]
        congr 1
        · have : (c :: r).find? (fun d => d.1 == a) = none := by
            refine List.find?_eq_none.mpr fun d hd => ?_
            rcases List.mem_cons.mp hd with rfl | hd
            · simp; omega
            · have := hr.1 d hd; simp; omega
          simp [memRead, this]
        · refine List.map_congr_left fun j _ => ?_
          show memRead (c :: r) (a + 1 + j) = memRead (c :: r) (a + (j + 1))
          rw [show a + 1 + j = a + (j + 1) by omega]

/-- In a canonical memory, a run of bytes is its single reads. -/
theorem memBytes_eq (m : List Host.Cell) (a n : Nat) (h : Memory.wf m) :
    memBytes m a n = (List.range n).map (fun j => memRead m (a + j)) := by
  unfold memBytes
  rw [readAlong_eq _ a n (h.1.filter _) (fun c hc => by simpa using (List.mem_filter.mp hc).2)]
  refine List.map_congr_left fun j _ => ?_
  unfold memRead
  rw [List.find?_filter]
  congr 2
  funext c
  by_cases hc : c.1 = a + j <;> simp [hc]

theorem leBytes_length (n v : Nat) : (leBytes n v).length = n := by
  induction n generalizing v with
  | zero => rfl
  | succ n ih => simp [leBytes, ih]

/-- The value of the bytes of a value. -/
theorem leNat_leBytes (n v : Nat) : leNat (leBytes n v) = v % 256 ^ n := by
  induction n generalizing v with
  | zero => simp [leNat, leBytes, Nat.mod_one]
  | succ n ih =>
    simp only [leBytes, leNat, ih, BitVec.toNat_ofNat]
    rw [show (2 : Nat) ^ 8 = 256 by rfl, Nat.pow_succ', Nat.mod_mul]

end Sys2Proof.Machine
end

