-- ==== Sys2Proof/Laws/PerInstr.lean ====
section
/-! SUPPORT. Statements about the syntax of every instruction: the family RoundTrip says that the selectors and fields of an
instruction's word give the instruction back. -/

namespace Sys2Proof.Laws

/-- A field read from a word whose bits hold its value. -/
theorem bits_of {n lo k : Nat} {v : BitVec k} (h : n / 2 ^ lo % 2 ^ k = v.toNat) : bits n lo k = v :=
  BitVec.eq_of_toNat_eq (by rw [bits, BitVec.toNat_ofNat, h])

/-- The word of a well-formed instruction has 32 bits, and its selectors and fields name the instruction. -/
def RoundTrip.Statement (i : Instr) : Prop := i.wf = true → ∀ w, encodeNat i = some w → w < 2 ^ 32 ∧ rawDecode w = some i

namespace RoundTrip

theorem major_0 (n : Nat) (h : n / 2 ^ 26 = 0) : rawDecode n = rawSystem n := by
  unfold rawDecode; rw [h]; rfl

theorem major_2 (n : Nat) (h : n / 2 ^ 26 = 2) : rawDecode n = rawInt n := by
  unfold rawDecode; rw [h]; rfl

theorem major_7 (n : Nat) (h : n / 2 ^ 26 = 7) : rawDecode n = rawShiftImm n := by
  unfold rawDecode; rw [h]; rfl

theorem major_8 (n : Nat) (h : n / 2 ^ 26 = 8) : rawDecode n = rawSetImm n := by
  unfold rawDecode; rw [h]; rfl

theorem major_9 (n : Nat) (h : n / 2 ^ 26 = 9) : rawDecode n = rawLi n := by
  unfold rawDecode; rw [h]; rfl

theorem major_10 (n : Nat) (h : n / 2 ^ 26 = 10) : rawDecode n = rawMulDiv n := by
  unfold rawDecode; rw [h]; rfl

theorem major_11 (n : Nat) (h : n / 2 ^ 26 = 11) : rawDecode n = rawFp n := by
  unfold rawDecode; rw [h]; rfl

theorem major_12 (n : Nat) (h : n / 2 ^ 26 = 12) : rawDecode n = rawLoad n := by
  unfold rawDecode; rw [h]; rfl

theorem major_13 (n : Nat) (h : n / 2 ^ 26 = 13) : rawDecode n = rawStore n := by
  unfold rawDecode; rw [h]; rfl

theorem major_14 (n : Nat) (h : n / 2 ^ 26 = 14) : rawDecode n = rawRef n := by
  unfold rawDecode; rw [h]; rfl

theorem major_15 (n : Nat) (h : n / 2 ^ 26 = 15) : rawDecode n = rawAtomic n := by
  unfold rawDecode; rw [h]; rfl

theorem major_25 (n : Nat) (h : n / 2 ^ 26 = 25) : rawDecode n = rawSync n := by
  unfold rawDecode; rw [h]; rfl

theorem major_26 (n : Nat) (h : n / 2 ^ 26 = 26) : rawDecode n = rawEngine n := by
  unfold rawDecode; rw [h]; rfl

theorem major_27 (n : Nat) (h : n / 2 ^ 26 = 27) : rawDecode n = rawNest n := by
  unfold rawDecode; rw [h]; rfl

theorem major_32 (n : Nat) (h : n / 2 ^ 26 = 32) : rawDecode n = rawSetvl n := by
  unfold rawDecode; rw [h]; rfl

theorem major_33 (n : Nat) (h : n / 2 ^ 26 = 33) : rawDecode n = rawVLoad n := by
  unfold rawDecode; rw [h]; rfl

theorem major_34 (n : Nat) (h : n / 2 ^ 26 = 34) : rawDecode n = rawVStore n := by
  unfold rawDecode; rw [h]; rfl

theorem major_35 (n : Nat) (h : n / 2 ^ 26 = 35) : rawDecode n = rawVGather n := by
  unfold rawDecode; rw [h]; rfl

theorem major_36 (n : Nat) (h : n / 2 ^ 26 = 36) : rawDecode n = rawStream n := by
  unfold rawDecode; rw [h]; rfl

theorem major_37 (n : Nat) (h : n / 2 ^ 26 = 37) : rawDecode n = rawVInt n := by
  unfold rawDecode; rw [h]; rfl

theorem major_38 (n : Nat) (h : n / 2 ^ 26 = 38) : rawDecode n = rawVIntImm n := by
  unfold rawDecode; rw [h]; rfl

theorem major_39 (n : Nat) (h : n / 2 ^ 26 = 39) : rawDecode n = rawVFp n := by
  unfold rawDecode; rw [h]; rfl

theorem major_40 (n : Nat) (h : n / 2 ^ 26 = 40) : rawDecode n = rawVFma n := by
  unfold rawDecode; rw [h]; rfl

theorem major_41 (n : Nat) (h : n / 2 ^ 26 = 41) : rawDecode n = rawNarrow n := by
  unfold rawDecode; rw [h]; rfl

theorem major_42 (n : Nat) (h : n / 2 ^ 26 = 42) : rawDecode n = rawTrans n := by
  unfold rawDecode; rw [h]; rfl

theorem major_43 (n : Nat) (h : n / 2 ^ 26 = 43) : rawDecode n = rawPerm n := by
  unfold rawDecode; rw [h]; rfl

theorem major_44 (n : Nat) (h : n / 2 ^ 26 = 44) : rawDecode n = rawReduce n := by
  unfold rawDecode; rw [h]; rfl

theorem major_45 (n : Nat) (h : n / 2 ^ 26 = 45) : rawDecode n = rawMaskOps n := by
  unfold rawDecode; rw [h]; rfl

theorem major_46 (n : Nat) (h : n / 2 ^ 26 = 46) : rawDecode n = rawMove n := by
  unfold rawDecode; rw [h]; rfl

theorem major_48 (n : Nat) (h : n / 2 ^ 26 = 48) : rawDecode n = rawMop n := by
  unfold rawDecode; rw [h]; rfl

theorem major_49 (n : Nat) (h : n / 2 ^ 26 = 49) : rawDecode n = rawTile n := by
  unfold rawDecode; rw [h]; rfl

theorem major_52 (n : Nat) (h : n / 2 ^ 26 = 52) : rawDecode n = rawPlaneArith n := by
  unfold rawDecode; rw [h]; rfl

theorem major_53 (n : Nat) (h : n / 2 ^ 26 = 53) : rawDecode n = rawPlaneLogic n := by
  unfold rawDecode; rw [h]; rfl

theorem major_54 (n : Nat) (h : n / 2 ^ 26 = 54) : rawDecode n = rawPlaneCtl n := by
  unfold rawDecode; rw [h]; rfl

theorem major_56 (n : Nat) (h : n / 2 ^ 26 = 56) : rawDecode n = rawDawn n := by
  unfold rawDecode; rw [h]; rfl

/-- Words whose fields begin at bits 23, 18, 13, 8, 5. -/
theorem shape_1 {mj low w : Nat} (f0 : BitVec 3) (f1 : BitVec 5) (f2 : BitVec 5) (f3 : BitVec 5) (f4 : BitVec 3) (hm : mj < 64) (hl : low < 32)
    (h : layWord (mj * 67108864 + low) [(f0.toNat, 23), (f1.toNat, 18), (f2.toNat, 13), (f3.toNat, 8), (f4.toNat, 5)] = w) :
    w < 2 ^ 32 ∧ w / 2 ^ 26 = mj ∧ w % 32 = low ∧ bits w 23 3 = f0 ∧ bits w 18 5 = f1 ∧ bits w 13 5 = f2 ∧ bits w 8 5 = f3 ∧ bits w 5 3 = f4 := by
  simp only [layWord] at h
  have := f0.isLt; have := f1.isLt; have := f2.isLt; have := f3.isLt; have := f4.isLt
  exact ⟨by omega, by omega, by omega, bits_of (by omega), bits_of (by omega), bits_of (by omega), bits_of (by omega), bits_of (by omega)⟩

/-- Words whose fields begin at bits 23, 18, 13, 8. -/
theorem shape_2 {mj low w : Nat} (f0 : BitVec 3) (f1 : BitVec 5) (f2 : BitVec 5) (f3 : BitVec 5) (hm : mj < 64) (hl : low < 256)
    (h : layWord (mj * 67108864 + low) [(f0.toNat, 23), (f1.toNat, 18), (f2.toNat, 13), (f3.toNat, 8)] = w) :
    w < 2 ^ 32 ∧ w / 2 ^ 26 = mj ∧ w % 256 = low ∧ bits w 23 3 = f0 ∧ bits w 18 5 = f1 ∧ bits w 13 5 = f2 ∧ bits w 8 5 = f3 := by
  simp only [layWord] at h
  have := f0.isLt; have := f1.isLt; have := f2.isLt; have := f3.isLt
  exact ⟨by omega, by omega, by omega, bits_of (by omega), bits_of (by omega), bits_of (by omega), bits_of (by omega)⟩

/-- Words whose fields begin at bits 23, 18, 13. -/
theorem shape_3 {mj low w : Nat} (f0 : BitVec 3) (f1 : BitVec 5) (f2 : BitVec 5) (hm : mj < 64) (hl : low < 8192)
    (h : layWord (mj * 67108864 + low) [(f0.toNat, 23), (f1.toNat, 18), (f2.toNat, 13)] = w) :
    w < 2 ^ 32 ∧ w / 2 ^ 26 = mj ∧ w % 8192 = low ∧ bits w 23 3 = f0 ∧ bits w 18 5 = f1 ∧ bits w 13 5 = f2 := by
  simp only [layWord] at h
  have := f0.isLt; have := f1.isLt; have := f2.isLt
  exact ⟨by omega, by omega, by omega, bits_of (by omega), bits_of (by omega), bits_of (by omega)⟩

/-- Words whose fields begin at bits 23, 18, 13, 8, 5, 4. -/
theorem shape_4 {mj low w : Nat} (f0 : BitVec 3) (f1 : BitVec 5) (f2 : BitVec 5) (f3 : BitVec 5) (f4 : BitVec 3) (f5 : BitVec 1) (hm : mj < 64) (hl : low < 16)
    (h : layWord (mj * 67108864 + low) [(f0.toNat, 23), (f1.toNat, 18), (f2.toNat, 13), (f3.toNat, 8), (f4.toNat, 5), (f5.toNat, 4)] = w) :
    w < 2 ^ 32 ∧ w / 2 ^ 26 = mj ∧ w % 16 = low ∧ bits w 23 3 = f0 ∧ bits w 18 5 = f1 ∧ bits w 13 5 = f2 ∧ bits w 8 5 = f3 ∧ bits w 5 3 = f4 ∧ bits w 4 1 = f5 := by
  simp only [layWord] at h
  have := f0.isLt; have := f1.isLt; have := f2.isLt; have := f3.isLt; have := f4.isLt; have := f5.isLt
  exact ⟨by omega, by omega, by omega, bits_of (by omega), bits_of (by omega), bits_of (by omega), bits_of (by omega), bits_of (by omega), bits_of (by omega)⟩

/-- Words whose fields begin at bits 23, 19, 15, 11, 6, 5. -/
theorem shape_5 {mj low w : Nat} (f0 : BitVec 3) (f1 : BitVec 4) (f2 : BitVec 4) (f3 : BitVec 4) (f4 : BitVec 5) (f5 : BitVec 1) (hm : mj < 64) (hl : low < 32)
    (h : layWord (mj * 67108864 + low) [(f0.toNat, 23), (f1.toNat, 19), (f2.toNat, 15), (f3.toNat, 11), (f4.toNat, 6), (f5.toNat, 5)] = w) :
    w < 2 ^ 32 ∧ w / 2 ^ 26 = mj ∧ w % 32 = low ∧ bits w 23 3 = f0 ∧ bits w 19 4 = f1 ∧ bits w 15 4 = f2 ∧ bits w 11 4 = f3 ∧ bits w 6 5 = f4 ∧ bits w 5 1 = f5 := by
  simp only [layWord] at h
  have := f0.isLt; have := f1.isLt; have := f2.isLt; have := f3.isLt; have := f4.isLt; have := f5.isLt
  exact ⟨by omega, by omega, by omega, bits_of (by omega), bits_of (by omega), bits_of (by omega), bits_of (by omega), bits_of (by omega), bits_of (by omega)⟩

/-- Words whose fields begin at bits 23, 18, 13, 8, 7, 4. -/
theorem shape_6 {mj low w : Nat} (f0 : BitVec 3) (f1 : BitVec 5) (f2 : BitVec 5) (f3 : BitVec 5) (f4 : BitVec 1) (f5 : BitVec 3) (hm : mj < 64) (hl : low < 16)
    (h : layWord (mj * 67108864 + low) [(f0.toNat, 23), (f1.toNat, 18), (f2.toNat, 13), (f3.toNat, 8), (f4.toNat, 7), (f5.toNat, 4)] = w) :
    w < 2 ^ 32 ∧ w / 2 ^ 26 = mj ∧ w % 16 = low ∧ bits w 23 3 = f0 ∧ bits w 18 5 = f1 ∧ bits w 13 5 = f2 ∧ bits w 8 5 = f3 ∧ bits w 7 1 = f4 ∧ bits w 4 3 = f5 := by
  simp only [layWord] at h
  have := f0.isLt; have := f1.isLt; have := f2.isLt; have := f3.isLt; have := f4.isLt; have := f5.isLt
  exact ⟨by omega, by omega, by omega, bits_of (by omega), bits_of (by omega), bits_of (by omega), bits_of (by omega), bits_of (by omega), bits_of (by omega)⟩

/-- Words whose fields begin at bits 23, 13. -/
theorem shape_7 {mj low w : Nat} (f0 : BitVec 3) (f1 : BitVec 5) (hm : mj < 64) (hl : low < 8192)
    (h : layWord (mj * 67108864 + low) [(f0.toNat, 23), (f1.toNat, 13)] = w) :
    w < 2 ^ 32 ∧ w / 2 ^ 26 = mj ∧ w % 8192 = low ∧ bits w 23 3 = f0 ∧ bits w 13 5 = f1 := by
  simp only [layWord] at h
  have := f0.isLt; have := f1.isLt
  exact ⟨by omega, by omega, by omega, bits_of (by omega), bits_of (by omega)⟩

/-- Words whose fields begin at bits 23, 18, 13, 8, 5, 3. -/
theorem shape_8 {mj low w : Nat} (f0 : BitVec 3) (f1 : BitVec 5) (f2 : BitVec 5) (f3 : BitVec 5) (f4 : BitVec 3) (f5 : BitVec 2) (hm : mj < 64) (hl : low < 8)
    (h : layWord (mj * 67108864 + low) [(f0.toNat, 23), (f1.toNat, 18), (f2.toNat, 13), (f3.toNat, 8), (f4.toNat, 5), (f5.toNat, 3)] = w) :
    w < 2 ^ 32 ∧ w / 2 ^ 26 = mj ∧ w % 8 = low ∧ bits w 23 3 = f0 ∧ bits w 18 5 = f1 ∧ bits w 13 5 = f2 ∧ bits w 8 5 = f3 ∧ bits w 5 3 = f4 ∧ bits w 3 2 = f5 := by
  simp only [layWord] at h
  have := f0.isLt; have := f1.isLt; have := f2.isLt; have := f3.isLt; have := f4.isLt; have := f5.isLt
  exact ⟨by omega, by omega, by omega, bits_of (by omega), bits_of (by omega), bits_of (by omega), bits_of (by omega), bits_of (by omega), bits_of (by omega)⟩

/-- Words whose fields begin at bits 23, 18, 13, 5. -/
theorem shape_9 {mj low w : Nat} (f0 : BitVec 3) (f1 : BitVec 5) (f2 : BitVec 5) (f3 : BitVec 3) (hm : mj < 64) (hl : low < 32)
    (h : layWord (mj * 67108864 + low) [(f0.toNat, 23), (f1.toNat, 18), (f2.toNat, 13), (f3.toNat, 5)] = w) :
    w < 2 ^ 32 ∧ w / 2 ^ 26 = mj ∧ w % 32 = low ∧ bits w 23 3 = f0 ∧ bits w 18 5 = f1 ∧ bits w 13 5 = f2 ∧ bits w 5 3 = f3 := by
  simp only [layWord] at h
  have := f0.isLt; have := f1.isLt; have := f2.isLt; have := f3.isLt
  exact ⟨by omega, by omega, by omega, bits_of (by omega), bits_of (by omega), bits_of (by omega), bits_of (by omega)⟩

/-- Words whose fields begin at bits 23. -/
theorem shape_10 {mj low w : Nat} (f0 : BitVec 3) (hm : mj < 64) (hl : low < 8388608)
    (h : layWord (mj * 67108864 + low) [(f0.toNat, 23)] = w) :
    w < 2 ^ 32 ∧ w / 2 ^ 26 = mj ∧ w % 8388608 = low ∧ bits w 23 3 = f0 := by
  simp only [layWord] at h
  have := f0.isLt
  exact ⟨by omega, by omega, by omega, bits_of (by omega)⟩

/-- Words whose fields begin at bits 23, 18, 13, 5, 3. -/
theorem shape_11 {mj low w : Nat} (f0 : BitVec 3) (f1 : BitVec 5) (f2 : BitVec 5) (f3 : BitVec 3) (f4 : BitVec 2) (hm : mj < 64) (hl : low < 8)
    (h : layWord (mj * 67108864 + low) [(f0.toNat, 23), (f1.toNat, 18), (f2.toNat, 13), (f3.toNat, 5), (f4.toNat, 3)] = w) :
    w < 2 ^ 32 ∧ w / 2 ^ 26 = mj ∧ w % 8 = low ∧ bits w 23 3 = f0 ∧ bits w 18 5 = f1 ∧ bits w 13 5 = f2 ∧ bits w 5 3 = f3 ∧ bits w 3 2 = f4 := by
  simp only [layWord] at h
  have := f0.isLt; have := f1.isLt; have := f2.isLt; have := f3.isLt; have := f4.isLt
  exact ⟨by omega, by omega, by omega, bits_of (by omega), bits_of (by omega), bits_of (by omega), bits_of (by omega), bits_of (by omega)⟩

/-- Words whose fields begin at bits 23, 21, 16, 11, 6, 3. -/
theorem shape_12 {mj low w : Nat} (f0 : BitVec 3) (f1 : BitVec 2) (f2 : BitVec 5) (f3 : BitVec 5) (f4 : BitVec 5) (f5 : BitVec 3) (hm : mj < 64) (hl : low < 8)
    (h : layWord (mj * 67108864 + low) [(f0.toNat, 23), (f1.toNat, 21), (f2.toNat, 16), (f3.toNat, 11), (f4.toNat, 6), (f5.toNat, 3)] = w) :
    w < 2 ^ 32 ∧ w / 2 ^ 26 = mj ∧ w % 8 = low ∧ bits w 23 3 = f0 ∧ bits w 21 2 = f1 ∧ bits w 16 5 = f2 ∧ bits w 11 5 = f3 ∧ bits w 6 5 = f4 ∧ bits w 3 3 = f5 := by
  simp only [layWord] at h
  have := f0.isLt; have := f1.isLt; have := f2.isLt; have := f3.isLt; have := f4.isLt; have := f5.isLt
  exact ⟨by omega, by omega, by omega, bits_of (by omega), bits_of (by omega), bits_of (by omega), bits_of (by omega), bits_of (by omega), bits_of (by omega)⟩

/-- Words whose fields begin at bits 23, 18, 13, 5, 4. -/
theorem shape_13 {mj low w : Nat} (f0 : BitVec 3) (f1 : BitVec 5) (f2 : BitVec 5) (f3 : BitVec 3) (f4 : BitVec 1) (hm : mj < 64) (hl : low < 16)
    (h : layWord (mj * 67108864 + low) [(f0.toNat, 23), (f1.toNat, 18), (f2.toNat, 13), (f3.toNat, 5), (f4.toNat, 4)] = w) :
    w < 2 ^ 32 ∧ w / 2 ^ 26 = mj ∧ w % 16 = low ∧ bits w 23 3 = f0 ∧ bits w 18 5 = f1 ∧ bits w 13 5 = f2 ∧ bits w 5 3 = f3 ∧ bits w 4 1 = f4 := by
  simp only [layWord] at h
  have := f0.isLt; have := f1.isLt; have := f2.isLt; have := f3.isLt; have := f4.isLt
  exact ⟨by omega, by omega, by omega, bits_of (by omega), bits_of (by omega), bits_of (by omega), bits_of (by omega), bits_of (by omega)⟩

/-- Words whose fields begin at bits 23, 18, 13, 8, 5. -/
theorem shape_14 {mj low w : Nat} (f0 : BitVec 3) (f1 : BitVec 3) (f2 : BitVec 5) (f3 : BitVec 5) (f4 : BitVec 3) (hm : mj < 64) (hl : low < 32)
    (h : layWord (mj * 67108864 + low) [(f0.toNat, 23), (f1.toNat, 18), (f2.toNat, 13), (f3.toNat, 8), (f4.toNat, 5)] = w) :
    w < 2 ^ 32 ∧ w / 2 ^ 26 = mj ∧ w % 32 = low ∧ bits w 23 3 = f0 ∧ bits w 18 3 = f1 ∧ bits w 13 5 = f2 ∧ bits w 8 5 = f3 ∧ bits w 5 3 = f4 := by
  simp only [layWord] at h
  have := f0.isLt; have := f1.isLt; have := f2.isLt; have := f3.isLt; have := f4.isLt
  exact ⟨by omega, by omega, by omega, bits_of (by omega), bits_of (by omega), bits_of (by omega), bits_of (by omega), bits_of (by omega)⟩

/-- Words whose fields begin at bits 23, 18, 13, 9. -/
theorem shape_15 {mj low w : Nat} (f0 : BitVec 3) (f1 : BitVec 5) (f2 : BitVec 5) (f3 : BitVec 4) (hm : mj < 64) (hl : low < 512)
    (h : layWord (mj * 67108864 + low) [(f0.toNat, 23), (f1.toNat, 18), (f2.toNat, 13), (f3.toNat, 9)] = w) :
    w < 2 ^ 32 ∧ w / 2 ^ 26 = mj ∧ w % 512 = low ∧ bits w 23 3 = f0 ∧ bits w 18 5 = f1 ∧ bits w 13 5 = f2 ∧ bits w 9 4 = f3 := by
  simp only [layWord] at h
  have := f0.isLt; have := f1.isLt; have := f2.isLt; have := f3.isLt
  exact ⟨by omega, by omega, by omega, bits_of (by omega), bits_of (by omega), bits_of (by omega), bits_of (by omega)⟩

/-- Words whose fields begin at bits 23, 18, 13, 8. -/
theorem shape_16 {mj low w : Nat} (f0 : BitVec 3) (f1 : BitVec 3) (f2 : BitVec 3) (f3 : BitVec 3) (hm : mj < 64) (hl : low < 256)
    (h : layWord (mj * 67108864 + low) [(f0.toNat, 23), (f1.toNat, 18), (f2.toNat, 13), (f3.toNat, 8)] = w) :
    w < 2 ^ 32 ∧ w / 2 ^ 26 = mj ∧ w % 256 = low ∧ bits w 23 3 = f0 ∧ bits w 18 3 = f1 ∧ bits w 13 3 = f2 ∧ bits w 8 3 = f3 := by
  simp only [layWord] at h
  have := f0.isLt; have := f1.isLt; have := f2.isLt; have := f3.isLt
  exact ⟨by omega, by omega, by omega, bits_of (by omega), bits_of (by omega), bits_of (by omega), bits_of (by omega)⟩

/-- Words whose fields begin at bits 23, 18, 13, 8, 5, 4. -/
theorem shape_17 {mj low w : Nat} (f0 : BitVec 3) (f1 : BitVec 3) (f2 : BitVec 5) (f3 : BitVec 5) (f4 : BitVec 3) (f5 : BitVec 1) (hm : mj < 64) (hl : low < 16)
    (h : layWord (mj * 67108864 + low) [(f0.toNat, 23), (f1.toNat, 18), (f2.toNat, 13), (f3.toNat, 8), (f4.toNat, 5), (f5.toNat, 4)] = w) :
    w < 2 ^ 32 ∧ w / 2 ^ 26 = mj ∧ w % 16 = low ∧ bits w 23 3 = f0 ∧ bits w 18 3 = f1 ∧ bits w 13 5 = f2 ∧ bits w 8 5 = f3 ∧ bits w 5 3 = f4 ∧ bits w 4 1 = f5 := by
  simp only [layWord] at h
  have := f0.isLt; have := f1.isLt; have := f2.isLt; have := f3.isLt; have := f4.isLt; have := f5.isLt
  exact ⟨by omega, by omega, by omega, bits_of (by omega), bits_of (by omega), bits_of (by omega), bits_of (by omega), bits_of (by omega), bits_of (by omega)⟩

/-- Words whose fields begin at bits 23, 18, 13, 5. -/
theorem shape_18 {mj low w : Nat} (f0 : BitVec 3) (f1 : BitVec 5) (f2 : BitVec 3) (f3 : BitVec 3) (hm : mj < 64) (hl : low < 32)
    (h : layWord (mj * 67108864 + low) [(f0.toNat, 23), (f1.toNat, 18), (f2.toNat, 13), (f3.toNat, 5)] = w) :
    w < 2 ^ 32 ∧ w / 2 ^ 26 = mj ∧ w % 32 = low ∧ bits w 23 3 = f0 ∧ bits w 18 5 = f1 ∧ bits w 13 3 = f2 ∧ bits w 5 3 = f3 := by
  simp only [layWord] at h
  have := f0.isLt; have := f1.isLt; have := f2.isLt; have := f3.isLt
  exact ⟨by omega, by omega, by omega, bits_of (by omega), bits_of (by omega), bits_of (by omega), bits_of (by omega)⟩

/-- Words whose fields begin at bits 23, 19, 15, 6, 5. -/
theorem shape_19 {mj low w : Nat} (f0 : BitVec 3) (f1 : BitVec 4) (f2 : BitVec 4) (f3 : BitVec 5) (f4 : BitVec 1) (hm : mj < 64) (hl : low < 32)
    (h : layWord (mj * 67108864 + low) [(f0.toNat, 23), (f1.toNat, 19), (f2.toNat, 15), (f3.toNat, 6), (f4.toNat, 5)] = w) :
    w < 2 ^ 32 ∧ w / 2 ^ 26 = mj ∧ w % 32 = low ∧ bits w 23 3 = f0 ∧ bits w 19 4 = f1 ∧ bits w 15 4 = f2 ∧ bits w 6 5 = f3 ∧ bits w 5 1 = f4 := by
  simp only [layWord] at h
  have := f0.isLt; have := f1.isLt; have := f2.isLt; have := f3.isLt; have := f4.isLt
  exact ⟨by omega, by omega, by omega, bits_of (by omega), bits_of (by omega), bits_of (by omega), bits_of (by omega), bits_of (by omega)⟩

/-- Words whose fields begin at bits 23, 18. -/
theorem shape_20 {mj low w : Nat} (f0 : BitVec 3) (f1 : BitVec 5) (hm : mj < 64) (hl : low < 262144)
    (h : layWord (mj * 67108864 + low) [(f0.toNat, 23), (f1.toNat, 18)] = w) :
    w < 2 ^ 32 ∧ w / 2 ^ 26 = mj ∧ w % 262144 = low ∧ bits w 23 3 = f0 ∧ bits w 18 5 = f1 := by
  simp only [layWord] at h
  have := f0.isLt; have := f1.isLt
  exact ⟨by omega, by omega, by omega, bits_of (by omega), bits_of (by omega)⟩

/-- Words whose fields begin at bits 23, 18, 13, 7, 4. -/
theorem shape_21 {mj low w : Nat} (f0 : BitVec 3) (f1 : BitVec 5) (f2 : BitVec 5) (f3 : BitVec 1) (f4 : BitVec 3) (hm : mj < 64) (hl : low < 16)
    (h : layWord (mj * 67108864 + low) [(f0.toNat, 23), (f1.toNat, 18), (f2.toNat, 13), (f3.toNat, 7), (f4.toNat, 4)] = w) :
    w < 2 ^ 32 ∧ w / 2 ^ 26 = mj ∧ w % 16 = low ∧ bits w 23 3 = f0 ∧ bits w 18 5 = f1 ∧ bits w 13 5 = f2 ∧ bits w 7 1 = f3 ∧ bits w 4 3 = f4 := by
  simp only [layWord] at h
  have := f0.isLt; have := f1.isLt; have := f2.isLt; have := f3.isLt; have := f4.isLt
  exact ⟨by omega, by omega, by omega, bits_of (by omega), bits_of (by omega), bits_of (by omega), bits_of (by omega), bits_of (by omega)⟩

/-- Words whose fields begin at bits 23, 18, 13, 8, 3. -/
theorem shape_22 {mj low w : Nat} (f0 : BitVec 3) (f1 : BitVec 5) (f2 : BitVec 5) (f3 : BitVec 5) (f4 : BitVec 2) (hm : mj < 64) (hl : low < 8)
    (h : layWord (mj * 67108864 + low) [(f0.toNat, 23), (f1.toNat, 18), (f2.toNat, 13), (f3.toNat, 8), (f4.toNat, 3)] = w) :
    w < 2 ^ 32 ∧ w / 2 ^ 26 = mj ∧ w % 8 = low ∧ bits w 23 3 = f0 ∧ bits w 18 5 = f1 ∧ bits w 13 5 = f2 ∧ bits w 8 5 = f3 ∧ bits w 3 2 = f4 := by
  simp only [layWord] at h
  have := f0.isLt; have := f1.isLt; have := f2.isLt; have := f3.isLt; have := f4.isLt
  exact ⟨by omega, by omega, by omega, bits_of (by omega), bits_of (by omega), bits_of (by omega), bits_of (by omega), bits_of (by omega)⟩

/-- Words whose fields begin at bits 23, 13, 8, 3. -/
theorem shape_23 {mj low w : Nat} (f0 : BitVec 3) (f1 : BitVec 5) (f2 : BitVec 5) (f3 : BitVec 2) (hm : mj < 64) (hl : low < 8)
    (h : layWord (mj * 67108864 + low) [(f0.toNat, 23), (f1.toNat, 13), (f2.toNat, 8), (f3.toNat, 3)] = w) :
    w < 2 ^ 32 ∧ w / 2 ^ 26 = mj ∧ w % 8 = low ∧ bits w 23 3 = f0 ∧ bits w 13 5 = f1 ∧ bits w 8 5 = f2 ∧ bits w 3 2 = f3 := by
  simp only [layWord] at h
  have := f0.isLt; have := f1.isLt; have := f2.isLt; have := f3.isLt
  exact ⟨by omega, by omega, by omega, bits_of (by omega), bits_of (by omega), bits_of (by omega), bits_of (by omega)⟩

/-- Words whose fields begin at bits 23, 21, 16, 6, 3. -/
theorem shape_24 {mj low w : Nat} (f0 : BitVec 3) (f1 : BitVec 2) (f2 : BitVec 5) (f3 : BitVec 5) (f4 : BitVec 3) (hm : mj < 64) (hl : low < 8)
    (h : layWord (mj * 67108864 + low) [(f0.toNat, 23), (f1.toNat, 21), (f2.toNat, 16), (f3.toNat, 6), (f4.toNat, 3)] = w) :
    w < 2 ^ 32 ∧ w / 2 ^ 26 = mj ∧ w % 8 = low ∧ bits w 23 3 = f0 ∧ bits w 21 2 = f1 ∧ bits w 16 5 = f2 ∧ bits w 6 5 = f3 ∧ bits w 3 3 = f4 := by
  simp only [layWord] at h
  have := f0.isLt; have := f1.isLt; have := f2.isLt; have := f3.isLt; have := f4.isLt
  exact ⟨by omega, by omega, by omega, bits_of (by omega), bits_of (by omega), bits_of (by omega), bits_of (by omega), bits_of (by omega)⟩

/-- Words whose fields begin at bits 23, 21, 16. -/
theorem shape_25 {mj low w : Nat} (f0 : BitVec 3) (f1 : BitVec 2) (f2 : BitVec 5) (hm : mj < 64) (hl : low < 65536)
    (h : layWord (mj * 67108864 + low) [(f0.toNat, 23), (f1.toNat, 21), (f2.toNat, 16)] = w) :
    w < 2 ^ 32 ∧ w / 2 ^ 26 = mj ∧ w % 65536 = low ∧ bits w 23 3 = f0 ∧ bits w 21 2 = f1 ∧ bits w 16 5 = f2 := by
  simp only [layWord] at h
  have := f0.isLt; have := f1.isLt; have := f2.isLt
  exact ⟨by omega, by omega, by omega, bits_of (by omega), bits_of (by omega), bits_of (by omega)⟩

/-- Words whose fields begin at bits 23, 18, 13, 8, 5. -/
theorem shape_26 {mj low w : Nat} (f0 : BitVec 3) (f1 : BitVec 1) (f2 : BitVec 5) (f3 : BitVec 5) (f4 : BitVec 3) (hm : mj < 64) (hl : low < 32)
    (h : layWord (mj * 67108864 + low) [(f0.toNat, 23), (f1.toNat, 18), (f2.toNat, 13), (f3.toNat, 8), (f4.toNat, 5)] = w) :
    w < 2 ^ 32 ∧ w / 2 ^ 26 = mj ∧ w % 32 = low ∧ bits w 23 3 = f0 ∧ bits w 18 1 = f1 ∧ bits w 13 5 = f2 ∧ bits w 8 5 = f3 ∧ bits w 5 3 = f4 := by
  simp only [layWord] at h
  have := f0.isLt; have := f1.isLt; have := f2.isLt; have := f3.isLt; have := f4.isLt
  exact ⟨by omega, by omega, by omega, bits_of (by omega), bits_of (by omega), bits_of (by omega), bits_of (by omega), bits_of (by omega)⟩

theorem ecall (u_s : BitVec 3) (u_n : BitVec 5) : Statement (.ecall u_s u_n) := by
  intro _ w h
  obtain ⟨h32, hmj, hlow, hu_s, hu_n⟩ := shape_20 (mj := 0) (low := 0) u_s u_n (by decide) (by decide) (Option.some.inj h)
  refine ⟨h32, ?_⟩
  rw [major_0 w hmj]
  unfold rawSystem
  rw [show w / 2 ^ 9 % 16 = 0 by omega]
  rw [show w % 512 = 0 by omega]
  show some (Instr.ecall _ _) = _
  rw [hu_s, hu_n]

theorem eret (u_s : BitVec 3) (u_e u_p : BitVec 5) : Statement (.eret u_s u_e u_p) := by
  intro _ w h
  obtain ⟨h32, hmj, hlow, hu_s, hu_e, hu_p⟩ := shape_3 (mj := 0) (low := 1) u_s u_e u_p (by decide) (by decide) (Option.some.inj h)
  refine ⟨h32, ?_⟩
  rw [major_0 w hmj]
  unfold rawSystem
  rw [show w / 2 ^ 9 % 16 = 0 by omega]
  rw [show w % 512 = 1 by omega]
  show some (Instr.eret _ _ _) = _
  rw [hu_s, hu_e, hu_p]

theorem wfi (u_s : BitVec 3) : Statement (.wfi u_s) := by
  intro _ w h
  obtain ⟨h32, hmj, hlow, hu_s⟩ := shape_10 (mj := 0) (low := 2) u_s (by decide) (by decide) (Option.some.inj h)
  refine ⟨h32, ?_⟩
  rw [major_0 w hmj]
  unfold rawSystem
  rw [show w / 2 ^ 9 % 16 = 0 by omega]
  rw [show w % 512 = 2 by omega]
  show some (Instr.wfi _) = _
  rw [hu_s]

theorem brk (u_s : BitVec 3) (u_n : BitVec 5) : Statement (.brk u_s u_n) := by
  intro _ w h
  obtain ⟨h32, hmj, hlow, hu_s, hu_n⟩ := shape_20 (mj := 0) (low := 3) u_s u_n (by decide) (by decide) (Option.some.inj h)
  refine ⟨h32, ?_⟩
  rw [major_0 w hmj]
  unfold rawSystem
  rw [show w / 2 ^ 9 % 16 = 0 by omega]
  rw [show w % 512 = 3 by omega]
  show some (Instr.brk _ _) = _
  rw [hu_s, hu_n]

theorem tlbi (u_s : BitVec 3) (u_a : BitVec 5) : Statement (.tlbi u_s u_a) := by
  intro _ w h
  obtain ⟨h32, hmj, hlow, hu_s, hu_a⟩ := shape_7 (mj := 0) (low := 4) u_s u_a (by decide) (by decide) (Option.some.inj h)
  refine ⟨h32, ?_⟩
  rw [major_0 w hmj]
  unfold rawSystem
  rw [show w / 2 ^ 9 % 16 = 0 by omega]
  rw [show w % 512 = 4 by omega]
  show some (Instr.tlbi _ _) = _
  rw [hu_s, hu_a]

theorem tlbia (u_s : BitVec 3) : Statement (.tlbia u_s) := by
  intro _ w h
  obtain ⟨h32, hmj, hlow, hu_s⟩ := shape_10 (mj := 0) (low := 5) u_s (by decide) (by decide) (Option.some.inj h)
  refine ⟨h32, ?_⟩
  rw [major_0 w hmj]
  unfold rawSystem
  rw [show w / 2 ^ 9 % 16 = 0 by omega]
  rw [show w % 512 = 5 by omega]
  show some (Instr.tlbia _) = _
  rw [hu_s]

theorem vname (u_s : BitVec 3) (u_d u_a : BitVec 5) : Statement (.vname u_s u_d u_a) := by
  intro _ w h
  obtain ⟨h32, hmj, hlow, hu_s, hu_d, hu_a⟩ := shape_3 (mj := 0) (low := 6) u_s u_d u_a (by decide) (by decide) (Option.some.inj h)
  refine ⟨h32, ?_⟩
  rw [major_0 w hmj]
  unfold rawSystem
  rw [show w / 2 ^ 9 % 16 = 0 by omega]
  rw [show w % 512 = 6 by omega]
  show some (Instr.vname _ _ _) = _
  rw [hu_s, hu_d, hu_a]

theorem fencei (u_s : BitVec 3) : Statement (.fencei u_s) := by
  intro _ w h
  obtain ⟨h32, hmj, hlow, hu_s⟩ := shape_10 (mj := 0) (low := 7) u_s (by decide) (by decide) (Option.some.inj h)
  refine ⟨h32, ?_⟩
  rw [major_0 w hmj]
  unfold rawSystem
  rw [show w / 2 ^ 9 % 16 = 0 by omega]
  rw [show w % 512 = 7 by omega]
  show some (Instr.fencei _) = _
  rw [hu_s]

theorem sysr (u_s : BitVec 3) (u_d : BitVec 5) (u_c : BitVec 9) : Statement (.sysr u_s u_d u_c) := by
  intro _ w h
  replace h : layWord 0x00001C00 [(u_s.toNat, 23), (u_d.toNat, 18), (u_c.toNat, 0)] = w := Option.some.inj h
  simp only [layWord] at h
  have := u_s.isLt; have := u_d.isLt; have := u_c.isLt
  refine ⟨by omega, ?_⟩
  rw [major_0 w (by omega)]
  unfold rawSystem
  rw [show w / 2 ^ 9 % 16 = 14 by omega]
  show some (Instr.sysr _ _ _) = _
  rw [bits_of (v := u_s) (by omega), bits_of (v := u_d) (by omega), bits_of (v := u_c) (by omega)]

theorem sysw (u_s : BitVec 3) (u_a : BitVec 5) (u_c : BitVec 9) : Statement (.sysw u_s u_a u_c) := by
  intro hwf w h
  replace h : layWord 0x00001E00 [(u_s.toNat, 23), (u_a.toNat, 13), (u_c.toNat, 0)] = w := Option.some.inj h
  simp only [layWord] at h
  have := u_s.isLt; have := u_a.isLt; have := u_c.isLt
  refine ⟨by omega, ?_⟩
  rw [major_0 w (by omega)]
  unfold rawSystem
  rw [show w / 2 ^ 9 % 16 = 15 by omega]
  have hc : w % 512 = u_c.toNat := by omega
  have hn : u_c ≠ 0x19 ∧ u_c ≠ 0x30 := by
    by_contra hn
    have : (Instr.sysw u_s u_a u_c).check = some .ownRow := by
      show rejectUnless _ _ = _
      rw [show (u_c != 0x19 && u_c != 0x30) = false by rw [Bool.eq_false_iff]; simpa using hn]; rfl
    simp [Instr.wf, this] at hwf
  have h1 : w % 512 ≠ 25 := fun h => hn.1 (BitVec.eq_of_toNat_eq (by show u_c.toNat = 25; omega))
  have h2 : w % 512 ≠ 48 := fun h => hn.2 (BitVec.eq_of_toNat_eq (by show u_c.toNat = 48; omega))
  show (match w % 512 with
    | 25 => some (Instr.syswVown (bits w 23 3) (bits w 13 5))
    | 48 => some (Instr.syswWpart (bits w 23 3) (bits w 13 5))
    | _ => some (Instr.sysw (bits w 23 3) (bits w 13 5) (bits w 0 9))) = _
  split
  · omega
  · omega
  · rw [bits_of (v := u_s) (by omega), bits_of (v := u_a) (by omega), bits_of (v := u_c) (by omega)]

theorem syswVown (u_s : BitVec 3) (u_a : BitVec 5) : Statement (.syswVown u_s u_a) := by
  intro _ w h
  obtain ⟨h32, hmj, hlow, hu_s, hu_a⟩ := shape_7 (mj := 0) (low := 7705) u_s u_a (by decide) (by decide) (Option.some.inj h)
  refine ⟨h32, ?_⟩
  rw [major_0 w hmj]
  unfold rawSystem
  rw [show w / 2 ^ 9 % 16 = 15 by omega]
  rw [show w % 512 = 25 by omega]
  show some (Instr.syswVown _ _) = _
  rw [hu_s, hu_a]

theorem syswWpart (u_s : BitVec 3) (u_a : BitVec 5) : Statement (.syswWpart u_s u_a) := by
  intro _ w h
  obtain ⟨h32, hmj, hlow, hu_s, hu_a⟩ := shape_7 (mj := 0) (low := 7728) u_s u_a (by decide) (by decide) (Option.some.inj h)
  refine ⟨h32, ?_⟩
  rw [major_0 w hmj]
  unfold rawSystem
  rw [show w / 2 ^ 9 % 16 = 15 by omega]
  rw [show w % 512 = 48 by omega]
  show some (Instr.syswWpart _ _) = _
  rw [hu_s, hu_a]

theorem pfx (u_k : BitVec 3) (u_p u_e : BitVec 1) (u_c : BitVec 2) (u_r : BitVec 5) : Statement (.pfx u_k u_p u_e u_c u_r) := by
  intro _ w h
  replace h : layWord 0x04000000 [(u_k.toNat, 23), (u_p.toNat, 22), (u_e.toNat, 21), (u_c.toNat, 19), (u_r.toNat, 14)] = w := Option.some.inj h
  simp only [layWord] at h
  have := u_k.isLt; have := u_p.isLt; have := u_e.isLt; have := u_c.isLt; have := u_r.isLt
  refine ⟨by omega, ?_⟩
  unfold rawDecode
  rw [show w / 2 ^ 26 = 1 by omega]
  show some (Instr.pfx _ _ _ _ _) = _
  rw [bits_of (v := u_k) (by omega), bits_of (v := u_p) (by omega), bits_of (v := u_e) (by omega), bits_of (v := u_c) (by omega), bits_of (v := u_r) (by omega)]

theorem addR (u_s : BitVec 3) (u_d u_a u_b : BitVec 5) : Statement (.addR u_s u_d u_a u_b) := by
  intro _ w h
  obtain ⟨h32, hmj, hlow, hu_s, hu_d, hu_a, hu_b⟩ := shape_2 (mj := 2) (low := 0) u_s u_d u_a u_b (by decide) (by decide) (Option.some.inj h)
  refine ⟨h32, ?_⟩
  rw [major_2 w hmj]
  unfold rawInt
  rw [show w % 256 = 0 by omega]
  show some (Instr.addR _ _ _ _) = _
  rw [hu_s, hu_d, hu_a, hu_b]

theorem subR (u_s : BitVec 3) (u_d u_a u_b : BitVec 5) : Statement (.subR u_s u_d u_a u_b) := by
  intro _ w h
  obtain ⟨h32, hmj, hlow, hu_s, hu_d, hu_a, hu_b⟩ := shape_2 (mj := 2) (low := 1) u_s u_d u_a u_b (by decide) (by decide) (Option.some.inj h)
  refine ⟨h32, ?_⟩
  rw [major_2 w hmj]
  unfold rawInt
  rw [show w % 256 = 1 by omega]
  show some (Instr.subR _ _ _ _) = _
  rw [hu_s, hu_d, hu_a, hu_b]

theorem andR (u_s : BitVec 3) (u_d u_a u_b : BitVec 5) : Statement (.andR u_s u_d u_a u_b) := by
  intro _ w h
  obtain ⟨h32, hmj, hlow, hu_s, hu_d, hu_a, hu_b⟩ := shape_2 (mj := 2) (low := 2) u_s u_d u_a u_b (by decide) (by decide) (Option.some.inj h)
  refine ⟨h32, ?_⟩
  rw [major_2 w hmj]
  unfold rawInt
  rw [show w % 256 = 2 by omega]
  show some (Instr.andR _ _ _ _) = _
  rw [hu_s, hu_d, hu_a, hu_b]

theorem orR (u_s : BitVec 3) (u_d u_a u_b : BitVec 5) : Statement (.orR u_s u_d u_a u_b) := by
  intro _ w h
  obtain ⟨h32, hmj, hlow, hu_s, hu_d, hu_a, hu_b⟩ := shape_2 (mj := 2) (low := 3) u_s u_d u_a u_b (by decide) (by decide) (Option.some.inj h)
  refine ⟨h32, ?_⟩
  rw [major_2 w hmj]
  unfold rawInt
  rw [show w % 256 = 3 by omega]
  show some (Instr.orR _ _ _ _) = _
  rw [hu_s, hu_d, hu_a, hu_b]

theorem xorR (u_s : BitVec 3) (u_d u_a u_b : BitVec 5) : Statement (.xorR u_s u_d u_a u_b) := by
  intro _ w h
  obtain ⟨h32, hmj, hlow, hu_s, hu_d, hu_a, hu_b⟩ := shape_2 (mj := 2) (low := 4) u_s u_d u_a u_b (by decide) (by decide) (Option.some.inj h)
  refine ⟨h32, ?_⟩
  rw [major_2 w hmj]
  unfold rawInt
  rw [show w % 256 = 4 by omega]
  show some (Instr.xorR _ _ _ _) = _
  rw [hu_s, hu_d, hu_a, hu_b]

theorem sll (u_s : BitVec 3) (u_d u_a u_b : BitVec 5) : Statement (.sll u_s u_d u_a u_b) := by
  intro _ w h
  obtain ⟨h32, hmj, hlow, hu_s, hu_d, hu_a, hu_b⟩ := shape_2 (mj := 2) (low := 5) u_s u_d u_a u_b (by decide) (by decide) (Option.some.inj h)
  refine ⟨h32, ?_⟩
  rw [major_2 w hmj]
  unfold rawInt
  rw [show w % 256 = 5 by omega]
  show some (Instr.sll _ _ _ _) = _
  rw [hu_s, hu_d, hu_a, hu_b]

theorem srl (u_s : BitVec 3) (u_d u_a u_b : BitVec 5) : Statement (.srl u_s u_d u_a u_b) := by
  intro _ w h
  obtain ⟨h32, hmj, hlow, hu_s, hu_d, hu_a, hu_b⟩ := shape_2 (mj := 2) (low := 6) u_s u_d u_a u_b (by decide) (by decide) (Option.some.inj h)
  refine ⟨h32, ?_⟩
  rw [major_2 w hmj]
  unfold rawInt
  rw [show w % 256 = 6 by omega]
  show some (Instr.srl _ _ _ _) = _
  rw [hu_s, hu_d, hu_a, hu_b]

theorem sra (u_s : BitVec 3) (u_d u_a u_b : BitVec 5) : Statement (.sra u_s u_d u_a u_b) := by
  intro _ w h
  obtain ⟨h32, hmj, hlow, hu_s, hu_d, hu_a, hu_b⟩ := shape_2 (mj := 2) (low := 7) u_s u_d u_a u_b (by decide) (by decide) (Option.some.inj h)
  refine ⟨h32, ?_⟩
  rw [major_2 w hmj]
  unfold rawInt
  rw [show w % 256 = 7 by omega]
  show some (Instr.sra _ _ _ _) = _
  rw [hu_s, hu_d, hu_a, hu_b]

theorem slt (u_s : BitVec 3) (u_d u_a u_b : BitVec 5) : Statement (.slt u_s u_d u_a u_b) := by
  intro _ w h
  obtain ⟨h32, hmj, hlow, hu_s, hu_d, hu_a, hu_b⟩ := shape_2 (mj := 2) (low := 8) u_s u_d u_a u_b (by decide) (by decide) (Option.some.inj h)
  refine ⟨h32, ?_⟩
  rw [major_2 w hmj]
  unfold rawInt
  rw [show w % 256 = 8 by omega]
  show some (Instr.slt _ _ _ _) = _
  rw [hu_s, hu_d, hu_a, hu_b]

theorem sltn (u_s : BitVec 3) (u_d u_a u_b : BitVec 5) : Statement (.sltn u_s u_d u_a u_b) := by
  intro _ w h
  obtain ⟨h32, hmj, hlow, hu_s, hu_d, hu_a, hu_b⟩ := shape_2 (mj := 2) (low := 9) u_s u_d u_a u_b (by decide) (by decide) (Option.some.inj h)
  refine ⟨h32, ?_⟩
  rw [major_2 w hmj]
  unfold rawInt
  rw [show w % 256 = 9 by omega]
  show some (Instr.sltn _ _ _ _) = _
  rw [hu_s, hu_d, hu_a, hu_b]

theorem minR (u_s : BitVec 3) (u_d u_a u_b : BitVec 5) : Statement (.minR u_s u_d u_a u_b) := by
  intro _ w h
  obtain ⟨h32, hmj, hlow, hu_s, hu_d, hu_a, hu_b⟩ := shape_2 (mj := 2) (low := 10) u_s u_d u_a u_b (by decide) (by decide) (Option.some.inj h)
  refine ⟨h32, ?_⟩
  rw [major_2 w hmj]
  unfold rawInt
  rw [show w % 256 = 10 by omega]
  show some (Instr.minR _ _ _ _) = _
  rw [hu_s, hu_d, hu_a, hu_b]

theorem maxR (u_s : BitVec 3) (u_d u_a u_b : BitVec 5) : Statement (.maxR u_s u_d u_a u_b) := by
  intro _ w h
  obtain ⟨h32, hmj, hlow, hu_s, hu_d, hu_a, hu_b⟩ := shape_2 (mj := 2) (low := 11) u_s u_d u_a u_b (by decide) (by decide) (Option.some.inj h)
  refine ⟨h32, ?_⟩
  rw [major_2 w hmj]
  unfold rawInt
  rw [show w % 256 = 11 by omega]
  show some (Instr.maxR _ _ _ _) = _
  rw [hu_s, hu_d, hu_a, hu_b]

theorem minn (u_s : BitVec 3) (u_d u_a u_b : BitVec 5) : Statement (.minn u_s u_d u_a u_b) := by
  intro _ w h
  obtain ⟨h32, hmj, hlow, hu_s, hu_d, hu_a, hu_b⟩ := shape_2 (mj := 2) (low := 12) u_s u_d u_a u_b (by decide) (by decide) (Option.some.inj h)
  refine ⟨h32, ?_⟩
  rw [major_2 w hmj]
  unfold rawInt
  rw [show w % 256 = 12 by omega]
  show some (Instr.minn _ _ _ _) = _
  rw [hu_s, hu_d, hu_a, hu_b]

theorem maxn (u_s : BitVec 3) (u_d u_a u_b : BitVec 5) : Statement (.maxn u_s u_d u_a u_b) := by
  intro _ w h
  obtain ⟨h32, hmj, hlow, hu_s, hu_d, hu_a, hu_b⟩ := shape_2 (mj := 2) (low := 13) u_s u_d u_a u_b (by decide) (by decide) (Option.some.inj h)
  refine ⟨h32, ?_⟩
  rw [major_2 w hmj]
  unfold rawInt
  rw [show w % 256 = 13 by omega]
  show some (Instr.maxn _ _ _ _) = _
  rw [hu_s, hu_d, hu_a, hu_b]

theorem addS (u_s : BitVec 3) (u_d u_a u_b : BitVec 5) : Statement (.addS u_s u_d u_a u_b) := by
  intro _ w h
  obtain ⟨h32, hmj, hlow, hu_s, hu_d, hu_a, hu_b⟩ := shape_2 (mj := 2) (low := 14) u_s u_d u_a u_b (by decide) (by decide) (Option.some.inj h)
  refine ⟨h32, ?_⟩
  rw [major_2 w hmj]
  unfold rawInt
  rw [show w % 256 = 14 by omega]
  show some (Instr.addS _ _ _ _) = _
  rw [hu_s, hu_d, hu_a, hu_b]

theorem subS (u_s : BitVec 3) (u_d u_a u_b : BitVec 5) : Statement (.subS u_s u_d u_a u_b) := by
  intro _ w h
  obtain ⟨h32, hmj, hlow, hu_s, hu_d, hu_a, hu_b⟩ := shape_2 (mj := 2) (low := 15) u_s u_d u_a u_b (by decide) (by decide) (Option.some.inj h)
  refine ⟨h32, ?_⟩
  rw [major_2 w hmj]
  unfold rawInt
  rw [show w % 256 = 15 by omega]
  show some (Instr.subS _ _ _ _) = _
  rw [hu_s, hu_d, hu_a, hu_b]

theorem clz (u_s : BitVec 3) (u_d u_a : BitVec 5) : Statement (.clz u_s u_d u_a) := by
  intro _ w h
  obtain ⟨h32, hmj, hlow, hu_s, hu_d, hu_a⟩ := shape_3 (mj := 2) (low := 16) u_s u_d u_a (by decide) (by decide) (Option.some.inj h)
  refine ⟨h32, ?_⟩
  rw [major_2 w hmj]
  unfold rawInt
  rw [show w % 256 = 16 by omega]
  show some (Instr.clz _ _ _) = _
  rw [hu_s, hu_d, hu_a]

theorem ctz (u_s : BitVec 3) (u_d u_a : BitVec 5) : Statement (.ctz u_s u_d u_a) := by
  intro _ w h
  obtain ⟨h32, hmj, hlow, hu_s, hu_d, hu_a⟩ := shape_3 (mj := 2) (low := 17) u_s u_d u_a (by decide) (by decide) (Option.some.inj h)
  refine ⟨h32, ?_⟩
  rw [major_2 w hmj]
  unfold rawInt
  rw [show w % 256 = 17 by omega]
  show some (Instr.ctz _ _ _) = _
  rw [hu_s, hu_d, hu_a]

theorem popc (u_s : BitVec 3) (u_d u_a : BitVec 5) : Statement (.popc u_s u_d u_a) := by
  intro _ w h
  obtain ⟨h32, hmj, hlow, hu_s, hu_d, hu_a⟩ := shape_3 (mj := 2) (low := 18) u_s u_d u_a (by decide) (by decide) (Option.some.inj h)
  refine ⟨h32, ?_⟩
  rw [major_2 w hmj]
  unfold rawInt
  rw [show w % 256 = 18 by omega]
  show some (Instr.popc _ _ _) = _
  rw [hu_s, hu_d, hu_a]

theorem addi (u_s : BitVec 3) (u_d u_a : BitVec 5) (u_i : BitVec 13) : Statement (.addi u_s u_d u_a u_i) := by
  intro _ w h
  replace h : layWord 0x0C000000 [(u_s.toNat, 23), (u_d.toNat, 18), (u_a.toNat, 13), (u_i.toNat, 0)] = w := Option.some.inj h
  simp only [layWord] at h
  have := u_s.isLt; have := u_d.isLt; have := u_a.isLt; have := u_i.isLt
  refine ⟨by omega, ?_⟩
  unfold rawDecode
  rw [show w / 2 ^ 26 = 3 by omega]
  show some (Instr.addi _ _ _ _) = _
  rw [bits_of (v := u_s) (by omega), bits_of (v := u_d) (by omega), bits_of (v := u_a) (by omega), bits_of (v := u_i) (by omega)]

theorem andi (u_s : BitVec 3) (u_d u_a : BitVec 5) (u_i : BitVec 13) : Statement (.andi u_s u_d u_a u_i) := by
  intro _ w h
  replace h : layWord 0x10000000 [(u_s.toNat, 23), (u_d.toNat, 18), (u_a.toNat, 13), (u_i.toNat, 0)] = w := Option.some.inj h
  simp only [layWord] at h
  have := u_s.isLt; have := u_d.isLt; have := u_a.isLt; have := u_i.isLt
  refine ⟨by omega, ?_⟩
  unfold rawDecode
  rw [show w / 2 ^ 26 = 4 by omega]
  show some (Instr.andi _ _ _ _) = _
  rw [bits_of (v := u_s) (by omega), bits_of (v := u_d) (by omega), bits_of (v := u_a) (by omega), bits_of (v := u_i) (by omega)]

theorem ori (u_s : BitVec 3) (u_d u_a : BitVec 5) (u_i : BitVec 13) : Statement (.ori u_s u_d u_a u_i) := by
  intro _ w h
  replace h : layWord 0x14000000 [(u_s.toNat, 23), (u_d.toNat, 18), (u_a.toNat, 13), (u_i.toNat, 0)] = w := Option.some.inj h
  simp only [layWord] at h
  have := u_s.isLt; have := u_d.isLt; have := u_a.isLt; have := u_i.isLt
  refine ⟨by omega, ?_⟩
  unfold rawDecode
  rw [show w / 2 ^ 26 = 5 by omega]
  show some (Instr.ori _ _ _ _) = _
  rw [bits_of (v := u_s) (by omega), bits_of (v := u_d) (by omega), bits_of (v := u_a) (by omega), bits_of (v := u_i) (by omega)]

theorem xori (u_s : BitVec 3) (u_d u_a : BitVec 5) (u_i : BitVec 13) : Statement (.xori u_s u_d u_a u_i) := by
  intro _ w h
  replace h : layWord 0x18000000 [(u_s.toNat, 23), (u_d.toNat, 18), (u_a.toNat, 13), (u_i.toNat, 0)] = w := Option.some.inj h
  simp only [layWord] at h
  have := u_s.isLt; have := u_d.isLt; have := u_a.isLt; have := u_i.isLt
  refine ⟨by omega, ?_⟩
  unfold rawDecode
  rw [show w / 2 ^ 26 = 6 by omega]
  show some (Instr.xori _ _ _ _) = _
  rw [bits_of (v := u_s) (by omega), bits_of (v := u_d) (by omega), bits_of (v := u_a) (by omega), bits_of (v := u_i) (by omega)]

theorem slli (u_s : BitVec 3) (u_d u_a : BitVec 5) (u_h : BitVec 6) : Statement (.slli u_s u_d u_a u_h) := by
  intro _ w h
  replace h : layWord 0x1C000000 [(u_s.toNat, 23), (u_d.toNat, 18), (u_a.toNat, 13), (u_h.toNat, 0)] = w := Option.some.inj h
  simp only [layWord] at h
  have := u_s.isLt; have := u_d.isLt; have := u_a.isLt; have := u_h.isLt
  refine ⟨by omega, ?_⟩
  rw [major_7 w (by omega)]
  unfold rawShiftImm
  rw [show w / 2 ^ 11 % 4 = 0 by omega]
  show some (Instr.slli _ _ _ _) = _
  rw [bits_of (v := u_s) (by omega), bits_of (v := u_d) (by omega), bits_of (v := u_a) (by omega), bits_of (v := u_h) (by omega)]

theorem srli (u_s : BitVec 3) (u_d u_a : BitVec 5) (u_h : BitVec 6) : Statement (.srli u_s u_d u_a u_h) := by
  intro _ w h
  replace h : layWord 0x1C000800 [(u_s.toNat, 23), (u_d.toNat, 18), (u_a.toNat, 13), (u_h.toNat, 0)] = w := Option.some.inj h
  simp only [layWord] at h
  have := u_s.isLt; have := u_d.isLt; have := u_a.isLt; have := u_h.isLt
  refine ⟨by omega, ?_⟩
  rw [major_7 w (by omega)]
  unfold rawShiftImm
  rw [show w / 2 ^ 11 % 4 = 1 by omega]
  show some (Instr.srli _ _ _ _) = _
  rw [bits_of (v := u_s) (by omega), bits_of (v := u_d) (by omega), bits_of (v := u_a) (by omega), bits_of (v := u_h) (by omega)]

theorem srai (u_s : BitVec 3) (u_d u_a : BitVec 5) (u_h : BitVec 6) : Statement (.srai u_s u_d u_a u_h) := by
  intro _ w h
  replace h : layWord 0x1C001000 [(u_s.toNat, 23), (u_d.toNat, 18), (u_a.toNat, 13), (u_h.toNat, 0)] = w := Option.some.inj h
  simp only [layWord] at h
  have := u_s.isLt; have := u_d.isLt; have := u_a.isLt; have := u_h.isLt
  refine ⟨by omega, ?_⟩
  rw [major_7 w (by omega)]
  unfold rawShiftImm
  rw [show w / 2 ^ 11 % 4 = 2 by omega]
  show some (Instr.srai _ _ _ _) = _
  rw [bits_of (v := u_s) (by omega), bits_of (v := u_d) (by omega), bits_of (v := u_a) (by omega), bits_of (v := u_h) (by omega)]

theorem slti (u_s : BitVec 3) (u_d u_a : BitVec 5) (u_i : BitVec 12) : Statement (.slti u_s u_d u_a u_i) := by
  intro _ w h
  replace h : layWord 0x20000000 [(u_s.toNat, 23), (u_d.toNat, 18), (u_a.toNat, 13), (u_i.toNat, 0)] = w := Option.some.inj h
  simp only [layWord] at h
  have := u_s.isLt; have := u_d.isLt; have := u_a.isLt; have := u_i.isLt
  refine ⟨by omega, ?_⟩
  rw [major_8 w (by omega)]
  unfold rawSetImm
  rw [show w / 2 ^ 12 % 2 = 0 by omega]
  show some (Instr.slti _ _ _ _) = _
  rw [bits_of (v := u_s) (by omega), bits_of (v := u_d) (by omega), bits_of (v := u_a) (by omega), bits_of (v := u_i) (by omega)]

theorem sltin (u_s : BitVec 3) (u_d u_a : BitVec 5) (u_i : BitVec 12) : Statement (.sltin u_s u_d u_a u_i) := by
  intro _ w h
  replace h : layWord 0x20001000 [(u_s.toNat, 23), (u_d.toNat, 18), (u_a.toNat, 13), (u_i.toNat, 0)] = w := Option.some.inj h
  simp only [layWord] at h
  have := u_s.isLt; have := u_d.isLt; have := u_a.isLt; have := u_i.isLt
  refine ⟨by omega, ?_⟩
  rw [major_8 w (by omega)]
  unfold rawSetImm
  rw [show w / 2 ^ 12 % 2 = 1 by omega]
  show some (Instr.sltin _ _ _ _) = _
  rw [bits_of (v := u_s) (by omega), bits_of (v := u_d) (by omega), bits_of (v := u_a) (by omega), bits_of (v := u_i) (by omega)]

theorem li (u_s : BitVec 3) (u_d : BitVec 5) (u_i : BitVec 17) : Statement (.li u_s u_d u_i) := by
  intro _ w h
  replace h : layWord 0x24000000 [(u_s.toNat, 23), (u_d.toNat, 18), (u_i.toNat, 0)] = w := Option.some.inj h
  simp only [layWord] at h
  have := u_s.isLt; have := u_d.isLt; have := u_i.isLt
  refine ⟨by omega, ?_⟩
  rw [major_9 w (by omega)]
  unfold rawLi
  rw [show w / 2 ^ 17 % 2 = 0 by omega]
  show some (Instr.li _ _ _) = _
  rw [bits_of (v := u_s) (by omega), bits_of (v := u_d) (by omega), bits_of (v := u_i) (by omega)]

theorem lih (u_s : BitVec 3) (u_d : BitVec 5) (u_i : BitVec 16) : Statement (.lih u_s u_d u_i) := by
  intro _ w h
  replace h : layWord 0x24020000 [(u_s.toNat, 23), (u_d.toNat, 18), (u_i.toNat, 0)] = w := Option.some.inj h
  simp only [layWord] at h
  have := u_s.isLt; have := u_d.isLt; have := u_i.isLt
  refine ⟨by omega, ?_⟩
  rw [major_9 w (by omega)]
  unfold rawLi
  rw [show w / 2 ^ 17 % 2 = 1 by omega]
  show some (Instr.lih _ _ _) = _
  rw [bits_of (v := u_s) (by omega), bits_of (v := u_d) (by omega), bits_of (v := u_i) (by omega)]

theorem mul (u_s : BitVec 3) (u_d u_a u_b : BitVec 5) : Statement (.mul u_s u_d u_a u_b) := by
  intro _ w h
  obtain ⟨h32, hmj, hlow, hu_s, hu_d, hu_a, hu_b⟩ := shape_2 (mj := 10) (low := 0) u_s u_d u_a u_b (by decide) (by decide) (Option.some.inj h)
  refine ⟨h32, ?_⟩
  rw [major_10 w hmj]
  unfold rawMulDiv
  rw [show w % 256 = 0 by omega]
  show some (Instr.mul _ _ _ _) = _
  rw [hu_s, hu_d, hu_a, hu_b]

theorem mulh (u_s : BitVec 3) (u_d u_a u_b : BitVec 5) : Statement (.mulh u_s u_d u_a u_b) := by
  intro _ w h
  obtain ⟨h32, hmj, hlow, hu_s, hu_d, hu_a, hu_b⟩ := shape_2 (mj := 10) (low := 1) u_s u_d u_a u_b (by decide) (by decide) (Option.some.inj h)
  refine ⟨h32, ?_⟩
  rw [major_10 w hmj]
  unfold rawMulDiv
  rw [show w % 256 = 1 by omega]
  show some (Instr.mulh _ _ _ _) = _
  rw [hu_s, hu_d, hu_a, hu_b]

theorem mulhn (u_s : BitVec 3) (u_d u_a u_b : BitVec 5) : Statement (.mulhn u_s u_d u_a u_b) := by
  intro _ w h
  obtain ⟨h32, hmj, hlow, hu_s, hu_d, hu_a, hu_b⟩ := shape_2 (mj := 10) (low := 2) u_s u_d u_a u_b (by decide) (by decide) (Option.some.inj h)
  refine ⟨h32, ?_⟩
  rw [major_10 w hmj]
  unfold rawMulDiv
  rw [show w % 256 = 2 by omega]
  show some (Instr.mulhn _ _ _ _) = _
  rw [hu_s, hu_d, hu_a, hu_b]

theorem mulhsn (u_s : BitVec 3) (u_d u_a u_b : BitVec 5) : Statement (.mulhsn u_s u_d u_a u_b) := by
  intro _ w h
  obtain ⟨h32, hmj, hlow, hu_s, hu_d, hu_a, hu_b⟩ := shape_2 (mj := 10) (low := 3) u_s u_d u_a u_b (by decide) (by decide) (Option.some.inj h)
  refine ⟨h32, ?_⟩
  rw [major_10 w hmj]
  unfold rawMulDiv
  rw [show w % 256 = 3 by omega]
  show some (Instr.mulhsn _ _ _ _) = _
  rw [hu_s, hu_d, hu_a, hu_b]

theorem div (u_s : BitVec 3) (u_d u_a u_b : BitVec 5) : Statement (.div u_s u_d u_a u_b) := by
  intro _ w h
  obtain ⟨h32, hmj, hlow, hu_s, hu_d, hu_a, hu_b⟩ := shape_2 (mj := 10) (low := 4) u_s u_d u_a u_b (by decide) (by decide) (Option.some.inj h)
  refine ⟨h32, ?_⟩
  rw [major_10 w hmj]
  unfold rawMulDiv
  rw [show w % 256 = 4 by omega]
  show some (Instr.div _ _ _ _) = _
  rw [hu_s, hu_d, hu_a, hu_b]

theorem divn (u_s : BitVec 3) (u_d u_a u_b : BitVec 5) : Statement (.divn u_s u_d u_a u_b) := by
  intro _ w h
  obtain ⟨h32, hmj, hlow, hu_s, hu_d, hu_a, hu_b⟩ := shape_2 (mj := 10) (low := 5) u_s u_d u_a u_b (by decide) (by decide) (Option.some.inj h)
  refine ⟨h32, ?_⟩
  rw [major_10 w hmj]
  unfold rawMulDiv
  rw [show w % 256 = 5 by omega]
  show some (Instr.divn _ _ _ _) = _
  rw [hu_s, hu_d, hu_a, hu_b]

theorem rem (u_s : BitVec 3) (u_d u_a u_b : BitVec 5) : Statement (.rem u_s u_d u_a u_b) := by
  intro _ w h
  obtain ⟨h32, hmj, hlow, hu_s, hu_d, hu_a, hu_b⟩ := shape_2 (mj := 10) (low := 6) u_s u_d u_a u_b (by decide) (by decide) (Option.some.inj h)
  refine ⟨h32, ?_⟩
  rw [major_10 w hmj]
  unfold rawMulDiv
  rw [show w % 256 = 6 by omega]
  show some (Instr.rem _ _ _ _) = _
  rw [hu_s, hu_d, hu_a, hu_b]

theorem remn (u_s : BitVec 3) (u_d u_a u_b : BitVec 5) : Statement (.remn u_s u_d u_a u_b) := by
  intro _ w h
  obtain ⟨h32, hmj, hlow, hu_s, hu_d, hu_a, hu_b⟩ := shape_2 (mj := 10) (low := 7) u_s u_d u_a u_b (by decide) (by decide) (Option.some.inj h)
  refine ⟨h32, ?_⟩
  rw [major_10 w hmj]
  unfold rawMulDiv
  rw [show w % 256 = 7 by omega]
  show some (Instr.remn _ _ _ _) = _
  rw [hu_s, hu_d, hu_a, hu_b]

theorem fadd (u_s : BitVec 3) (u_d u_a u_b : BitVec 5) (u_o : BitVec 1) (u_m : BitVec 3) : Statement (.fadd u_s u_d u_a u_b u_o u_m) := by
  intro _ w h
  obtain ⟨h32, hmj, hlow, hu_s, hu_d, hu_a, hu_b, hu_o, hu_m⟩ := shape_6 (mj := 11) (low := 0) u_s u_d u_a u_b u_o u_m (by decide) (by decide) (Option.some.inj h)
  refine ⟨h32, ?_⟩
  rw [major_11 w hmj]
  unfold rawFp
  rw [show w % 16 = 0 by omega]
  show some (Instr.fadd _ _ _ _ _ _) = _
  rw [hu_s, hu_d, hu_a, hu_b, hu_o, hu_m]

theorem fsub (u_s : BitVec 3) (u_d u_a u_b : BitVec 5) (u_o : BitVec 1) (u_m : BitVec 3) : Statement (.fsub u_s u_d u_a u_b u_o u_m) := by
  intro _ w h
  obtain ⟨h32, hmj, hlow, hu_s, hu_d, hu_a, hu_b, hu_o, hu_m⟩ := shape_6 (mj := 11) (low := 1) u_s u_d u_a u_b u_o u_m (by decide) (by decide) (Option.some.inj h)
  refine ⟨h32, ?_⟩
  rw [major_11 w hmj]
  unfold rawFp
  rw [show w % 16 = 1 by omega]
  show some (Instr.fsub _ _ _ _ _ _) = _
  rw [hu_s, hu_d, hu_a, hu_b, hu_o, hu_m]

theorem fmul (u_s : BitVec 3) (u_d u_a u_b : BitVec 5) (u_o : BitVec 1) (u_m : BitVec 3) : Statement (.fmul u_s u_d u_a u_b u_o u_m) := by
  intro _ w h
  obtain ⟨h32, hmj, hlow, hu_s, hu_d, hu_a, hu_b, hu_o, hu_m⟩ := shape_6 (mj := 11) (low := 2) u_s u_d u_a u_b u_o u_m (by decide) (by decide) (Option.some.inj h)
  refine ⟨h32, ?_⟩
  rw [major_11 w hmj]
  unfold rawFp
  rw [show w % 16 = 2 by omega]
  show some (Instr.fmul _ _ _ _ _ _) = _
  rw [hu_s, hu_d, hu_a, hu_b, hu_o, hu_m]

theorem fdiv (u_s : BitVec 3) (u_d u_a u_b : BitVec 5) (u_o : BitVec 1) (u_m : BitVec 3) : Statement (.fdiv u_s u_d u_a u_b u_o u_m) := by
  intro _ w h
  obtain ⟨h32, hmj, hlow, hu_s, hu_d, hu_a, hu_b, hu_o, hu_m⟩ := shape_6 (mj := 11) (low := 3) u_s u_d u_a u_b u_o u_m (by decide) (by decide) (Option.some.inj h)
  refine ⟨h32, ?_⟩
  rw [major_11 w hmj]
  unfold rawFp
  rw [show w % 16 = 3 by omega]
  show some (Instr.fdiv _ _ _ _ _ _) = _
  rw [hu_s, hu_d, hu_a, hu_b, hu_o, hu_m]

theorem fsqrt (u_s : BitVec 3) (u_d u_a : BitVec 5) (u_o : BitVec 1) (u_m : BitVec 3) : Statement (.fsqrt u_s u_d u_a u_o u_m) := by
  intro _ w h
  obtain ⟨h32, hmj, hlow, hu_s, hu_d, hu_a, hu_o, hu_m⟩ := shape_21 (mj := 11) (low := 4) u_s u_d u_a u_o u_m (by decide) (by decide) (Option.some.inj h)
  refine ⟨h32, ?_⟩
  rw [major_11 w hmj]
  unfold rawFp
  rw [show w % 16 = 4 by omega]
  show some (Instr.fsqrt _ _ _ _ _) = _
  rw [hu_s, hu_d, hu_a, hu_o, hu_m]

theorem fma (u_s : BitVec 3) (u_d u_a u_b : BitVec 5) (u_o : BitVec 1) (u_m : BitVec 3) : Statement (.fma u_s u_d u_a u_b u_o u_m) := by
  intro _ w h
  obtain ⟨h32, hmj, hlow, hu_s, hu_d, hu_a, hu_b, hu_o, hu_m⟩ := shape_6 (mj := 11) (low := 5) u_s u_d u_a u_b u_o u_m (by decide) (by decide) (Option.some.inj h)
  refine ⟨h32, ?_⟩
  rw [major_11 w hmj]
  unfold rawFp
  rw [show w % 16 = 5 by omega]
  show some (Instr.fma _ _ _ _ _ _) = _
  rw [hu_s, hu_d, hu_a, hu_b, hu_o, hu_m]

theorem fmin (u_s : BitVec 3) (u_d u_a u_b : BitVec 5) (u_o : BitVec 1) (u_m : BitVec 3) : Statement (.fmin u_s u_d u_a u_b u_o u_m) := by
  intro _ w h
  obtain ⟨h32, hmj, hlow, hu_s, hu_d, hu_a, hu_b, hu_o, hu_m⟩ := shape_6 (mj := 11) (low := 6) u_s u_d u_a u_b u_o u_m (by decide) (by decide) (Option.some.inj h)
  refine ⟨h32, ?_⟩
  rw [major_11 w hmj]
  unfold rawFp
  rw [show w % 16 = 6 by omega]
  show some (Instr.fmin _ _ _ _ _ _) = _
  rw [hu_s, hu_d, hu_a, hu_b, hu_o, hu_m]

theorem fmax (u_s : BitVec 3) (u_d u_a u_b : BitVec 5) (u_o : BitVec 1) (u_m : BitVec 3) : Statement (.fmax u_s u_d u_a u_b u_o u_m) := by
  intro _ w h
  obtain ⟨h32, hmj, hlow, hu_s, hu_d, hu_a, hu_b, hu_o, hu_m⟩ := shape_6 (mj := 11) (low := 7) u_s u_d u_a u_b u_o u_m (by decide) (by decide) (Option.some.inj h)
  refine ⟨h32, ?_⟩
  rw [major_11 w hmj]
  unfold rawFp
  rw [show w % 16 = 7 by omega]
  show some (Instr.fmax _ _ _ _ _ _) = _
  rw [hu_s, hu_d, hu_a, hu_b, hu_o, hu_m]

theorem feq (u_s : BitVec 3) (u_d u_a u_b : BitVec 5) (u_o : BitVec 1) (u_m : BitVec 3) : Statement (.feq u_s u_d u_a u_b u_o u_m) := by
  intro _ w h
  obtain ⟨h32, hmj, hlow, hu_s, hu_d, hu_a, hu_b, hu_o, hu_m⟩ := shape_6 (mj := 11) (low := 8) u_s u_d u_a u_b u_o u_m (by decide) (by decide) (Option.some.inj h)
  refine ⟨h32, ?_⟩
  rw [major_11 w hmj]
  unfold rawFp
  rw [show w % 16 = 8 by omega]
  show some (Instr.feq _ _ _ _ _ _) = _
  rw [hu_s, hu_d, hu_a, hu_b, hu_o, hu_m]

theorem flt (u_s : BitVec 3) (u_d u_a u_b : BitVec 5) (u_o : BitVec 1) (u_m : BitVec 3) : Statement (.flt u_s u_d u_a u_b u_o u_m) := by
  intro _ w h
  obtain ⟨h32, hmj, hlow, hu_s, hu_d, hu_a, hu_b, hu_o, hu_m⟩ := shape_6 (mj := 11) (low := 9) u_s u_d u_a u_b u_o u_m (by decide) (by decide) (Option.some.inj h)
  refine ⟨h32, ?_⟩
  rw [major_11 w hmj]
  unfold rawFp
  rw [show w % 16 = 9 by omega]
  show some (Instr.flt _ _ _ _ _ _) = _
  rw [hu_s, hu_d, hu_a, hu_b, hu_o, hu_m]

theorem fle (u_s : BitVec 3) (u_d u_a u_b : BitVec 5) (u_o : BitVec 1) (u_m : BitVec 3) : Statement (.fle u_s u_d u_a u_b u_o u_m) := by
  intro _ w h
  obtain ⟨h32, hmj, hlow, hu_s, hu_d, hu_a, hu_b, hu_o, hu_m⟩ := shape_6 (mj := 11) (low := 10) u_s u_d u_a u_b u_o u_m (by decide) (by decide) (Option.some.inj h)
  refine ⟨h32, ?_⟩
  rw [major_11 w hmj]
  unfold rawFp
  rw [show w % 16 = 10 by omega]
  show some (Instr.fle _ _ _ _ _ _) = _
  rw [hu_s, hu_d, hu_a, hu_b, hu_o, hu_m]

theorem fkind (u_s : BitVec 3) (u_d u_a : BitVec 5) (u_o : BitVec 1) (u_m : BitVec 3) : Statement (.fkind u_s u_d u_a u_o u_m) := by
  intro _ w h
  obtain ⟨h32, hmj, hlow, hu_s, hu_d, hu_a, hu_o, hu_m⟩ := shape_21 (mj := 11) (low := 11) u_s u_d u_a u_o u_m (by decide) (by decide) (Option.some.inj h)
  refine ⟨h32, ?_⟩
  rw [major_11 w hmj]
  unfold rawFp
  rw [show w % 16 = 11 by omega]
  show some (Instr.fkind _ _ _ _ _) = _
  rw [hu_s, hu_d, hu_a, hu_o, hu_m]

theorem fcvt (u_s : BitVec 3) (u_d u_a u_t : BitVec 5) (u_o : BitVec 1) (u_m : BitVec 3) : Statement (.fcvt u_s u_d u_a u_t u_o u_m) := by
  intro _ w h
  obtain ⟨h32, hmj, hlow, hu_s, hu_d, hu_a, hu_t, hu_o, hu_m⟩ := shape_6 (mj := 11) (low := 12) u_s u_d u_a u_t u_o u_m (by decide) (by decide) (Option.some.inj h)
  refine ⟨h32, ?_⟩
  rw [major_11 w hmj]
  unfold rawFp
  rw [show w % 16 = 12 by omega]
  show some (Instr.fcvt _ _ _ _ _ _) = _
  rw [hu_s, hu_d, hu_a, hu_t, hu_o, hu_m]

theorem fcvtf (u_s : BitVec 3) (u_d u_a u_t : BitVec 5) (u_o : BitVec 1) (u_m : BitVec 3) : Statement (.fcvtf u_s u_d u_a u_t u_o u_m) := by
  intro _ w h
  obtain ⟨h32, hmj, hlow, hu_s, hu_d, hu_a, hu_t, hu_o, hu_m⟩ := shape_6 (mj := 11) (low := 13) u_s u_d u_a u_t u_o u_m (by decide) (by decide) (Option.some.inj h)
  refine ⟨h32, ?_⟩
  rw [major_11 w hmj]
  unfold rawFp
  rw [show w % 16 = 13 by omega]
  show some (Instr.fcvtf _ _ _ _ _ _) = _
  rw [hu_s, hu_d, hu_a, hu_t, hu_o, hu_m]

theorem lb (u_s : BitVec 3) (u_d u_a : BitVec 5) (u_h : BitVec 2) (u_i : BitVec 8) : Statement (.lb u_s u_d u_a u_h u_i) := by
  intro _ w h
  replace h : layWord 0x30000000 [(u_s.toNat, 23), (u_d.toNat, 18), (u_a.toNat, 13), (u_h.toNat, 8), (u_i.toNat, 0)] = w := Option.some.inj h
  simp only [layWord] at h
  have := u_s.isLt; have := u_d.isLt; have := u_a.isLt; have := u_h.isLt; have := u_i.isLt
  refine ⟨by omega, ?_⟩
  rw [major_12 w (by omega)]
  unfold rawLoad
  rw [show w / 2 ^ 10 % 8 = 0 by omega]
  show some (Instr.lb _ _ _ _ _) = _
  rw [bits_of (v := u_s) (by omega), bits_of (v := u_d) (by omega), bits_of (v := u_a) (by omega), bits_of (v := u_h) (by omega), bits_of (v := u_i) (by omega)]

theorem lh (u_s : BitVec 3) (u_d u_a : BitVec 5) (u_h : BitVec 2) (u_i : BitVec 8) : Statement (.lh u_s u_d u_a u_h u_i) := by
  intro _ w h
  replace h : layWord 0x30000400 [(u_s.toNat, 23), (u_d.toNat, 18), (u_a.toNat, 13), (u_h.toNat, 8), (u_i.toNat, 0)] = w := Option.some.inj h
  simp only [layWord] at h
  have := u_s.isLt; have := u_d.isLt; have := u_a.isLt; have := u_h.isLt; have := u_i.isLt
  refine ⟨by omega, ?_⟩
  rw [major_12 w (by omega)]
  unfold rawLoad
  rw [show w / 2 ^ 10 % 8 = 1 by omega]
  show some (Instr.lh _ _ _ _ _) = _
  rw [bits_of (v := u_s) (by omega), bits_of (v := u_d) (by omega), bits_of (v := u_a) (by omega), bits_of (v := u_h) (by omega), bits_of (v := u_i) (by omega)]

theorem lw (u_s : BitVec 3) (u_d u_a : BitVec 5) (u_h : BitVec 2) (u_i : BitVec 8) : Statement (.lw u_s u_d u_a u_h u_i) := by
  intro _ w h
  replace h : layWord 0x30000800 [(u_s.toNat, 23), (u_d.toNat, 18), (u_a.toNat, 13), (u_h.toNat, 8), (u_i.toNat, 0)] = w := Option.some.inj h
  simp only [layWord] at h
  have := u_s.isLt; have := u_d.isLt; have := u_a.isLt; have := u_h.isLt; have := u_i.isLt
  refine ⟨by omega, ?_⟩
  rw [major_12 w (by omega)]
  unfold rawLoad
  rw [show w / 2 ^ 10 % 8 = 2 by omega]
  show some (Instr.lw _ _ _ _ _) = _
  rw [bits_of (v := u_s) (by omega), bits_of (v := u_d) (by omega), bits_of (v := u_a) (by omega), bits_of (v := u_h) (by omega), bits_of (v := u_i) (by omega)]

theorem ld (u_s : BitVec 3) (u_d u_a : BitVec 5) (u_h : BitVec 2) (u_i : BitVec 8) : Statement (.ld u_s u_d u_a u_h u_i) := by
  intro _ w h
  replace h : layWord 0x30000C00 [(u_s.toNat, 23), (u_d.toNat, 18), (u_a.toNat, 13), (u_h.toNat, 8), (u_i.toNat, 0)] = w := Option.some.inj h
  simp only [layWord] at h
  have := u_s.isLt; have := u_d.isLt; have := u_a.isLt; have := u_h.isLt; have := u_i.isLt
  refine ⟨by omega, ?_⟩
  rw [major_12 w (by omega)]
  unfold rawLoad
  rw [show w / 2 ^ 10 % 8 = 3 by omega]
  show some (Instr.ld _ _ _ _ _) = _
  rw [bits_of (v := u_s) (by omega), bits_of (v := u_d) (by omega), bits_of (v := u_a) (by omega), bits_of (v := u_h) (by omega), bits_of (v := u_i) (by omega)]

theorem lbn (u_s : BitVec 3) (u_d u_a : BitVec 5) (u_h : BitVec 2) (u_i : BitVec 8) : Statement (.lbn u_s u_d u_a u_h u_i) := by
  intro _ w h
  replace h : layWord 0x30001000 [(u_s.toNat, 23), (u_d.toNat, 18), (u_a.toNat, 13), (u_h.toNat, 8), (u_i.toNat, 0)] = w := Option.some.inj h
  simp only [layWord] at h
  have := u_s.isLt; have := u_d.isLt; have := u_a.isLt; have := u_h.isLt; have := u_i.isLt
  refine ⟨by omega, ?_⟩
  rw [major_12 w (by omega)]
  unfold rawLoad
  rw [show w / 2 ^ 10 % 8 = 4 by omega]
  show some (Instr.lbn _ _ _ _ _) = _
  rw [bits_of (v := u_s) (by omega), bits_of (v := u_d) (by omega), bits_of (v := u_a) (by omega), bits_of (v := u_h) (by omega), bits_of (v := u_i) (by omega)]

theorem lhn (u_s : BitVec 3) (u_d u_a : BitVec 5) (u_h : BitVec 2) (u_i : BitVec 8) : Statement (.lhn u_s u_d u_a u_h u_i) := by
  intro _ w h
  replace h : layWord 0x30001400 [(u_s.toNat, 23), (u_d.toNat, 18), (u_a.toNat, 13), (u_h.toNat, 8), (u_i.toNat, 0)] = w := Option.some.inj h
  simp only [layWord] at h
  have := u_s.isLt; have := u_d.isLt; have := u_a.isLt; have := u_h.isLt; have := u_i.isLt
  refine ⟨by omega, ?_⟩
  rw [major_12 w (by omega)]
  unfold rawLoad
  rw [show w / 2 ^ 10 % 8 = 5 by omega]
  show some (Instr.lhn _ _ _ _ _) = _
  rw [bits_of (v := u_s) (by omega), bits_of (v := u_d) (by omega), bits_of (v := u_a) (by omega), bits_of (v := u_h) (by omega), bits_of (v := u_i) (by omega)]

theorem lwn (u_s : BitVec 3) (u_d u_a : BitVec 5) (u_h : BitVec 2) (u_i : BitVec 8) : Statement (.lwn u_s u_d u_a u_h u_i) := by
  intro _ w h
  replace h : layWord 0x30001800 [(u_s.toNat, 23), (u_d.toNat, 18), (u_a.toNat, 13), (u_h.toNat, 8), (u_i.toNat, 0)] = w := Option.some.inj h
  simp only [layWord] at h
  have := u_s.isLt; have := u_d.isLt; have := u_a.isLt; have := u_h.isLt; have := u_i.isLt
  refine ⟨by omega, ?_⟩
  rw [major_12 w (by omega)]
  unfold rawLoad
  rw [show w / 2 ^ 10 % 8 = 6 by omega]
  show some (Instr.lwn _ _ _ _ _) = _
  rw [bits_of (v := u_s) (by omega), bits_of (v := u_d) (by omega), bits_of (v := u_a) (by omega), bits_of (v := u_h) (by omega), bits_of (v := u_i) (by omega)]

theorem pref (u_s : BitVec 3) (u_t : BitVec 2) (u_a : BitVec 5) (u_i : BitVec 8) : Statement (.pref u_s u_t u_a u_i) := by
  intro _ w h
  replace h : layWord 0x30001C00 [(u_s.toNat, 23), (u_t.toNat, 18), (u_a.toNat, 13), (u_i.toNat, 0)] = w := Option.some.inj h
  simp only [layWord] at h
  have := u_s.isLt; have := u_t.isLt; have := u_a.isLt; have := u_i.isLt
  refine ⟨by omega, ?_⟩
  rw [major_12 w (by omega)]
  unfold rawLoad
  rw [show w / 2 ^ 10 % 8 = 7 by omega]
  show some (Instr.pref _ _ _ _) = _
  rw [bits_of (v := u_s) (by omega), bits_of (v := u_t) (by omega), bits_of (v := u_a) (by omega), bits_of (v := u_i) (by omega)]

theorem sb (u_s : BitVec 3) (u_d u_a : BitVec 5) (u_h : BitVec 2) (u_i : BitVec 8) : Statement (.sb u_s u_d u_a u_h u_i) := by
  intro _ w h
  replace h : layWord 0x34000000 [(u_s.toNat, 23), (u_d.toNat, 18), (u_a.toNat, 13), (u_h.toNat, 8), (u_i.toNat, 0)] = w := Option.some.inj h
  simp only [layWord] at h
  have := u_s.isLt; have := u_d.isLt; have := u_a.isLt; have := u_h.isLt; have := u_i.isLt
  refine ⟨by omega, ?_⟩
  rw [major_13 w (by omega)]
  unfold rawStore
  rw [show w / 2 ^ 10 % 8 = 0 by omega]
  show some (Instr.sb _ _ _ _ _) = _
  rw [bits_of (v := u_s) (by omega), bits_of (v := u_d) (by omega), bits_of (v := u_a) (by omega), bits_of (v := u_h) (by omega), bits_of (v := u_i) (by omega)]

theorem sh (u_s : BitVec 3) (u_d u_a : BitVec 5) (u_h : BitVec 2) (u_i : BitVec 8) : Statement (.sh u_s u_d u_a u_h u_i) := by
  intro _ w h
  replace h : layWord 0x34000400 [(u_s.toNat, 23), (u_d.toNat, 18), (u_a.toNat, 13), (u_h.toNat, 8), (u_i.toNat, 0)] = w := Option.some.inj h
  simp only [layWord] at h
  have := u_s.isLt; have := u_d.isLt; have := u_a.isLt; have := u_h.isLt; have := u_i.isLt
  refine ⟨by omega, ?_⟩
  rw [major_13 w (by omega)]
  unfold rawStore
  rw [show w / 2 ^ 10 % 8 = 1 by omega]
  show some (Instr.sh _ _ _ _ _) = _
  rw [bits_of (v := u_s) (by omega), bits_of (v := u_d) (by omega), bits_of (v := u_a) (by omega), bits_of (v := u_h) (by omega), bits_of (v := u_i) (by omega)]

theorem sw (u_s : BitVec 3) (u_d u_a : BitVec 5) (u_h : BitVec 2) (u_i : BitVec 8) : Statement (.sw u_s u_d u_a u_h u_i) := by
  intro _ w h
  replace h : layWord 0x34000800 [(u_s.toNat, 23), (u_d.toNat, 18), (u_a.toNat, 13), (u_h.toNat, 8), (u_i.toNat, 0)] = w := Option.some.inj h
  simp only [layWord] at h
  have := u_s.isLt; have := u_d.isLt; have := u_a.isLt; have := u_h.isLt; have := u_i.isLt
  refine ⟨by omega, ?_⟩
  rw [major_13 w (by omega)]
  unfold rawStore
  rw [show w / 2 ^ 10 % 8 = 2 by omega]
  show some (Instr.sw _ _ _ _ _) = _
  rw [bits_of (v := u_s) (by omega), bits_of (v := u_d) (by omega), bits_of (v := u_a) (by omega), bits_of (v := u_h) (by omega), bits_of (v := u_i) (by omega)]

theorem sd (u_s : BitVec 3) (u_d u_a : BitVec 5) (u_h : BitVec 2) (u_i : BitVec 8) : Statement (.sd u_s u_d u_a u_h u_i) := by
  intro _ w h
  replace h : layWord 0x34000C00 [(u_s.toNat, 23), (u_d.toNat, 18), (u_a.toNat, 13), (u_h.toNat, 8), (u_i.toNat, 0)] = w := Option.some.inj h
  simp only [layWord] at h
  have := u_s.isLt; have := u_d.isLt; have := u_a.isLt; have := u_h.isLt; have := u_i.isLt
  refine ⟨by omega, ?_⟩
  rw [major_13 w (by omega)]
  unfold rawStore
  rw [show w / 2 ^ 10 % 8 = 3 by omega]
  show some (Instr.sd _ _ _ _ _) = _
  rw [bits_of (v := u_s) (by omega), bits_of (v := u_d) (by omega), bits_of (v := u_a) (by omega), bits_of (v := u_h) (by omega), bits_of (v := u_i) (by omega)]

theorem mkref (u_s : BitVec 3) (u_d u_a : BitVec 5) : Statement (.mkref u_s u_d u_a) := by
  intro _ w h
  obtain ⟨h32, hmj, hlow, hu_s, hu_d, hu_a⟩ := shape_3 (mj := 14) (low := 0) u_s u_d u_a (by decide) (by decide) (Option.some.inj h)
  refine ⟨h32, ?_⟩
  rw [major_14 w hmj]
  unfold rawRef
  rw [show w % 512 = 0 by omega]
  show some (Instr.mkref _ _ _) = _
  rw [hu_s, hu_d, hu_a]

theorem rtag (u_s : BitVec 3) (u_d u_a : BitVec 5) : Statement (.rtag u_s u_d u_a) := by
  intro _ w h
  obtain ⟨h32, hmj, hlow, hu_s, hu_d, hu_a⟩ := shape_3 (mj := 14) (low := 1) u_s u_d u_a (by decide) (by decide) (Option.some.inj h)
  refine ⟨h32, ?_⟩
  rw [major_14 w hmj]
  unfold rawRef
  rw [show w % 512 = 1 by omega]
  show some (Instr.rtag _ _ _) = _
  rw [hu_s, hu_d, hu_a]

theorem pub (u_s : BitVec 3) (u_d u_a : BitVec 5) (u_c : BitVec 4) : Statement (.pub u_s u_d u_a u_c) := by
  intro _ w h
  obtain ⟨h32, hmj, hlow, hu_s, hu_d, hu_a, hu_c⟩ := shape_15 (mj := 14) (low := 2) u_s u_d u_a u_c (by decide) (by decide) (Option.some.inj h)
  refine ⟨h32, ?_⟩
  rw [major_14 w hmj]
  unfold rawRef
  rw [show w % 512 = 2 by omega]
  show some (Instr.pub _ _ _ _) = _
  rw [hu_s, hu_d, hu_a, hu_c]

theorem amoswap (u_s : BitVec 3) (u_d u_a : BitVec 5) (u_c : BitVec 4) (u_o : BitVec 3) (u_z : BitVec 1) : Statement (.amoswap u_s u_d u_a u_c u_o u_z) := by
  intro _ w h
  replace h : layWord 0x3C000020 [(u_s.toNat, 23), (u_d.toNat, 18), (u_a.toNat, 13), (u_c.toNat, 9), (u_o.toNat, 6), (u_z.toNat, 4)] = w := Option.some.inj h
  simp only [layWord] at h
  have := u_s.isLt; have := u_d.isLt; have := u_a.isLt; have := u_c.isLt; have := u_o.isLt; have := u_z.isLt
  refine ⟨by omega, ?_⟩
  rw [major_15 w (by omega)]
  unfold rawAtomic
  rw [show w % 16 = 0 by omega]
  show some (Instr.amoswap _ _ _ _ _ _) = _
  rw [bits_of (v := u_s) (by omega), bits_of (v := u_d) (by omega), bits_of (v := u_a) (by omega), bits_of (v := u_c) (by omega), bits_of (v := u_o) (by omega), bits_of (v := u_z) (by omega)]

theorem amoadd (u_s : BitVec 3) (u_d u_a : BitVec 5) (u_c : BitVec 4) (u_o : BitVec 3) (u_z : BitVec 1) : Statement (.amoadd u_s u_d u_a u_c u_o u_z) := by
  intro _ w h
  replace h : layWord 0x3C000021 [(u_s.toNat, 23), (u_d.toNat, 18), (u_a.toNat, 13), (u_c.toNat, 9), (u_o.toNat, 6), (u_z.toNat, 4)] = w := Option.some.inj h
  simp only [layWord] at h
  have := u_s.isLt; have := u_d.isLt; have := u_a.isLt; have := u_c.isLt; have := u_o.isLt; have := u_z.isLt
  refine ⟨by omega, ?_⟩
  rw [major_15 w (by omega)]
  unfold rawAtomic
  rw [show w % 16 = 1 by omega]
  show some (Instr.amoadd _ _ _ _ _ _) = _
  rw [bits_of (v := u_s) (by omega), bits_of (v := u_d) (by omega), bits_of (v := u_a) (by omega), bits_of (v := u_c) (by omega), bits_of (v := u_o) (by omega), bits_of (v := u_z) (by omega)]

theorem amoand (u_s : BitVec 3) (u_d u_a : BitVec 5) (u_c : BitVec 4) (u_o : BitVec 3) (u_z : BitVec 1) : Statement (.amoand u_s u_d u_a u_c u_o u_z) := by
  intro _ w h
  replace h : layWord 0x3C000022 [(u_s.toNat, 23), (u_d.toNat, 18), (u_a.toNat, 13), (u_c.toNat, 9), (u_o.toNat, 6), (u_z.toNat, 4)] = w := Option.some.inj h
  simp only [layWord] at h
  have := u_s.isLt; have := u_d.isLt; have := u_a.isLt; have := u_c.isLt; have := u_o.isLt; have := u_z.isLt
  refine ⟨by omega, ?_⟩
  rw [major_15 w (by omega)]
  unfold rawAtomic
  rw [show w % 16 = 2 by omega]
  show some (Instr.amoand _ _ _ _ _ _) = _
  rw [bits_of (v := u_s) (by omega), bits_of (v := u_d) (by omega), bits_of (v := u_a) (by omega), bits_of (v := u_c) (by omega), bits_of (v := u_o) (by omega), bits_of (v := u_z) (by omega)]

theorem amoor (u_s : BitVec 3) (u_d u_a : BitVec 5) (u_c : BitVec 4) (u_o : BitVec 3) (u_z : BitVec 1) : Statement (.amoor u_s u_d u_a u_c u_o u_z) := by
  intro _ w h
  replace h : layWord 0x3C000023 [(u_s.toNat, 23), (u_d.toNat, 18), (u_a.toNat, 13), (u_c.toNat, 9), (u_o.toNat, 6), (u_z.toNat, 4)] = w := Option.some.inj h
  simp only [layWord] at h
  have := u_s.isLt; have := u_d.isLt; have := u_a.isLt; have := u_c.isLt; have := u_o.isLt; have := u_z.isLt
  refine ⟨by omega, ?_⟩
  rw [major_15 w (by omega)]
  unfold rawAtomic
  rw [show w % 16 = 3 by omega]
  show some (Instr.amoor _ _ _ _ _ _) = _
  rw [bits_of (v := u_s) (by omega), bits_of (v := u_d) (by omega), bits_of (v := u_a) (by omega), bits_of (v := u_c) (by omega), bits_of (v := u_o) (by omega), bits_of (v := u_z) (by omega)]

theorem amoxor (u_s : BitVec 3) (u_d u_a : BitVec 5) (u_c : BitVec 4) (u_o : BitVec 3) (u_z : BitVec 1) : Statement (.amoxor u_s u_d u_a u_c u_o u_z) := by
  intro _ w h
  replace h : layWord 0x3C000024 [(u_s.toNat, 23), (u_d.toNat, 18), (u_a.toNat, 13), (u_c.toNat, 9), (u_o.toNat, 6), (u_z.toNat, 4)] = w := Option.some.inj h
  simp only [layWord] at h
  have := u_s.isLt; have := u_d.isLt; have := u_a.isLt; have := u_c.isLt; have := u_o.isLt; have := u_z.isLt
  refine ⟨by omega, ?_⟩
  rw [major_15 w (by omega)]
  unfold rawAtomic
  rw [show w % 16 = 4 by omega]
  show some (Instr.amoxor _ _ _ _ _ _) = _
  rw [bits_of (v := u_s) (by omega), bits_of (v := u_d) (by omega), bits_of (v := u_a) (by omega), bits_of (v := u_c) (by omega), bits_of (v := u_o) (by omega), bits_of (v := u_z) (by omega)]

theorem amomin (u_s : BitVec 3) (u_d u_a : BitVec 5) (u_c : BitVec 4) (u_o : BitVec 3) (u_z : BitVec 1) : Statement (.amomin u_s u_d u_a u_c u_o u_z) := by
  intro _ w h
  replace h : layWord 0x3C000025 [(u_s.toNat, 23), (u_d.toNat, 18), (u_a.toNat, 13), (u_c.toNat, 9), (u_o.toNat, 6), (u_z.toNat, 4)] = w := Option.some.inj h
  simp only [layWord] at h
  have := u_s.isLt; have := u_d.isLt; have := u_a.isLt; have := u_c.isLt; have := u_o.isLt; have := u_z.isLt
  refine ⟨by omega, ?_⟩
  rw [major_15 w (by omega)]
  unfold rawAtomic
  rw [show w % 16 = 5 by omega]
  show some (Instr.amomin _ _ _ _ _ _) = _
  rw [bits_of (v := u_s) (by omega), bits_of (v := u_d) (by omega), bits_of (v := u_a) (by omega), bits_of (v := u_c) (by omega), bits_of (v := u_o) (by omega), bits_of (v := u_z) (by omega)]

theorem amomax (u_s : BitVec 3) (u_d u_a : BitVec 5) (u_c : BitVec 4) (u_o : BitVec 3) (u_z : BitVec 1) : Statement (.amomax u_s u_d u_a u_c u_o u_z) := by
  intro _ w h
  replace h : layWord 0x3C000026 [(u_s.toNat, 23), (u_d.toNat, 18), (u_a.toNat, 13), (u_c.toNat, 9), (u_o.toNat, 6), (u_z.toNat, 4)] = w := Option.some.inj h
  simp only [layWord] at h
  have := u_s.isLt; have := u_d.isLt; have := u_a.isLt; have := u_c.isLt; have := u_o.isLt; have := u_z.isLt
  refine ⟨by omega, ?_⟩
  rw [major_15 w (by omega)]
  unfold rawAtomic
  rw [show w % 16 = 6 by omega]
  show some (Instr.amomax _ _ _ _ _ _) = _
  rw [bits_of (v := u_s) (by omega), bits_of (v := u_d) (by omega), bits_of (v := u_a) (by omega), bits_of (v := u_c) (by omega), bits_of (v := u_o) (by omega), bits_of (v := u_z) (by omega)]

theorem amominn (u_s : BitVec 3) (u_d u_a : BitVec 5) (u_c : BitVec 4) (u_o : BitVec 3) (u_z : BitVec 1) : Statement (.amominn u_s u_d u_a u_c u_o u_z) := by
  intro _ w h
  replace h : layWord 0x3C000027 [(u_s.toNat, 23), (u_d.toNat, 18), (u_a.toNat, 13), (u_c.toNat, 9), (u_o.toNat, 6), (u_z.toNat, 4)] = w := Option.some.inj h
  simp only [layWord] at h
  have := u_s.isLt; have := u_d.isLt; have := u_a.isLt; have := u_c.isLt; have := u_o.isLt; have := u_z.isLt
  refine ⟨by omega, ?_⟩
  rw [major_15 w (by omega)]
  unfold rawAtomic
  rw [show w % 16 = 7 by omega]
  show some (Instr.amominn _ _ _ _ _ _) = _
  rw [bits_of (v := u_s) (by omega), bits_of (v := u_d) (by omega), bits_of (v := u_a) (by omega), bits_of (v := u_c) (by omega), bits_of (v := u_o) (by omega), bits_of (v := u_z) (by omega)]

theorem amomaxn (u_s : BitVec 3) (u_d u_a : BitVec 5) (u_c : BitVec 4) (u_o : BitVec 3) (u_z : BitVec 1) : Statement (.amomaxn u_s u_d u_a u_c u_o u_z) := by
  intro _ w h
  replace h : layWord 0x3C000028 [(u_s.toNat, 23), (u_d.toNat, 18), (u_a.toNat, 13), (u_c.toNat, 9), (u_o.toNat, 6), (u_z.toNat, 4)] = w := Option.some.inj h
  simp only [layWord] at h
  have := u_s.isLt; have := u_d.isLt; have := u_a.isLt; have := u_c.isLt; have := u_o.isLt; have := u_z.isLt
  refine ⟨by omega, ?_⟩
  rw [major_15 w (by omega)]
  unfold rawAtomic
  rw [show w % 16 = 8 by omega]
  show some (Instr.amomaxn _ _ _ _ _ _) = _
  rw [bits_of (v := u_s) (by omega), bits_of (v := u_d) (by omega), bits_of (v := u_a) (by omega), bits_of (v := u_c) (by omega), bits_of (v := u_o) (by omega), bits_of (v := u_z) (by omega)]

theorem amocas (u_s : BitVec 3) (u_d u_a : BitVec 5) (u_c : BitVec 4) (u_o : BitVec 3) (u_z : BitVec 1) : Statement (.amocas u_s u_d u_a u_c u_o u_z) := by
  intro _ w h
  replace h : layWord 0x3C000029 [(u_s.toNat, 23), (u_d.toNat, 18), (u_a.toNat, 13), (u_c.toNat, 9), (u_o.toNat, 6), (u_z.toNat, 4)] = w := Option.some.inj h
  simp only [layWord] at h
  have := u_s.isLt; have := u_d.isLt; have := u_a.isLt; have := u_c.isLt; have := u_o.isLt; have := u_z.isLt
  refine ⟨by omega, ?_⟩
  rw [major_15 w (by omega)]
  unfold rawAtomic
  rw [show w % 16 = 9 by omega]
  show some (Instr.amocas _ _ _ _ _ _) = _
  rw [bits_of (v := u_s) (by omega), bits_of (v := u_d) (by omega), bits_of (v := u_a) (by omega), bits_of (v := u_c) (by omega), bits_of (v := u_o) (by omega), bits_of (v := u_z) (by omega)]

theorem beq (u_s : BitVec 3) (u_a u_b : BitVec 5) (u_i : BitVec 13) : Statement (.beq u_s u_a u_b u_i) := by
  intro _ w h
  replace h : layWord 0x40000000 [(u_s.toNat, 23), (u_a.toNat, 18), (u_b.toNat, 13), (u_i.toNat, 0)] = w := Option.some.inj h
  simp only [layWord] at h
  have := u_s.isLt; have := u_a.isLt; have := u_b.isLt; have := u_i.isLt
  refine ⟨by omega, ?_⟩
  unfold rawDecode
  rw [show w / 2 ^ 26 = 16 by omega]
  show some (Instr.beq _ _ _ _) = _
  rw [bits_of (v := u_s) (by omega), bits_of (v := u_a) (by omega), bits_of (v := u_b) (by omega), bits_of (v := u_i) (by omega)]

theorem bne (u_s : BitVec 3) (u_a u_b : BitVec 5) (u_i : BitVec 13) : Statement (.bne u_s u_a u_b u_i) := by
  intro _ w h
  replace h : layWord 0x44000000 [(u_s.toNat, 23), (u_a.toNat, 18), (u_b.toNat, 13), (u_i.toNat, 0)] = w := Option.some.inj h
  simp only [layWord] at h
  have := u_s.isLt; have := u_a.isLt; have := u_b.isLt; have := u_i.isLt
  refine ⟨by omega, ?_⟩
  unfold rawDecode
  rw [show w / 2 ^ 26 = 17 by omega]
  show some (Instr.bne _ _ _ _) = _
  rw [bits_of (v := u_s) (by omega), bits_of (v := u_a) (by omega), bits_of (v := u_b) (by omega), bits_of (v := u_i) (by omega)]

theorem blt (u_s : BitVec 3) (u_a u_b : BitVec 5) (u_i : BitVec 13) : Statement (.blt u_s u_a u_b u_i) := by
  intro _ w h
  replace h : layWord 0x48000000 [(u_s.toNat, 23), (u_a.toNat, 18), (u_b.toNat, 13), (u_i.toNat, 0)] = w := Option.some.inj h
  simp only [layWord] at h
  have := u_s.isLt; have := u_a.isLt; have := u_b.isLt; have := u_i.isLt
  refine ⟨by omega, ?_⟩
  unfold rawDecode
  rw [show w / 2 ^ 26 = 18 by omega]
  show some (Instr.blt _ _ _ _) = _
  rw [bits_of (v := u_s) (by omega), bits_of (v := u_a) (by omega), bits_of (v := u_b) (by omega), bits_of (v := u_i) (by omega)]

theorem bge (u_s : BitVec 3) (u_a u_b : BitVec 5) (u_i : BitVec 13) : Statement (.bge u_s u_a u_b u_i) := by
  intro _ w h
  replace h : layWord 0x4C000000 [(u_s.toNat, 23), (u_a.toNat, 18), (u_b.toNat, 13), (u_i.toNat, 0)] = w := Option.some.inj h
  simp only [layWord] at h
  have := u_s.isLt; have := u_a.isLt; have := u_b.isLt; have := u_i.isLt
  refine ⟨by omega, ?_⟩
  unfold rawDecode
  rw [show w / 2 ^ 26 = 19 by omega]
  show some (Instr.bge _ _ _ _) = _
  rw [bits_of (v := u_s) (by omega), bits_of (v := u_a) (by omega), bits_of (v := u_b) (by omega), bits_of (v := u_i) (by omega)]

theorem bltn (u_s : BitVec 3) (u_a u_b : BitVec 5) (u_i : BitVec 13) : Statement (.bltn u_s u_a u_b u_i) := by
  intro _ w h
  replace h : layWord 0x50000000 [(u_s.toNat, 23), (u_a.toNat, 18), (u_b.toNat, 13), (u_i.toNat, 0)] = w := Option.some.inj h
  simp only [layWord] at h
  have := u_s.isLt; have := u_a.isLt; have := u_b.isLt; have := u_i.isLt
  refine ⟨by omega, ?_⟩
  unfold rawDecode
  rw [show w / 2 ^ 26 = 20 by omega]
  show some (Instr.bltn _ _ _ _) = _
  rw [bits_of (v := u_s) (by omega), bits_of (v := u_a) (by omega), bits_of (v := u_b) (by omega), bits_of (v := u_i) (by omega)]

theorem bgen (u_s : BitVec 3) (u_a u_b : BitVec 5) (u_i : BitVec 13) : Statement (.bgen u_s u_a u_b u_i) := by
  intro _ w h
  replace h : layWord 0x54000000 [(u_s.toNat, 23), (u_a.toNat, 18), (u_b.toNat, 13), (u_i.toNat, 0)] = w := Option.some.inj h
  simp only [layWord] at h
  have := u_s.isLt; have := u_a.isLt; have := u_b.isLt; have := u_i.isLt
  refine ⟨by omega, ?_⟩
  unfold rawDecode
  rw [show w / 2 ^ 26 = 21 by omega]
  show some (Instr.bgen _ _ _ _) = _
  rw [bits_of (v := u_s) (by omega), bits_of (v := u_a) (by omega), bits_of (v := u_b) (by omega), bits_of (v := u_i) (by omega)]

theorem jump (u_s : BitVec 3) (u_i : BitVec 18) : Statement (.jump u_s u_i) := by
  intro _ w h
  replace h : layWord 0x58000000 [(u_s.toNat, 23), (u_i.toNat, 0)] = w := Option.some.inj h
  simp only [layWord] at h
  have := u_s.isLt; have := u_i.isLt
  refine ⟨by omega, ?_⟩
  unfold rawDecode
  rw [show w / 2 ^ 26 = 22 by omega]
  show some (Instr.jump _ _) = _
  rw [bits_of (v := u_s) (by omega), bits_of (v := u_i) (by omega)]

theorem jal (u_s : BitVec 3) (u_l : BitVec 5) (u_i : BitVec 18) : Statement (.jal u_s u_l u_i) := by
  intro _ w h
  replace h : layWord 0x5C000000 [(u_s.toNat, 23), (u_l.toNat, 18), (u_i.toNat, 0)] = w := Option.some.inj h
  simp only [layWord] at h
  have := u_s.isLt; have := u_l.isLt; have := u_i.isLt
  refine ⟨by omega, ?_⟩
  unfold rawDecode
  rw [show w / 2 ^ 26 = 23 by omega]
  show some (Instr.jal _ _ _) = _
  rw [bits_of (v := u_s) (by omega), bits_of (v := u_l) (by omega), bits_of (v := u_i) (by omega)]

theorem jalr (u_s : BitVec 3) (u_d u_a : BitVec 5) (u_i : BitVec 13) : Statement (.jalr u_s u_d u_a u_i) := by
  intro _ w h
  replace h : layWord 0x60000000 [(u_s.toNat, 23), (u_d.toNat, 18), (u_a.toNat, 13), (u_i.toNat, 0)] = w := Option.some.inj h
  simp only [layWord] at h
  have := u_s.isLt; have := u_d.isLt; have := u_a.isLt; have := u_i.isLt
  refine ⟨by omega, ?_⟩
  unfold rawDecode
  rw [show w / 2 ^ 26 = 24 by omega]
  show some (Instr.jalr _ _ _ _) = _
  rw [bits_of (v := u_s) (by omega), bits_of (v := u_d) (by omega), bits_of (v := u_a) (by omega), bits_of (v := u_i) (by omega)]

theorem orderedLoad (u_s : BitVec 3) (u_d u_a : BitVec 5) (u_c : BitVec 4) (u_o u_t : BitVec 3) : Statement (.orderedLoad u_s u_d u_a u_c u_o u_t) := by
  intro _ w h
  replace h : layWord 0x64000000 [(u_s.toNat, 23), (u_d.toNat, 18), (u_a.toNat, 13), (u_c.toNat, 9), (u_o.toNat, 4), (u_t.toNat, 0)] = w := Option.some.inj h
  simp only [layWord] at h
  have := u_s.isLt; have := u_d.isLt; have := u_a.isLt; have := u_c.isLt; have := u_o.isLt; have := u_t.isLt
  refine ⟨by omega, ?_⟩
  rw [major_25 w (by omega)]
  unfold rawSync
  rw [show w / 2 ^ 7 % 4 = 0 by omega]
  rw [show w / 2 ^ 3 % 2 = 0 by omega]
  show some (Instr.orderedLoad _ _ _ _ _ _) = _
  rw [bits_of (v := u_s) (by omega), bits_of (v := u_d) (by omega), bits_of (v := u_a) (by omega), bits_of (v := u_c) (by omega), bits_of (v := u_o) (by omega), bits_of (v := u_t) (by omega)]

theorem orderedStore (u_s : BitVec 3) (u_d u_a : BitVec 5) (u_c : BitVec 4) (u_o u_t : BitVec 3) : Statement (.orderedStore u_s u_d u_a u_c u_o u_t) := by
  intro _ w h
  replace h : layWord 0x64000008 [(u_s.toNat, 23), (u_d.toNat, 18), (u_a.toNat, 13), (u_c.toNat, 9), (u_o.toNat, 4), (u_t.toNat, 0)] = w := Option.some.inj h
  simp only [layWord] at h
  have := u_s.isLt; have := u_d.isLt; have := u_a.isLt; have := u_c.isLt; have := u_o.isLt; have := u_t.isLt
  refine ⟨by omega, ?_⟩
  rw [major_25 w (by omega)]
  unfold rawSync
  rw [show w / 2 ^ 7 % 4 = 0 by omega]
  rw [show w / 2 ^ 3 % 2 = 1 by omega]
  show some (Instr.orderedStore _ _ _ _ _ _) = _
  rw [bits_of (v := u_s) (by omega), bits_of (v := u_d) (by omega), bits_of (v := u_a) (by omega), bits_of (v := u_c) (by omega), bits_of (v := u_o) (by omega), bits_of (v := u_t) (by omega)]

theorem fence (u_s : BitVec 3) (u_c : BitVec 4) (u_o : BitVec 3) : Statement (.fence u_s u_c u_o) := by
  intro _ w h
  replace h : layWord 0x64000080 [(u_s.toNat, 23), (u_c.toNat, 9), (u_o.toNat, 4)] = w := Option.some.inj h
  simp only [layWord] at h
  have := u_s.isLt; have := u_c.isLt; have := u_o.isLt
  refine ⟨by omega, ?_⟩
  rw [major_25 w (by omega)]
  unfold rawSync
  rw [show w / 2 ^ 7 % 4 = 1 by omega]
  show some (Instr.fence _ _ _) = _
  rw [bits_of (v := u_s) (by omega), bits_of (v := u_c) (by omega), bits_of (v := u_o) (by omega)]

theorem barinit (u_s : BitVec 3) (u_d u_a : BitVec 5) : Statement (.barinit u_s u_d u_a) := by
  intro _ w h
  obtain ⟨h32, hmj, hlow, hu_s, hu_d, hu_a⟩ := shape_3 (mj := 25) (low := 256) u_s u_d u_a (by decide) (by decide) (Option.some.inj h)
  refine ⟨h32, ?_⟩
  rw [major_25 w hmj]
  unfold rawSync
  rw [show w / 2 ^ 7 % 4 = 2 by omega]
  rw [show w % 128 = 0 by omega]
  show some (Instr.barinit _ _ _) = _
  rw [hu_s, hu_d, hu_a]

theorem barbind (u_s : BitVec 3) (u_d u_a : BitVec 5) : Statement (.barbind u_s u_d u_a) := by
  intro _ w h
  obtain ⟨h32, hmj, hlow, hu_s, hu_d, hu_a⟩ := shape_3 (mj := 25) (low := 257) u_s u_d u_a (by decide) (by decide) (Option.some.inj h)
  refine ⟨h32, ?_⟩
  rw [major_25 w hmj]
  unfold rawSync
  rw [show w / 2 ^ 7 % 4 = 2 by omega]
  rw [show w % 128 = 1 by omega]
  show some (Instr.barbind _ _ _) = _
  rw [hu_s, hu_d, hu_a]

theorem bararr (u_s : BitVec 3) (u_d u_a : BitVec 5) (u_c : BitVec 4) : Statement (.bararr u_s u_d u_a u_c) := by
  intro _ w h
  obtain ⟨h32, hmj, hlow, hu_s, hu_d, hu_a, hu_c⟩ := shape_15 (mj := 25) (low := 258) u_s u_d u_a u_c (by decide) (by decide) (Option.some.inj h)
  refine ⟨h32, ?_⟩
  rw [major_25 w hmj]
  unfold rawSync
  rw [show w / 2 ^ 7 % 4 = 2 by omega]
  rw [show w % 128 = 2 by omega]
  show some (Instr.bararr _ _ _ _) = _
  rw [hu_s, hu_d, hu_a, hu_c]

theorem barwait (u_s : BitVec 3) (u_t u_a : BitVec 5) (u_c : BitVec 4) : Statement (.barwait u_s u_t u_a u_c) := by
  intro _ w h
  obtain ⟨h32, hmj, hlow, hu_s, hu_t, hu_a, hu_c⟩ := shape_15 (mj := 25) (low := 259) u_s u_t u_a u_c (by decide) (by decide) (Option.some.inj h)
  refine ⟨h32, ?_⟩
  rw [major_25 w hmj]
  unfold rawSync
  rw [show w / 2 ^ 7 % 4 = 2 by omega]
  rw [show w % 128 = 3 by omega]
  show some (Instr.barwait _ _ _ _) = _
  rw [hu_s, hu_t, hu_a, hu_c]

theorem barsync (u_s : BitVec 3) (u_a : BitVec 5) (u_c : BitVec 4) : Statement (.barsync u_s u_a u_c) := by
  intro _ w h
  replace h : layWord 0x64000104 [(u_s.toNat, 23), (u_a.toNat, 13), (u_c.toNat, 9)] = w := Option.some.inj h
  simp only [layWord] at h
  have := u_s.isLt; have := u_a.isLt; have := u_c.isLt
  refine ⟨by omega, ?_⟩
  rw [major_25 w (by omega)]
  unfold rawSync
  rw [show w / 2 ^ 7 % 4 = 2 by omega]
  rw [show w % 128 = 4 by omega]
  show some (Instr.barsync _ _ _) = _
  rw [bits_of (v := u_s) (by omega), bits_of (v := u_a) (by omega), bits_of (v := u_c) (by omega)]

theorem barrierPhaseRelease (u_barrier : Nat) : Statement (.barrierPhaseRelease u_barrier) := by
  intro _ w h; exact absurd (show (none : Option Nat) = some w from h) nofun

theorem joinSet (u_s : BitVec 3) (u_a : BitVec 5) : Statement (.joinSet u_s u_a) := by
  intro _ w h
  obtain ⟨h32, hmj, hlow, hu_s, hu_a⟩ := shape_7 (mj := 25) (low := 261) u_s u_a (by decide) (by decide) (Option.some.inj h)
  refine ⟨h32, ?_⟩
  rw [major_25 w hmj]
  unfold rawSync
  rw [show w / 2 ^ 7 % 4 = 2 by omega]
  rw [show w % 128 = 5 by omega]
  show some (Instr.joinSet _ _) = _
  rw [hu_s, hu_a]

theorem leaveSet (u_s : BitVec 3) (u_a : BitVec 5) : Statement (.leaveSet u_s u_a) := by
  intro _ w h
  obtain ⟨h32, hmj, hlow, hu_s, hu_a⟩ := shape_7 (mj := 25) (low := 262) u_s u_a (by decide) (by decide) (Option.some.inj h)
  refine ⟨h32, ?_⟩
  rw [major_25 w hmj]
  unfold rawSync
  rw [show w / 2 ^ 7 % 4 = 2 by omega]
  rw [show w % 128 = 6 by omega]
  show some (Instr.leaveSet _ _) = _
  rw [hu_s, hu_a]

theorem wmset (u_s : BitVec 3) (u_w u_a : BitVec 5) : Statement (.wmset u_s u_w u_a) := by
  intro _ w h
  obtain ⟨h32, hmj, hlow, hu_s, hu_w, hu_a⟩ := shape_3 (mj := 25) (low := 263) u_s u_w u_a (by decide) (by decide) (Option.some.inj h)
  refine ⟨h32, ?_⟩
  rw [major_25 w hmj]
  unfold rawSync
  rw [show w / 2 ^ 7 % 4 = 2 by omega]
  rw [show w % 128 = 7 by omega]
  show some (Instr.wmset _ _ _) = _
  rw [hu_s, hu_w, hu_a]

theorem wmadv (u_s : BitVec 3) (u_w u_a : BitVec 5) (u_c : BitVec 4) : Statement (.wmadv u_s u_w u_a u_c) := by
  intro _ w h
  obtain ⟨h32, hmj, hlow, hu_s, hu_w, hu_a, hu_c⟩ := shape_15 (mj := 25) (low := 264) u_s u_w u_a u_c (by decide) (by decide) (Option.some.inj h)
  refine ⟨h32, ?_⟩
  rw [major_25 w hmj]
  unfold rawSync
  rw [show w / 2 ^ 7 % 4 = 2 by omega]
  rw [show w % 128 = 8 by omega]
  show some (Instr.wmadv _ _ _ _) = _
  rw [hu_s, hu_w, hu_a, hu_c]

theorem wmrd (u_s : BitVec 3) (u_d u_w : BitVec 5) : Statement (.wmrd u_s u_d u_w) := by
  intro _ w h
  obtain ⟨h32, hmj, hlow, hu_s, hu_d, hu_w⟩ := shape_3 (mj := 25) (low := 265) u_s u_d u_w (by decide) (by decide) (Option.some.inj h)
  refine ⟨h32, ?_⟩
  rw [major_25 w hmj]
  unfold rawSync
  rw [show w / 2 ^ 7 % 4 = 2 by omega]
  rw [show w % 128 = 9 by omega]
  show some (Instr.wmrd _ _ _) = _
  rw [hu_s, hu_d, hu_w]

theorem watermarkWaitEnd (u_core u_slot : Nat) : Statement (.watermarkWaitEnd u_core u_slot) := by
  intro _ w h; exact absurd (show (none : Option Nat) = some w from h) nofun

theorem waitm (u_s : BitVec 3) (u_a : BitVec 5) : Statement (.waitm u_s u_a) := by
  intro _ w h
  obtain ⟨h32, hmj, hlow, hu_s, hu_a⟩ := shape_7 (mj := 25) (low := 266) u_s u_a (by decide) (by decide) (Option.some.inj h)
  refine ⟨h32, ?_⟩
  rw [major_25 w hmj]
  unfold rawSync
  rw [show w / 2 ^ 7 % 4 = 2 by omega]
  rw [show w % 128 = 10 by omega]
  show some (Instr.waitm _ _) = _
  rw [hu_s, hu_a]

theorem epush (u_s : BitVec 3) (u_c u_e : BitVec 5) : Statement (.epush u_s u_c u_e) := by
  intro _ w h
  obtain ⟨h32, hmj, hlow, hu_s, hu_c, hu_e⟩ := shape_3 (mj := 26) (low := 0) u_s u_c u_e (by decide) (by decide) (Option.some.inj h)
  refine ⟨h32, ?_⟩
  rw [major_26 w hmj]
  unfold rawEngine
  rw [show w % 512 = 0 by omega]
  show some (Instr.epush _ _ _) = _
  rw [hu_s, hu_c, hu_e]

theorem epushT (u_s : BitVec 3) (u_c u_e : BitVec 5) : Statement (.epushT u_s u_c u_e) := by
  intro _ w h
  obtain ⟨h32, hmj, hlow, hu_s, hu_c, hu_e⟩ := shape_3 (mj := 26) (low := 1) u_s u_c u_e (by decide) (by decide) (Option.some.inj h)
  refine ⟨h32, ?_⟩
  rw [major_26 w hmj]
  unfold rawEngine
  rw [show w % 512 = 1 by omega]
  show some (Instr.epushT _ _ _) = _
  rw [hu_s, hu_c, hu_e]

theorem epop (u_s : BitVec 3) (u_d u_e : BitVec 5) : Statement (.epop u_s u_d u_e) := by
  intro _ w h
  obtain ⟨h32, hmj, hlow, hu_s, hu_d, hu_e⟩ := shape_3 (mj := 26) (low := 2) u_s u_d u_e (by decide) (by decide) (Option.some.inj h)
  refine ⟨h32, ?_⟩
  rw [major_26 w hmj]
  unfold rawEngine
  rw [show w % 512 = 2 by omega]
  show some (Instr.epop _ _ _) = _
  rw [hu_s, hu_d, hu_e]

theorem epopT (u_s : BitVec 3) (u_d u_e : BitVec 5) : Statement (.epopT u_s u_d u_e) := by
  intro _ w h
  obtain ⟨h32, hmj, hlow, hu_s, hu_d, hu_e⟩ := shape_3 (mj := 26) (low := 3) u_s u_d u_e (by decide) (by decide) (Option.some.inj h)
  refine ⟨h32, ?_⟩
  rw [major_26 w hmj]
  unfold rawEngine
  rw [show w % 512 = 3 by omega]
  show some (Instr.epopT _ _ _) = _
  rw [hu_s, hu_d, hu_e]

theorem epushAt (u_s : BitVec 3) (u_c u_e : BitVec 5) : Statement (.epushAt u_s u_c u_e) := by
  intro _ w h
  obtain ⟨h32, hmj, hlow, hu_s, hu_c, hu_e⟩ := shape_3 (mj := 26) (low := 4) u_s u_c u_e (by decide) (by decide) (Option.some.inj h)
  refine ⟨h32, ?_⟩
  rw [major_26 w hmj]
  unfold rawEngine
  rw [show w % 512 = 4 by omega]
  show some (Instr.epushAt _ _ _) = _
  rw [hu_s, hu_c, hu_e]

theorem nest (u_s : BitVec 3) (u_x u_a : BitVec 5) : Statement (.nest u_s u_x u_a) := by
  intro _ w h
  obtain ⟨h32, hmj, hlow, hu_s, hu_x, hu_a⟩ := shape_3 (mj := 27) (low := 0) u_s u_x u_a (by decide) (by decide) (Option.some.inj h)
  refine ⟨h32, ?_⟩
  rw [major_27 w hmj]
  unfold rawNest
  rw [show w % 512 = 0 by omega]
  show some (Instr.nest _ _ _) = _
  rw [hu_s, hu_x, hu_a]

theorem nestAt (u_s : BitVec 3) (u_x u_a : BitVec 5) : Statement (.nestAt u_s u_x u_a) := by
  intro _ w h
  obtain ⟨h32, hmj, hlow, hu_s, hu_x, hu_a⟩ := shape_3 (mj := 27) (low := 1) u_s u_x u_a (by decide) (by decide) (Option.some.inj h)
  refine ⟨h32, ?_⟩
  rw [major_27 w hmj]
  unfold rawNest
  rw [show w % 512 = 1 by omega]
  show some (Instr.nestAt _ _ _) = _
  rw [hu_s, hu_x, hu_a]

theorem doneH (u_s : BitVec 3) : Statement (.doneH u_s) := by
  intro _ w h
  obtain ⟨h32, hmj, hlow, hu_s⟩ := shape_10 (mj := 27) (low := 2) u_s (by decide) (by decide) (Option.some.inj h)
  refine ⟨h32, ?_⟩
  rw [major_27 w hmj]
  unfold rawNest
  rw [show w % 512 = 2 by omega]
  show some (Instr.doneH _) = _
  rw [hu_s]

theorem yieldH (u_s : BitVec 3) : Statement (.yieldH u_s) := by
  intro _ w h
  obtain ⟨h32, hmj, hlow, hu_s⟩ := shape_10 (mj := 27) (low := 3) u_s (by decide) (by decide) (Option.some.inj h)
  refine ⟨h32, ?_⟩
  rw [major_27 w hmj]
  unfold rawNest
  rw [show w % 512 = 3 by omega]
  show some (Instr.yieldH _) = _
  rw [hu_s]

theorem setvl (u_s : BitVec 3) (u_d u_a u_v : BitVec 5) : Statement (.setvl u_s u_d u_a u_v) := by
  intro _ w h
  replace h : layWord 0x80000000 [(u_s.toNat, 23), (u_d.toNat, 18), (u_a.toNat, 13), (u_v.toNat, 0)] = w := Option.some.inj h
  simp only [layWord] at h
  have := u_s.isLt; have := u_d.isLt; have := u_a.isLt; have := u_v.isLt
  refine ⟨by omega, ?_⟩
  rw [major_32 w (by omega)]
  unfold rawSetvl
  rw [show w / 2 ^ 11 % 4 = 0 by omega]
  show some (Instr.setvl _ _ _ _) = _
  rw [bits_of (v := u_s) (by omega), bits_of (v := u_d) (by omega), bits_of (v := u_a) (by omega), bits_of (v := u_v) (by omega)]

theorem setvlm (u_s : BitVec 3) (u_d u_a u_v : BitVec 5) : Statement (.setvlm u_s u_d u_a u_v) := by
  intro _ w h
  replace h : layWord 0x80000800 [(u_s.toNat, 23), (u_d.toNat, 18), (u_a.toNat, 13), (u_v.toNat, 0)] = w := Option.some.inj h
  simp only [layWord] at h
  have := u_s.isLt; have := u_d.isLt; have := u_a.isLt; have := u_v.isLt
  refine ⟨by omega, ?_⟩
  rw [major_32 w (by omega)]
  unfold rawSetvl
  rw [show w / 2 ^ 11 % 4 = 1 by omega]
  show some (Instr.setvlm _ _ _ _) = _
  rw [bits_of (v := u_s) (by omega), bits_of (v := u_d) (by omega), bits_of (v := u_a) (by omega), bits_of (v := u_v) (by omega)]

theorem vld (u_s : BitVec 3) (u_d u_a : BitVec 5) (u_k : BitVec 3) (u_h : BitVec 2) : Statement (.vld u_s u_d u_a u_k u_h) := by
  intro _ w h
  obtain ⟨h32, hmj, hlow, hu_s, hu_d, hu_a, hu_k, hu_h⟩ := shape_11 (mj := 33) (low := 0) u_s u_d u_a u_k u_h (by decide) (by decide) (Option.some.inj h)
  refine ⟨h32, ?_⟩
  rw [major_33 w hmj]
  unfold rawVLoad
  rw [show w % 8 = 0 by omega]
  show some (Instr.vld _ _ _ _ _) = _
  rw [hu_s, hu_d, hu_a, hu_k, hu_h]

theorem vlds (u_s : BitVec 3) (u_d u_a u_b : BitVec 5) (u_k : BitVec 3) (u_h : BitVec 2) : Statement (.vlds u_s u_d u_a u_b u_k u_h) := by
  intro _ w h
  obtain ⟨h32, hmj, hlow, hu_s, hu_d, hu_a, hu_b, hu_k, hu_h⟩ := shape_8 (mj := 33) (low := 1) u_s u_d u_a u_b u_k u_h (by decide) (by decide) (Option.some.inj h)
  refine ⟨h32, ?_⟩
  rw [major_33 w hmj]
  unfold rawVLoad
  rw [show w % 8 = 1 by omega]
  show some (Instr.vlds _ _ _ _ _ _) = _
  rw [hu_s, hu_d, hu_a, hu_b, hu_k, hu_h]

theorem vldl (u_s : BitVec 3) (u_d u_a : BitVec 5) (u_k : BitVec 3) (u_h : BitVec 2) : Statement (.vldl u_s u_d u_a u_k u_h) := by
  intro _ w h
  obtain ⟨h32, hmj, hlow, hu_s, hu_d, hu_a, hu_k, hu_h⟩ := shape_11 (mj := 33) (low := 2) u_s u_d u_a u_k u_h (by decide) (by decide) (Option.some.inj h)
  refine ⟨h32, ?_⟩
  rw [major_33 w hmj]
  unfold rawVLoad
  rw [show w % 8 = 2 by omega]
  show some (Instr.vldl _ _ _ _ _) = _
  rw [hu_s, hu_d, hu_a, hu_k, hu_h]

theorem vldp (u_s : BitVec 3) (u_d : BitVec 5) (u_p : BitVec 4) (u_b : BitVec 5) (u_k : BitVec 3) : Statement (.vldp u_s u_d u_p u_b u_k) := by
  intro _ w h
  replace h : layWord 0x84000003 [(u_s.toNat, 23), (u_d.toNat, 18), (u_p.toNat, 13), (u_b.toNat, 8), (u_k.toNat, 5)] = w := Option.some.inj h
  simp only [layWord] at h
  have := u_s.isLt; have := u_d.isLt; have := u_p.isLt; have := u_b.isLt; have := u_k.isLt
  refine ⟨by omega, ?_⟩
  rw [major_33 w (by omega)]
  unfold rawVLoad
  rw [show w % 8 = 3 by omega]
  show some (Instr.vldp _ _ _ _ _) = _
  rw [bits_of (v := u_s) (by omega), bits_of (v := u_d) (by omega), bits_of (v := u_p) (by omega), bits_of (v := u_b) (by omega), bits_of (v := u_k) (by omega)]

theorem vlm (u_s : BitVec 3) (u_d u_a u_n : BitVec 5) (u_h : BitVec 2) : Statement (.vlm u_s u_d u_a u_n u_h) := by
  intro _ w h
  obtain ⟨h32, hmj, hlow, hu_s, hu_d, hu_a, hu_n, hu_h⟩ := shape_22 (mj := 33) (low := 4) u_s u_d u_a u_n u_h (by decide) (by decide) (Option.some.inj h)
  refine ⟨h32, ?_⟩
  rw [major_33 w hmj]
  unfold rawVLoad
  rw [show w % 8 = 4 by omega]
  show some (Instr.vlm _ _ _ _ _) = _
  rw [hu_s, hu_d, hu_a, hu_n, hu_h]

theorem vlmn (u_s : BitVec 3) (u_a u_b : BitVec 5) (u_h : BitVec 2) : Statement (.vlmn u_s u_a u_b u_h) := by
  intro _ w h
  obtain ⟨h32, hmj, hlow, hu_s, hu_a, hu_b, hu_h⟩ := shape_23 (mj := 33) (low := 5) u_s u_a u_b u_h (by decide) (by decide) (Option.some.inj h)
  refine ⟨h32, ?_⟩
  rw [major_33 w hmj]
  unfold rawVLoad
  rw [show w % 8 = 5 by omega]
  show some (Instr.vlmn _ _ _ _) = _
  rw [hu_s, hu_a, hu_b, hu_h]

theorem vst (u_s : BitVec 3) (u_d u_a : BitVec 5) (u_k : BitVec 3) (u_h : BitVec 2) : Statement (.vst u_s u_d u_a u_k u_h) := by
  intro _ w h
  obtain ⟨h32, hmj, hlow, hu_s, hu_d, hu_a, hu_k, hu_h⟩ := shape_11 (mj := 34) (low := 0) u_s u_d u_a u_k u_h (by decide) (by decide) (Option.some.inj h)
  refine ⟨h32, ?_⟩
  rw [major_34 w hmj]
  unfold rawVStore
  rw [show w % 8 = 0 by omega]
  show some (Instr.vst _ _ _ _ _) = _
  rw [hu_s, hu_d, hu_a, hu_k, hu_h]

theorem vsts (u_s : BitVec 3) (u_d u_a u_b : BitVec 5) (u_k : BitVec 3) (u_h : BitVec 2) : Statement (.vsts u_s u_d u_a u_b u_k u_h) := by
  intro _ w h
  obtain ⟨h32, hmj, hlow, hu_s, hu_d, hu_a, hu_b, hu_k, hu_h⟩ := shape_8 (mj := 34) (low := 1) u_s u_d u_a u_b u_k u_h (by decide) (by decide) (Option.some.inj h)
  refine ⟨h32, ?_⟩
  rw [major_34 w hmj]
  unfold rawVStore
  rw [show w % 8 = 1 by omega]
  show some (Instr.vsts _ _ _ _ _ _) = _
  rw [hu_s, hu_d, hu_a, hu_b, hu_k, hu_h]

theorem vstl (u_s : BitVec 3) (u_d u_a : BitVec 5) (u_k : BitVec 3) (u_h : BitVec 2) : Statement (.vstl u_s u_d u_a u_k u_h) := by
  intro _ w h
  obtain ⟨h32, hmj, hlow, hu_s, hu_d, hu_a, hu_k, hu_h⟩ := shape_11 (mj := 34) (low := 2) u_s u_d u_a u_k u_h (by decide) (by decide) (Option.some.inj h)
  refine ⟨h32, ?_⟩
  rw [major_34 w hmj]
  unfold rawVStore
  rw [show w % 8 = 2 by omega]
  show some (Instr.vstl _ _ _ _ _) = _
  rw [hu_s, hu_d, hu_a, hu_k, hu_h]

theorem vsm (u_s : BitVec 3) (u_d u_a u_n : BitVec 5) (u_h : BitVec 2) : Statement (.vsm u_s u_d u_a u_n u_h) := by
  intro _ w h
  obtain ⟨h32, hmj, hlow, hu_s, hu_d, hu_a, hu_n, hu_h⟩ := shape_22 (mj := 34) (low := 4) u_s u_d u_a u_n u_h (by decide) (by decide) (Option.some.inj h)
  refine ⟨h32, ?_⟩
  rw [major_34 w hmj]
  unfold rawVStore
  rw [show w % 8 = 4 by omega]
  show some (Instr.vsm _ _ _ _ _) = _
  rw [hu_s, hu_d, hu_a, hu_n, hu_h]

theorem vsmn (u_s : BitVec 3) (u_a u_b : BitVec 5) (u_h : BitVec 2) : Statement (.vsmn u_s u_a u_b u_h) := by
  intro _ w h
  obtain ⟨h32, hmj, hlow, hu_s, hu_a, hu_b, hu_h⟩ := shape_23 (mj := 34) (low := 5) u_s u_a u_b u_h (by decide) (by decide) (Option.some.inj h)
  refine ⟨h32, ?_⟩
  rw [major_34 w hmj]
  unfold rawVStore
  rw [show w % 8 = 5 by omega]
  show some (Instr.vsmn _ _ _ _) = _
  rw [hu_s, hu_a, hu_b, hu_h]

theorem vldx (u_s : BitVec 3) (u_d u_a u_b : BitVec 5) (u_k : BitVec 3) (u_h : BitVec 2) : Statement (.vldx u_s u_d u_a u_b u_k u_h) := by
  intro _ w h
  obtain ⟨h32, hmj, hlow, hu_s, hu_d, hu_a, hu_b, hu_k, hu_h⟩ := shape_8 (mj := 35) (low := 0) u_s u_d u_a u_b u_k u_h (by decide) (by decide) (Option.some.inj h)
  refine ⟨h32, ?_⟩
  rw [major_35 w hmj]
  unfold rawVGather
  rw [show w % 8 = 0 by omega]
  show some (Instr.vldx _ _ _ _ _ _) = _
  rw [hu_s, hu_d, hu_a, hu_b, hu_k, hu_h]

theorem vstx (u_s : BitVec 3) (u_d u_a u_b : BitVec 5) (u_k : BitVec 3) (u_h : BitVec 2) : Statement (.vstx u_s u_d u_a u_b u_k u_h) := by
  intro _ w h
  obtain ⟨h32, hmj, hlow, hu_s, hu_d, hu_a, hu_b, hu_k, hu_h⟩ := shape_8 (mj := 35) (low := 1) u_s u_d u_a u_b u_k u_h (by decide) (by decide) (Option.some.inj h)
  refine ⟨h32, ?_⟩
  rw [major_35 w hmj]
  unfold rawVGather
  rw [show w % 8 = 1 by omega]
  show some (Instr.vstx _ _ _ _ _ _) = _
  rw [hu_s, hu_d, hu_a, hu_b, hu_k, hu_h]

theorem vbind (u_s : BitVec 3) (u_d u_a : BitVec 5) : Statement (.vbind u_s u_d u_a) := by
  intro _ w h
  obtain ⟨h32, hmj, hlow, hu_s, hu_d, hu_a⟩ := shape_3 (mj := 36) (low := 0) u_s u_d u_a (by decide) (by decide) (Option.some.inj h)
  refine ⟨h32, ?_⟩
  rw [major_36 w hmj]
  unfold rawStream
  rw [show w % 8 = 0 by omega]
  show some (Instr.vbind _ _ _) = _
  rw [hu_s, hu_d, hu_a]

theorem vunbind (u_s : BitVec 3) (u_d u_a : BitVec 5) : Statement (.vunbind u_s u_d u_a) := by
  intro _ w h
  obtain ⟨h32, hmj, hlow, hu_s, hu_d, hu_a⟩ := shape_3 (mj := 36) (low := 1) u_s u_d u_a (by decide) (by decide) (Option.some.inj h)
  refine ⟨h32, ?_⟩
  rw [major_36 w hmj]
  unfold rawStream
  rw [show w % 8 = 1 by omega]
  show some (Instr.vunbind _ _ _) = _
  rw [hu_s, hu_d, hu_a]

theorem readAhead (u_core u_slot : Nat) (u_v : BitVec 5) : Statement (.readAhead u_core u_slot u_v) := by
  intro _ w h; exact absurd (show (none : Option Nat) = some w from h) nofun

theorem vpref (u_s : BitVec 3) (u_a : BitVec 5) (u_k : BitVec 3) (u_t : BitVec 2) : Statement (.vpref u_s u_a u_k u_t) := by
  intro _ w h
  replace h : layWord 0x90000002 [(u_s.toNat, 23), (u_a.toNat, 13), (u_k.toNat, 5), (u_t.toNat, 3)] = w := Option.some.inj h
  simp only [layWord] at h
  have := u_s.isLt; have := u_a.isLt; have := u_k.isLt; have := u_t.isLt
  refine ⟨by omega, ?_⟩
  rw [major_36 w (by omega)]
  unfold rawStream
  rw [show w % 8 = 2 by omega]
  show some (Instr.vpref _ _ _ _) = _
  rw [bits_of (v := u_s) (by omega), bits_of (v := u_a) (by omega), bits_of (v := u_k) (by omega), bits_of (v := u_t) (by omega)]

theorem vprefs (u_s : BitVec 3) (u_a u_b : BitVec 5) (u_k : BitVec 3) (u_t : BitVec 2) : Statement (.vprefs u_s u_a u_b u_k u_t) := by
  intro _ w h
  replace h : layWord 0x90000003 [(u_s.toNat, 23), (u_a.toNat, 13), (u_b.toNat, 8), (u_k.toNat, 5), (u_t.toNat, 3)] = w := Option.some.inj h
  simp only [layWord] at h
  have := u_s.isLt; have := u_a.isLt; have := u_b.isLt; have := u_k.isLt; have := u_t.isLt
  refine ⟨by omega, ?_⟩
  rw [major_36 w (by omega)]
  unfold rawStream
  rw [show w % 8 = 3 by omega]
  show some (Instr.vprefs _ _ _ _ _) = _
  rw [bits_of (v := u_s) (by omega), bits_of (v := u_a) (by omega), bits_of (v := u_b) (by omega), bits_of (v := u_k) (by omega), bits_of (v := u_t) (by omega)]

theorem vadd (u_s : BitVec 3) (u_d u_a u_b : BitVec 5) (u_k : BitVec 3) : Statement (.vadd u_s u_d u_a u_b u_k) := by
  intro _ w h
  obtain ⟨h32, hmj, hlow, hu_s, hu_d, hu_a, hu_b, hu_k⟩ := shape_1 (mj := 37) (low := 0) u_s u_d u_a u_b u_k (by decide) (by decide) (Option.some.inj h)
  refine ⟨h32, ?_⟩
  rw [major_37 w hmj]
  unfold rawVInt
  rw [show w % 32 = 0 by omega]
  show some (Instr.vadd _ _ _ _ _) = _
  rw [hu_s, hu_d, hu_a, hu_b, hu_k]

theorem vsub (u_s : BitVec 3) (u_d u_a u_b : BitVec 5) (u_k : BitVec 3) : Statement (.vsub u_s u_d u_a u_b u_k) := by
  intro _ w h
  obtain ⟨h32, hmj, hlow, hu_s, hu_d, hu_a, hu_b, hu_k⟩ := shape_1 (mj := 37) (low := 1) u_s u_d u_a u_b u_k (by decide) (by decide) (Option.some.inj h)
  refine ⟨h32, ?_⟩
  rw [major_37 w hmj]
  unfold rawVInt
  rw [show w % 32 = 1 by omega]
  show some (Instr.vsub _ _ _ _ _) = _
  rw [hu_s, hu_d, hu_a, hu_b, hu_k]

theorem vaddSI (u_s : BitVec 3) (u_d u_a u_b : BitVec 5) (u_k : BitVec 3) : Statement (.vaddSI u_s u_d u_a u_b u_k) := by
  intro _ w h
  obtain ⟨h32, hmj, hlow, hu_s, hu_d, hu_a, hu_b, hu_k⟩ := shape_1 (mj := 37) (low := 2) u_s u_d u_a u_b u_k (by decide) (by decide) (Option.some.inj h)
  refine ⟨h32, ?_⟩
  rw [major_37 w hmj]
  unfold rawVInt
  rw [show w % 32 = 2 by omega]
  show some (Instr.vaddSI _ _ _ _ _) = _
  rw [hu_s, hu_d, hu_a, hu_b, hu_k]

theorem vaddSN (u_s : BitVec 3) (u_d u_a u_b : BitVec 5) (u_k : BitVec 3) : Statement (.vaddSN u_s u_d u_a u_b u_k) := by
  intro _ w h
  obtain ⟨h32, hmj, hlow, hu_s, hu_d, hu_a, hu_b, hu_k⟩ := shape_1 (mj := 37) (low := 3) u_s u_d u_a u_b u_k (by decide) (by decide) (Option.some.inj h)
  refine ⟨h32, ?_⟩
  rw [major_37 w hmj]
  unfold rawVInt
  rw [show w % 32 = 3 by omega]
  show some (Instr.vaddSN _ _ _ _ _) = _
  rw [hu_s, hu_d, hu_a, hu_b, hu_k]

theorem vsubSI (u_s : BitVec 3) (u_d u_a u_b : BitVec 5) (u_k : BitVec 3) : Statement (.vsubSI u_s u_d u_a u_b u_k) := by
  intro _ w h
  obtain ⟨h32, hmj, hlow, hu_s, hu_d, hu_a, hu_b, hu_k⟩ := shape_1 (mj := 37) (low := 4) u_s u_d u_a u_b u_k (by decide) (by decide) (Option.some.inj h)
  refine ⟨h32, ?_⟩
  rw [major_37 w hmj]
  unfold rawVInt
  rw [show w % 32 = 4 by omega]
  show some (Instr.vsubSI _ _ _ _ _) = _
  rw [hu_s, hu_d, hu_a, hu_b, hu_k]

theorem vsubSN (u_s : BitVec 3) (u_d u_a u_b : BitVec 5) (u_k : BitVec 3) : Statement (.vsubSN u_s u_d u_a u_b u_k) := by
  intro _ w h
  obtain ⟨h32, hmj, hlow, hu_s, hu_d, hu_a, hu_b, hu_k⟩ := shape_1 (mj := 37) (low := 5) u_s u_d u_a u_b u_k (by decide) (by decide) (Option.some.inj h)
  refine ⟨h32, ?_⟩
  rw [major_37 w hmj]
  unfold rawVInt
  rw [show w % 32 = 5 by omega]
  show some (Instr.vsubSN _ _ _ _ _) = _
  rw [hu_s, hu_d, hu_a, hu_b, hu_k]

theorem vmul (u_s : BitVec 3) (u_d u_a u_b : BitVec 5) (u_k : BitVec 3) : Statement (.vmul u_s u_d u_a u_b u_k) := by
  intro _ w h
  obtain ⟨h32, hmj, hlow, hu_s, hu_d, hu_a, hu_b, hu_k⟩ := shape_1 (mj := 37) (low := 6) u_s u_d u_a u_b u_k (by decide) (by decide) (Option.some.inj h)
  refine ⟨h32, ?_⟩
  rw [major_37 w hmj]
  unfold rawVInt
  rw [show w % 32 = 6 by omega]
  show some (Instr.vmul _ _ _ _ _) = _
  rw [hu_s, hu_d, hu_a, hu_b, hu_k]

theorem vmulh (u_s : BitVec 3) (u_d u_a u_b : BitVec 5) (u_k : BitVec 3) : Statement (.vmulh u_s u_d u_a u_b u_k) := by
  intro _ w h
  obtain ⟨h32, hmj, hlow, hu_s, hu_d, hu_a, hu_b, hu_k⟩ := shape_1 (mj := 37) (low := 7) u_s u_d u_a u_b u_k (by decide) (by decide) (Option.some.inj h)
  refine ⟨h32, ?_⟩
  rw [major_37 w hmj]
  unfold rawVInt
  rw [show w % 32 = 7 by omega]
  show some (Instr.vmulh _ _ _ _ _) = _
  rw [hu_s, hu_d, hu_a, hu_b, hu_k]

theorem vmulhn (u_s : BitVec 3) (u_d u_a u_b : BitVec 5) (u_k : BitVec 3) : Statement (.vmulhn u_s u_d u_a u_b u_k) := by
  intro _ w h
  obtain ⟨h32, hmj, hlow, hu_s, hu_d, hu_a, hu_b, hu_k⟩ := shape_1 (mj := 37) (low := 8) u_s u_d u_a u_b u_k (by decide) (by decide) (Option.some.inj h)
  refine ⟨h32, ?_⟩
  rw [major_37 w hmj]
  unfold rawVInt
  rw [show w % 32 = 8 by omega]
  show some (Instr.vmulhn _ _ _ _ _) = _
  rw [hu_s, hu_d, hu_a, hu_b, hu_k]

theorem vand (u_s : BitVec 3) (u_d u_a u_b : BitVec 5) (u_k : BitVec 3) : Statement (.vand u_s u_d u_a u_b u_k) := by
  intro _ w h
  obtain ⟨h32, hmj, hlow, hu_s, hu_d, hu_a, hu_b, hu_k⟩ := shape_1 (mj := 37) (low := 9) u_s u_d u_a u_b u_k (by decide) (by decide) (Option.some.inj h)
  refine ⟨h32, ?_⟩
  rw [major_37 w hmj]
  unfold rawVInt
  rw [show w % 32 = 9 by omega]
  show some (Instr.vand _ _ _ _ _) = _
  rw [hu_s, hu_d, hu_a, hu_b, hu_k]

theorem vor (u_s : BitVec 3) (u_d u_a u_b : BitVec 5) (u_k : BitVec 3) : Statement (.vor u_s u_d u_a u_b u_k) := by
  intro _ w h
  obtain ⟨h32, hmj, hlow, hu_s, hu_d, hu_a, hu_b, hu_k⟩ := shape_1 (mj := 37) (low := 10) u_s u_d u_a u_b u_k (by decide) (by decide) (Option.some.inj h)
  refine ⟨h32, ?_⟩
  rw [major_37 w hmj]
  unfold rawVInt
  rw [show w % 32 = 10 by omega]
  show some (Instr.vor _ _ _ _ _) = _
  rw [hu_s, hu_d, hu_a, hu_b, hu_k]

theorem vxor (u_s : BitVec 3) (u_d u_a u_b : BitVec 5) (u_k : BitVec 3) : Statement (.vxor u_s u_d u_a u_b u_k) := by
  intro _ w h
  obtain ⟨h32, hmj, hlow, hu_s, hu_d, hu_a, hu_b, hu_k⟩ := shape_1 (mj := 37) (low := 11) u_s u_d u_a u_b u_k (by decide) (by decide) (Option.some.inj h)
  refine ⟨h32, ?_⟩
  rw [major_37 w hmj]
  unfold rawVInt
  rw [show w % 32 = 11 by omega]
  show some (Instr.vxor _ _ _ _ _) = _
  rw [hu_s, hu_d, hu_a, hu_b, hu_k]

theorem vsll (u_s : BitVec 3) (u_d u_a u_b : BitVec 5) (u_k : BitVec 3) : Statement (.vsll u_s u_d u_a u_b u_k) := by
  intro _ w h
  obtain ⟨h32, hmj, hlow, hu_s, hu_d, hu_a, hu_b, hu_k⟩ := shape_1 (mj := 37) (low := 12) u_s u_d u_a u_b u_k (by decide) (by decide) (Option.some.inj h)
  refine ⟨h32, ?_⟩
  rw [major_37 w hmj]
  unfold rawVInt
  rw [show w % 32 = 12 by omega]
  show some (Instr.vsll _ _ _ _ _) = _
  rw [hu_s, hu_d, hu_a, hu_b, hu_k]

theorem vsrl (u_s : BitVec 3) (u_d u_a u_b : BitVec 5) (u_k : BitVec 3) : Statement (.vsrl u_s u_d u_a u_b u_k) := by
  intro _ w h
  obtain ⟨h32, hmj, hlow, hu_s, hu_d, hu_a, hu_b, hu_k⟩ := shape_1 (mj := 37) (low := 13) u_s u_d u_a u_b u_k (by decide) (by decide) (Option.some.inj h)
  refine ⟨h32, ?_⟩
  rw [major_37 w hmj]
  unfold rawVInt
  rw [show w % 32 = 13 by omega]
  show some (Instr.vsrl _ _ _ _ _) = _
  rw [hu_s, hu_d, hu_a, hu_b, hu_k]

theorem vsra (u_s : BitVec 3) (u_d u_a u_b : BitVec 5) (u_k : BitVec 3) : Statement (.vsra u_s u_d u_a u_b u_k) := by
  intro _ w h
  obtain ⟨h32, hmj, hlow, hu_s, hu_d, hu_a, hu_b, hu_k⟩ := shape_1 (mj := 37) (low := 14) u_s u_d u_a u_b u_k (by decide) (by decide) (Option.some.inj h)
  refine ⟨h32, ?_⟩
  rw [major_37 w hmj]
  unfold rawVInt
  rw [show w % 32 = 14 by omega]
  show some (Instr.vsra _ _ _ _ _) = _
  rw [hu_s, hu_d, hu_a, hu_b, hu_k]

theorem vmin (u_s : BitVec 3) (u_d u_a u_b : BitVec 5) (u_k : BitVec 3) : Statement (.vmin u_s u_d u_a u_b u_k) := by
  intro _ w h
  obtain ⟨h32, hmj, hlow, hu_s, hu_d, hu_a, hu_b, hu_k⟩ := shape_1 (mj := 37) (low := 15) u_s u_d u_a u_b u_k (by decide) (by decide) (Option.some.inj h)
  refine ⟨h32, ?_⟩
  rw [major_37 w hmj]
  unfold rawVInt
  rw [show w % 32 = 15 by omega]
  show some (Instr.vmin _ _ _ _ _) = _
  rw [hu_s, hu_d, hu_a, hu_b, hu_k]

theorem vmax (u_s : BitVec 3) (u_d u_a u_b : BitVec 5) (u_k : BitVec 3) : Statement (.vmax u_s u_d u_a u_b u_k) := by
  intro _ w h
  obtain ⟨h32, hmj, hlow, hu_s, hu_d, hu_a, hu_b, hu_k⟩ := shape_1 (mj := 37) (low := 16) u_s u_d u_a u_b u_k (by decide) (by decide) (Option.some.inj h)
  refine ⟨h32, ?_⟩
  rw [major_37 w hmj]
  unfold rawVInt
  rw [show w % 32 = 16 by omega]
  show some (Instr.vmax _ _ _ _ _) = _
  rw [hu_s, hu_d, hu_a, hu_b, hu_k]

theorem vminn (u_s : BitVec 3) (u_d u_a u_b : BitVec 5) (u_k : BitVec 3) : Statement (.vminn u_s u_d u_a u_b u_k) := by
  intro _ w h
  obtain ⟨h32, hmj, hlow, hu_s, hu_d, hu_a, hu_b, hu_k⟩ := shape_1 (mj := 37) (low := 17) u_s u_d u_a u_b u_k (by decide) (by decide) (Option.some.inj h)
  refine ⟨h32, ?_⟩
  rw [major_37 w hmj]
  unfold rawVInt
  rw [show w % 32 = 17 by omega]
  show some (Instr.vminn _ _ _ _ _) = _
  rw [hu_s, hu_d, hu_a, hu_b, hu_k]

theorem vmaxn (u_s : BitVec 3) (u_d u_a u_b : BitVec 5) (u_k : BitVec 3) : Statement (.vmaxn u_s u_d u_a u_b u_k) := by
  intro _ w h
  obtain ⟨h32, hmj, hlow, hu_s, hu_d, hu_a, hu_b, hu_k⟩ := shape_1 (mj := 37) (low := 18) u_s u_d u_a u_b u_k (by decide) (by decide) (Option.some.inj h)
  refine ⟨h32, ?_⟩
  rw [major_37 w hmj]
  unfold rawVInt
  rw [show w % 32 = 18 by omega]
  show some (Instr.vmaxn _ _ _ _ _) = _
  rw [hu_s, hu_d, hu_a, hu_b, hu_k]

theorem vdiv (u_s : BitVec 3) (u_d u_a u_b : BitVec 5) (u_k : BitVec 3) : Statement (.vdiv u_s u_d u_a u_b u_k) := by
  intro _ w h
  obtain ⟨h32, hmj, hlow, hu_s, hu_d, hu_a, hu_b, hu_k⟩ := shape_1 (mj := 37) (low := 19) u_s u_d u_a u_b u_k (by decide) (by decide) (Option.some.inj h)
  refine ⟨h32, ?_⟩
  rw [major_37 w hmj]
  unfold rawVInt
  rw [show w % 32 = 19 by omega]
  show some (Instr.vdiv _ _ _ _ _) = _
  rw [hu_s, hu_d, hu_a, hu_b, hu_k]

theorem vdivn (u_s : BitVec 3) (u_d u_a u_b : BitVec 5) (u_k : BitVec 3) : Statement (.vdivn u_s u_d u_a u_b u_k) := by
  intro _ w h
  obtain ⟨h32, hmj, hlow, hu_s, hu_d, hu_a, hu_b, hu_k⟩ := shape_1 (mj := 37) (low := 20) u_s u_d u_a u_b u_k (by decide) (by decide) (Option.some.inj h)
  refine ⟨h32, ?_⟩
  rw [major_37 w hmj]
  unfold rawVInt
  rw [show w % 32 = 20 by omega]
  show some (Instr.vdivn _ _ _ _ _) = _
  rw [hu_s, hu_d, hu_a, hu_b, hu_k]

theorem vrem (u_s : BitVec 3) (u_d u_a u_b : BitVec 5) (u_k : BitVec 3) : Statement (.vrem u_s u_d u_a u_b u_k) := by
  intro _ w h
  obtain ⟨h32, hmj, hlow, hu_s, hu_d, hu_a, hu_b, hu_k⟩ := shape_1 (mj := 37) (low := 21) u_s u_d u_a u_b u_k (by decide) (by decide) (Option.some.inj h)
  refine ⟨h32, ?_⟩
  rw [major_37 w hmj]
  unfold rawVInt
  rw [show w % 32 = 21 by omega]
  show some (Instr.vrem _ _ _ _ _) = _
  rw [hu_s, hu_d, hu_a, hu_b, hu_k]

theorem vremn (u_s : BitVec 3) (u_d u_a u_b : BitVec 5) (u_k : BitVec 3) : Statement (.vremn u_s u_d u_a u_b u_k) := by
  intro _ w h
  obtain ⟨h32, hmj, hlow, hu_s, hu_d, hu_a, hu_b, hu_k⟩ := shape_1 (mj := 37) (low := 22) u_s u_d u_a u_b u_k (by decide) (by decide) (Option.some.inj h)
  refine ⟨h32, ?_⟩
  rw [major_37 w hmj]
  unfold rawVInt
  rw [show w % 32 = 22 by omega]
  show some (Instr.vremn _ _ _ _ _) = _
  rw [hu_s, hu_d, hu_a, hu_b, hu_k]

theorem vaddi (u_s : BitVec 3) (u_d u_a u_i : BitVec 5) (u_k : BitVec 3) : Statement (.vaddi u_s u_d u_a u_i u_k) := by
  intro _ w h
  obtain ⟨h32, hmj, hlow, hu_s, hu_d, hu_a, hu_i, hu_k⟩ := shape_1 (mj := 38) (low := 0) u_s u_d u_a u_i u_k (by decide) (by decide) (Option.some.inj h)
  refine ⟨h32, ?_⟩
  rw [major_38 w hmj]
  unfold rawVIntImm
  rw [show w % 32 = 0 by omega]
  show some (Instr.vaddi _ _ _ _ _) = _
  rw [hu_s, hu_d, hu_a, hu_i, hu_k]

theorem vrsubi (u_s : BitVec 3) (u_d u_a u_i : BitVec 5) (u_k : BitVec 3) : Statement (.vrsubi u_s u_d u_a u_i u_k) := by
  intro _ w h
  obtain ⟨h32, hmj, hlow, hu_s, hu_d, hu_a, hu_i, hu_k⟩ := shape_1 (mj := 38) (low := 1) u_s u_d u_a u_i u_k (by decide) (by decide) (Option.some.inj h)
  refine ⟨h32, ?_⟩
  rw [major_38 w hmj]
  unfold rawVIntImm
  rw [show w % 32 = 1 by omega]
  show some (Instr.vrsubi _ _ _ _ _) = _
  rw [hu_s, hu_d, hu_a, hu_i, hu_k]

theorem vandi (u_s : BitVec 3) (u_d u_a u_i : BitVec 5) (u_k : BitVec 3) : Statement (.vandi u_s u_d u_a u_i u_k) := by
  intro _ w h
  obtain ⟨h32, hmj, hlow, hu_s, hu_d, hu_a, hu_i, hu_k⟩ := shape_1 (mj := 38) (low := 2) u_s u_d u_a u_i u_k (by decide) (by decide) (Option.some.inj h)
  refine ⟨h32, ?_⟩
  rw [major_38 w hmj]
  unfold rawVIntImm
  rw [show w % 32 = 2 by omega]
  show some (Instr.vandi _ _ _ _ _) = _
  rw [hu_s, hu_d, hu_a, hu_i, hu_k]

theorem vori (u_s : BitVec 3) (u_d u_a u_i : BitVec 5) (u_k : BitVec 3) : Statement (.vori u_s u_d u_a u_i u_k) := by
  intro _ w h
  obtain ⟨h32, hmj, hlow, hu_s, hu_d, hu_a, hu_i, hu_k⟩ := shape_1 (mj := 38) (low := 3) u_s u_d u_a u_i u_k (by decide) (by decide) (Option.some.inj h)
  refine ⟨h32, ?_⟩
  rw [major_38 w hmj]
  unfold rawVIntImm
  rw [show w % 32 = 3 by omega]
  show some (Instr.vori _ _ _ _ _) = _
  rw [hu_s, hu_d, hu_a, hu_i, hu_k]

theorem vxori (u_s : BitVec 3) (u_d u_a u_i : BitVec 5) (u_k : BitVec 3) : Statement (.vxori u_s u_d u_a u_i u_k) := by
  intro _ w h
  obtain ⟨h32, hmj, hlow, hu_s, hu_d, hu_a, hu_i, hu_k⟩ := shape_1 (mj := 38) (low := 4) u_s u_d u_a u_i u_k (by decide) (by decide) (Option.some.inj h)
  refine ⟨h32, ?_⟩
  rw [major_38 w hmj]
  unfold rawVIntImm
  rw [show w % 32 = 4 by omega]
  show some (Instr.vxori _ _ _ _ _) = _
  rw [hu_s, hu_d, hu_a, hu_i, hu_k]

theorem vslli (u_s : BitVec 3) (u_d u_a u_i : BitVec 5) (u_k : BitVec 3) : Statement (.vslli u_s u_d u_a u_i u_k) := by
  intro _ w h
  obtain ⟨h32, hmj, hlow, hu_s, hu_d, hu_a, hu_i, hu_k⟩ := shape_1 (mj := 38) (low := 5) u_s u_d u_a u_i u_k (by decide) (by decide) (Option.some.inj h)
  refine ⟨h32, ?_⟩
  rw [major_38 w hmj]
  unfold rawVIntImm
  rw [show w % 32 = 5 by omega]
  show some (Instr.vslli _ _ _ _ _) = _
  rw [hu_s, hu_d, hu_a, hu_i, hu_k]

theorem vsrli (u_s : BitVec 3) (u_d u_a u_i : BitVec 5) (u_k : BitVec 3) : Statement (.vsrli u_s u_d u_a u_i u_k) := by
  intro _ w h
  obtain ⟨h32, hmj, hlow, hu_s, hu_d, hu_a, hu_i, hu_k⟩ := shape_1 (mj := 38) (low := 6) u_s u_d u_a u_i u_k (by decide) (by decide) (Option.some.inj h)
  refine ⟨h32, ?_⟩
  rw [major_38 w hmj]
  unfold rawVIntImm
  rw [show w % 32 = 6 by omega]
  show some (Instr.vsrli _ _ _ _ _) = _
  rw [hu_s, hu_d, hu_a, hu_i, hu_k]

theorem vsrai (u_s : BitVec 3) (u_d u_a u_i : BitVec 5) (u_k : BitVec 3) : Statement (.vsrai u_s u_d u_a u_i u_k) := by
  intro _ w h
  obtain ⟨h32, hmj, hlow, hu_s, hu_d, hu_a, hu_i, hu_k⟩ := shape_1 (mj := 38) (low := 7) u_s u_d u_a u_i u_k (by decide) (by decide) (Option.some.inj h)
  refine ⟨h32, ?_⟩
  rw [major_38 w hmj]
  unfold rawVIntImm
  rw [show w % 32 = 7 by omega]
  show some (Instr.vsrai _ _ _ _ _) = _
  rw [hu_s, hu_d, hu_a, hu_i, hu_k]

theorem vfadd (u_s : BitVec 3) (u_d u_a u_b : BitVec 5) (u_k : BitVec 3) (u_l : BitVec 1) : Statement (.vfadd u_s u_d u_a u_b u_k u_l) := by
  intro _ w h
  obtain ⟨h32, hmj, hlow, hu_s, hu_d, hu_a, hu_b, hu_k, hu_l⟩ := shape_4 (mj := 39) (low := 0) u_s u_d u_a u_b u_k u_l (by decide) (by decide) (Option.some.inj h)
  refine ⟨h32, ?_⟩
  rw [major_39 w hmj]
  unfold rawVFp
  rw [show w % 16 = 0 by omega]
  show some (Instr.vfadd _ _ _ _ _ _) = _
  rw [hu_s, hu_d, hu_a, hu_b, hu_k, hu_l]

theorem vfsub (u_s : BitVec 3) (u_d u_a u_b : BitVec 5) (u_k : BitVec 3) (u_l : BitVec 1) : Statement (.vfsub u_s u_d u_a u_b u_k u_l) := by
  intro _ w h
  obtain ⟨h32, hmj, hlow, hu_s, hu_d, hu_a, hu_b, hu_k, hu_l⟩ := shape_4 (mj := 39) (low := 1) u_s u_d u_a u_b u_k u_l (by decide) (by decide) (Option.some.inj h)
  refine ⟨h32, ?_⟩
  rw [major_39 w hmj]
  unfold rawVFp
  rw [show w % 16 = 1 by omega]
  show some (Instr.vfsub _ _ _ _ _ _) = _
  rw [hu_s, hu_d, hu_a, hu_b, hu_k, hu_l]

theorem vfmul (u_s : BitVec 3) (u_d u_a u_b : BitVec 5) (u_k : BitVec 3) (u_l : BitVec 1) : Statement (.vfmul u_s u_d u_a u_b u_k u_l) := by
  intro _ w h
  obtain ⟨h32, hmj, hlow, hu_s, hu_d, hu_a, hu_b, hu_k, hu_l⟩ := shape_4 (mj := 39) (low := 2) u_s u_d u_a u_b u_k u_l (by decide) (by decide) (Option.some.inj h)
  refine ⟨h32, ?_⟩
  rw [major_39 w hmj]
  unfold rawVFp
  rw [show w % 16 = 2 by omega]
  show some (Instr.vfmul _ _ _ _ _ _) = _
  rw [hu_s, hu_d, hu_a, hu_b, hu_k, hu_l]

theorem vfdiv (u_s : BitVec 3) (u_d u_a u_b : BitVec 5) (u_k : BitVec 3) (u_l : BitVec 1) : Statement (.vfdiv u_s u_d u_a u_b u_k u_l) := by
  intro _ w h
  obtain ⟨h32, hmj, hlow, hu_s, hu_d, hu_a, hu_b, hu_k, hu_l⟩ := shape_4 (mj := 39) (low := 3) u_s u_d u_a u_b u_k u_l (by decide) (by decide) (Option.some.inj h)
  refine ⟨h32, ?_⟩
  rw [major_39 w hmj]
  unfold rawVFp
  rw [show w % 16 = 3 by omega]
  show some (Instr.vfdiv _ _ _ _ _ _) = _
  rw [hu_s, hu_d, hu_a, hu_b, hu_k, hu_l]

theorem vfsqrt (u_s : BitVec 3) (u_d u_a : BitVec 5) (u_k : BitVec 3) (u_l : BitVec 1) : Statement (.vfsqrt u_s u_d u_a u_k u_l) := by
  intro _ w h
  obtain ⟨h32, hmj, hlow, hu_s, hu_d, hu_a, hu_k, hu_l⟩ := shape_13 (mj := 39) (low := 4) u_s u_d u_a u_k u_l (by decide) (by decide) (Option.some.inj h)
  refine ⟨h32, ?_⟩
  rw [major_39 w hmj]
  unfold rawVFp
  rw [show w % 16 = 4 by omega]
  show some (Instr.vfsqrt _ _ _ _ _) = _
  rw [hu_s, hu_d, hu_a, hu_k, hu_l]

theorem vfmin (u_s : BitVec 3) (u_d u_a u_b : BitVec 5) (u_k : BitVec 3) (u_l : BitVec 1) : Statement (.vfmin u_s u_d u_a u_b u_k u_l) := by
  intro _ w h
  obtain ⟨h32, hmj, hlow, hu_s, hu_d, hu_a, hu_b, hu_k, hu_l⟩ := shape_4 (mj := 39) (low := 5) u_s u_d u_a u_b u_k u_l (by decide) (by decide) (Option.some.inj h)
  refine ⟨h32, ?_⟩
  rw [major_39 w hmj]
  unfold rawVFp
  rw [show w % 16 = 5 by omega]
  show some (Instr.vfmin _ _ _ _ _ _) = _
  rw [hu_s, hu_d, hu_a, hu_b, hu_k, hu_l]

theorem vfmax (u_s : BitVec 3) (u_d u_a u_b : BitVec 5) (u_k : BitVec 3) (u_l : BitVec 1) : Statement (.vfmax u_s u_d u_a u_b u_k u_l) := by
  intro _ w h
  obtain ⟨h32, hmj, hlow, hu_s, hu_d, hu_a, hu_b, hu_k, hu_l⟩ := shape_4 (mj := 39) (low := 6) u_s u_d u_a u_b u_k u_l (by decide) (by decide) (Option.some.inj h)
  refine ⟨h32, ?_⟩
  rw [major_39 w hmj]
  unfold rawVFp
  rw [show w % 16 = 6 by omega]
  show some (Instr.vfmax _ _ _ _ _ _) = _
  rw [hu_s, hu_d, hu_a, hu_b, hu_k, hu_l]

theorem vfsgnj (u_s : BitVec 3) (u_d u_a u_b : BitVec 5) (u_k : BitVec 3) (u_l : BitVec 1) : Statement (.vfsgnj u_s u_d u_a u_b u_k u_l) := by
  intro _ w h
  obtain ⟨h32, hmj, hlow, hu_s, hu_d, hu_a, hu_b, hu_k, hu_l⟩ := shape_4 (mj := 39) (low := 7) u_s u_d u_a u_b u_k u_l (by decide) (by decide) (Option.some.inj h)
  refine ⟨h32, ?_⟩
  rw [major_39 w hmj]
  unfold rawVFp
  rw [show w % 16 = 7 by omega]
  show some (Instr.vfsgnj _ _ _ _ _ _) = _
  rw [hu_s, hu_d, hu_a, hu_b, hu_k, hu_l]

theorem vfsgnjn (u_s : BitVec 3) (u_d u_a u_b : BitVec 5) (u_k : BitVec 3) (u_l : BitVec 1) : Statement (.vfsgnjn u_s u_d u_a u_b u_k u_l) := by
  intro _ w h
  obtain ⟨h32, hmj, hlow, hu_s, hu_d, hu_a, hu_b, hu_k, hu_l⟩ := shape_4 (mj := 39) (low := 8) u_s u_d u_a u_b u_k u_l (by decide) (by decide) (Option.some.inj h)
  refine ⟨h32, ?_⟩
  rw [major_39 w hmj]
  unfold rawVFp
  rw [show w % 16 = 8 by omega]
  show some (Instr.vfsgnjn _ _ _ _ _ _) = _
  rw [hu_s, hu_d, hu_a, hu_b, hu_k, hu_l]

theorem vfsgnjx (u_s : BitVec 3) (u_d u_a u_b : BitVec 5) (u_k : BitVec 3) (u_l : BitVec 1) : Statement (.vfsgnjx u_s u_d u_a u_b u_k u_l) := by
  intro _ w h
  obtain ⟨h32, hmj, hlow, hu_s, hu_d, hu_a, hu_b, hu_k, hu_l⟩ := shape_4 (mj := 39) (low := 9) u_s u_d u_a u_b u_k u_l (by decide) (by decide) (Option.some.inj h)
  refine ⟨h32, ?_⟩
  rw [major_39 w hmj]
  unfold rawVFp
  rw [show w % 16 = 9 by omega]
  show some (Instr.vfsgnjx _ _ _ _ _ _) = _
  rw [hu_s, hu_d, hu_a, hu_b, hu_k, hu_l]

theorem vfexp2 (u_s : BitVec 3) (u_d u_a : BitVec 5) (u_k : BitVec 3) (u_l : BitVec 1) : Statement (.vfexp2 u_s u_d u_a u_k u_l) := by
  intro _ w h
  obtain ⟨h32, hmj, hlow, hu_s, hu_d, hu_a, hu_k, hu_l⟩ := shape_13 (mj := 39) (low := 10) u_s u_d u_a u_k u_l (by decide) (by decide) (Option.some.inj h)
  refine ⟨h32, ?_⟩
  rw [major_39 w hmj]
  unfold rawVFp
  rw [show w % 16 = 10 by omega]
  show some (Instr.vfexp2 _ _ _ _ _) = _
  rw [hu_s, hu_d, hu_a, hu_k, hu_l]

theorem vflog2 (u_s : BitVec 3) (u_d u_a : BitVec 5) (u_k : BitVec 3) (u_l : BitVec 1) : Statement (.vflog2 u_s u_d u_a u_k u_l) := by
  intro _ w h
  obtain ⟨h32, hmj, hlow, hu_s, hu_d, hu_a, hu_k, hu_l⟩ := shape_13 (mj := 39) (low := 11) u_s u_d u_a u_k u_l (by decide) (by decide) (Option.some.inj h)
  refine ⟨h32, ?_⟩
  rw [major_39 w hmj]
  unfold rawVFp
  rw [show w % 16 = 11 by omega]
  show some (Instr.vflog2 _ _ _ _ _) = _
  rw [hu_s, hu_d, hu_a, hu_k, hu_l]

theorem vfrece (u_s : BitVec 3) (u_d u_a : BitVec 5) (u_k : BitVec 3) (u_l : BitVec 1) : Statement (.vfrece u_s u_d u_a u_k u_l) := by
  intro _ w h
  obtain ⟨h32, hmj, hlow, hu_s, hu_d, hu_a, hu_k, hu_l⟩ := shape_13 (mj := 39) (low := 12) u_s u_d u_a u_k u_l (by decide) (by decide) (Option.some.inj h)
  refine ⟨h32, ?_⟩
  rw [major_39 w hmj]
  unfold rawVFp
  rw [show w % 16 = 12 by omega]
  show some (Instr.vfrece _ _ _ _ _) = _
  rw [hu_s, hu_d, hu_a, hu_k, hu_l]

theorem vfrsqe (u_s : BitVec 3) (u_d u_a : BitVec 5) (u_k : BitVec 3) (u_l : BitVec 1) : Statement (.vfrsqe u_s u_d u_a u_k u_l) := by
  intro _ w h
  obtain ⟨h32, hmj, hlow, hu_s, hu_d, hu_a, hu_k, hu_l⟩ := shape_13 (mj := 39) (low := 13) u_s u_d u_a u_k u_l (by decide) (by decide) (Option.some.inj h)
  refine ⟨h32, ?_⟩
  rw [major_39 w hmj]
  unfold rawVFp
  rw [show w % 16 = 13 by omega]
  show some (Instr.vfrsqe _ _ _ _ _) = _
  rw [hu_s, hu_d, hu_a, hu_k, hu_l]

theorem vfkind (u_s : BitVec 3) (u_d u_a : BitVec 5) (u_k : BitVec 3) (u_l : BitVec 1) : Statement (.vfkind u_s u_d u_a u_k u_l) := by
  intro _ w h
  obtain ⟨h32, hmj, hlow, hu_s, hu_d, hu_a, hu_k, hu_l⟩ := shape_13 (mj := 39) (low := 14) u_s u_d u_a u_k u_l (by decide) (by decide) (Option.some.inj h)
  refine ⟨h32, ?_⟩
  rw [major_39 w hmj]
  unfold rawVFp
  rw [show w % 16 = 14 by omega]
  show some (Instr.vfkind _ _ _ _ _) = _
  rw [hu_s, hu_d, hu_a, hu_k, hu_l]

theorem vfma (u_s : BitVec 3) (u_d u_a u_b : BitVec 5) (u_k : BitVec 3) (u_l : BitVec 1) : Statement (.vfma u_s u_d u_a u_b u_k u_l) := by
  intro _ w h
  obtain ⟨h32, hmj, hlow, hu_s, hu_d, hu_a, hu_b, hu_k, hu_l⟩ := shape_4 (mj := 40) (low := 0) u_s u_d u_a u_b u_k u_l (by decide) (by decide) (Option.some.inj h)
  refine ⟨h32, ?_⟩
  rw [major_40 w hmj]
  unfold rawVFma
  rw [show w % 16 = 0 by omega]
  show some (Instr.vfma _ _ _ _ _ _) = _
  rw [hu_s, hu_d, hu_a, hu_b, hu_k, hu_l]

theorem vfms (u_s : BitVec 3) (u_d u_a u_b : BitVec 5) (u_k : BitVec 3) (u_l : BitVec 1) : Statement (.vfms u_s u_d u_a u_b u_k u_l) := by
  intro _ w h
  obtain ⟨h32, hmj, hlow, hu_s, hu_d, hu_a, hu_b, hu_k, hu_l⟩ := shape_4 (mj := 40) (low := 1) u_s u_d u_a u_b u_k u_l (by decide) (by decide) (Option.some.inj h)
  refine ⟨h32, ?_⟩
  rw [major_40 w hmj]
  unfold rawVFma
  rw [show w % 16 = 1 by omega]
  show some (Instr.vfms _ _ _ _ _ _) = _
  rw [hu_s, hu_d, hu_a, hu_b, hu_k, hu_l]

theorem vfnma (u_s : BitVec 3) (u_d u_a u_b : BitVec 5) (u_k : BitVec 3) (u_l : BitVec 1) : Statement (.vfnma u_s u_d u_a u_b u_k u_l) := by
  intro _ w h
  obtain ⟨h32, hmj, hlow, hu_s, hu_d, hu_a, hu_b, hu_k, hu_l⟩ := shape_4 (mj := 40) (low := 2) u_s u_d u_a u_b u_k u_l (by decide) (by decide) (Option.some.inj h)
  refine ⟨h32, ?_⟩
  rw [major_40 w hmj]
  unfold rawVFma
  rw [show w % 16 = 2 by omega]
  show some (Instr.vfnma _ _ _ _ _ _) = _
  rw [hu_s, hu_d, hu_a, hu_b, hu_k, hu_l]

theorem vfnms (u_s : BitVec 3) (u_d u_a u_b : BitVec 5) (u_k : BitVec 3) (u_l : BitVec 1) : Statement (.vfnms u_s u_d u_a u_b u_k u_l) := by
  intro _ w h
  obtain ⟨h32, hmj, hlow, hu_s, hu_d, hu_a, hu_b, hu_k, hu_l⟩ := shape_4 (mj := 40) (low := 3) u_s u_d u_a u_b u_k u_l (by decide) (by decide) (Option.some.inj h)
  refine ⟨h32, ?_⟩
  rw [major_40 w hmj]
  unfold rawVFma
  rw [show w % 16 = 3 by omega]
  show some (Instr.vfnms _ _ _ _ _ _) = _
  rw [hu_s, hu_d, hu_a, hu_b, hu_k, hu_l]

theorem vmac (u_s : BitVec 3) (u_d u_a u_b : BitVec 5) (u_k : BitVec 3) : Statement (.vmac u_s u_d u_a u_b u_k) := by
  intro _ w h
  obtain ⟨h32, hmj, hlow, hu_s, hu_d, hu_a, hu_b, hu_k⟩ := shape_1 (mj := 40) (low := 4) u_s u_d u_a u_b u_k (by decide) (by decide) (Option.some.inj h)
  refine ⟨h32, ?_⟩
  rw [major_40 w hmj]
  unfold rawVFma
  rw [show w % 16 = 4 by omega]
  show some (Instr.vmac _ _ _ _ _) = _
  rw [hu_s, hu_d, hu_a, hu_b, hu_k]

theorem vnmsac (u_s : BitVec 3) (u_d u_a u_b : BitVec 5) (u_k : BitVec 3) : Statement (.vnmsac u_s u_d u_a u_b u_k) := by
  intro _ w h
  obtain ⟨h32, hmj, hlow, hu_s, hu_d, hu_a, hu_b, hu_k⟩ := shape_1 (mj := 40) (low := 5) u_s u_d u_a u_b u_k (by decide) (by decide) (Option.some.inj h)
  refine ⟨h32, ?_⟩
  rw [major_40 w hmj]
  unfold rawVFma
  rw [show w % 16 = 5 by omega]
  show some (Instr.vnmsac _ _ _ _ _) = _
  rw [hu_s, hu_d, hu_a, hu_b, hu_k]

theorem vdot (u_s : BitVec 3) (u_d u_a u_b : BitVec 5) (u_k : BitVec 3) (u_c : BitVec 2) : Statement (.vdot u_s u_d u_a u_b u_k u_c) := by
  intro _ w h
  obtain ⟨h32, hmj, hlow, hu_s, hu_d, hu_a, hu_b, hu_k, hu_c⟩ := shape_8 (mj := 41) (low := 0) u_s u_d u_a u_b u_k u_c (by decide) (by decide) (Option.some.inj h)
  refine ⟨h32, ?_⟩
  rw [major_41 w hmj]
  unfold rawNarrow
  rw [show w % 8 = 0 by omega]
  show some (Instr.vdot _ _ _ _ _ _) = _
  rw [hu_s, hu_d, hu_a, hu_b, hu_k, hu_c]

theorem vdistIp (u_s : BitVec 3) (u_d u_a u_b : BitVec 5) (u_k : BitVec 3) (u_c : BitVec 2) : Statement (.vdistIp u_s u_d u_a u_b u_k u_c) := by
  intro _ w h
  obtain ⟨h32, hmj, hlow, hu_s, hu_d, hu_a, hu_b, hu_k, hu_c⟩ := shape_8 (mj := 41) (low := 1) u_s u_d u_a u_b u_k u_c (by decide) (by decide) (Option.some.inj h)
  refine ⟨h32, ?_⟩
  rw [major_41 w hmj]
  unfold rawNarrow
  rw [show w % 8 = 1 by omega]
  show some (Instr.vdistIp _ _ _ _ _ _) = _
  rw [hu_s, hu_d, hu_a, hu_b, hu_k, hu_c]

theorem vdistL2 (u_s : BitVec 3) (u_d u_a u_b : BitVec 5) (u_k : BitVec 3) (u_c : BitVec 2) : Statement (.vdistL2 u_s u_d u_a u_b u_k u_c) := by
  intro _ w h
  obtain ⟨h32, hmj, hlow, hu_s, hu_d, hu_a, hu_b, hu_k, hu_c⟩ := shape_8 (mj := 41) (low := 2) u_s u_d u_a u_b u_k u_c (by decide) (by decide) (Option.some.inj h)
  refine ⟨h32, ?_⟩
  rw [major_41 w hmj]
  unfold rawNarrow
  rw [show w % 8 = 2 by omega]
  show some (Instr.vdistL2 _ _ _ _ _ _) = _
  rw [hu_s, hu_d, hu_a, hu_b, hu_k, hu_c]

theorem vdistHam (u_s : BitVec 3) (u_d u_a u_b : BitVec 5) (u_k : BitVec 3) (u_c : BitVec 2) : Statement (.vdistHam u_s u_d u_a u_b u_k u_c) := by
  intro _ w h
  obtain ⟨h32, hmj, hlow, hu_s, hu_d, hu_a, hu_b, hu_k, hu_c⟩ := shape_8 (mj := 41) (low := 3) u_s u_d u_a u_b u_k u_c (by decide) (by decide) (Option.some.inj h)
  refine ⟨h32, ?_⟩
  rw [major_41 w hmj]
  unfold rawNarrow
  rw [show w % 8 = 3 by omega]
  show some (Instr.vdistHam _ _ _ _ _ _) = _
  rw [hu_s, hu_d, hu_a, hu_b, hu_k, hu_c]

theorem vqdec (u_s : BitVec 3) (u_d u_a : BitVec 5) (u_k : BitVec 3) (u_c : BitVec 2) : Statement (.vqdec u_s u_d u_a u_k u_c) := by
  intro _ w h
  obtain ⟨h32, hmj, hlow, hu_s, hu_d, hu_a, hu_k, hu_c⟩ := shape_11 (mj := 41) (low := 4) u_s u_d u_a u_k u_c (by decide) (by decide) (Option.some.inj h)
  refine ⟨h32, ?_⟩
  rw [major_41 w hmj]
  unfold rawNarrow
  rw [show w % 8 = 4 by omega]
  show some (Instr.vqdec _ _ _ _ _) = _
  rw [hu_s, hu_d, hu_a, hu_k, hu_c]

theorem vqenc (u_s : BitVec 3) (u_d u_a : BitVec 5) (u_k : BitVec 3) (u_c : BitVec 2) : Statement (.vqenc u_s u_d u_a u_k u_c) := by
  intro _ w h
  obtain ⟨h32, hmj, hlow, hu_s, hu_d, hu_a, hu_k, hu_c⟩ := shape_11 (mj := 41) (low := 5) u_s u_d u_a u_k u_c (by decide) (by decide) (Option.some.inj h)
  refine ⟨h32, ?_⟩
  rw [major_41 w hmj]
  unfold rawNarrow
  rw [show w % 8 = 5 by omega]
  show some (Instr.vqenc _ _ _ _ _) = _
  rw [hu_s, hu_d, hu_a, hu_k, hu_c]

theorem vqenco (u_s : BitVec 3) (u_d u_a : BitVec 5) (u_k : BitVec 3) (u_c : BitVec 2) : Statement (.vqenco u_s u_d u_a u_k u_c) := by
  intro _ w h
  obtain ⟨h32, hmj, hlow, hu_s, hu_d, hu_a, hu_k, hu_c⟩ := shape_11 (mj := 41) (low := 6) u_s u_d u_a u_k u_c (by decide) (by decide) (Option.some.inj h)
  refine ⟨h32, ?_⟩
  rw [major_41 w hmj]
  unfold rawNarrow
  rw [show w % 8 = 6 by omega]
  show some (Instr.vqenco _ _ _ _ _) = _
  rw [hu_s, hu_d, hu_a, hu_k, hu_c]

theorem vcvt (u_s : BitVec 3) (u_d u_a u_u : BitVec 5) (u_k : BitVec 3) (u_t : BitVec 5) : Statement (.vcvt u_s u_d u_a u_u u_k u_t) := by
  intro hwf w h
  have ht : u_t.toNat ≤ 17 := by
    by_contra ht
    have : (Instr.vcvt u_s u_d u_a u_u u_k u_t).check = some .reservedType := by
      show rejectUnless _ _ = _
      rw [show (typeConverts u_t && typeConverts u_u) = false by simp [typeConverts]; omega]; rfl
    simp [Instr.wf, this] at hwf
  replace h : layWord 0xA8000000 [(u_s.toNat, 23), (u_d.toNat, 18), (u_a.toNat, 13), (u_u.toNat, 8), (u_k.toNat, 5), (u_t.toNat, 0)] = w := Option.some.inj h
  simp only [layWord] at h
  have := u_s.isLt; have := u_d.isLt; have := u_a.isLt; have := u_u.isLt; have := u_k.isLt; have := u_t.isLt
  refine ⟨by omega, ?_⟩
  rw [major_42 w (by omega)]
  unfold rawTrans
  rcases (by omega : w % 32 = 0 ∨ w % 32 = 1 ∨ w % 32 = 2 ∨ w % 32 = 3 ∨ w % 32 = 4 ∨ w % 32 = 5 ∨ w % 32 = 6 ∨ w % 32 = 7 ∨ w % 32 = 8 ∨ w % 32 = 9 ∨ w % 32 = 10 ∨ w % 32 = 11 ∨ w % 32 = 12 ∨ w % 32 = 13 ∨ w % 32 = 14 ∨ w % 32 = 15 ∨ w % 32 = 16 ∨ w % 32 = 17) with hc | hc | hc | hc | hc | hc | hc | hc | hc | hc | hc | hc | hc | hc | hc | hc | hc | hc <;> rw [hc] <;> show some (Instr.vcvt _ _ _ _ _ _) = _ <;>
    rw [bits_of (v := u_s) (by omega), bits_of (v := u_d) (by omega), bits_of (v := u_a) (by omega), bits_of (v := u_u) (by omega), bits_of (v := u_k) (by omega), bits_of (v := u_t) (by omega)]

theorem vunpk (u_s : BitVec 3) (u_d u_a : BitVec 5) (u_w : BitVec 3) (u_g : BitVec 1) (u_k : BitVec 3) : Statement (.vunpk u_s u_d u_a u_w u_g u_k) := by
  intro _ w h
  replace h : layWord 0xA8000012 [(u_s.toNat, 23), (u_d.toNat, 18), (u_a.toNat, 13), (u_w.toNat, 10), (u_g.toNat, 8), (u_k.toNat, 5)] = w := Option.some.inj h
  simp only [layWord] at h
  have := u_s.isLt; have := u_d.isLt; have := u_a.isLt; have := u_w.isLt; have := u_g.isLt; have := u_k.isLt
  refine ⟨by omega, ?_⟩
  rw [major_42 w (by omega)]
  unfold rawTrans
  rw [show w % 32 = 18 by omega]
  show some (Instr.vunpk _ _ _ _ _ _) = _
  rw [bits_of (v := u_s) (by omega), bits_of (v := u_d) (by omega), bits_of (v := u_a) (by omega), bits_of (v := u_w) (by omega), bits_of (v := u_g) (by omega), bits_of (v := u_k) (by omega)]

theorem vlut (u_s : BitVec 3) (u_d u_a u_b : BitVec 5) (u_k : BitVec 3) : Statement (.vlut u_s u_d u_a u_b u_k) := by
  intro _ w h
  obtain ⟨h32, hmj, hlow, hu_s, hu_d, hu_a, hu_b, hu_k⟩ := shape_1 (mj := 42) (low := 19) u_s u_d u_a u_b u_k (by decide) (by decide) (Option.some.inj h)
  refine ⟨h32, ?_⟩
  rw [major_42 w hmj]
  unfold rawTrans
  rw [show w % 32 = 19 by omega]
  show some (Instr.vlut _ _ _ _ _) = _
  rw [hu_s, hu_d, hu_a, hu_b, hu_k]

theorem vexpand (u_s : BitVec 3) (u_d u_a : BitVec 5) (u_k : BitVec 3) : Statement (.vexpand u_s u_d u_a u_k) := by
  intro _ w h
  obtain ⟨h32, hmj, hlow, hu_s, hu_d, hu_a, hu_k⟩ := shape_9 (mj := 42) (low := 20) u_s u_d u_a u_k (by decide) (by decide) (Option.some.inj h)
  refine ⟨h32, ?_⟩
  rw [major_42 w hmj]
  unfold rawTrans
  rw [show w % 32 = 20 by omega]
  show some (Instr.vexpand _ _ _ _) = _
  rw [hu_s, hu_d, hu_a, hu_k]

theorem vcompress (u_s : BitVec 3) (u_d u_a : BitVec 5) (u_k : BitVec 3) : Statement (.vcompress u_s u_d u_a u_k) := by
  intro _ w h
  obtain ⟨h32, hmj, hlow, hu_s, hu_d, hu_a, hu_k⟩ := shape_9 (mj := 42) (low := 21) u_s u_d u_a u_k (by decide) (by decide) (Option.some.inj h)
  refine ⟨h32, ?_⟩
  rw [major_42 w hmj]
  unfold rawTrans
  rw [show w % 32 = 21 by omega]
  show some (Instr.vcompress _ _ _ _) = _
  rw [hu_s, hu_d, hu_a, hu_k]

theorem vperm (u_s : BitVec 3) (u_d u_a u_b : BitVec 5) (u_k : BitVec 3) : Statement (.vperm u_s u_d u_a u_b u_k) := by
  intro _ w h
  obtain ⟨h32, hmj, hlow, hu_s, hu_d, hu_a, hu_b, hu_k⟩ := shape_1 (mj := 43) (low := 0) u_s u_d u_a u_b u_k (by decide) (by decide) (Option.some.inj h)
  refine ⟨h32, ?_⟩
  rw [major_43 w hmj]
  unfold rawPerm
  rw [show w % 32 = 0 by omega]
  show some (Instr.vperm _ _ _ _ _) = _
  rw [hu_s, hu_d, hu_a, hu_b, hu_k]

theorem vlift (u_s : BitVec 3) (u_d u_a u_b : BitVec 5) (u_k : BitVec 3) : Statement (.vlift u_s u_d u_a u_b u_k) := by
  intro _ w h
  obtain ⟨h32, hmj, hlow, hu_s, hu_d, hu_a, hu_b, hu_k⟩ := shape_1 (mj := 43) (low := 1) u_s u_d u_a u_b u_k (by decide) (by decide) (Option.some.inj h)
  refine ⟨h32, ?_⟩
  rw [major_43 w hmj]
  unfold rawPerm
  rw [show w % 32 = 1 by omega]
  show some (Instr.vlift _ _ _ _ _) = _
  rw [hu_s, hu_d, hu_a, hu_b, hu_k]

theorem vdrop (u_s : BitVec 3) (u_d u_a u_b : BitVec 5) (u_k : BitVec 3) : Statement (.vdrop u_s u_d u_a u_b u_k) := by
  intro _ w h
  obtain ⟨h32, hmj, hlow, hu_s, hu_d, hu_a, hu_b, hu_k⟩ := shape_1 (mj := 43) (low := 2) u_s u_d u_a u_b u_k (by decide) (by decide) (Option.some.inj h)
  refine ⟨h32, ?_⟩
  rw [major_43 w hmj]
  unfold rawPerm
  rw [show w % 32 = 2 by omega]
  show some (Instr.vdrop _ _ _ _ _) = _
  rw [hu_s, hu_d, hu_a, hu_b, hu_k]

theorem vbcast (u_s : BitVec 3) (u_d u_a u_b : BitVec 5) (u_k : BitVec 3) : Statement (.vbcast u_s u_d u_a u_b u_k) := by
  intro _ w h
  obtain ⟨h32, hmj, hlow, hu_s, hu_d, hu_a, hu_b, hu_k⟩ := shape_1 (mj := 43) (low := 3) u_s u_d u_a u_b u_k (by decide) (by decide) (Option.some.inj h)
  refine ⟨h32, ?_⟩
  rw [major_43 w hmj]
  unfold rawPerm
  rw [show w % 32 = 3 by omega]
  show some (Instr.vbcast _ _ _ _ _) = _
  rw [hu_s, hu_d, hu_a, hu_b, hu_k]

theorem vrev (u_s : BitVec 3) (u_d u_a : BitVec 5) (u_k : BitVec 3) : Statement (.vrev u_s u_d u_a u_k) := by
  intro _ w h
  obtain ⟨h32, hmj, hlow, hu_s, hu_d, hu_a, hu_k⟩ := shape_9 (mj := 43) (low := 4) u_s u_d u_a u_k (by decide) (by decide) (Option.some.inj h)
  refine ⟨h32, ?_⟩
  rw [major_43 w hmj]
  unfold rawPerm
  rw [show w % 32 = 4 by omega]
  show some (Instr.vrev _ _ _ _) = _
  rw [hu_s, hu_d, hu_a, hu_k]

theorem vzip (u_s : BitVec 3) (u_d u_a u_b : BitVec 5) (u_k : BitVec 3) : Statement (.vzip u_s u_d u_a u_b u_k) := by
  intro _ w h
  obtain ⟨h32, hmj, hlow, hu_s, hu_d, hu_a, hu_b, hu_k⟩ := shape_1 (mj := 43) (low := 5) u_s u_d u_a u_b u_k (by decide) (by decide) (Option.some.inj h)
  refine ⟨h32, ?_⟩
  rw [major_43 w hmj]
  unfold rawPerm
  rw [show w % 32 = 5 by omega]
  show some (Instr.vzip _ _ _ _ _) = _
  rw [hu_s, hu_d, hu_a, hu_b, hu_k]

theorem vunzip (u_s : BitVec 3) (u_d u_a u_b : BitVec 5) (u_k : BitVec 3) : Statement (.vunzip u_s u_d u_a u_b u_k) := by
  intro _ w h
  obtain ⟨h32, hmj, hlow, hu_s, hu_d, hu_a, hu_b, hu_k⟩ := shape_1 (mj := 43) (low := 6) u_s u_d u_a u_b u_k (by decide) (by decide) (Option.some.inj h)
  refine ⟨h32, ?_⟩
  rw [major_43 w hmj]
  unfold rawPerm
  rw [show w % 32 = 6 by omega]
  show some (Instr.vunzip _ _ _ _ _) = _
  rw [hu_s, hu_d, hu_a, hu_b, hu_k]

theorem vrsum (u_s : BitVec 3) (u_d u_a u_b : BitVec 5) (u_k : BitVec 3) : Statement (.vrsum u_s u_d u_a u_b u_k) := by
  intro _ w h
  obtain ⟨h32, hmj, hlow, hu_s, hu_d, hu_a, hu_b, hu_k⟩ := shape_1 (mj := 44) (low := 0) u_s u_d u_a u_b u_k (by decide) (by decide) (Option.some.inj h)
  refine ⟨h32, ?_⟩
  rw [major_44 w hmj]
  unfold rawReduce
  rw [show w % 32 = 0 by omega]
  show some (Instr.vrsum _ _ _ _ _) = _
  rw [hu_s, hu_d, hu_a, hu_b, hu_k]

theorem vrmin (u_s : BitVec 3) (u_d u_a u_b : BitVec 5) (u_k : BitVec 3) : Statement (.vrmin u_s u_d u_a u_b u_k) := by
  intro _ w h
  obtain ⟨h32, hmj, hlow, hu_s, hu_d, hu_a, hu_b, hu_k⟩ := shape_1 (mj := 44) (low := 1) u_s u_d u_a u_b u_k (by decide) (by decide) (Option.some.inj h)
  refine ⟨h32, ?_⟩
  rw [major_44 w hmj]
  unfold rawReduce
  rw [show w % 32 = 1 by omega]
  show some (Instr.vrmin _ _ _ _ _) = _
  rw [hu_s, hu_d, hu_a, hu_b, hu_k]

theorem vrmax (u_s : BitVec 3) (u_d u_a u_b : BitVec 5) (u_k : BitVec 3) : Statement (.vrmax u_s u_d u_a u_b u_k) := by
  intro _ w h
  obtain ⟨h32, hmj, hlow, hu_s, hu_d, hu_a, hu_b, hu_k⟩ := shape_1 (mj := 44) (low := 2) u_s u_d u_a u_b u_k (by decide) (by decide) (Option.some.inj h)
  refine ⟨h32, ?_⟩
  rw [major_44 w hmj]
  unfold rawReduce
  rw [show w % 32 = 2 by omega]
  show some (Instr.vrmax _ _ _ _ _) = _
  rw [hu_s, hu_d, hu_a, hu_b, hu_k]

theorem vrminn (u_s : BitVec 3) (u_d u_a u_b : BitVec 5) (u_k : BitVec 3) : Statement (.vrminn u_s u_d u_a u_b u_k) := by
  intro _ w h
  obtain ⟨h32, hmj, hlow, hu_s, hu_d, hu_a, hu_b, hu_k⟩ := shape_1 (mj := 44) (low := 3) u_s u_d u_a u_b u_k (by decide) (by decide) (Option.some.inj h)
  refine ⟨h32, ?_⟩
  rw [major_44 w hmj]
  unfold rawReduce
  rw [show w % 32 = 3 by omega]
  show some (Instr.vrminn _ _ _ _ _) = _
  rw [hu_s, hu_d, hu_a, hu_b, hu_k]

theorem vrmaxn (u_s : BitVec 3) (u_d u_a u_b : BitVec 5) (u_k : BitVec 3) : Statement (.vrmaxn u_s u_d u_a u_b u_k) := by
  intro _ w h
  obtain ⟨h32, hmj, hlow, hu_s, hu_d, hu_a, hu_b, hu_k⟩ := shape_1 (mj := 44) (low := 4) u_s u_d u_a u_b u_k (by decide) (by decide) (Option.some.inj h)
  refine ⟨h32, ?_⟩
  rw [major_44 w hmj]
  unfold rawReduce
  rw [show w % 32 = 4 by omega]
  show some (Instr.vrmaxn _ _ _ _ _) = _
  rw [hu_s, hu_d, hu_a, hu_b, hu_k]

theorem vrand (u_s : BitVec 3) (u_d u_a u_b : BitVec 5) (u_k : BitVec 3) : Statement (.vrand u_s u_d u_a u_b u_k) := by
  intro _ w h
  obtain ⟨h32, hmj, hlow, hu_s, hu_d, hu_a, hu_b, hu_k⟩ := shape_1 (mj := 44) (low := 5) u_s u_d u_a u_b u_k (by decide) (by decide) (Option.some.inj h)
  refine ⟨h32, ?_⟩
  rw [major_44 w hmj]
  unfold rawReduce
  rw [show w % 32 = 5 by omega]
  show some (Instr.vrand _ _ _ _ _) = _
  rw [hu_s, hu_d, hu_a, hu_b, hu_k]

theorem vrior (u_s : BitVec 3) (u_d u_a u_b : BitVec 5) (u_k : BitVec 3) : Statement (.vrior u_s u_d u_a u_b u_k) := by
  intro _ w h
  obtain ⟨h32, hmj, hlow, hu_s, hu_d, hu_a, hu_b, hu_k⟩ := shape_1 (mj := 44) (low := 6) u_s u_d u_a u_b u_k (by decide) (by decide) (Option.some.inj h)
  refine ⟨h32, ?_⟩
  rw [major_44 w hmj]
  unfold rawReduce
  rw [show w % 32 = 6 by omega]
  show some (Instr.vrior _ _ _ _ _) = _
  rw [hu_s, hu_d, hu_a, hu_b, hu_k]

theorem vrxor (u_s : BitVec 3) (u_d u_a u_b : BitVec 5) (u_k : BitVec 3) : Statement (.vrxor u_s u_d u_a u_b u_k) := by
  intro _ w h
  obtain ⟨h32, hmj, hlow, hu_s, hu_d, hu_a, hu_b, hu_k⟩ := shape_1 (mj := 44) (low := 7) u_s u_d u_a u_b u_k (by decide) (by decide) (Option.some.inj h)
  refine ⟨h32, ?_⟩
  rw [major_44 w hmj]
  unfold rawReduce
  rw [show w % 32 = 7 by omega]
  show some (Instr.vrxor _ _ _ _ _) = _
  rw [hu_s, hu_d, hu_a, hu_b, hu_k]

theorem vfrseq (u_s : BitVec 3) (u_d u_a u_b : BitVec 5) (u_k : BitVec 3) (u_l : BitVec 1) : Statement (.vfrseq u_s u_d u_a u_b u_k u_l) := by
  intro _ w h
  replace h : layWord 0xB0000008 [(u_s.toNat, 23), (u_d.toNat, 18), (u_a.toNat, 13), (u_b.toNat, 8), (u_k.toNat, 5), (u_l.toNat, 4)] = w := Option.some.inj h
  simp only [layWord] at h
  have := u_s.isLt; have := u_d.isLt; have := u_a.isLt; have := u_b.isLt; have := u_k.isLt; have := u_l.isLt
  refine ⟨by omega, ?_⟩
  rw [major_44 w (by omega)]
  unfold rawReduce
  rcases (by omega : w % 32 = 8 ∨ w % 32 = 24) with hc | hc <;> rw [hc] <;> show some (Instr.vfrseq _ _ _ _ _ _) = _ <;>
    rw [bits_of (v := u_s) (by omega), bits_of (v := u_d) (by omega), bits_of (v := u_a) (by omega), bits_of (v := u_b) (by omega), bits_of (v := u_k) (by omega), bits_of (v := u_l) (by omega)]

theorem vfrpair (u_s : BitVec 3) (u_d u_a u_b : BitVec 5) (u_k : BitVec 3) (u_l : BitVec 1) : Statement (.vfrpair u_s u_d u_a u_b u_k u_l) := by
  intro _ w h
  replace h : layWord 0xB0000009 [(u_s.toNat, 23), (u_d.toNat, 18), (u_a.toNat, 13), (u_b.toNat, 8), (u_k.toNat, 5), (u_l.toNat, 4)] = w := Option.some.inj h
  simp only [layWord] at h
  have := u_s.isLt; have := u_d.isLt; have := u_a.isLt; have := u_b.isLt; have := u_k.isLt; have := u_l.isLt
  refine ⟨by omega, ?_⟩
  rw [major_44 w (by omega)]
  unfold rawReduce
  rcases (by omega : w % 32 = 9 ∨ w % 32 = 25) with hc | hc <;> rw [hc] <;> show some (Instr.vfrpair _ _ _ _ _ _) = _ <;>
    rw [bits_of (v := u_s) (by omega), bits_of (v := u_d) (by omega), bits_of (v := u_a) (by omega), bits_of (v := u_b) (by omega), bits_of (v := u_k) (by omega), bits_of (v := u_l) (by omega)]

theorem vfrmin (u_s : BitVec 3) (u_d u_a u_b : BitVec 5) (u_k : BitVec 3) (u_l : BitVec 1) : Statement (.vfrmin u_s u_d u_a u_b u_k u_l) := by
  intro _ w h
  replace h : layWord 0xB000000A [(u_s.toNat, 23), (u_d.toNat, 18), (u_a.toNat, 13), (u_b.toNat, 8), (u_k.toNat, 5), (u_l.toNat, 4)] = w := Option.some.inj h
  simp only [layWord] at h
  have := u_s.isLt; have := u_d.isLt; have := u_a.isLt; have := u_b.isLt; have := u_k.isLt; have := u_l.isLt
  refine ⟨by omega, ?_⟩
  rw [major_44 w (by omega)]
  unfold rawReduce
  rcases (by omega : w % 32 = 10 ∨ w % 32 = 26) with hc | hc <;> rw [hc] <;> show some (Instr.vfrmin _ _ _ _ _ _) = _ <;>
    rw [bits_of (v := u_s) (by omega), bits_of (v := u_d) (by omega), bits_of (v := u_a) (by omega), bits_of (v := u_b) (by omega), bits_of (v := u_k) (by omega), bits_of (v := u_l) (by omega)]

theorem vfrmax (u_s : BitVec 3) (u_d u_a u_b : BitVec 5) (u_k : BitVec 3) (u_l : BitVec 1) : Statement (.vfrmax u_s u_d u_a u_b u_k u_l) := by
  intro _ w h
  replace h : layWord 0xB000000B [(u_s.toNat, 23), (u_d.toNat, 18), (u_a.toNat, 13), (u_b.toNat, 8), (u_k.toNat, 5), (u_l.toNat, 4)] = w := Option.some.inj h
  simp only [layWord] at h
  have := u_s.isLt; have := u_d.isLt; have := u_a.isLt; have := u_b.isLt; have := u_k.isLt; have := u_l.isLt
  refine ⟨by omega, ?_⟩
  rw [major_44 w (by omega)]
  unfold rawReduce
  rcases (by omega : w % 32 = 11 ∨ w % 32 = 27) with hc | hc <;> rw [hc] <;> show some (Instr.vfrmax _ _ _ _ _ _) = _ <;>
    rw [bits_of (v := u_s) (by omega), bits_of (v := u_d) (by omega), bits_of (v := u_a) (by omega), bits_of (v := u_b) (by omega), bits_of (v := u_k) (by omega), bits_of (v := u_l) (by omega)]

theorem vmseq (u_s u_d : BitVec 3) (u_a u_b : BitVec 5) (u_k : BitVec 3) : Statement (.vmseq u_s u_d u_a u_b u_k) := by
  intro _ w h
  obtain ⟨h32, hmj, hlow, hu_s, hu_d, hu_a, hu_b, hu_k⟩ := shape_14 (mj := 45) (low := 0) u_s u_d u_a u_b u_k (by decide) (by decide) (Option.some.inj h)
  refine ⟨h32, ?_⟩
  rw [major_45 w hmj]
  unfold rawMaskOps
  rw [show w % 32 = 0 by omega]
  show some (Instr.vmseq _ _ _ _ _) = _
  rw [hu_s, hu_d, hu_a, hu_b, hu_k]

theorem vmsne (u_s u_d : BitVec 3) (u_a u_b : BitVec 5) (u_k : BitVec 3) : Statement (.vmsne u_s u_d u_a u_b u_k) := by
  intro _ w h
  obtain ⟨h32, hmj, hlow, hu_s, hu_d, hu_a, hu_b, hu_k⟩ := shape_14 (mj := 45) (low := 1) u_s u_d u_a u_b u_k (by decide) (by decide) (Option.some.inj h)
  refine ⟨h32, ?_⟩
  rw [major_45 w hmj]
  unfold rawMaskOps
  rw [show w % 32 = 1 by omega]
  show some (Instr.vmsne _ _ _ _ _) = _
  rw [hu_s, hu_d, hu_a, hu_b, hu_k]

theorem vmslt (u_s u_d : BitVec 3) (u_a u_b : BitVec 5) (u_k : BitVec 3) : Statement (.vmslt u_s u_d u_a u_b u_k) := by
  intro _ w h
  obtain ⟨h32, hmj, hlow, hu_s, hu_d, hu_a, hu_b, hu_k⟩ := shape_14 (mj := 45) (low := 2) u_s u_d u_a u_b u_k (by decide) (by decide) (Option.some.inj h)
  refine ⟨h32, ?_⟩
  rw [major_45 w hmj]
  unfold rawMaskOps
  rw [show w % 32 = 2 by omega]
  show some (Instr.vmslt _ _ _ _ _) = _
  rw [hu_s, hu_d, hu_a, hu_b, hu_k]

theorem vmsle (u_s u_d : BitVec 3) (u_a u_b : BitVec 5) (u_k : BitVec 3) : Statement (.vmsle u_s u_d u_a u_b u_k) := by
  intro _ w h
  obtain ⟨h32, hmj, hlow, hu_s, hu_d, hu_a, hu_b, hu_k⟩ := shape_14 (mj := 45) (low := 3) u_s u_d u_a u_b u_k (by decide) (by decide) (Option.some.inj h)
  refine ⟨h32, ?_⟩
  rw [major_45 w hmj]
  unfold rawMaskOps
  rw [show w % 32 = 3 by omega]
  show some (Instr.vmsle _ _ _ _ _) = _
  rw [hu_s, hu_d, hu_a, hu_b, hu_k]

theorem vmsltn (u_s u_d : BitVec 3) (u_a u_b : BitVec 5) (u_k : BitVec 3) : Statement (.vmsltn u_s u_d u_a u_b u_k) := by
  intro _ w h
  obtain ⟨h32, hmj, hlow, hu_s, hu_d, hu_a, hu_b, hu_k⟩ := shape_14 (mj := 45) (low := 4) u_s u_d u_a u_b u_k (by decide) (by decide) (Option.some.inj h)
  refine ⟨h32, ?_⟩
  rw [major_45 w hmj]
  unfold rawMaskOps
  rw [show w % 32 = 4 by omega]
  show some (Instr.vmsltn _ _ _ _ _) = _
  rw [hu_s, hu_d, hu_a, hu_b, hu_k]

theorem vmslen (u_s u_d : BitVec 3) (u_a u_b : BitVec 5) (u_k : BitVec 3) : Statement (.vmslen u_s u_d u_a u_b u_k) := by
  intro _ w h
  obtain ⟨h32, hmj, hlow, hu_s, hu_d, hu_a, hu_b, hu_k⟩ := shape_14 (mj := 45) (low := 5) u_s u_d u_a u_b u_k (by decide) (by decide) (Option.some.inj h)
  refine ⟨h32, ?_⟩
  rw [major_45 w hmj]
  unfold rawMaskOps
  rw [show w % 32 = 5 by omega]
  show some (Instr.vmslen _ _ _ _ _) = _
  rw [hu_s, hu_d, hu_a, hu_b, hu_k]

theorem vmfeq (u_s u_d : BitVec 3) (u_a u_b : BitVec 5) (u_k : BitVec 3) (u_l : BitVec 1) : Statement (.vmfeq u_s u_d u_a u_b u_k u_l) := by
  intro _ w h
  replace h : layWord 0xB4000006 [(u_s.toNat, 23), (u_d.toNat, 18), (u_a.toNat, 13), (u_b.toNat, 8), (u_k.toNat, 5), (u_l.toNat, 4)] = w := Option.some.inj h
  simp only [layWord] at h
  have := u_s.isLt; have := u_d.isLt; have := u_a.isLt; have := u_b.isLt; have := u_k.isLt; have := u_l.isLt
  refine ⟨by omega, ?_⟩
  rw [major_45 w (by omega)]
  unfold rawMaskOps
  rcases (by omega : w % 32 = 6 ∨ w % 32 = 22) with hc | hc <;> rw [hc] <;> show some (Instr.vmfeq _ _ _ _ _ _) = _ <;>
    rw [bits_of (v := u_s) (by omega), bits_of (v := u_d) (by omega), bits_of (v := u_a) (by omega), bits_of (v := u_b) (by omega), bits_of (v := u_k) (by omega), bits_of (v := u_l) (by omega)]

theorem vmflt (u_s u_d : BitVec 3) (u_a u_b : BitVec 5) (u_k : BitVec 3) (u_l : BitVec 1) : Statement (.vmflt u_s u_d u_a u_b u_k u_l) := by
  intro _ w h
  replace h : layWord 0xB4000007 [(u_s.toNat, 23), (u_d.toNat, 18), (u_a.toNat, 13), (u_b.toNat, 8), (u_k.toNat, 5), (u_l.toNat, 4)] = w := Option.some.inj h
  simp only [layWord] at h
  have := u_s.isLt; have := u_d.isLt; have := u_a.isLt; have := u_b.isLt; have := u_k.isLt; have := u_l.isLt
  refine ⟨by omega, ?_⟩
  rw [major_45 w (by omega)]
  unfold rawMaskOps
  rcases (by omega : w % 32 = 7 ∨ w % 32 = 23) with hc | hc <;> rw [hc] <;> show some (Instr.vmflt _ _ _ _ _ _) = _ <;>
    rw [bits_of (v := u_s) (by omega), bits_of (v := u_d) (by omega), bits_of (v := u_a) (by omega), bits_of (v := u_b) (by omega), bits_of (v := u_k) (by omega), bits_of (v := u_l) (by omega)]

theorem vmfle (u_s u_d : BitVec 3) (u_a u_b : BitVec 5) (u_k : BitVec 3) (u_l : BitVec 1) : Statement (.vmfle u_s u_d u_a u_b u_k u_l) := by
  intro _ w h
  replace h : layWord 0xB4000008 [(u_s.toNat, 23), (u_d.toNat, 18), (u_a.toNat, 13), (u_b.toNat, 8), (u_k.toNat, 5), (u_l.toNat, 4)] = w := Option.some.inj h
  simp only [layWord] at h
  have := u_s.isLt; have := u_d.isLt; have := u_a.isLt; have := u_b.isLt; have := u_k.isLt; have := u_l.isLt
  refine ⟨by omega, ?_⟩
  rw [major_45 w (by omega)]
  unfold rawMaskOps
  rcases (by omega : w % 32 = 8 ∨ w % 32 = 24) with hc | hc <;> rw [hc] <;> show some (Instr.vmfle _ _ _ _ _ _) = _ <;>
    rw [bits_of (v := u_s) (by omega), bits_of (v := u_d) (by omega), bits_of (v := u_a) (by omega), bits_of (v := u_b) (by omega), bits_of (v := u_k) (by omega), bits_of (v := u_l) (by omega)]

theorem kand (u_s u_d u_a u_b : BitVec 3) : Statement (.kand u_s u_d u_a u_b) := by
  intro _ w h
  obtain ⟨h32, hmj, hlow, hu_s, hu_d, hu_a, hu_b⟩ := shape_16 (mj := 45) (low := 9) u_s u_d u_a u_b (by decide) (by decide) (Option.some.inj h)
  refine ⟨h32, ?_⟩
  rw [major_45 w hmj]
  unfold rawMaskOps
  rw [show w % 32 = 9 by omega]
  show some (Instr.kand _ _ _ _) = _
  rw [hu_s, hu_d, hu_a, hu_b]

theorem kor (u_s u_d u_a u_b : BitVec 3) : Statement (.kor u_s u_d u_a u_b) := by
  intro _ w h
  obtain ⟨h32, hmj, hlow, hu_s, hu_d, hu_a, hu_b⟩ := shape_16 (mj := 45) (low := 10) u_s u_d u_a u_b (by decide) (by decide) (Option.some.inj h)
  refine ⟨h32, ?_⟩
  rw [major_45 w hmj]
  unfold rawMaskOps
  rw [show w % 32 = 10 by omega]
  show some (Instr.kor _ _ _ _) = _
  rw [hu_s, hu_d, hu_a, hu_b]

theorem kxor (u_s u_d u_a u_b : BitVec 3) : Statement (.kxor u_s u_d u_a u_b) := by
  intro _ w h
  obtain ⟨h32, hmj, hlow, hu_s, hu_d, hu_a, hu_b⟩ := shape_16 (mj := 45) (low := 11) u_s u_d u_a u_b (by decide) (by decide) (Option.some.inj h)
  refine ⟨h32, ?_⟩
  rw [major_45 w hmj]
  unfold rawMaskOps
  rw [show w % 32 = 11 by omega]
  show some (Instr.kxor _ _ _ _) = _
  rw [hu_s, hu_d, hu_a, hu_b]

theorem kandn (u_s u_d u_a u_b : BitVec 3) : Statement (.kandn u_s u_d u_a u_b) := by
  intro _ w h
  obtain ⟨h32, hmj, hlow, hu_s, hu_d, hu_a, hu_b⟩ := shape_16 (mj := 45) (low := 12) u_s u_d u_a u_b (by decide) (by decide) (Option.some.inj h)
  refine ⟨h32, ?_⟩
  rw [major_45 w hmj]
  unfold rawMaskOps
  rw [show w % 32 = 12 by omega]
  show some (Instr.kandn _ _ _ _) = _
  rw [hu_s, hu_d, hu_a, hu_b]

theorem knot (u_s u_d u_a : BitVec 3) : Statement (.knot u_s u_d u_a) := by
  intro _ w h
  replace h : layWord 0xB400000D [(u_s.toNat, 23), (u_d.toNat, 18), (u_a.toNat, 13)] = w := Option.some.inj h
  simp only [layWord] at h
  have := u_s.isLt; have := u_d.isLt; have := u_a.isLt
  refine ⟨by omega, ?_⟩
  rw [major_45 w (by omega)]
  unfold rawMaskOps
  rw [show w % 32 = 13 by omega]
  show some (Instr.knot _ _ _) = _
  rw [bits_of (v := u_s) (by omega), bits_of (v := u_d) (by omega), bits_of (v := u_a) (by omega)]

theorem kpopc (u_s : BitVec 3) (u_d : BitVec 5) (u_a u_k : BitVec 3) : Statement (.kpopc u_s u_d u_a u_k) := by
  intro _ w h
  obtain ⟨h32, hmj, hlow, hu_s, hu_d, hu_a, hu_k⟩ := shape_18 (mj := 45) (low := 14) u_s u_d u_a u_k (by decide) (by decide) (Option.some.inj h)
  refine ⟨h32, ?_⟩
  rw [major_45 w hmj]
  unfold rawMaskOps
  rw [show w % 32 = 14 by omega]
  show some (Instr.kpopc _ _ _ _) = _
  rw [hu_s, hu_d, hu_a, hu_k]

theorem kfirst (u_s : BitVec 3) (u_d : BitVec 5) (u_a u_k : BitVec 3) : Statement (.kfirst u_s u_d u_a u_k) := by
  intro _ w h
  obtain ⟨h32, hmj, hlow, hu_s, hu_d, hu_a, hu_k⟩ := shape_18 (mj := 45) (low := 15) u_s u_d u_a u_k (by decide) (by decide) (Option.some.inj h)
  refine ⟨h32, ?_⟩
  rw [major_45 w hmj]
  unfold rawMaskOps
  rw [show w % 32 = 15 by omega]
  show some (Instr.kfirst _ _ _ _) = _
  rw [hu_s, hu_d, hu_a, hu_k]

theorem vsel (u_s : BitVec 3) (u_d u_a u_b : BitVec 5) (u_k : BitVec 3) : Statement (.vsel u_s u_d u_a u_b u_k) := by
  intro _ w h
  obtain ⟨h32, hmj, hlow, hu_s, hu_d, hu_a, hu_b, hu_k⟩ := shape_1 (mj := 45) (low := 16) u_s u_d u_a u_b u_k (by decide) (by decide) (Option.some.inj h)
  refine ⟨h32, ?_⟩
  rw [major_45 w hmj]
  unfold rawMaskOps
  rw [show w % 32 = 16 by omega]
  show some (Instr.vsel _ _ _ _ _) = _
  rw [hu_s, hu_d, hu_a, hu_b, hu_k]

theorem vmv (u_s : BitVec 3) (u_d u_a : BitVec 5) (u_k : BitVec 3) : Statement (.vmv u_s u_d u_a u_k) := by
  intro _ w h
  obtain ⟨h32, hmj, hlow, hu_s, hu_d, hu_a, hu_k⟩ := shape_9 (mj := 46) (low := 0) u_s u_d u_a u_k (by decide) (by decide) (Option.some.inj h)
  refine ⟨h32, ?_⟩
  rw [major_46 w hmj]
  unfold rawMove
  rw [show w % 32 = 0 by omega]
  show some (Instr.vmv _ _ _ _) = _
  rw [hu_s, hu_d, hu_a, hu_k]

theorem vmvx (u_s : BitVec 3) (u_d u_a u_b : BitVec 5) : Statement (.vmvx u_s u_d u_a u_b) := by
  intro _ w h
  obtain ⟨h32, hmj, hlow, hu_s, hu_d, hu_a, hu_b⟩ := shape_2 (mj := 46) (low := 1) u_s u_d u_a u_b (by decide) (by decide) (Option.some.inj h)
  refine ⟨h32, ?_⟩
  rw [major_46 w hmj]
  unfold rawMove
  rw [show w % 32 = 1 by omega]
  show some (Instr.vmvx _ _ _ _) = _
  rw [hu_s, hu_d, hu_a, hu_b]

theorem vins (u_s : BitVec 3) (u_d u_a u_b : BitVec 5) (u_k : BitVec 3) : Statement (.vins u_s u_d u_a u_b u_k) := by
  intro _ w h
  obtain ⟨h32, hmj, hlow, hu_s, hu_d, hu_a, hu_b, hu_k⟩ := shape_1 (mj := 46) (low := 2) u_s u_d u_a u_b u_k (by decide) (by decide) (Option.some.inj h)
  refine ⟨h32, ?_⟩
  rw [major_46 w hmj]
  unfold rawMove
  rw [show w % 32 = 2 by omega]
  show some (Instr.vins _ _ _ _ _) = _
  rw [hu_s, hu_d, hu_a, hu_b, hu_k]

theorem vmvvk (u_s u_d : BitVec 3) (u_a : BitVec 5) (u_k : BitVec 3) : Statement (.vmvvk u_s u_d u_a u_k) := by
  intro _ w h
  replace h : layWord 0xB8000003 [(u_s.toNat, 23), (u_d.toNat, 18), (u_a.toNat, 13), (u_k.toNat, 5)] = w := Option.some.inj h
  simp only [layWord] at h
  have := u_s.isLt; have := u_d.isLt; have := u_a.isLt; have := u_k.isLt
  refine ⟨by omega, ?_⟩
  rw [major_46 w (by omega)]
  unfold rawMove
  rw [show w % 32 = 3 by omega]
  show some (Instr.vmvvk _ _ _ _) = _
  rw [bits_of (v := u_s) (by omega), bits_of (v := u_d) (by omega), bits_of (v := u_a) (by omega), bits_of (v := u_k) (by omega)]

theorem vmvkv (u_s : BitVec 3) (u_d : BitVec 5) (u_a u_k : BitVec 3) : Statement (.vmvkv u_s u_d u_a u_k) := by
  intro _ w h
  obtain ⟨h32, hmj, hlow, hu_s, hu_d, hu_a, hu_k⟩ := shape_18 (mj := 46) (low := 4) u_s u_d u_a u_k (by decide) (by decide) (Option.some.inj h)
  refine ⟨h32, ?_⟩
  rw [major_46 w hmj]
  unfold rawMove
  rw [show w % 32 = 4 by omega]
  show some (Instr.vmvkv _ _ _ _) = _
  rw [hu_s, hu_d, hu_a, hu_k]

theorem mopF64 (u_s : BitVec 3) (u_t : BitVec 2) (u_a u_b u_i : BitVec 5) (u_k : BitVec 3) : Statement (.mopF64 u_s u_t u_a u_b u_i u_k) := by
  intro _ w h
  obtain ⟨h32, hmj, hlow, hu_s, hu_t, hu_a, hu_b, hu_i, hu_k⟩ := shape_12 (mj := 48) (low := 0) u_s u_t u_a u_b u_i u_k (by decide) (by decide) (Option.some.inj h)
  refine ⟨h32, ?_⟩
  rw [major_48 w hmj]
  unfold rawMop
  rw [show w % 8 = 0 by omega]
  show some (Instr.mopF64 _ _ _ _ _ _) = _
  rw [hu_s, hu_t, hu_a, hu_b, hu_i, hu_k]

theorem mopF32 (u_s : BitVec 3) (u_t : BitVec 2) (u_a u_b u_i : BitVec 5) (u_k : BitVec 3) : Statement (.mopF32 u_s u_t u_a u_b u_i u_k) := by
  intro _ w h
  obtain ⟨h32, hmj, hlow, hu_s, hu_t, hu_a, hu_b, hu_i, hu_k⟩ := shape_12 (mj := 48) (low := 1) u_s u_t u_a u_b u_i u_k (by decide) (by decide) (Option.some.inj h)
  refine ⟨h32, ?_⟩
  rw [major_48 w hmj]
  unfold rawMop
  rw [show w % 8 = 1 by omega]
  show some (Instr.mopF32 _ _ _ _ _ _) = _
  rw [hu_s, hu_t, hu_a, hu_b, hu_i, hu_k]

theorem mopBf16 (u_s : BitVec 3) (u_t : BitVec 2) (u_a u_b u_i : BitVec 5) (u_k : BitVec 3) : Statement (.mopBf16 u_s u_t u_a u_b u_i u_k) := by
  intro _ w h
  obtain ⟨h32, hmj, hlow, hu_s, hu_t, hu_a, hu_b, hu_i, hu_k⟩ := shape_12 (mj := 48) (low := 2) u_s u_t u_a u_b u_i u_k (by decide) (by decide) (Option.some.inj h)
  refine ⟨h32, ?_⟩
  rw [major_48 w hmj]
  unfold rawMop
  rw [show w % 8 = 2 by omega]
  show some (Instr.mopBf16 _ _ _ _ _ _) = _
  rw [hu_s, hu_t, hu_a, hu_b, hu_i, hu_k]

theorem mopE4m3 (u_s : BitVec 3) (u_t : BitVec 2) (u_a u_b u_i : BitVec 5) (u_k : BitVec 3) : Statement (.mopE4m3 u_s u_t u_a u_b u_i u_k) := by
  intro _ w h
  obtain ⟨h32, hmj, hlow, hu_s, hu_t, hu_a, hu_b, hu_i, hu_k⟩ := shape_12 (mj := 48) (low := 3) u_s u_t u_a u_b u_i u_k (by decide) (by decide) (Option.some.inj h)
  refine ⟨h32, ?_⟩
  rw [major_48 w hmj]
  unfold rawMop
  rw [show w % 8 = 3 by omega]
  show some (Instr.mopE4m3 _ _ _ _ _ _) = _
  rw [hu_s, hu_t, hu_a, hu_b, hu_i, hu_k]

theorem mopE5m2 (u_s : BitVec 3) (u_t : BitVec 2) (u_a u_b u_i : BitVec 5) (u_k : BitVec 3) : Statement (.mopE5m2 u_s u_t u_a u_b u_i u_k) := by
  intro _ w h
  obtain ⟨h32, hmj, hlow, hu_s, hu_t, hu_a, hu_b, hu_i, hu_k⟩ := shape_12 (mj := 48) (low := 4) u_s u_t u_a u_b u_i u_k (by decide) (by decide) (Option.some.inj h)
  refine ⟨h32, ?_⟩
  rw [major_48 w hmj]
  unfold rawMop
  rw [show w % 8 = 4 by omega]
  show some (Instr.mopE5m2 _ _ _ _ _ _) = _
  rw [hu_s, hu_t, hu_a, hu_b, hu_i, hu_k]

theorem mopQ4x (u_s : BitVec 3) (u_t : BitVec 2) (u_a u_b u_i : BitVec 5) (u_k : BitVec 3) : Statement (.mopQ4x u_s u_t u_a u_b u_i u_k) := by
  intro _ w h
  obtain ⟨h32, hmj, hlow, hu_s, hu_t, hu_a, hu_b, hu_i, hu_k⟩ := shape_12 (mj := 48) (low := 5) u_s u_t u_a u_b u_i u_k (by decide) (by decide) (Option.some.inj h)
  refine ⟨h32, ?_⟩
  rw [major_48 w hmj]
  unfold rawMop
  rw [show w % 8 = 5 by omega]
  show some (Instr.mopQ4x _ _ _ _ _ _) = _
  rw [hu_s, hu_t, hu_a, hu_b, hu_i, hu_k]

theorem mopI4 (u_s : BitVec 3) (u_t : BitVec 2) (u_a u_b u_i : BitVec 5) (u_k : BitVec 3) : Statement (.mopI4 u_s u_t u_a u_b u_i u_k) := by
  intro _ w h
  obtain ⟨h32, hmj, hlow, hu_s, hu_t, hu_a, hu_b, hu_i, hu_k⟩ := shape_12 (mj := 48) (low := 6) u_s u_t u_a u_b u_i u_k (by decide) (by decide) (Option.some.inj h)
  refine ⟨h32, ?_⟩
  rw [major_48 w hmj]
  unfold rawMop
  rw [show w % 8 = 6 by omega]
  show some (Instr.mopI4 _ _ _ _ _ _) = _
  rw [hu_s, hu_t, hu_a, hu_b, hu_i, hu_k]

theorem halfRateWindow (u_core : Nat) : Statement (.halfRateWindow u_core) := by
  intro _ w h; exact absurd (show (none : Option Nat) = some w from h) nofun

theorem mzero (u_s : BitVec 3) (u_t : BitVec 2) : Statement (.mzero u_s u_t) := by
  intro _ w h
  replace h : layWord 0xC4000000 [(u_s.toNat, 23), (u_t.toNat, 21)] = w := Option.some.inj h
  simp only [layWord] at h
  have := u_s.isLt; have := u_t.isLt
  refine ⟨by omega, ?_⟩
  rw [major_49 w (by omega)]
  unfold rawTile
  rw [show w % 8 = 0 by omega]
  show some (Instr.mzero _ _) = _
  rw [bits_of (v := u_s) (by omega), bits_of (v := u_t) (by omega)]

theorem mrd (u_s : BitVec 3) (u_t : BitVec 2) (u_d u_r : BitVec 5) (u_k : BitVec 3) : Statement (.mrd u_s u_t u_d u_r u_k) := by
  intro _ w h
  obtain ⟨h32, hmj, hlow, hu_s, hu_t, hu_d, hu_r, hu_k⟩ := shape_24 (mj := 49) (low := 1) u_s u_t u_d u_r u_k (by decide) (by decide) (Option.some.inj h)
  refine ⟨h32, ?_⟩
  rw [major_49 w hmj]
  unfold rawTile
  rw [show w % 8 = 1 by omega]
  show some (Instr.mrd _ _ _ _ _) = _
  rw [hu_s, hu_t, hu_d, hu_r, hu_k]

theorem mwr (u_s : BitVec 3) (u_t : BitVec 2) (u_a u_r : BitVec 5) (u_k : BitVec 3) : Statement (.mwr u_s u_t u_a u_r u_k) := by
  intro _ w h
  obtain ⟨h32, hmj, hlow, hu_s, hu_t, hu_a, hu_r, hu_k⟩ := shape_24 (mj := 49) (low := 2) u_s u_t u_a u_r u_k (by decide) (by decide) (Option.some.inj h)
  refine ⟨h32, ?_⟩
  rw [major_49 w hmj]
  unfold rawTile
  rw [show w % 8 = 2 by omega]
  show some (Instr.mwr _ _ _ _ _) = _
  rw [hu_s, hu_t, hu_a, hu_r, hu_k]

theorem mld (u_s : BitVec 3) (u_t : BitVec 2) (u_a : BitVec 5) : Statement (.mld u_s u_t u_a) := by
  intro _ w h
  obtain ⟨h32, hmj, hlow, hu_s, hu_t, hu_a⟩ := shape_25 (mj := 49) (low := 3) u_s u_t u_a (by decide) (by decide) (Option.some.inj h)
  refine ⟨h32, ?_⟩
  rw [major_49 w hmj]
  unfold rawTile
  rw [show w % 8 = 3 by omega]
  show some (Instr.mld _ _ _) = _
  rw [hu_s, hu_t, hu_a]

theorem mst (u_s : BitVec 3) (u_t : BitVec 2) (u_a : BitVec 5) : Statement (.mst u_s u_t u_a) := by
  intro _ w h
  obtain ⟨h32, hmj, hlow, hu_s, hu_t, hu_a⟩ := shape_25 (mj := 49) (low := 4) u_s u_t u_a (by decide) (by decide) (Option.some.inj h)
  refine ⟨h32, ?_⟩
  rw [major_49 w hmj]
  unfold rawTile
  rw [show w % 8 = 4 by omega]
  show some (Instr.mst _ _ _) = _
  rw [hu_s, hu_t, hu_a]

theorem padd (u_s : BitVec 3) (u_d u_a u_b : BitVec 4) (u_w : BitVec 5) (u_t : BitVec 1) : Statement (.padd u_s u_d u_a u_b u_w u_t) := by
  intro _ w h
  obtain ⟨h32, hmj, hlow, hu_s, hu_d, hu_a, hu_b, hu_w, hu_t⟩ := shape_5 (mj := 52) (low := 0) u_s u_d u_a u_b u_w u_t (by decide) (by decide) (Option.some.inj h)
  refine ⟨h32, ?_⟩
  rw [major_52 w hmj]
  unfold rawPlaneArith
  rw [show w % 32 = 0 by omega]
  show some (Instr.padd _ _ _ _ _ _) = _
  rw [hu_s, hu_d, hu_a, hu_b, hu_w, hu_t]

theorem psub (u_s : BitVec 3) (u_d u_a u_b : BitVec 4) (u_w : BitVec 5) (u_t : BitVec 1) : Statement (.psub u_s u_d u_a u_b u_w u_t) := by
  intro _ w h
  obtain ⟨h32, hmj, hlow, hu_s, hu_d, hu_a, hu_b, hu_w, hu_t⟩ := shape_5 (mj := 52) (low := 1) u_s u_d u_a u_b u_w u_t (by decide) (by decide) (Option.some.inj h)
  refine ⟨h32, ?_⟩
  rw [major_52 w hmj]
  unfold rawPlaneArith
  rw [show w % 32 = 1 by omega]
  show some (Instr.psub _ _ _ _ _ _) = _
  rw [hu_s, hu_d, hu_a, hu_b, hu_w, hu_t]

theorem pmul (u_s : BitVec 3) (u_d u_a u_b : BitVec 4) (u_w : BitVec 5) (u_t : BitVec 1) : Statement (.pmul u_s u_d u_a u_b u_w u_t) := by
  intro _ w h
  obtain ⟨h32, hmj, hlow, hu_s, hu_d, hu_a, hu_b, hu_w, hu_t⟩ := shape_5 (mj := 52) (low := 2) u_s u_d u_a u_b u_w u_t (by decide) (by decide) (Option.some.inj h)
  refine ⟨h32, ?_⟩
  rw [major_52 w hmj]
  unfold rawPlaneArith
  rw [show w % 32 = 2 by omega]
  show some (Instr.pmul _ _ _ _ _ _) = _
  rw [hu_s, hu_d, hu_a, hu_b, hu_w, hu_t]

theorem pcmpeq (u_s : BitVec 3) (u_d u_a u_b : BitVec 4) (u_w : BitVec 5) (u_t : BitVec 1) : Statement (.pcmpeq u_s u_d u_a u_b u_w u_t) := by
  intro _ w h
  obtain ⟨h32, hmj, hlow, hu_s, hu_d, hu_a, hu_b, hu_w, hu_t⟩ := shape_5 (mj := 52) (low := 3) u_s u_d u_a u_b u_w u_t (by decide) (by decide) (Option.some.inj h)
  refine ⟨h32, ?_⟩
  rw [major_52 w hmj]
  unfold rawPlaneArith
  rw [show w % 32 = 3 by omega]
  show some (Instr.pcmpeq _ _ _ _ _ _) = _
  rw [hu_s, hu_d, hu_a, hu_b, hu_w, hu_t]

theorem pcmplt (u_s : BitVec 3) (u_d u_a u_b : BitVec 4) (u_w : BitVec 5) (u_t : BitVec 1) : Statement (.pcmplt u_s u_d u_a u_b u_w u_t) := by
  intro _ w h
  obtain ⟨h32, hmj, hlow, hu_s, hu_d, hu_a, hu_b, hu_w, hu_t⟩ := shape_5 (mj := 52) (low := 4) u_s u_d u_a u_b u_w u_t (by decide) (by decide) (Option.some.inj h)
  refine ⟨h32, ?_⟩
  rw [major_52 w hmj]
  unfold rawPlaneArith
  rw [show w % 32 = 4 by omega]
  show some (Instr.pcmplt _ _ _ _ _ _) = _
  rw [hu_s, hu_d, hu_a, hu_b, hu_w, hu_t]

theorem pcmpltn (u_s : BitVec 3) (u_d u_a u_b : BitVec 4) (u_w : BitVec 5) (u_t : BitVec 1) : Statement (.pcmpltn u_s u_d u_a u_b u_w u_t) := by
  intro _ w h
  obtain ⟨h32, hmj, hlow, hu_s, hu_d, hu_a, hu_b, hu_w, hu_t⟩ := shape_5 (mj := 52) (low := 5) u_s u_d u_a u_b u_w u_t (by decide) (by decide) (Option.some.inj h)
  refine ⟨h32, ?_⟩
  rw [major_52 w hmj]
  unfold rawPlaneArith
  rw [show w % 32 = 5 by omega]
  show some (Instr.pcmpltn _ _ _ _ _ _) = _
  rw [hu_s, hu_d, hu_a, hu_b, hu_w, hu_t]

theorem ptdot (u_s : BitVec 3) (u_d u_a u_b : BitVec 4) (u_w : BitVec 5) (u_t : BitVec 1) : Statement (.ptdot u_s u_d u_a u_b u_w u_t) := by
  intro _ w h
  obtain ⟨h32, hmj, hlow, hu_s, hu_d, hu_a, hu_b, hu_w, hu_t⟩ := shape_5 (mj := 52) (low := 6) u_s u_d u_a u_b u_w u_t (by decide) (by decide) (Option.some.inj h)
  refine ⟨h32, ?_⟩
  rw [major_52 w hmj]
  unfold rawPlaneArith
  rw [show w % 32 = 6 by omega]
  show some (Instr.ptdot _ _ _ _ _ _) = _
  rw [hu_s, hu_d, hu_a, hu_b, hu_w, hu_t]

theorem pcred (u_s : BitVec 3) (u_d u_a u_g : BitVec 4) (u_w : BitVec 5) (u_t : BitVec 1) : Statement (.pcred u_s u_d u_a u_g u_w u_t) := by
  intro _ w h
  obtain ⟨h32, hmj, hlow, hu_s, hu_d, hu_a, hu_g, hu_w, hu_t⟩ := shape_5 (mj := 52) (low := 7) u_s u_d u_a u_g u_w u_t (by decide) (by decide) (Option.some.inj h)
  refine ⟨h32, ?_⟩
  rw [major_52 w hmj]
  unfold rawPlaneArith
  rw [show w % 32 = 7 by omega]
  show some (Instr.pcred _ _ _ _ _ _) = _
  rw [hu_s, hu_d, hu_a, hu_g, hu_w, hu_t]

theorem pneg (u_s : BitVec 3) (u_d u_a : BitVec 4) (u_w : BitVec 5) (u_t : BitVec 1) : Statement (.pneg u_s u_d u_a u_w u_t) := by
  intro _ w h
  obtain ⟨h32, hmj, hlow, hu_s, hu_d, hu_a, hu_w, hu_t⟩ := shape_19 (mj := 52) (low := 8) u_s u_d u_a u_w u_t (by decide) (by decide) (Option.some.inj h)
  refine ⟨h32, ?_⟩
  rw [major_52 w hmj]
  unfold rawPlaneArith
  rw [show w % 32 = 8 by omega]
  show some (Instr.pneg _ _ _ _ _) = _
  rw [hu_s, hu_d, hu_a, hu_w, hu_t]

theorem pand (u_s : BitVec 3) (u_d u_a u_b : BitVec 4) (u_w : BitVec 5) (u_t : BitVec 1) : Statement (.pand u_s u_d u_a u_b u_w u_t) := by
  intro _ w h
  obtain ⟨h32, hmj, hlow, hu_s, hu_d, hu_a, hu_b, hu_w, hu_t⟩ := shape_5 (mj := 53) (low := 0) u_s u_d u_a u_b u_w u_t (by decide) (by decide) (Option.some.inj h)
  refine ⟨h32, ?_⟩
  rw [major_53 w hmj]
  unfold rawPlaneLogic
  rw [show w % 32 = 0 by omega]
  show some (Instr.pand _ _ _ _ _ _) = _
  rw [hu_s, hu_d, hu_a, hu_b, hu_w, hu_t]

theorem por (u_s : BitVec 3) (u_d u_a u_b : BitVec 4) (u_w : BitVec 5) (u_t : BitVec 1) : Statement (.por u_s u_d u_a u_b u_w u_t) := by
  intro _ w h
  obtain ⟨h32, hmj, hlow, hu_s, hu_d, hu_a, hu_b, hu_w, hu_t⟩ := shape_5 (mj := 53) (low := 1) u_s u_d u_a u_b u_w u_t (by decide) (by decide) (Option.some.inj h)
  refine ⟨h32, ?_⟩
  rw [major_53 w hmj]
  unfold rawPlaneLogic
  rw [show w % 32 = 1 by omega]
  show some (Instr.por _ _ _ _ _ _) = _
  rw [hu_s, hu_d, hu_a, hu_b, hu_w, hu_t]

theorem pxor (u_s : BitVec 3) (u_d u_a u_b : BitVec 4) (u_w : BitVec 5) (u_t : BitVec 1) : Statement (.pxor u_s u_d u_a u_b u_w u_t) := by
  intro _ w h
  obtain ⟨h32, hmj, hlow, hu_s, hu_d, hu_a, hu_b, hu_w, hu_t⟩ := shape_5 (mj := 53) (low := 2) u_s u_d u_a u_b u_w u_t (by decide) (by decide) (Option.some.inj h)
  refine ⟨h32, ?_⟩
  rw [major_53 w hmj]
  unfold rawPlaneLogic
  rw [show w % 32 = 2 by omega]
  show some (Instr.pxor _ _ _ _ _ _) = _
  rw [hu_s, hu_d, hu_a, hu_b, hu_w, hu_t]

theorem pnot (u_s : BitVec 3) (u_d u_a : BitVec 4) (u_w : BitVec 5) (u_t : BitVec 1) : Statement (.pnot u_s u_d u_a u_w u_t) := by
  intro _ w h
  obtain ⟨h32, hmj, hlow, hu_s, hu_d, hu_a, hu_w, hu_t⟩ := shape_19 (mj := 53) (low := 3) u_s u_d u_a u_w u_t (by decide) (by decide) (Option.some.inj h)
  refine ⟨h32, ?_⟩
  rw [major_53 w hmj]
  unfold rawPlaneLogic
  rw [show w % 32 = 3 by omega]
  show some (Instr.pnot _ _ _ _ _) = _
  rw [hu_s, hu_d, hu_a, hu_w, hu_t]

theorem pmaj (u_s : BitVec 3) (u_d u_a u_b : BitVec 4) (u_w : BitVec 5) (u_t : BitVec 1) : Statement (.pmaj u_s u_d u_a u_b u_w u_t) := by
  intro _ w h
  obtain ⟨h32, hmj, hlow, hu_s, hu_d, hu_a, hu_b, hu_w, hu_t⟩ := shape_5 (mj := 53) (low := 4) u_s u_d u_a u_b u_w u_t (by decide) (by decide) (Option.some.inj h)
  refine ⟨h32, ?_⟩
  rw [major_53 w hmj]
  unfold rawPlaneLogic
  rw [show w % 32 = 4 by omega]
  show some (Instr.pmaj _ _ _ _ _ _) = _
  rw [hu_s, hu_d, hu_a, hu_b, hu_w, hu_t]

theorem psel (u_s : BitVec 3) (u_d u_a u_b : BitVec 4) (u_w : BitVec 5) (u_t : BitVec 1) : Statement (.psel u_s u_d u_a u_b u_w u_t) := by
  intro _ w h
  obtain ⟨h32, hmj, hlow, hu_s, hu_d, hu_a, hu_b, hu_w, hu_t⟩ := shape_5 (mj := 53) (low := 5) u_s u_d u_a u_b u_w u_t (by decide) (by decide) (Option.some.inj h)
  refine ⟨h32, ?_⟩
  rw [major_53 w hmj]
  unfold rawPlaneLogic
  rw [show w % 32 = 5 by omega]
  show some (Instr.psel _ _ _ _ _ _) = _
  rw [hu_s, hu_d, hu_a, hu_b, hu_w, hu_t]

theorem pshl (u_s : BitVec 3) (u_d u_a u_k : BitVec 4) (u_w : BitVec 5) (u_t : BitVec 1) : Statement (.pshl u_s u_d u_a u_k u_w u_t) := by
  intro _ w h
  obtain ⟨h32, hmj, hlow, hu_s, hu_d, hu_a, hu_k, hu_w, hu_t⟩ := shape_5 (mj := 53) (low := 6) u_s u_d u_a u_k u_w u_t (by decide) (by decide) (Option.some.inj h)
  refine ⟨h32, ?_⟩
  rw [major_53 w hmj]
  unfold rawPlaneLogic
  rw [show w % 32 = 6 by omega]
  show some (Instr.pshl _ _ _ _ _ _) = _
  rw [hu_s, hu_d, hu_a, hu_k, hu_w, hu_t]

theorem pshr (u_s : BitVec 3) (u_d u_a u_k : BitVec 4) (u_w : BitVec 5) (u_t : BitVec 1) : Statement (.pshr u_s u_d u_a u_k u_w u_t) := by
  intro _ w h
  obtain ⟨h32, hmj, hlow, hu_s, hu_d, hu_a, hu_k, hu_w, hu_t⟩ := shape_5 (mj := 53) (low := 7) u_s u_d u_a u_k u_w u_t (by decide) (by decide) (Option.some.inj h)
  refine ⟨h32, ?_⟩
  rw [major_53 w hmj]
  unfold rawPlaneLogic
  rw [show w % 32 = 7 by omega]
  show some (Instr.pshr _ _ _ _ _ _) = _
  rw [hu_s, hu_d, hu_a, hu_k, hu_w, hu_t]

theorem pcopy (u_s : BitVec 3) (u_d u_a : BitVec 4) (u_w : BitVec 5) (u_t : BitVec 1) : Statement (.pcopy u_s u_d u_a u_w u_t) := by
  intro _ w h
  obtain ⟨h32, hmj, hlow, hu_s, hu_d, hu_a, hu_w, hu_t⟩ := shape_19 (mj := 53) (low := 8) u_s u_d u_a u_w u_t (by decide) (by decide) (Option.some.inj h)
  refine ⟨h32, ?_⟩
  rw [major_53 w hmj]
  unfold rawPlaneLogic
  rw [show w % 32 = 8 by omega]
  show some (Instr.pcopy _ _ _ _ _) = _
  rw [hu_s, hu_d, hu_a, hu_w, hu_t]

theorem prun (u_s : BitVec 3) (u_d u_a u_b : BitVec 4) (u_w : BitVec 5) (u_t : BitVec 1) : Statement (.prun u_s u_d u_a u_b u_w u_t) := by
  intro _ w h
  obtain ⟨h32, hmj, hlow, hu_s, hu_d, hu_a, hu_b, hu_w, hu_t⟩ := shape_5 (mj := 54) (low := 0) u_s u_d u_a u_b u_w u_t (by decide) (by decide) (Option.some.inj h)
  refine ⟨h32, ?_⟩
  rw [major_54 w hmj]
  unfold rawPlaneCtl
  rw [show w % 32 = 0 by omega]
  show some (Instr.prun _ _ _ _ _ _) = _
  rw [hu_s, hu_d, hu_a, hu_b, hu_w, hu_t]

theorem plock (u_s : BitVec 3) (u_a : BitVec 4) (u_m : BitVec 2) : Statement (.plock u_s u_a u_m) := by
  intro _ w h
  replace h : layWord 0xD8000001 [(u_s.toNat, 23), (u_a.toNat, 15), (u_m.toNat, 6)] = w := Option.some.inj h
  simp only [layWord] at h
  have := u_s.isLt; have := u_a.isLt; have := u_m.isLt
  refine ⟨by omega, ?_⟩
  rw [major_54 w (by omega)]
  unfold rawPlaneCtl
  rw [show w % 32 = 1 by omega]
  show some (Instr.plock _ _ _) = _
  rw [bits_of (v := u_s) (by omega), bits_of (v := u_a) (by omega), bits_of (v := u_m) (by omega)]

theorem lockPlaced (u_core u_slot : Nat) : Statement (.lockPlaced u_core u_slot) := by
  intro _ w h; exact absurd (show (none : Option Nat) = some w from h) nofun

theorem punlock (u_s : BitVec 3) (u_a : BitVec 4) : Statement (.punlock u_s u_a) := by
  intro _ w h
  replace h : layWord 0xD8000002 [(u_s.toNat, 23), (u_a.toNat, 15)] = w := Option.some.inj h
  simp only [layWord] at h
  have := u_s.isLt; have := u_a.isLt
  refine ⟨by omega, ?_⟩
  rw [major_54 w (by omega)]
  unfold rawPlaneCtl
  rw [show w % 32 = 2 by omega]
  show some (Instr.punlock _ _) = _
  rw [bits_of (v := u_s) (by omega), bits_of (v := u_a) (by omega)]

theorem lockRelease (u_stack u_lock : Nat) : Statement (.lockRelease u_stack u_lock) := by
  intro _ w h; exact absurd (show (none : Option Nat) = some w from h) nofun

theorem pfence (u_s : BitVec 3) : Statement (.pfence u_s) := by
  intro _ w h
  obtain ⟨h32, hmj, hlow, hu_s⟩ := shape_10 (mj := 54) (low := 3) u_s (by decide) (by decide) (Option.some.inj h)
  refine ⟨h32, ?_⟩
  rw [major_54 w hmj]
  unfold rawPlaneCtl
  rw [show w % 32 = 3 by omega]
  show some (Instr.pfence _) = _
  rw [hu_s]

theorem phset (u_s : BitVec 3) (u_d : BitVec 4) (u_a u_b : BitVec 5) : Statement (.phset u_s u_d u_a u_b) := by
  intro _ w h
  replace h : layWord 0xD8000004 [(u_s.toNat, 23), (u_d.toNat, 19), (u_a.toNat, 14), (u_b.toNat, 9)] = w := Option.some.inj h
  simp only [layWord] at h
  have := u_s.isLt; have := u_d.isLt; have := u_a.isLt; have := u_b.isLt
  refine ⟨by omega, ?_⟩
  rw [major_54 w (by omega)]
  unfold rawPlaneCtl
  rw [show w % 32 = 4 by omega]
  show some (Instr.phset _ _ _ _) = _
  rw [bits_of (v := u_s) (by omega), bits_of (v := u_d) (by omega), bits_of (v := u_a) (by omega), bits_of (v := u_b) (by omega)]

theorem phget (u_s : BitVec 3) (u_d : BitVec 5) (u_p : BitVec 4) : Statement (.phget u_s u_d u_p) := by
  intro _ w h
  replace h : layWord 0xD8000005 [(u_s.toNat, 23), (u_d.toNat, 18), (u_p.toNat, 14)] = w := Option.some.inj h
  simp only [layWord] at h
  have := u_s.isLt; have := u_d.isLt; have := u_p.isLt
  refine ⟨by omega, ?_⟩
  rw [major_54 w (by omega)]
  unfold rawPlaneCtl
  rw [show w % 32 = 5 by omega]
  show some (Instr.phget _ _ _) = _
  rw [bits_of (v := u_s) (by omega), bits_of (v := u_d) (by omega), bits_of (v := u_p) (by omega)]

theorem microprogramStart (u_op : Nat) : Statement (.microprogramStart u_op) := by
  intro _ w h; exact absurd (show (none : Option Nat) = some w from h) nofun

theorem rowOperation (u_op : Nat) : Statement (.rowOperation u_op) := by
  intro _ w h; exact absurd (show (none : Option Nat) = some w from h) nofun

theorem syncWindow (u_op : Nat) : Statement (.syncWindow u_op) := by
  intro _ w h; exact absurd (show (none : Option Nat) = some w from h) nofun

theorem refresh (u_stack u_die : Nat) : Statement (.refresh u_stack u_die) := by
  intro _ w h; exact absurd (show (none : Option Nat) = some w from h) nofun

theorem dwcfg (u_s : BitVec 3) (u_a : BitVec 5) : Statement (.dwcfg u_s u_a) := by
  intro _ w h
  obtain ⟨h32, hmj, hlow, hu_s, hu_a⟩ := shape_7 (mj := 56) (low := 0) u_s u_a (by decide) (by decide) (Option.some.inj h)
  refine ⟨h32, ?_⟩
  rw [major_56 w hmj]
  unfold rawDawn
  rw [show w % 32 = 0 by omega]
  show some (Instr.dwcfg _ _) = _
  rw [hu_s, hu_a]

theorem dwlaunch (u_s : BitVec 3) (u_e : BitVec 1) (u_a u_b : BitVec 5) (u_k : BitVec 3) : Statement (.dwlaunch u_s u_e u_a u_b u_k) := by
  intro _ w h
  obtain ⟨h32, hmj, hlow, hu_s, hu_e, hu_a, hu_b, hu_k⟩ := shape_26 (mj := 56) (low := 1) u_s u_e u_a u_b u_k (by decide) (by decide) (Option.some.inj h)
  refine ⟨h32, ?_⟩
  rw [major_56 w hmj]
  unfold rawDawn
  rw [show w % 32 = 1 by omega]
  show some (Instr.dwlaunch _ _ _ _ _) = _
  rw [hu_s, hu_e, hu_a, hu_b, hu_k]

theorem dwlaunchAt (u_s : BitVec 3) (u_e : BitVec 1) (u_a u_b : BitVec 5) (u_k : BitVec 3) : Statement (.dwlaunchAt u_s u_e u_a u_b u_k) := by
  intro _ w h
  obtain ⟨h32, hmj, hlow, hu_s, hu_e, hu_a, hu_b, hu_k⟩ := shape_26 (mj := 56) (low := 2) u_s u_e u_a u_b u_k (by decide) (by decide) (Option.some.inj h)
  refine ⟨h32, ?_⟩
  rw [major_56 w hmj]
  unfold rawDawn
  rw [show w % 32 = 2 by omega]
  show some (Instr.dwlaunchAt _ _ _ _ _) = _
  rw [hu_s, hu_e, hu_a, hu_b, hu_k]

theorem raceBegin (u_core u_slot : Nat) : Statement (.raceBegin u_core u_slot) := by
  intro _ w h; exact absurd (show (none : Option Nat) = some w from h) nofun

theorem raceEnd (u_core u_slot : Nat) : Statement (.raceEnd u_core u_slot) := by
  intro _ w h; exact absurd (show (none : Option Nat) = some w from h) nofun

theorem dwcap (u_s : BitVec 3) (u_d u_a : BitVec 5) (u_k : BitVec 3) : Statement (.dwcap u_s u_d u_a u_k) := by
  intro _ w h
  obtain ⟨h32, hmj, hlow, hu_s, hu_d, hu_a, hu_k⟩ := shape_9 (mj := 56) (low := 3) u_s u_d u_a u_k (by decide) (by decide) (Option.some.inj h)
  refine ⟨h32, ?_⟩
  rw [major_56 w hmj]
  unfold rawDawn
  rw [show w % 32 = 3 by omega]
  show some (Instr.dwcap _ _ _ _) = _
  rw [hu_s, hu_d, hu_a, hu_k]

theorem dwrd (u_s : BitVec 3) (u_d u_l : BitVec 5) (u_k : BitVec 3) : Statement (.dwrd u_s u_d u_l u_k) := by
  intro _ w h
  obtain ⟨h32, hmj, hlow, hu_s, hu_d, hu_l, hu_k⟩ := shape_9 (mj := 56) (low := 4) u_s u_d u_l u_k (by decide) (by decide) (Option.some.inj h)
  refine ⟨h32, ?_⟩
  rw [major_56 w hmj]
  unfold rawDawn
  rw [show w % 32 = 4 by omega]
  show some (Instr.dwrd _ _ _ _) = _
  rw [hu_s, hu_d, hu_l, hu_k]

theorem dwldw (u_s : BitVec 3) (u_a u_l : BitVec 5) (u_k : BitVec 3) : Statement (.dwldw u_s u_a u_l u_k) := by
  intro _ w h
  replace h : layWord 0xE0000005 [(u_s.toNat, 23), (u_a.toNat, 13), (u_l.toNat, 8), (u_k.toNat, 5)] = w := Option.some.inj h
  simp only [layWord] at h
  have := u_s.isLt; have := u_a.isLt; have := u_l.isLt; have := u_k.isLt
  refine ⟨by omega, ?_⟩
  rw [major_56 w (by omega)]
  unfold rawDawn
  rw [show w % 32 = 5 by omega]
  show some (Instr.dwldw _ _ _ _) = _
  rw [bits_of (v := u_s) (by omega), bits_of (v := u_a) (by omega), bits_of (v := u_l) (by omega), bits_of (v := u_k) (by omega)]

theorem dwmpMin (u_s : BitVec 3) (u_d u_a : BitVec 5) (u_k : BitVec 3) : Statement (.dwmpMin u_s u_d u_a u_k) := by
  intro _ w h
  obtain ⟨h32, hmj, hlow, hu_s, hu_d, hu_a, hu_k⟩ := shape_9 (mj := 56) (low := 6) u_s u_d u_a u_k (by decide) (by decide) (Option.some.inj h)
  refine ⟨h32, ?_⟩
  rw [major_56 w hmj]
  unfold rawDawn
  rw [show w % 32 = 6 by omega]
  show some (Instr.dwmpMin _ _ _ _) = _
  rw [hu_s, hu_d, hu_a, hu_k]

theorem dwmpMax (u_s : BitVec 3) (u_d u_a : BitVec 5) (u_k : BitVec 3) : Statement (.dwmpMax u_s u_d u_a u_k) := by
  intro _ w h
  obtain ⟨h32, hmj, hlow, hu_s, hu_d, hu_a, hu_k⟩ := shape_9 (mj := 56) (low := 7) u_s u_d u_a u_k (by decide) (by decide) (Option.some.inj h)
  refine ⟨h32, ?_⟩
  rw [major_56 w hmj]
  unfold rawDawn
  rw [show w % 32 = 7 by omega]
  show some (Instr.dwmpMax _ _ _ _) = _
  rw [hu_s, hu_d, hu_a, hu_k]

theorem dwrst (u_s : BitVec 3) : Statement (.dwrst u_s) := by
  intro _ w h
  obtain ⟨h32, hmj, hlow, hu_s⟩ := shape_10 (mj := 56) (low := 8) u_s (by decide) (by decide) (Option.some.inj h)
  refine ⟨h32, ?_⟩
  rw [major_56 w hmj]
  unfold rawDawn
  rw [show w % 32 = 8 by omega]
  show some (Instr.dwrst _) = _
  rw [hu_s]

theorem dwwin (u_s : BitVec 3) (u_a : BitVec 5) : Statement (.dwwin u_s u_a) := by
  intro _ w h
  obtain ⟨h32, hmj, hlow, hu_s, hu_a⟩ := shape_7 (mj := 56) (low := 9) u_s u_a (by decide) (by decide) (Option.some.inj h)
  refine ⟨h32, ?_⟩
  rw [major_56 w hmj]
  unfold rawDawn
  rw [show w % 32 = 9 by omega]
  show some (Instr.dwwin _ _) = _
  rw [hu_s, hu_a]

theorem meridianAlarm (u_core u_slot : Nat) : Statement (.meridianAlarm u_core u_slot) := by
  intro _ w h; exact absurd (show (none : Option Nat) = some w from h) nofun

theorem waitmExpiry (u_core u_slot : Nat) : Statement (.waitmExpiry u_core u_slot) := by
  intro _ w h; exact absurd (show (none : Option Nat) = some w from h) nofun

theorem asynchronousTrap (u_core u_slot : Nat) : Statement (.asynchronousTrap u_core u_slot) := by
  intro _ w h; exact absurd (show (none : Option Nat) = some w from h) nofun

theorem sliceExpiry (u_core u_slot : Nat) : Statement (.sliceExpiry u_core u_slot) := by
  intro _ w h; exact absurd (show (none : Option Nat) = some w from h) nofun

theorem waitingSwitchOut (u_core u_slot : Nat) : Statement (.waitingSwitchOut u_core u_slot) := by
  intro _ w h; exact absurd (show (none : Option Nat) = some w from h) nofun

theorem switchIn (u_core u_slot : Nat) : Statement (.switchIn u_core u_slot) := by
  intro _ w h; exact absurd (show (none : Option Nat) = some w from h) nofun

theorem waitConditionObserved (u_pid : Nat) (u_hid : BitVec 32) : Statement (.waitConditionObserved u_pid u_hid) := by
  intro _ w h; exact absurd (show (none : Option Nat) = some w from h) nofun

theorem nestHandoff (u_stack u_core u_slot : Nat) : Statement (.nestHandoff u_stack u_core u_slot) := by
  intro _ w h; exact absurd (show (none : Option Nat) = some w from h) nofun

theorem wayConversion (u_stack u_position : Nat) : Statement (.wayConversion u_stack u_position) := by
  intro _ w h; exact absurd (show (none : Option Nat) = some w from h) nofun

theorem engineCopy (u_engine : Nat) : Statement (.engineCopy u_engine) := by
  intro _ w h; exact absurd (show (none : Option Nat) = some w from h) nofun

theorem engineCturn (u_engine : Nat) : Statement (.engineCturn u_engine) := by
  intro _ w h; exact absurd (show (none : Option Nat) = some w from h) nofun

theorem enginePref (u_engine : Nat) : Statement (.enginePref u_engine) := by
  intro _ w h; exact absurd (show (none : Option Nat) = some w from h) nofun

theorem engineSnap (u_engine : Nat) : Statement (.engineSnap u_engine) := by
  intro _ w h; exact absurd (show (none : Option Nat) = some w from h) nofun

theorem engineFill (u_engine : Nat) : Statement (.engineFill u_engine) := by
  intro _ w h; exact absurd (show (none : Option Nat) = some w from h) nofun

theorem startRoot (u_pid : Nat) (u_rec : BitVec 64) : Statement (.startRoot u_pid u_rec) := by
  intro _ w h; exact absurd (show (none : Option Nat) = some w from h) nofun

theorem configure (u_pid : Nat) (u_cfg : PartCfg) : Statement (.configure u_pid u_cfg) := by
  intro _ w h; exact absurd (show (none : Option Nat) = some w from h) nofun

theorem unconfigure (u_pid : Nat) : Statement (.unconfigure u_pid) := by
  intro _ w h; exact absurd (show (none : Option Nat) = some w from h) nofun

theorem swapOut (u_pid : Nat) : Statement (.swapOut u_pid) := by
  intro _ w h; exact absurd (show (none : Option Nat) = some w from h) nofun

theorem restorePart (u_pid : Nat) : Statement (.restorePart u_pid) := by
  intro _ w h; exact absurd (show (none : Option Nat) = some w from h) nofun

theorem freezeSet (u_pid : Nat) : Statement (.freezeSet u_pid) := by
  intro _ w h; exact absurd (show (none : Option Nat) = some w from h) nofun

theorem freezeClear (u_pid : Nat) : Statement (.freezeClear u_pid) := by
  intro _ w h; exact absurd (show (none : Option Nat) = some w from h) nofun

theorem resumeMaster (u_m : BusMaster) : Statement (.resumeMaster u_m) := by
  intro _ w h; exact absurd (show (none : Option Nat) = some w from h) nofun

theorem abortMaster (u_m : BusMaster) : Statement (.abortMaster u_m) := by
  intro _ w h; exact absurd (show (none : Option Nat) = some w from h) nofun

theorem logRead (u_stack : Nat) : Statement (.logRead u_stack) := by
  intro _ w h; exact absurd (show (none : Option Nat) = some w from h) nofun

theorem logClear (u_stack : Nat) : Statement (.logClear u_stack) := by
  intro _ w h; exact absurd (show (none : Option Nat) = some w from h) nofun

theorem attest (u_pid : Nat) (u_nonce : List (BitVec 8)) : Statement (.attest u_pid u_nonce) := by
  intro _ w h; exact absurd (show (none : Option Nat) = some w from h) nofun

theorem imageTransfer (u_image : FwImage) : Statement (.imageTransfer u_image) := by
  intro _ w h; exact absurd (show (none : Option Nat) = some w from h) nofun

theorem cxlMemRead (u_who : Requester) (u_pa u_size : Nat) : Statement (.cxlMemRead u_who u_pa u_size) := by
  intro _ w h; exact absurd (show (none : Option Nat) = some w from h) nofun

theorem cxlMemWrite (u_who : Requester) (u_pa : Nat) (u_bytes : List (BitVec 8)) : Statement (.cxlMemWrite u_who u_pa u_bytes) := by
  intro _ w h; exact absurd (show (none : Option Nat) = some w from h) nofun

theorem completionTimeout (u_request : Nat) : Statement (.completionTimeout u_request) := by
  intro _ w h; exact absurd (show (none : Option Nat) = some w from h) nofun

theorem hostSnoop (u_pa : Nat) : Statement (.hostSnoop u_pa) := by
  intro _ w h; exact absurd (show (none : Option Nat) = some w from h) nofun

theorem transferRepeat (u_column : ColumnRef) (u_pa : Nat) (u_first : LaneFlips) (u_repeats : List LaneFlips) : Statement (.transferRepeat u_column u_pa u_first u_repeats) := by
  intro _ w h; exact absurd (show (none : Option Nat) = some w from h) nofun

theorem laneDiagnosis (u_column : ColumnRef) (u_pa : Nat) (u_failing : List Nat) (u_passes : Bool) : Statement (.laneDiagnosis u_column u_pa u_failing u_passes) := by
  intro _ w h; exact absurd (show (none : Option Nat) = some w from h) nofun

theorem unitLoss (u_unit : ModuleUnit) : Statement (.unitLoss u_unit) := by
  intro _ w h; exact absurd (show (none : Option Nat) = some w from h) nofun

theorem moduleReset : Statement .moduleReset := by
  intro _ w h; exact absurd (show (none : Option Nat) = some w from h) nofun

theorem coolantPressureLoss : Statement .coolantPressureLoss := by
  intro _ w h; exact absurd (show (none : Option Nat) = some w from h) nofun

theorem powerWindow (u_watts : Nat) : Statement (.powerWindow u_watts) := by
  intro _ w h; exact absurd (show (none : Option Nat) = some w from h) nofun

theorem illegalInstruction (u_w : BitVec 32) : Statement (.illegalInstruction u_w) := by
  intro _ w h; exact absurd (show (none : Option Nat) = some w from h) nofun

theorem temperatureThrottle (u_inlet : Nat) (u_dies : List Heated) : Statement (.temperatureThrottle u_inlet u_dies) := by
  intro _ w h; exact absurd (show (none : Option Nat) = some w from h) nofun

theorem softError (u_pa : Nat) (u_bits : List Nat) : Statement (.softError u_pa u_bits) := by
  intro _ w h; exact absurd (show (none : Option Nat) = some w from h) nofun

end RoundTrip
end Sys2Proof.Laws
end

