-- ==== Sys2Proof/Laws/State.lean ====
section
/-! SUPPORT. What each elementary update of the state leaves: one lemma for each field and update, all true by definition. -/

namespace Sys2Proof.Machine

@[simp] theorem State.modHart_others (f : Hart → Hart) (s : State) : (s.modHart f).others = s.others := rfl
@[simp] theorem State.modHart_cores (f : Hart → Hart) (s : State) : (s.modHart f).cores = s.cores := rfl
@[simp] theorem State.modHart_fife (f : Hart → Hart) (s : State) : (s.modHart f).fife = s.fife := rfl
@[simp] theorem State.modHart_tlb (f : Hart → Hart) (s : State) : (s.modHart f).tlb = s.tlb := rfl
@[simp] theorem State.modHart_mem (f : Hart → Hart) (s : State) : (s.modHart f).mem = s.mem := rfl
@[simp] theorem State.modHart_tags (f : Hart → Hart) (s : State) : (s.modHart f).tags = s.tags := rfl
@[simp] theorem State.modHart_flips (f : Hart → Hart) (s : State) : (s.modHart f).flips = s.flips := rfl
@[simp] theorem State.modHart_rows (f : Hart → Hart) (s : State) : (s.modHart f).rows = s.rows := rfl
@[simp] theorem State.modHart_cycle (f : Hart → Hart) (s : State) : (s.modHart f).cycle = s.cycle := rfl
@[simp] theorem State.modHart_seq (f : Hart → Hart) (s : State) : (s.modHart f).seq = s.seq := rfl
@[simp] theorem State.modHart_locks (f : Hart → Hart) (s : State) : (s.modHart f).locks = s.locks := rfl
@[simp] theorem State.modHart_refreshes (f : Hart → Hart) (s : State) : (s.modHart f).refreshes = s.refreshes := rfl
@[simp] theorem State.modHart_watermarks (f : Hart → Hart) (s : State) : (s.modHart f).watermarks = s.watermarks := rfl
@[simp] theorem State.modHart_walkers (f : Hart → Hart) (s : State) : (s.modHart f).walkers = s.walkers := rfl
@[simp] theorem State.modHart_queue (f : Hart → Hart) (s : State) : (s.modHart f).queue = s.queue := rfl
@[simp] theorem State.modHart_waiting (f : Hart → Hart) (s : State) : (s.modHart f).waiting = s.waiting := rfl
@[simp] theorem State.modHart_barriers (f : Hart → Hart) (s : State) : (s.modHart f).barriers = s.barriers := rfl
@[simp] theorem State.modHart_engines (f : Hart → Hart) (s : State) : (s.modHart f).engines = s.engines := rfl
@[simp] theorem State.modHart_parts (f : Hart → Hart) (s : State) : (s.modHart f).parts = s.parts := rfl
@[simp] theorem State.modHart_stats (f : Hart → Hart) (s : State) : (s.modHart f).stats = s.stats := rfl
@[simp] theorem State.modHart_wparts (f : Hart → Hart) (s : State) : (s.modHart f).wparts = s.wparts := rfl
@[simp] theorem State.modHart_lines (f : Hart → Hart) (s : State) : (s.modHart f).lines = s.lines := rfl
@[simp] theorem State.modHart_asyncs (f : Hart → Hart) (s : State) : (s.modHart f).asyncs = s.asyncs := rfl
@[simp] theorem State.modHart_hostHeld (f : Hart → Hart) (s : State) : (s.modHart f).hostHeld = s.hostHeld := rfl
@[simp] theorem State.modHart_logs (f : Hart → Hart) (s : State) : (s.modHart f).logs = s.logs := rfl
@[simp] theorem State.modHart_logLost (f : Hart → Hart) (s : State) : (s.modHart f).logLost = s.logLost := rfl
@[simp] theorem State.modHart_requests (f : Hart → Hart) (s : State) : (s.modHart f).requests = s.requests := rfl
@[simp] theorem State.modHart_replies (f : Hart → Hart) (s : State) : (s.modHart f).replies = s.replies := rfl
@[simp] theorem State.modHart_peersFrozen (f : Hart → Hart) (s : State) : (s.modHart f).peersFrozen = s.peersFrozen := rfl
@[simp] theorem State.modHart_fw (f : Hart → Hart) (s : State) : (s.modHart f).fw = s.fw := rfl
@[simp] theorem State.modHart_nextId (f : Hart → Hart) (s : State) : (s.modHart f).nextId = s.nextId := rfl
@[simp] theorem State.modHart_tickets (f : Hart → Hart) (s : State) : (s.modHart f).tickets = s.tickets := rfl
@[simp] theorem State.modHart_fresh (f : Hart → Hart) (s : State) : (s.modHart f).fresh = s.fresh := rfl
@[simp] theorem State.modHart_inputs (f : Hart → Hart) (s : State) : (s.modHart f).inputs = s.inputs := rfl
@[simp] theorem State.modHart_lateRefreshes (f : Hart → Hart) (s : State) : (s.modHart f).lateRefreshes = s.lateRefreshes := rfl
@[simp] theorem State.modHart_sram (f : Hart → Hart) (s : State) : (s.modHart f).sram = s.sram := rfl
@[simp] theorem State.modHart_under (f : Hart → Hart) (s : State) : (s.modHart f).under = s.under := rfl
@[simp] theorem State.modHart_buses (f : Hart → Hart) (s : State) : (s.modHart f).buses = s.buses := rfl
@[simp] theorem State.modHart_plockers (f : Hart → Hart) (s : State) : (s.modHart f).plockers = s.plockers := rfl
@[simp] theorem State.modHart_recWaits (f : Hart → Hart) (s : State) : (s.modHart f).recWaits = s.recWaits := rfl
@[simp] theorem State.modHart_starts (f : Hart → Hart) (s : State) : (s.modHart f).starts = s.starts := rfl
@[simp] theorem State.modHart_commands (f : Hart → Hart) (s : State) : (s.modHart f).commands = s.commands := rfl
@[simp] theorem State.modHart_handoffs (f : Hart → Hart) (s : State) : (s.modHart f).handoffs = s.handoffs := rfl
@[simp] theorem State.modHart_spills (f : Hart → Hart) (s : State) : (s.modHart f).spills = s.spills := rfl
@[simp] theorem State.modHart_dir (f : Hart → Hart) (s : State) : (s.modHart f).dir = s.dir := rfl
@[simp] theorem State.modHart_hostOwned (f : Hart → Hart) (s : State) : (s.modHart f).hostOwned = s.hostOwned := rfl
@[simp] theorem State.modHart_arrivals (f : Hart → Hart) (s : State) : (s.modHart f).arrivals = s.arrivals := rfl
@[simp] theorem State.modHart_me_core (f : Hart → Hart) (s : State) : (s.modHart f).me.core = s.me.core := rfl
@[simp] theorem State.modHart_me_idx (f : Hart → Hart) (s : State) : (s.modHart f).me.idx = s.me.idx := rfl
@[simp] theorem State.modHart_me_live (f : Hart → Hart) (s : State) : (s.modHart f).me.live = s.me.live := rfl
@[simp] theorem State.modHart_me_hart (f : Hart → Hart) (s : State) : (s.modHart f).me.hart = f s.me.hart := rfl
@[simp] theorem State.modHart_me_vec (f : Hart → Hart) (s : State) : (s.modHart f).me.vec = s.me.vec := rfl
@[simp] theorem State.modHart_me_since (f : Hart → Hart) (s : State) : (s.modHart f).me.since = s.me.since := rfl
@[simp] theorem State.modHart_me_forWalker (f : Hart → Hart) (s : State) : (s.modHart f).me.forWalker = s.me.forWalker := rfl

@[simp] theorem State.modVec_others (f : Vec → Vec) (s : State) : (s.modVec f).others = s.others := rfl
@[simp] theorem State.modVec_cores (f : Vec → Vec) (s : State) : (s.modVec f).cores = s.cores := rfl
@[simp] theorem State.modVec_fife (f : Vec → Vec) (s : State) : (s.modVec f).fife = s.fife := rfl
@[simp] theorem State.modVec_tlb (f : Vec → Vec) (s : State) : (s.modVec f).tlb = s.tlb := rfl
@[simp] theorem State.modVec_mem (f : Vec → Vec) (s : State) : (s.modVec f).mem = s.mem := rfl
@[simp] theorem State.modVec_tags (f : Vec → Vec) (s : State) : (s.modVec f).tags = s.tags := rfl
@[simp] theorem State.modVec_flips (f : Vec → Vec) (s : State) : (s.modVec f).flips = s.flips := rfl
@[simp] theorem State.modVec_rows (f : Vec → Vec) (s : State) : (s.modVec f).rows = s.rows := rfl
@[simp] theorem State.modVec_cycle (f : Vec → Vec) (s : State) : (s.modVec f).cycle = s.cycle := rfl
@[simp] theorem State.modVec_seq (f : Vec → Vec) (s : State) : (s.modVec f).seq = s.seq := rfl
@[simp] theorem State.modVec_locks (f : Vec → Vec) (s : State) : (s.modVec f).locks = s.locks := rfl
@[simp] theorem State.modVec_refreshes (f : Vec → Vec) (s : State) : (s.modVec f).refreshes = s.refreshes := rfl
@[simp] theorem State.modVec_watermarks (f : Vec → Vec) (s : State) : (s.modVec f).watermarks = s.watermarks := rfl
@[simp] theorem State.modVec_walkers (f : Vec → Vec) (s : State) : (s.modVec f).walkers = s.walkers := rfl
@[simp] theorem State.modVec_queue (f : Vec → Vec) (s : State) : (s.modVec f).queue = s.queue := rfl
@[simp] theorem State.modVec_waiting (f : Vec → Vec) (s : State) : (s.modVec f).waiting = s.waiting := rfl
@[simp] theorem State.modVec_barriers (f : Vec → Vec) (s : State) : (s.modVec f).barriers = s.barriers := rfl
@[simp] theorem State.modVec_engines (f : Vec → Vec) (s : State) : (s.modVec f).engines = s.engines := rfl
@[simp] theorem State.modVec_parts (f : Vec → Vec) (s : State) : (s.modVec f).parts = s.parts := rfl
@[simp] theorem State.modVec_stats (f : Vec → Vec) (s : State) : (s.modVec f).stats = s.stats := rfl
@[simp] theorem State.modVec_wparts (f : Vec → Vec) (s : State) : (s.modVec f).wparts = s.wparts := rfl
@[simp] theorem State.modVec_lines (f : Vec → Vec) (s : State) : (s.modVec f).lines = s.lines := rfl
@[simp] theorem State.modVec_asyncs (f : Vec → Vec) (s : State) : (s.modVec f).asyncs = s.asyncs := rfl
@[simp] theorem State.modVec_hostHeld (f : Vec → Vec) (s : State) : (s.modVec f).hostHeld = s.hostHeld := rfl
@[simp] theorem State.modVec_logs (f : Vec → Vec) (s : State) : (s.modVec f).logs = s.logs := rfl
@[simp] theorem State.modVec_logLost (f : Vec → Vec) (s : State) : (s.modVec f).logLost = s.logLost := rfl
@[simp] theorem State.modVec_requests (f : Vec → Vec) (s : State) : (s.modVec f).requests = s.requests := rfl
@[simp] theorem State.modVec_replies (f : Vec → Vec) (s : State) : (s.modVec f).replies = s.replies := rfl
@[simp] theorem State.modVec_peersFrozen (f : Vec → Vec) (s : State) : (s.modVec f).peersFrozen = s.peersFrozen := rfl
@[simp] theorem State.modVec_fw (f : Vec → Vec) (s : State) : (s.modVec f).fw = s.fw := rfl
@[simp] theorem State.modVec_nextId (f : Vec → Vec) (s : State) : (s.modVec f).nextId = s.nextId := rfl
@[simp] theorem State.modVec_tickets (f : Vec → Vec) (s : State) : (s.modVec f).tickets = s.tickets := rfl
@[simp] theorem State.modVec_fresh (f : Vec → Vec) (s : State) : (s.modVec f).fresh = s.fresh := rfl
@[simp] theorem State.modVec_inputs (f : Vec → Vec) (s : State) : (s.modVec f).inputs = s.inputs := rfl
@[simp] theorem State.modVec_lateRefreshes (f : Vec → Vec) (s : State) : (s.modVec f).lateRefreshes = s.lateRefreshes := rfl
@[simp] theorem State.modVec_sram (f : Vec → Vec) (s : State) : (s.modVec f).sram = s.sram := rfl
@[simp] theorem State.modVec_under (f : Vec → Vec) (s : State) : (s.modVec f).under = s.under := rfl
@[simp] theorem State.modVec_buses (f : Vec → Vec) (s : State) : (s.modVec f).buses = s.buses := rfl
@[simp] theorem State.modVec_plockers (f : Vec → Vec) (s : State) : (s.modVec f).plockers = s.plockers := rfl
@[simp] theorem State.modVec_recWaits (f : Vec → Vec) (s : State) : (s.modVec f).recWaits = s.recWaits := rfl
@[simp] theorem State.modVec_starts (f : Vec → Vec) (s : State) : (s.modVec f).starts = s.starts := rfl
@[simp] theorem State.modVec_commands (f : Vec → Vec) (s : State) : (s.modVec f).commands = s.commands := rfl
@[simp] theorem State.modVec_handoffs (f : Vec → Vec) (s : State) : (s.modVec f).handoffs = s.handoffs := rfl
@[simp] theorem State.modVec_spills (f : Vec → Vec) (s : State) : (s.modVec f).spills = s.spills := rfl
@[simp] theorem State.modVec_dir (f : Vec → Vec) (s : State) : (s.modVec f).dir = s.dir := rfl
@[simp] theorem State.modVec_hostOwned (f : Vec → Vec) (s : State) : (s.modVec f).hostOwned = s.hostOwned := rfl
@[simp] theorem State.modVec_arrivals (f : Vec → Vec) (s : State) : (s.modVec f).arrivals = s.arrivals := rfl
@[simp] theorem State.modVec_me_core (f : Vec → Vec) (s : State) : (s.modVec f).me.core = s.me.core := rfl
@[simp] theorem State.modVec_me_idx (f : Vec → Vec) (s : State) : (s.modVec f).me.idx = s.me.idx := rfl
@[simp] theorem State.modVec_me_live (f : Vec → Vec) (s : State) : (s.modVec f).me.live = s.me.live := rfl
@[simp] theorem State.modVec_me_hart (f : Vec → Vec) (s : State) : (s.modVec f).me.hart = s.me.hart := rfl
@[simp] theorem State.modVec_me_vec (f : Vec → Vec) (s : State) : (s.modVec f).me.vec = f s.me.vec := rfl
@[simp] theorem State.modVec_me_since (f : Vec → Vec) (s : State) : (s.modVec f).me.since = s.me.since := rfl
@[simp] theorem State.modVec_me_forWalker (f : Vec → Vec) (s : State) : (s.modVec f).me.forWalker = s.me.forWalker := rfl

@[simp] theorem State.physWrite_me (pa : Nat) (b : List Byte) (s : State) : (s.physWrite pa b).me = s.me := rfl
@[simp] theorem State.physWrite_others (pa : Nat) (b : List Byte) (s : State) : (s.physWrite pa b).others = s.others := rfl
@[simp] theorem State.physWrite_cores (pa : Nat) (b : List Byte) (s : State) : (s.physWrite pa b).cores = s.cores := rfl
@[simp] theorem State.physWrite_fife (pa : Nat) (b : List Byte) (s : State) : (s.physWrite pa b).fife = s.fife := rfl
@[simp] theorem State.physWrite_tlb (pa : Nat) (b : List Byte) (s : State) : (s.physWrite pa b).tlb = s.tlb := rfl
@[simp] theorem State.physWrite_rows (pa : Nat) (b : List Byte) (s : State) : (s.physWrite pa b).rows = s.rows := rfl
@[simp] theorem State.physWrite_cycle (pa : Nat) (b : List Byte) (s : State) : (s.physWrite pa b).cycle = s.cycle := rfl
@[simp] theorem State.physWrite_seq (pa : Nat) (b : List Byte) (s : State) : (s.physWrite pa b).seq = s.seq := rfl
@[simp] theorem State.physWrite_locks (pa : Nat) (b : List Byte) (s : State) : (s.physWrite pa b).locks = s.locks := rfl
@[simp] theorem State.physWrite_refreshes (pa : Nat) (b : List Byte) (s : State) : (s.physWrite pa b).refreshes = s.refreshes := rfl
@[simp] theorem State.physWrite_watermarks (pa : Nat) (b : List Byte) (s : State) : (s.physWrite pa b).watermarks = s.watermarks := rfl
@[simp] theorem State.physWrite_walkers (pa : Nat) (b : List Byte) (s : State) : (s.physWrite pa b).walkers = s.walkers := rfl
@[simp] theorem State.physWrite_queue (pa : Nat) (b : List Byte) (s : State) : (s.physWrite pa b).queue = s.queue := rfl
@[simp] theorem State.physWrite_waiting (pa : Nat) (b : List Byte) (s : State) : (s.physWrite pa b).waiting = s.waiting := rfl
@[simp] theorem State.physWrite_barriers (pa : Nat) (b : List Byte) (s : State) : (s.physWrite pa b).barriers = s.barriers := rfl
@[simp] theorem State.physWrite_engines (pa : Nat) (b : List Byte) (s : State) : (s.physWrite pa b).engines = s.engines := rfl
@[simp] theorem State.physWrite_parts (pa : Nat) (b : List Byte) (s : State) : (s.physWrite pa b).parts = s.parts := rfl
@[simp] theorem State.physWrite_stats (pa : Nat) (b : List Byte) (s : State) : (s.physWrite pa b).stats = s.stats := rfl
@[simp] theorem State.physWrite_wparts (pa : Nat) (b : List Byte) (s : State) : (s.physWrite pa b).wparts = s.wparts := rfl
@[simp] theorem State.physWrite_lines (pa : Nat) (b : List Byte) (s : State) : (s.physWrite pa b).lines = s.lines := rfl
@[simp] theorem State.physWrite_asyncs (pa : Nat) (b : List Byte) (s : State) : (s.physWrite pa b).asyncs = s.asyncs := rfl
@[simp] theorem State.physWrite_logs (pa : Nat) (b : List Byte) (s : State) : (s.physWrite pa b).logs = s.logs := rfl
@[simp] theorem State.physWrite_logLost (pa : Nat) (b : List Byte) (s : State) : (s.physWrite pa b).logLost = s.logLost := rfl
@[simp] theorem State.physWrite_requests (pa : Nat) (b : List Byte) (s : State) : (s.physWrite pa b).requests = s.requests := rfl
@[simp] theorem State.physWrite_replies (pa : Nat) (b : List Byte) (s : State) : (s.physWrite pa b).replies = s.replies := rfl
@[simp] theorem State.physWrite_peersFrozen (pa : Nat) (b : List Byte) (s : State) : (s.physWrite pa b).peersFrozen = s.peersFrozen := rfl
@[simp] theorem State.physWrite_fw (pa : Nat) (b : List Byte) (s : State) : (s.physWrite pa b).fw = s.fw := rfl
@[simp] theorem State.physWrite_nextId (pa : Nat) (b : List Byte) (s : State) : (s.physWrite pa b).nextId = s.nextId := rfl
@[simp] theorem State.physWrite_tickets (pa : Nat) (b : List Byte) (s : State) : (s.physWrite pa b).tickets = s.tickets := rfl
@[simp] theorem State.physWrite_fresh (pa : Nat) (b : List Byte) (s : State) : (s.physWrite pa b).fresh = s.fresh := rfl
@[simp] theorem State.physWrite_inputs (pa : Nat) (b : List Byte) (s : State) : (s.physWrite pa b).inputs = s.inputs := rfl
@[simp] theorem State.physWrite_lateRefreshes (pa : Nat) (b : List Byte) (s : State) : (s.physWrite pa b).lateRefreshes = s.lateRefreshes := rfl
@[simp] theorem State.physWrite_under (pa : Nat) (b : List Byte) (s : State) : (s.physWrite pa b).under = s.under := rfl
@[simp] theorem State.physWrite_buses (pa : Nat) (b : List Byte) (s : State) : (s.physWrite pa b).buses = s.buses := rfl
@[simp] theorem State.physWrite_plockers (pa : Nat) (b : List Byte) (s : State) : (s.physWrite pa b).plockers = s.plockers := rfl
@[simp] theorem State.physWrite_recWaits (pa : Nat) (b : List Byte) (s : State) : (s.physWrite pa b).recWaits = s.recWaits := rfl
@[simp] theorem State.physWrite_starts (pa : Nat) (b : List Byte) (s : State) : (s.physWrite pa b).starts = s.starts := rfl
@[simp] theorem State.physWrite_commands (pa : Nat) (b : List Byte) (s : State) : (s.physWrite pa b).commands = s.commands := rfl
@[simp] theorem State.physWrite_handoffs (pa : Nat) (b : List Byte) (s : State) : (s.physWrite pa b).handoffs = s.handoffs := rfl
@[simp] theorem State.physWrite_spills (pa : Nat) (b : List Byte) (s : State) : (s.physWrite pa b).spills = s.spills := rfl
@[simp] theorem State.physWrite_dir (pa : Nat) (b : List Byte) (s : State) : (s.physWrite pa b).dir = s.dir := rfl
@[simp] theorem State.physWrite_arrivals (pa : Nat) (b : List Byte) (s : State) : (s.physWrite pa b).arrivals = s.arrivals := rfl
@[simp] theorem State.physWrite_mem (pa : Nat) (b : List Byte) (s : State) : (s.physWrite pa b).mem = memWrite s.mem pa b := rfl

@[simp] theorem Hart.setStatus_hid (lo len v : Nat) (h : Hart) : (h.setStatus lo len v).hid = h.hid := rfl
@[simp] theorem Hart.setStatus_pid (lo len v : Nat) (h : Hart) : (h.setStatus lo len v).pid = h.pid := rfl
@[simp] theorem Hart.setStatus_pc (lo len v : Nat) (h : Hart) : (h.setStatus lo len v).pc = h.pc := rfl
@[simp] theorem Hart.setStatus_x (lo len v : Nat) (h : Hart) : (h.setStatus lo len v).x = h.x := rfl
@[simp] theorem Hart.setStatus_xtag (lo len v : Nat) (h : Hart) : (h.setStatus lo len v).xtag = h.xtag := rfl
@[simp] theorem Hart.setStatus_p (lo len v : Nat) (h : Hart) : (h.setStatus lo len v).p = h.p := rfl
@[simp] theorem Hart.setStatus_es (lo len v : Nat) (h : Hart) : (h.setStatus lo len v).es = h.es := rfl
@[simp] theorem Hart.setStatus_pv (lo len v : Nat) (h : Hart) : (h.setStatus lo len v).pv = h.pv := rfl
@[simp] theorem Hart.setStatus_pword (lo len v : Nat) (h : Hart) : (h.setStatus lo len v).pword = h.pword := rfl
@[simp] theorem Hart.setStatus_word (lo len v : Nat) (h : Hart) : (h.setStatus lo len v).word = h.word := rfl
@[simp] theorem Hart.setStatus_status (lo len v : Nat) (h : Hart) : (h.setStatus lo len v).status = setField h.status lo len v := rfl
@[simp] theorem Hart.setStatus_cause (lo len v : Nat) (h : Hart) : (h.setStatus lo len v).cause = h.cause := rfl
@[simp] theorem Hart.setStatus_epc (lo len v : Nat) (h : Hart) : (h.setStatus lo len v).epc = h.epc := rfl
@[simp] theorem Hart.setStatus_tval (lo len v : Nat) (h : Hart) : (h.setStatus lo len v).tval = h.tval := rfl
@[simp] theorem Hart.setStatus_tvec (lo len v : Nat) (h : Hart) : (h.setStatus lo len v).tvec = h.tvec := rfl
@[simp] theorem Hart.setStatus_mcmp (lo len v : Nat) (h : Hart) : (h.setStatus lo len v).mcmp = h.mcmp := rfl
@[simp] theorem Hart.setStatus_lanesReq (lo len v : Nat) (h : Hart) : (h.setStatus lo len v).lanesReq = h.lanesReq := rfl
@[simp] theorem Hart.setStatus_cnt (lo len v : Nat) (h : Hart) : (h.setStatus lo len v).cnt = h.cnt := rfl
@[simp] theorem Hart.setStatus_cntev (lo len v : Nat) (h : Hart) : (h.setStatus lo len v).cntev = h.cntev := rfl
@[simp] theorem Hart.setStatus_readyAt (lo len v : Nat) (h : Hart) : (h.setStatus lo len v).readyAt = h.readyAt := rfl
@[simp] theorem Hart.setStatus_pend (lo len v : Nat) (h : Hart) : (h.setStatus lo len v).pend = h.pend := rfl
@[simp] theorem Hart.setStatus_overrides (lo len v : Nat) (h : Hart) : (h.setStatus lo len v).overrides = h.overrides := rfl
@[simp] theorem Hart.setStatus_wait (lo len v : Nat) (h : Hart) : (h.setStatus lo len v).wait = h.wait := rfl
@[simp] theorem Hart.setStatus_waitSince (lo len v : Nat) (h : Hart) : (h.setStatus lo len v).waitSince = h.waitSince := rfl
@[simp] theorem Hart.setStatus_async (lo len v : Nat) (h : Hart) : (h.setStatus lo len v).async = h.async := rfl
@[simp] theorem Hart.setStatus_stopped (lo len v : Nat) (h : Hart) : (h.setStatus lo len v).stopped = h.stopped := rfl
@[simp] theorem Hart.setStatus_stall (lo len v : Nat) (h : Hart) : (h.setStatus lo len v).stall = h.stall := rfl
@[simp] theorem Hart.setStatus_held (lo len v : Nat) (h : Hart) : (h.setStatus lo len v).held = h.held := rfl
@[simp] theorem Hart.setStatus_frame (lo len v : Nat) (h : Hart) : (h.setStatus lo len v).frame = h.frame := rfl
@[simp] theorem Hart.setStatus_pready (lo len v : Nat) (h : Hart) : (h.setStatus lo len v).pready = h.pready := rfl

@[simp] theorem Hart.raise_hid (fl : BitVec 5) (h : Hart) : (h.raise fl).hid = h.hid := rfl
@[simp] theorem Hart.raise_pid (fl : BitVec 5) (h : Hart) : (h.raise fl).pid = h.pid := rfl
@[simp] theorem Hart.raise_pc (fl : BitVec 5) (h : Hart) : (h.raise fl).pc = h.pc := rfl
@[simp] theorem Hart.raise_x (fl : BitVec 5) (h : Hart) : (h.raise fl).x = h.x := rfl
@[simp] theorem Hart.raise_xtag (fl : BitVec 5) (h : Hart) : (h.raise fl).xtag = h.xtag := rfl
@[simp] theorem Hart.raise_p (fl : BitVec 5) (h : Hart) : (h.raise fl).p = h.p := rfl
@[simp] theorem Hart.raise_es (fl : BitVec 5) (h : Hart) : (h.raise fl).es = h.es := rfl
@[simp] theorem Hart.raise_pv (fl : BitVec 5) (h : Hart) : (h.raise fl).pv = h.pv := rfl
@[simp] theorem Hart.raise_pword (fl : BitVec 5) (h : Hart) : (h.raise fl).pword = h.pword := rfl
@[simp] theorem Hart.raise_word (fl : BitVec 5) (h : Hart) : (h.raise fl).word = h.word := rfl
@[simp] theorem Hart.raise_status (fl : BitVec 5) (h : Hart) : (h.raise fl).status = setField h.status 5 5 (h.ff ||| fl).toNat := rfl
@[simp] theorem Hart.raise_cause (fl : BitVec 5) (h : Hart) : (h.raise fl).cause = h.cause := rfl
@[simp] theorem Hart.raise_epc (fl : BitVec 5) (h : Hart) : (h.raise fl).epc = h.epc := rfl
@[simp] theorem Hart.raise_tval (fl : BitVec 5) (h : Hart) : (h.raise fl).tval = h.tval := rfl
@[simp] theorem Hart.raise_tvec (fl : BitVec 5) (h : Hart) : (h.raise fl).tvec = h.tvec := rfl
@[simp] theorem Hart.raise_mcmp (fl : BitVec 5) (h : Hart) : (h.raise fl).mcmp = h.mcmp := rfl
@[simp] theorem Hart.raise_lanesReq (fl : BitVec 5) (h : Hart) : (h.raise fl).lanesReq = h.lanesReq := rfl
@[simp] theorem Hart.raise_cnt (fl : BitVec 5) (h : Hart) : (h.raise fl).cnt = h.cnt := rfl
@[simp] theorem Hart.raise_cntev (fl : BitVec 5) (h : Hart) : (h.raise fl).cntev = h.cntev := rfl
@[simp] theorem Hart.raise_readyAt (fl : BitVec 5) (h : Hart) : (h.raise fl).readyAt = h.readyAt := rfl
@[simp] theorem Hart.raise_pend (fl : BitVec 5) (h : Hart) : (h.raise fl).pend = h.pend := rfl
@[simp] theorem Hart.raise_overrides (fl : BitVec 5) (h : Hart) : (h.raise fl).overrides = h.overrides := rfl
@[simp] theorem Hart.raise_wait (fl : BitVec 5) (h : Hart) : (h.raise fl).wait = h.wait := rfl
@[simp] theorem Hart.raise_waitSince (fl : BitVec 5) (h : Hart) : (h.raise fl).waitSince = h.waitSince := rfl
@[simp] theorem Hart.raise_async (fl : BitVec 5) (h : Hart) : (h.raise fl).async = h.async := rfl
@[simp] theorem Hart.raise_stopped (fl : BitVec 5) (h : Hart) : (h.raise fl).stopped = h.stopped := rfl
@[simp] theorem Hart.raise_stall (fl : BitVec 5) (h : Hart) : (h.raise fl).stall = h.stall := rfl
@[simp] theorem Hart.raise_held (fl : BitVec 5) (h : Hart) : (h.raise fl).held = h.held := rfl
@[simp] theorem Hart.raise_frame (fl : BitVec 5) (h : Hart) : (h.raise fl).frame = h.frame := rfl
@[simp] theorem Hart.raise_pready (fl : BitVec 5) (h : Hart) : (h.raise fl).pready = h.pready := rfl

@[simp] theorem Hart.count_hid (e n : Nat) (h : Hart) : (h.count e n).hid = h.hid := rfl
@[simp] theorem Hart.count_pid (e n : Nat) (h : Hart) : (h.count e n).pid = h.pid := rfl
@[simp] theorem Hart.count_pc (e n : Nat) (h : Hart) : (h.count e n).pc = h.pc := rfl
@[simp] theorem Hart.count_x (e n : Nat) (h : Hart) : (h.count e n).x = h.x := rfl
@[simp] theorem Hart.count_xtag (e n : Nat) (h : Hart) : (h.count e n).xtag = h.xtag := rfl
@[simp] theorem Hart.count_p (e n : Nat) (h : Hart) : (h.count e n).p = h.p := rfl
@[simp] theorem Hart.count_es (e n : Nat) (h : Hart) : (h.count e n).es = h.es := rfl
@[simp] theorem Hart.count_pv (e n : Nat) (h : Hart) : (h.count e n).pv = h.pv := rfl
@[simp] theorem Hart.count_pword (e n : Nat) (h : Hart) : (h.count e n).pword = h.pword := rfl
@[simp] theorem Hart.count_word (e n : Nat) (h : Hart) : (h.count e n).word = h.word := rfl
@[simp] theorem Hart.count_status (e n : Nat) (h : Hart) : (h.count e n).status = h.status := rfl
@[simp] theorem Hart.count_cause (e n : Nat) (h : Hart) : (h.count e n).cause = h.cause := rfl
@[simp] theorem Hart.count_epc (e n : Nat) (h : Hart) : (h.count e n).epc = h.epc := rfl
@[simp] theorem Hart.count_tval (e n : Nat) (h : Hart) : (h.count e n).tval = h.tval := rfl
@[simp] theorem Hart.count_tvec (e n : Nat) (h : Hart) : (h.count e n).tvec = h.tvec := rfl
@[simp] theorem Hart.count_mcmp (e n : Nat) (h : Hart) : (h.count e n).mcmp = h.mcmp := rfl
@[simp] theorem Hart.count_lanesReq (e n : Nat) (h : Hart) : (h.count e n).lanesReq = h.lanesReq := rfl
@[simp] theorem Hart.count_cntev (e n : Nat) (h : Hart) : (h.count e n).cntev = h.cntev := rfl
@[simp] theorem Hart.count_readyAt (e n : Nat) (h : Hart) : (h.count e n).readyAt = h.readyAt := rfl
@[simp] theorem Hart.count_pend (e n : Nat) (h : Hart) : (h.count e n).pend = h.pend := rfl
@[simp] theorem Hart.count_overrides (e n : Nat) (h : Hart) : (h.count e n).overrides = h.overrides := rfl
@[simp] theorem Hart.count_wait (e n : Nat) (h : Hart) : (h.count e n).wait = h.wait := rfl
@[simp] theorem Hart.count_waitSince (e n : Nat) (h : Hart) : (h.count e n).waitSince = h.waitSince := rfl
@[simp] theorem Hart.count_async (e n : Nat) (h : Hart) : (h.count e n).async = h.async := rfl
@[simp] theorem Hart.count_stopped (e n : Nat) (h : Hart) : (h.count e n).stopped = h.stopped := rfl
@[simp] theorem Hart.count_stall (e n : Nat) (h : Hart) : (h.count e n).stall = h.stall := rfl
@[simp] theorem Hart.count_held (e n : Nat) (h : Hart) : (h.count e n).held = h.held := rfl
@[simp] theorem Hart.count_frame (e n : Nat) (h : Hart) : (h.count e n).frame = h.frame := rfl
@[simp] theorem Hart.count_pready (e n : Nat) (h : Hart) : (h.count e n).pready = h.pready := rfl

/-- Two changes of the hart one after the other. -/
theorem State.modHart_modHart (f g : Hart → Hart) (s : State) : (s.modHart f).modHart g = s.modHart (fun h => g (f h)) := rfl

/-- Two changes of the vector state one after the other. -/
theorem State.modVec_modVec (f g : Vec → Vec) (s : State) : (s.modVec f).modVec g = s.modVec (fun v => g (f v)) := rfl

/-- A change of the hart and one of the vector state commute. -/
theorem State.modVec_modHart (f : Hart → Hart) (g : Vec → Vec) (s : State) : (s.modHart f).modVec g = (s.modVec g).modHart f := rfl

end Sys2Proof.Machine
end

