-- ==== Sys2Proof/Laws/Run.lean ====
section
/-! SUPPORT. How a meaning runs: what each step of the meaning monad answers, and the frame operations of Ops on a settled hart. -/

namespace Sys2Proof.Machine

variable {α β : Type}

/-- A sequence runs its second part on what the first answered. -/
theorem M.run_bind (x : M α) (f : α → M β) (s : State) :
    (x >>= f) s = match x s with
      | (.ok a, t) => f a t
      | (.error e, t) => (.error e, t) := by
  show ExceptT.bind x f s = _
  unfold ExceptT.bind ExceptT.mk
  show (match x s with | (r, t) => ExceptT.bindCont f r t) = _
  rcases x s with ⟨r, t⟩
  cases r <;> rfl

@[simp] theorem M.run_pure (a : α) (s : State) : (pure a : M α) s = (.ok a, s) := rfl
@[simp] theorem M.run_get (s : State) : (get : M State) s = (.ok s, s) := rfl
@[simp] theorem M.run_set (t s : State) : (set t : M Unit) s = (.ok (), t) := rfl
@[simp] theorem M.run_modify (f : State → State) (s : State) : (modify f : M Unit) s = (.ok (), f s) := rfl
@[simp] theorem M.run_throw (r : Stop) (s : State) : (throw r : M α) s = (.error r, s) := rfl
@[simp] theorem M.run_trap (c : Nat) (v : X) (s : State) : (trap c v : M α) s = (.error (.trap { code := c, tval := v }), s) := rfl

theorem M.run_map (f : α → β) (x : M α) (s : State) :
    (f <$> x) s = match x s with
      | (.ok a, t) => (.ok (f a), t)
      | (.error e, t) => (.error e, t) := by
  rw [← bind_pure_comp, M.run_bind]
  rfl

/-- A check that holds does nothing; one that fails traps. -/
theorem M.run_require (ok : Bool) (c : Nat) (v : X) (s : State) :
    require ok c v s = if ok then (.ok (), s) else (.error (.trap { code := c, tval := v }), s) := by
  cases ok <;> rfl

@[simp] theorem M.run_require_true (c : Nat) (v : X) (s : State) : require true c v s = (.ok (), s) := rfl
@[simp] theorem M.run_require_false (c : Nat) (v : X) (s : State) :
    require false c v s = (.error (.trap { code := c, tval := v }), s) := rfl

theorem M.run_observe (m : M α) (s : State) : observe m s = (.ok (m s).1, (m s).2) := by
  unfold observe
  rcases m s with ⟨r, t⟩
  rfl

/-- With no result in flight, none of a register is. -/
theorem inFlightOf_of_pend (s : State) (h : s.me.hart.pend = []) (r : Reg) : s.inFlightOf r = none := by
  simp [State.inFlightOf, h]

/-- With no result in flight, a reader waits for none. -/
theorem scoreboard_of_pend (s : State) (h : s.me.hart.pend = []) (l : List Reg) : s.scoreboard l = 0 := by
  simp [State.scoreboard, inFlightOf_of_pend s h]

/-- A reader of registers with nothing in flight issues at once. -/
theorem awaitReads_of_pend (l : List Reg) (s : State) (h : s.me.hart.pend = []) : awaitReads l s = (.ok (), s) := by
  simp [awaitReads, M.run_bind, scoreboard_of_pend s h]

/-- A read of a register with nothing in flight takes its value. -/
theorem checkRead_of_pend (w : Nat) (r : Reg) (s : State) (h : s.me.hart.pend = []) : checkRead w r s = (.ok (), s) := by
  simp [checkRead, M.run_bind, inFlightOf_of_pend s h]

/-- No read is early with nothing in flight. -/
theorem checkEarly_of_pend (wid : List (BitVec 5 × Nat)) (l : List Reg) (s : State) (h : s.me.hart.pend = []) :
    checkEarly wid l s = (.ok (), s) := by
  induction l with
  | nil => rfl
  | cons r rest ih => simp [checkEarly, M.run_bind, checkRead_of_pend _ _ s h, ih]

/-- Reads find no result in flight. -/
theorem checkReads_of_pend (wid : List (BitVec 5 × Nat)) (l : List Reg) (s : State) (h : s.me.hart.pend = []) :
    checkReads wid l s = (.ok (), s) := by
  simp [checkReads, M.run_bind, awaitReads_of_pend _ s h, checkEarly_of_pend _ _ s h]

/-- What `gate` answers without a pending prefix and without results in flight: the checks of R285 in their order. -/
theorem gate_plain (q : Req) (s : State) (hp : s.me.hart.pend = []) (hv : s.me.hart.pv = false) :
    gate q s =
      if q.sup && !s.me.hart.prv then (.error (.trap { code := 0x002 }), s)
      else if q.first && (s.vecDenied || (q.config && !s.owns)) then (.error (.trap { code := 0x180 }), s)
      else if q.scalar then (.ok true, s)
      else if q.grant && s.me.vec.grant == 0 then (.error (.trap { code := 0x182 }), s)
      else if q.cfg && s.me.vec.vill then (.error (.trap { code := 0x183 }), s)
      else if q.shape then
        (match q.strips with
         | some (c, v) => (.error (.trap { code := c, tval := v }), s)
         | none => (.ok true, s))
      else (.error (.trap { code := 0x183 }), s) := by
  have hn : s.me.hart.nullified = false := by simp [Hart.nullified, hv]
  have hq : s.me.hart.pairs q = true := by simp [Hart.pairs, hv]
  have h0 : s.pred 0 = true := by simp [State.pred, hv]
  unfold gate
  simp only [M.run_bind, M.run_get, M.run_require, hn, hq, hv, Bool.false_and, Bool.not_false, if_true, Bool.false_eq_true,
    if_false]
  cases h1 : (q.sup && !s.me.hart.prv) <;>
  cases h2 : (q.first && (s.vecDenied || (q.config && !s.owns))) <;>
  cases h3 : q.scalar <;>
  cases h4 : (q.grant && s.me.vec.grant == 0) <;>
  cases h5 : (q.cfg && s.me.vec.vill) <;>
  cases h6 : q.shape <;>
  cases h7 : q.strips <;>
  simp [trap, M.run_throw, M.run_bind, M.run_map, M.run_require, h0, awaitReads_of_pend _ s hp, checkEarly_of_pend _ _ s hp,
    checkReads_of_pend _ _ s hp]

/-- A settled hart's scalar instruction answers what its body answers. -/
theorem runScalar_plain (q : Req) (body : M X) (s : State) (hl : s.me.live = true) (hp : s.me.hart.pend = [])
    (hv : s.me.hart.pv = false) (hs : q.sup = true → s.me.hart.prv = true)
    (hf : q.first = true → (s.vecDenied || (q.config && !s.owns)) = false) (hq : q.scalar = true) :
    runScalar q body s = match body s with
      | (.ok npc, t) => .next (t.complete q.st 0 npc)
      | (.error r, t) => .next (t.stopBy r) := by
  unfold runScalar runM
  have g : gate q s = (.ok true, s) := by
    rw [gate_plain q s hp hv]
    cases h1 : q.sup <;> cases h2 : q.first <;> simp_all
  simp only [hl, if_true, M.run_bind, g]
  rcases body s with ⟨r, t⟩
  cases r <;> rfl

end Sys2Proof.Machine
end

