-- ==== Sys2Proof/Laws/Scalar.lean ====
section
/-! SUPPORT. What the shared operations of scalar instructions do for a settled hart. -/

namespace Sys2Proof.Machine

theorem retire_eq_after (st : BitVec 3) (delay : Nat) (npc : X) (s : State) : s.retire st delay npc = s.after st delay npc := rfl

/-- A completion without a step trap. -/
theorem complete_eq_after (st : BitVec 3) (delay : Nat) (npc : X) (s : State) (h : (s.me.hart.ss && !s.me.hart.prv) = false) :
    s.complete st delay npc = s.after st delay npc := by
  unfold State.complete State.stepTrap
  rw [retire_eq_after]
  exact if_neg (by rw [show (s.after st delay npc).me.hart.ss = s.me.hart.ss from rfl,
    show (s.after st delay npc).me.hart.prv = s.me.hart.prv from rfl, h]; exact Bool.false_ne_true)

/-- A write of an x register and a completion, with nothing in flight before. -/
theorem after_wXat (d : BitVec 5) (v : X) (tag : Bool) (lat : Nat) (fixed : Bool) (st : BitVec 3) (delay : Nat) (npc : X) (s : State)
    (hp : s.me.hart.pend = []) :
    (s.wXat d v tag lat fixed).after st delay npc = s.afterX d v tag lat fixed st delay npc := by
  unfold State.wXat State.afterX Hart.withX
  by_cases hd : d = 0
  · simp only [hd, if_true, true_or, ← hp]
    rfl
  · by_cases h1 : lat ≤ 1
    · have h2 : s.cycle + lat ≤ s.cycle + 1 := by omega
      simp only [State.wX, State.inFlight, hd, if_false, h1, h2, or_true, if_true, State.modHart, State.after, hp, List.filter_nil,
        Hart.count, stillPending, List.foldl_nil, true_and, if_true]
    · have h2 : ¬ s.cycle + lat ≤ s.cycle + 1 := by omega
      simp only [State.wX, State.inFlight, hd, if_false, h1, h2, or_false, State.modHart, State.after, hp, List.filter_nil,
        Hart.count, State.regVal, stillPending, List.foldl_nil, List.nil_append, false_and,
        if_false]

theorem ss_wXat (d : BitVec 5) (v : X) (tag : Bool) (lat : Nat) (fixed : Bool) (s : State) :
    (s.wXat d v tag lat fixed).me.hart.status = s.me.hart.status := by
  unfold State.wXat State.wX
  split
  · rfl
  · rfl

/-- The completion of an instruction that wrote an x register, for a settled hart. -/
theorem complete_wXat (d : BitVec 5) (v : X) (tag : Bool) (lat : Nat) (fixed : Bool) (st : BitVec 3) (delay : Nat) (npc : X)
    (s : State) (hp : s.me.hart.pend = []) (hs : (s.me.hart.ss && !s.me.hart.prv) = false) :
    (s.wXat d v tag lat fixed).complete st delay npc = s.afterX d v tag lat fixed st delay npc := by
  rw [complete_eq_after, after_wXat _ _ _ _ _ _ _ _ _ hp]
  unfold Hart.ss Hart.prv at *
  rw [ss_wXat]
  exact hs

/-- `putX` without a prefix. -/
theorem putX_plain (d : BitVec 5) (v : X) (tag : Bool) (lat : Nat) (fixed : Bool) (s : State) (hv : s.me.hart.pv = false) :
    putX d v tag lat fixed s = (.ok (), s.wXat d v tag lat fixed) := by
  unfold putX
  simp [Hart.copyReg, hv]

/-- An instruction that computes x[d] does that and nothing else. -/
theorem computeX_settled (st : BitVec 3) (d : BitVec 5) (srcs : List (BitVec 5)) (lat : Nat) (fixed : Bool) (f : State → X)
    (s : State) (h : s.settled) :
    computeX st d srcs lat fixed f s = .next (s.afterX d (f s) false lat fixed st 0 (s.pc + 4)) := by
  obtain ⟨hl, hp, ho, hv, hs⟩ := h
  unfold computeX
  rw [runScalar_plain _ _ _ hl hp hv (by simp) (by simp) rfl]
  simp only [M.run_bind, M.run_get, putX_plain _ _ _ _ _ s hv, M.run_pure]
  rw [complete_wXat _ _ _ _ _ _ _ _ _ hp hs]

/-- A conditional branch of a settled hart. -/
theorem branchIf_settled (st : BitVec 3) (a b : BitVec 5) (off : BitVec 13) (cond : X → X → Bool) (s : State) (h : s.settled) :
    branchIf st a b off cond s =
      .next (if cond (s.rX a) (s.rX b) then s.after st 2 (branchTarget s.pc off) else s.after st 0 (s.pc + 4)) := by
  obtain ⟨hl, hp, ho, hv, hs⟩ := h
  unfold branchIf runM
  rw [if_pos hl]
  have g : gate { st := st, srcs := [Reg.x a, Reg.x b] } s = (.ok true, s) := by rw [gate_plain _ s hp hv]; rfl
  simp only [M.run_bind, g]
  cases hc : cond (s.rX a) (s.rX b) <;> simp only [if_true, M.run_bind, M.run_get, hc, done, M.run_modify, complete_eq_after _ _ _ s hs,
    Bool.false_eq_true, if_false]

/-- A trap taken in a meaning of a live hart. -/
theorem runM_trap (c : Nat) (v : X) (m : M Unit) (s t : State) (hl : s.me.live = true)
    (hm : m s = (.error (.trap { code := c, tval := v }), t)) :
    runM m s = .next (t.enterTrap false t.pc { code := c, tval := v }) := by
  unfold runM
  rw [if_pos hl, hm]
  rfl

/-- The registers that a settled hart reads hold their values. -/
theorem rX_settled (s : State) (h : s.settled) (n : BitVec 5) : s.rX n = if n = 0 then 0 else s.me.hart.x[n.toNat] := by
  unfold State.rX State.chosen
  rw [h.2.2.1]
  rfl

end Sys2Proof.Machine
end

