-- ==== Sys2Proof/Laws/Translate.lean ====
section
/-! SUPPORT. A translation that is held depends on the held translations alone (R304): what an access that needs no walk leaves. -/

namespace Sys2Proof.Machine

/-- A translation that is put into a TLB is the newest. -/
theorem holdTlb_newest (e : TlbEntry) (s : State) : ∃ l, (s.holdTlb e).tlb = e :: l := ⟨_, rfl⟩

/-- A list whose first entry covers an address is not one in which none covers it. -/
theorem find_newest {p : TlbEntry → Bool} {e : TlbEntry} {l : List TlbEntry} (h : p e = true) : (e :: l).find? p ≠ none := by
  simp [h]

/-- A translation that changes nothing is a hit in the unit's first TLB: every other one installs an entry there. -/
theorem translate_hit {s : State} {unit pid : Nat} {prv : Bool} {k : Access} {va : X} {a : Agent} {p : Phys}
    (h : s.translate unit pid prv k va a = (.ok p, s)) :
    canonical va = true ∧ ∃ e, s.tlb.find? (fun e => e.covers unit (firstTlb unit k) pid va.toNat) = some e ∧
      ptePermits e.pte k prv = true ∧ p = leafPhys e.pte e.size va := by
  by_cases hc : canonical va = true
  case neg => simp [State.translate, hc] at h
  rcases he : s.tlb.find? (fun e => e.covers unit (firstTlb unit k) pid va.toNat) with _ | e
  case some =>
    cases hp : ptePermits e.pte k prv
    · simp [State.translate, hc, he, hp] at h
    · refine ⟨hc, e, he, hp, ?_⟩
      simp [State.translate, hc, he, hp] at h
      exact h.symm
  case none =>
    exfalso
    have none_new : ∀ (e : TlbEntry) (u : State), e.covers unit (firstTlb unit k) pid va.toNat = true → u.holdTlb e ≠ s := by
      intro e u hv hu
      obtain ⟨l, hl⟩ := holdTlb_newest e u
      rw [← hu, hl] at he
      exact find_newest (p := fun e => e.covers unit (firstTlb unit k) pid va.toNat) hv he
    unfold State.translate at h
    simp only [hc, he, Bool.not_true, Bool.false_eq_true, if_false] at h
    rcases hs : s.tlb.find? (fun e => e.covers unit 2 pid va.toNat) with _ | e
    · rcases hq : s.part? pid with _ | q
      · simp [hs, hq] at h
      · rcases hw : s.walk pid k.cls va a 3 0 q.cfg.root with ⟨_ | ⟨e, level, at_⟩, u⟩
        · simp [hs, hq, hw] at h
        · cases hp : ptePermits e k prv <;> simp [hs, hq, hw, hp] at h
          exact none_new _ _ (by simp [TlbEntry.covers]) h.2
    · cases hp : ptePermits e.pte k prv <;> simp [hs, hp] at h
      have hv := List.find?_some hs
      simp only [TlbEntry.covers, Bool.and_eq_true, beq_iff_eq] at hv
      exact none_new _ _ (by simp [TlbEntry.covers, hv]) h.2

/-- A held translation is the same in every state that holds the same translations (R304). -/
theorem translate_held {s t : State} {unit pid : Nat} {prv : Bool} {k : Access} {va : X} {a : Agent} {p : Phys}
    (h : s.translate unit pid prv k va a = (.ok p, s)) (ht : t.tlb = s.tlb) : t.translate unit pid prv k va a = (.ok p, t) := by
  obtain ⟨hc, e, he, hp, rfl⟩ := translate_hit h
  simp [State.translate, hc, ht, he, hp]

end Sys2Proof.Machine
end

