-- ==== Sys2Proof/Tests/Slice0.lean ====
section
/-! SUPPORT. Tests: words of the manual's worked encodings for every family, an ill-formed term for each check of WellFormed, small
single steps with results from the manual, and for every statement with hypotheses a state and operands that meet them. -/

namespace Sys2Proof.Tests

set_option Elab.async false

open Sys2Proof.Machine Sys2Proof.Cert

/-! ### Decoding (worked encodings of 03 to 10 and 18 to 23) -/

/-- 03: scalar, branch, vector and prefix words. -/
theorem test_decode_03 :
    decode 0x0914C700 = .ok (.addR 2 5 6 7) ∧ decode 0x30204C02 = .ok (.ld 0 8 2 0 2) ∧
    decode 0x440C1FFD = .ok (.bne 0 3 0 0x1FFD) ∧ decode 0xA010A620 = .ok (.vfma 0 4 5 6 1 0) ∧
    decode 0x056A4000 = .ok (.pfx 2 1 1 1 9) := by decide +kernel

/-- 04: constants, division, floating point, memory, jumps, system. -/
theorem test_decode_04 :
    decode 0x24240123 = .ok (.li 0 9 0x123) ∧ decode 0x2426CDEF = .ok (.lih 0 9 0xCDEF) ∧
    decode 0x2C0C820C = .ok (.fcvt 0 3 4 2 0 0) ∧ decode 0x2C0C890D = .ok (.fcvtf 0 3 4 9 0 0) ∧
    decode 0x28296C04 = .ok (.div 0 10 11 12) ∧ decode 0x2C0C8590 = .ok (.fadd 0 3 4 5 1 1) ∧
    decode 0x341C4CFF = .ok (.sd 0 7 2 0 0xFF) ∧ decode 0x30204D02 = .ok (.ld 0 8 2 1 2) ∧
    decode 0x60002000 = .ok (.jalr 0 0 1 0) ∧ decode 0x00040000 = .ok (.ecall 0 1) ∧
    decode 0x00000001 = .ok (.eret 0 0 0) ∧ decode 0x00141C11 = .ok (.sysr 0 5 0x11) ∧
    decode 0x0000DE00 = .ok (.sysw 0 6 0) := by decide +kernel

/-- 05: configuration and vector memory. -/
theorem test_decode_05 :
    decode 0x80254005 = .ok (.setvl 0 9 10 5) ∧ decode 0x8025480A = .ok (.setvlm 0 9 10 10) ∧
    decode 0x84056000 = .ok (.vld 0 1 11 0 0) ∧ decode 0x840C8541 = .ok (.vlds 0 3 4 5 2 0) ∧
    decode 0x8C086418 = .ok (.vldx 0 2 3 4 0 3) ∧ decode 0x84146603 = .ok (.vldp 0 5 3 6 0) ∧
    decode 0x88004305 = .ok (.vsmn 0 2 3 0) ∧ decode 0x9000800A = .ok (.vpref 0 4 0 1) := by decide +kernel

/-- 06: vector computation. -/
theorem test_decode_06 :
    decode 0x94044320 = .ok (.vadd 0 1 2 3 1) ∧ decode 0x9C21200A = .ok (.vfexp2 0 8 9 0 0) ∧
    decode 0xA4121409 = .ok (.vdistIp 0 4 16 20 0 1) ∧ decode 0xB408A607 = .ok (.vmflt 0 2 5 6 0 0) ∧
    decode 0xA80C890A = .ok (.vcvt 0 3 4 9 0 10) ∧ decode 0xB0086409 = .ok (.vfrpair 0 2 3 4 0 0) ∧
    decode 0xB814E601 = .ok (.vmvx 0 5 7 6) := by decide +kernel

/-- 07: the matrix unit. -/
theorem test_decode_07 :
    decode 0xC4200000 = .ok (.mzero 0 1) ∧ decode 0xC0243008 = .ok (.mopF64 0 1 4 6 0 1) ∧
    decode 0xC42807C1 = .ok (.mrd 0 1 8 31 0) ∧ decode 0xC4290081 = .ok (.mrd 0 1 9 2 0) := by decide +kernel

/-- 08: plane instructions. -/
theorem test_decode_08 :
    decode 0xD01891E0 = .ok (.padd 0 3 1 2 7 1) ∧ decode 0xD02A19C7 = .ok (.pcred 0 5 4 3 7 0) ∧
    decode 0xD41113C6 = .ok (.pshl 0 2 2 2 15 0) ∧ decode 0xD80A9604 = .ok (.phset 0 1 10 11) ∧
    decode 0xD81CC005 = .ok (.phget 0 7 3) ∧ decode 0xD8018041 = .ok (.plock 0 3 1) ∧
    decode 0xD8018002 = .ok (.punlock 0 3) ∧ decode 0xD8000003 = .ok (.pfence 0) := by decide +kernel

/-- 09: the Dawn array. -/
theorem test_decode_09 :
    decode 0xE0008009 = .ok (.dwwin 0 4) ∧ decode 0xE000A000 = .ok (.dwcfg 0 5) ∧ decode 0xE0000008 = .ok (.dwrst 0) ∧
    decode 0xE0044301 = .ok (.dwlaunch 0 1 2 3 0) ∧ decode 0xE0180004 = .ok (.dwrd 0 6 0 0) ∧
    decode 0xE01CC003 = .ok (.dwcap 0 7 6 0) := by decide +kernel

/-- 10: ordering, publication, atomics, engines and nests. -/
theorem test_decode_10 :
    decode 0x6414C813 = .ok (.orderedLoad 0 5 6 4 1 3) ∧ decode 0x641D0A2B = .ok (.orderedStore 0 7 8 5 2 3) ∧
    decode 0x640008B0 = .ok (.fence 0 4 3) ∧ decode 0x3C14CAF1 = .ok (.amoadd 0 5 6 5 3 1) ∧
    decode 0x382D8000 = .ok (.mkref 0 11 12) ∧ decode 0x38254A02 = .ok (.pub 0 9 10 5) ∧
    decode 0x64008904 = .ok (.barsync 0 4 4) ∧ decode 0x640C8B08 = .ok (.wmadv 0 3 4 5) ∧
    decode 0x6830A000 = .ok (.epush 0 12 5) ∧ decode 0x6C014000 = .ok (.nest 0 0 10) ∧
    decode 0x6C000002 = .ok (.doneH 0) := by decide +kernel

/-- 18 to 20: words of the first three programs. -/
theorem test_decode_programs_18_to_20 :
    decode 0x303D9000 = .ok (.lbn 0 15 12 0 0) ∧ decode 0xD01891E6 = .ok (.ptdot 0 3 1 2 7 1) ∧
    decode 0xB804C003 = .ok (.vmvvk 0 1 6 0) ∧ decode 0xA81CA035 = .ok (.vcompress 0 7 5 1) ∧
    decode 0xAA20EA00 = .ok (.vcvt 4 8 7 10 0 0) ∧ decode 0x9E2D0A01 = .ok (.vfsub 4 11 8 10 0 0) ∧
    decode 0xB0358E08 = .ok (.vfrseq 0 13 12 14 0 0) ∧ decode 0x9C418F03 = .ok (.vfdiv 0 16 12 15 0 0) ∧
    decode 0x64358100 = .ok (.barinit 0 13 12) ∧ decode 0x9041C000 = .ok (.vbind 0 16 14) ∧
    decode 0x90400001 = .ok (.vunbind 0 16 0) ∧ decode 0xAC290806 = .ok (.vunzip 0 10 8 8 0) ∧
    decode 0xAC359701 = .ok (.vlift 0 13 12 23 0) ∧ decode 0xAC4D7100 = .ok (.vperm 0 19 11 17 0) := by decide +kernel

/-- 21 to 23: words of the last three programs. -/
theorem test_decode_programs_21_to_23 :
    decode 0x34254C01 = .ok (.sd 0 9 10 0 1) ∧ decode 0x0003BE19 = .ok (.syswVown 0 29) ∧
    decode 0xB8002004 = .ok (.vmvkv 0 0 1 0) ∧ decode 0x8803E000 = .ok (.vst 0 0 31 0 0) ∧
    decode 0x3C77CAF3 = .ok (.amoor 0 29 30 5 3 1) ∧ decode 0x8403BE05 = .ok (.vlmn 0 29 30 0) ∧
    decode 0x0077C001 = .ok (.eret 0 29 30) ∧ decode 0x0000DE30 = .ok (.syswWpart 0 6) ∧
    decode 0x1C318011 = .ok (.slli 0 12 12 0x11) ∧ decode 0x3415AE00 = .ok (.sd 0 5 13 2 0) := by decide +kernel

/-- The permanently illegal words, a reserved major, an unallocated function code and a nonzero zero field (R53, R65, R68). -/
theorem test_decode_rejects :
    decode 0 = .error .permanentlyIllegal ∧ decode 0xFFFFFFFF = .error .permanentlyIllegal ∧
    decode 0x70000000 = .error .reservedMajor ∧ decode 0x0914C7FF = .error .unallocated ∧
    decode 0x00040002 = .error .fieldNotZero := by decide +kernel

/-! ### Ill-formed terms, one for each check -/

/-- Operands that the instruction's chapter excludes (R90, R111, R178, R197, R203, R216). -/
theorem test_check_operands :
    (Instr.ecall 0 0).check = some .badOperand ∧ (Instr.amocas 0 31 1 0 0 1).check = some .badOperand ∧
    (Instr.epush 0 29 1).check = some .badOperand ∧ (Instr.epushT 0 29 1).check = some .badOperand ∧
    (Instr.epushAt 0 29 1).check = some .badOperand ∧ (Instr.vlm 0 30 1 2 0).check = some .badOperand ∧
    (Instr.vsm 0 30 1 2 0).check = some .badOperand ∧ (Instr.plock 0 1 0).check = some .badOperand ∧
    (Instr.dwrd 0 1 2 0).check = some .badOperand ∧ (Instr.dwldw 0 1 4 0).check = some .badOperand := by decide +kernel

/-- Control registers with rows of their own, prefixes, rounding modes (R58, R65, R79). -/
theorem test_check_codes :
    (Instr.sysw 0 1 0x19).check = some .ownRow ∧ (Instr.sysw 0 1 0x30).check = some .ownRow ∧
    (Instr.pfx 0 0 0 0 1).check = some .badPrefix ∧ (Instr.pfx 0 0 1 3 1).check = some .badPrefix ∧
    (Instr.pfx 0 0 1 2 8).check = some .badPrefix ∧ (Instr.fadd 0 1 2 3 0 1).check = some .reservedRounding ∧
    (Instr.fsqrt 0 1 2 1 5).check = some .reservedRounding ∧ (Instr.fcvt 0 1 2 3 1 5).check = some .reservedRounding := by decide +kernel

/-- Types (R80, R134, R201). -/
theorem test_check_types :
    (Instr.fcvt 0 1 2 14 0 0).check = some .reservedType ∧ (Instr.fcvtf 0 1 2 16 0 0).check = some .reservedType ∧
    (Instr.vcvt 0 1 2 18 0 0).check = some .reservedType ∧ (Instr.orderedLoad 0 1 2 0 1 7).check = some .reservedType ∧
    (Instr.orderedStore 0 1 2 0 2 4).check = some .reservedType := by decide +kernel

/-- Hints, tiers, scopes and orders (R64, R85, R201 to R203, R206). -/
theorem test_check_hints_scopes_orders :
    (Instr.ld 0 1 2 3 0).check = some .reservedHint ∧ (Instr.pref 0 3 1 0).check = some .reservedHint ∧
    (Instr.vlm 0 1 1 0 3).check = some .reservedHint ∧ (Instr.vlmn 0 1 2 3).check = some .reservedHint ∧
    (Instr.vpref 0 1 0 3).check = some .reservedHint ∧ (Instr.pub 0 1 2 9).check = some .reservedScope ∧
    (Instr.amoadd 0 1 2 12 0 1).check = some .reservedScope ∧ (Instr.amoadd 0 1 2 0 5 1).check = some .reservedOrder ∧
    (Instr.amocas 0 1 2 12 0 1).check = some .reservedScope ∧ (Instr.orderedLoad 0 1 2 12 1 0).check = some .reservedScope ∧
    (Instr.orderedLoad 0 1 2 0 2 0).check = some .reservedOrder ∧ (Instr.orderedStore 0 1 2 12 2 0).check = some .reservedScope ∧
    (Instr.orderedStore 0 1 2 0 1 0).check = some .reservedOrder ∧ (Instr.fence 0 12 1).check = some .reservedScope ∧
    (Instr.fence 0 0 0).check = some .reservedOrder ∧ (Instr.bararr 0 1 2 12).check = some .reservedScope ∧
    (Instr.dwlaunch 0 0 1 2 0).check = some .fieldNotZero ∧ (Instr.dwlaunchAt 0 0 1 2 0).check = some .fieldNotZero := by decide +kernel

/-! ### States to test on -/

/-- Translations held in a TLB of a unit: addresses below 2 GiB as they are, a managed page and a plane-mode page above them (R302). -/
def held (unit tlb : Nat) : List TlbEntry :=
  [{ core := unit, tlb := tlb, pid := 0, va := 0, size := 2 ^ 31, pte := 0xBF },
   { core := unit, tlb := tlb, pid := 0, va := 4096, size := 2 ^ 19, pte := 0x4002BF },
   { core := unit, tlb := tlb, pid := 0, va := 4097, size := 2 ^ 19, pte := 0x60012F }]

/-- A hart of supervisor level at 0x2000 that has every lane group of its core, in a partition that holds scratch, watermark 0 and
engine 0, with its translations held, and reuse off. -/
def base : State :=
  { ((State.reset.placeWord 0x0914C700).modHart fun h => { h with status := 0x28000 }).modVec fun v => { v with groups := [0] } with
    tlb := held 0 0 ++ held 0 1 ++ held 1000 3 ++ held 2000 3 ++ held 4000 3 ++ held 4001 3 }

/-- base with registers set. -/
def reg (l : List (Fin 32 × X)) : State := base.modHart fun h => { h with x := l.foldl (fun v e => v.set e.1 e.2) h.x }

/-- reg with an element width and a vector length. -/
def vec (sew : BitVec 3) (vl : X) (l : List (Fin 32 × X)) : State := (reg l).modVec fun v => { v with sew := sew, vl := vl }

/-- The translation that a unit holds for a data access of the hart's partition. -/
def entry (s : State) (unit pid : Nat) (va : X) : Option TlbEntry :=
  s.tlb.find? fun e => e.covers unit (if 1000 ≤ unit then 3 else 1) pid va.toNat

/-- Where a held translation puts an address. -/
def place (s : State) (unit : Nat) (va : X) : Phys :=
  match entry s unit s.me.hart.pid va with
  | some e => leafPhys e.pte e.size va
  | none => { pa := 0, managed := false, plane := false, cached := false }

/-- Whether a unit holds the translation of an address for an access of the hart's partition. -/
def holds (s : State) (unit pid : Nat) (prv : Bool) (k : Access) (va : X) : Bool :=
  canonical va && decide (k.cls ≠ 0) && (entry s unit pid va).any fun e => ptePermits e.pte k prv

theorem translate_of_holds {s : State} {unit pid : Nat} {prv : Bool} {k : Access} {va : X} {a : Agent} (hp : pid = s.me.hart.pid)
    (h : holds s unit pid prv k va = true) : s.translate unit pid prv k va a = (.ok (place s unit va), s) := by
  subst hp
  simp only [holds, Bool.and_eq_true, decide_eq_true_eq, Option.any_eq_true] at h
  obtain ⟨⟨hc, hk⟩, e, he, hp⟩ := h
  have hf : s.tlb.find? (fun e => e.covers unit (firstTlb unit k) s.me.hart.pid va.toNat) = some e := by
    rw [← he]; simp [entry, firstTlb, hk]
  simp [State.translate, place, hc, he, hf, hp]

/-- What `State.reachesBy` asks of an address, as a test. -/
def canPlace (s : State) (unit : Nat) (k : Access) (va : X) : Bool :=
  let p := place s unit va
  holds s unit s.me.hart.pid s.me.hart.prv k va && decide (s.unitOf p.pa s.me.hart.hid s.me.hart.pid = .serve) &&
    decide (isDram p.pa = true → s.refreshAt p.pa = false ∧ ∀ o ∈ s.seq, inBanks o.geo p.pa = true →
      s.holdsBanks o (some (s.me.hart.pid, s.me.hart.hid)) p.pa = false ∧ s.windowServes o (some (s.me.hart.pid, s.me.hart.hid)) p.pa = false)

/-- What `State.reachesBy` asks of what stands there, as a test. -/
def canReachBy (s : State) (unit : Nat) (k : Access) (va : X) : Bool :=
  let p := place s unit va
  canPlace s unit k va && decide (tagAt s.tags (p.pa / 8) ≠ 3) && decide (s.sram = []) && (List.range 8).all fun j => (flipsAt s.flips (8 * (p.pa / 128) + j)).isEmpty

/-- The codewords of a line by their numbers. -/
theorem flips_of_line {s : State} {n : Nat} (h : ((List.range 8).all fun j => (flipsAt s.flips (8 * n + j)).isEmpty) = true) :
    ∀ g, g / 8 = n → flipsAt s.flips g = [] := by
  intro g hg
  simp only [List.all_eq_true, List.mem_range, List.isEmpty_iff] at h
  have := h (g % 8) (Nat.mod_lt _ (by omega))
  rwa [show 8 * n + g % 8 = g by omega] at this

/-- An access whose bank no window serves it in leaves the windows as they are. -/
theorem chargeRow_of_closed {s : State} {pa : Nat} {who : Option (Nat × BitVec 32)}
    (h : isDram pa = true → ∀ o ∈ s.seq, inBanks o.geo pa = true → s.windowServes o who pa = false) : s.chargeRow pa who = s := by
  unfold State.chargeRow
  split
  · next hd =>
    have hm : (s.seq.map fun o =>
        if o.running && inBanks o.geo pa && s.windowServes o who pa then { o with admitted := o.admitted.map (Waiter.serve who (rowItem pa)) }
        else o) = s.seq := by
      conv => rhs; rw [← List.map_id s.seq]
      refine List.map_congr_left fun o ho => if_neg ?_
      cases hb : inBanks o.geo pa <;> simp [*]
    rw [hm]
  · rfl

theorem locateBy_of_canPlace {s : State} {unit : Nat} {k : Access} {va : X} (h : canPlace s unit k va = true) :
    s.locateBy unit k va = (.ok (place s unit va), s) := by
  simp only [canPlace, Bool.and_eq_true, decide_eq_true_eq] at h
  simp [State.locateBy, translate_of_holds rfl h.1.1, h.1.2, chargeRow_of_closed fun hd o ho hb => ((h.2 hd).2 o ho hb).2]

theorem reachesBy_of_canReach {s : State} {unit : Nat} {k : Access} {va : X} (h : canReachBy s unit k va = true) :
    s.reachesBy unit k va (place s unit va) := by
  simp only [canReachBy, Bool.and_eq_true, decide_eq_true_eq] at h
  have hp := h.1.1.1
  simp only [canPlace, Bool.and_eq_true, decide_eq_true_eq] at hp
  exact ⟨locateBy_of_canPlace h.1.1.1, hp.1.2, h.1.1.2, hp.2, h.1.2, flips_of_line h.2⟩

/-- The same through the translations of the core in focus. -/
abbrev canReach (s : State) (k : Access) (va : X) : Bool := canReachBy s s.me.core k va

theorem reaches_of_canReach {s : State} {k : Access} {va : X} (h : canReach s k va = true) :
    s.reaches k va (place s s.me.core va) := reachesBy_of_canReach h

/-- Memory is canonical, as a test. -/
theorem memOk_of {s : State} (h : decide (Memory.wf s.mem) = true) : s.memOk :=
  (of_decide_eq_true h : Memory.wf s.mem)

/-- A row-lock of a hart on the rows of p0. -/
def lockOf (hid : BitVec 32) : LockEntry :=
  { stack := 0, id := 0, pid := 0, hid := hid, handle := 0x80000000003E0000, mode := 3, placed := true, releasing := false, after := [] }

/-- A plane instruction of the hart under way. -/
def planeWork : SeqOp :=
  { id := 0, pid := 0, hid := 0, geo := 0x80000000003E0000, handles := [], rows := [], writes := [], accepted := 0, start := none,
    running := false, prog := [], unchecked := [], nextAt := 0, window := false, sinceSync := 0, owed := [], admitted := [], refused := none }

theorem base_settled : base.settled := by decide +kernel
theorem base_memOk : base.memOk := memOk_of (by decide +kernel)

/-! ### Witnesses: the premises of the statements hold together somewhere -/

theorem witness_DecodeOfEncode : (Instr.addR 2 5 6 7).wf = true ∧ encodeNat (.addR 2 5 6 7) = some 0x0914C700 := by decide +kernel

/-- Whether a state picks a slot, and what a test says of the slot, the state that the fetch leaves and the word that it gives. -/
noncomputable def fetches (s : State) (w : BitVec 32) (ok : Slot → State → Bool) : Bool :=
  match s.pick with
  | none => false
  | some o =>
    let t := ((s.passOver o).focus o.core o.idx).noteIssue
    !t.me.hart.stopped && (match t.fetch with
      | (.ok x, u) => x == w && ok o u
      | _ => false)

theorem fetches_spec {s : State} {w : BitVec 32} {ok : Slot → State → Bool} (h : fetches s w ok = true) :
    ∃ o u, s.pick = some o ∧ ((s.passOver o).focus o.core o.idx).noteIssue.me.hart.stopped = false ∧
      ((s.passOver o).focus o.core o.idx).noteIssue.fetch = (.ok w, u) ∧ ok o u = true := by
  unfold fetches at h
  cases ho : s.pick with
  | none => simp [ho] at h
  | some o =>
    rcases hf : ((s.passOver o).focus o.core o.idx).noteIssue.fetch with ⟨_ | x, u⟩
    · simp [ho, hf] at h
    · simp only [ho, hf, Bool.and_eq_true, Bool.not_eq_true', beq_iff_eq] at h
      exact ⟨o, u, rfl, h.1, by rw [← h.2.1]; exact hf, h.2.2⟩

/-- Whether the instruction issues from the slot's state and is held back there, or is not. -/
def issues (i : Instr) (w : BitVec 32) (held : Bool) (o : Slot) (u : State) : Bool :=
  match exec i (u.modHart fun h => { h with word := w }) with
  | .next r => r.me.hart.held == held && (r.me.core == o.core) && (r.me.idx == o.idx) && r.me.live
  | _ => false

theorem issues_spec {i : Instr} {w : BitVec 32} {held : Bool} {o : Slot} {u : State} (h : issues i w held o u = true) :
    ∃ r, exec i (u.modHart fun h => { h with word := w }) = .next r ∧ r.me.hart.held = held ∧ r.me.core = o.core ∧ r.me.idx = o.idx ∧
      r.me.live = true := by
  unfold issues at h
  split at h
  · next r hr => simp at h; exact ⟨r, hr, h.1.1.1, h.1.1.2, h.1.2, h.2⟩
  · cases h

/-- base with a scoreboarded result for x6 in flight, which `add x5, x6, x7` waits for. -/
def lateSource : State := base.modHart fun h => { h with pend := [{ before := .x 6 0, ready := 60, fixed := false }] }

/-- An instruction that runs, and one that is found not ready. -/
theorem witness_StepRunsTheDecodedInstruction :
    ∀ e ∈ [(base, false), (lateSource, true)], e.1.inputs = [] ∧ e.1.dueEvent = none ∧ ∃ o u r, e.1.pick = some o ∧
      ((e.1.passOver o).focus o.core o.idx).noteIssue.me.hart.stopped = false ∧
      ((e.1.passOver o).focus o.core o.idx).noteIssue.fetch = (.ok 0x0914C700, u) ∧ decode 0x0914C700 = .ok (.addR 2 5 6 7) ∧
      exec (.addR 2 5 6 7) (u.modHart fun h => { h with word := 0x0914C700 }) = .next r ∧ r.me.hart.held = e.2 ∧
      r.me.core = o.core ∧ r.me.idx = o.idx ∧ r.me.live = true := by
  intro e he
  have h : e.1.inputs = [] ∧ e.1.dueEvent = none ∧ fetches e.1 0x0914C700 (issues (.addR 2 5 6 7) 0x0914C700 e.2) = true := by
    revert e; decide +kernel
  obtain ⟨o, u, ho, hs, hf, hi⟩ := fetches_spec h.2.2
  obtain ⟨r, hr⟩ := issues_spec hi
  exact ⟨h.1, h.2.1, o, u, r, ho, hs, hf, by decide +kernel, hr⟩

/-- A module whose hart is about to fetch a word. -/
def about (w : BitVec 32) : State := State.reset.placeWord w

/-- The clauses of the cause: the two permanently illegal words, and another word. -/
theorem witness_RejectedWordTraps :
    ∀ e ∈ [(0#32, Reject.permanentlyIllegal), (0xFFFFFFFF#32, .permanentlyIllegal), (0x70000000#32, .reservedMajor)],
      (about e.1).inputs = [] ∧ (about e.1).dueEvent = none ∧ ∃ o u, (about e.1).pick = some o ∧
        (((about e.1).passOver o).focus o.core o.idx).noteIssue.me.hart.stopped = false ∧
        (((about e.1).passOver o).focus o.core o.idx).noteIssue.fetch = (.ok e.1, u) ∧ decode e.1 = .error e.2 ∧ u.me.live = true := by
  intro e he
  have h : (about e.1).inputs = [] ∧ (about e.1).dueEvent = none ∧ fetches (about e.1) e.1 (fun _ u => u.me.live) = true ∧
      decode e.1 = .error e.2 := by revert e; decide +kernel
  obtain ⟨o, u, ho, hs, hf, hl⟩ := fetches_spec h.2.2.1
  exact ⟨h.1, h.2.1, o, u, ho, hs, hf, h.2.2.2, hl⟩

theorem witness_ResetState : isDram 0x7FC00000 = true ∧ rowOf 0x7FC00000 = 1022 := by decide +kernel

theorem witness_StepKeepsMemoryCanonical : base.memOk ∧ ∃ t, step { base with inputs := [.powerWindow 0] } = .next t :=
  ⟨base_memOk, _, rfl⟩

/-- Both ends of the function codes that Table 1 of 04 does not list. -/
theorem witness_IntegerResults : base.settled ∧
    ((0x08000013#32).extractLsb' 26 6 = 0x02#6 ∧ ((0x08000013#32).extractLsb' 0 8).toNat = 0x13) ∧
    ((0x080000FF#32).extractLsb' 26 6 = 0x02#6 ∧ ((0x080000FF#32).extractLsb' 0 8).toNat = 0xFF) := ⟨base_settled, by decide +kernel⟩

/-- A zero divisor, a quotient of 15, one of 16, and both ends of the other function codes. -/
theorem witness_MultiplyDivideResults :
    (reg [(2, 9), (3, 0)]).settled ∧ (reg [(2, 9), (3, 0)]).rX 3 = 0 ∧ (reg [(2, 15), (3, 1)]).settled ∧
    (((reg [(2, 15), (3, 1)]).rX 2).sdiv ((reg [(2, 15), (3, 1)]).rX 3)).toInt.natAbs = 15 ∧ (reg [(2, 16), (3, 1)]).settled ∧
    ((reg [(2, 16), (3, 1)]).rX 2 / (reg [(2, 16), (3, 1)]).rX 3).toNat = 16 ∧
    ((0x28000008#32).extractLsb' 26 6 = 0x0A#6 ∧ ((0x28000008#32).extractLsb' 0 8).toNat = 8) ∧
    ((0x280000FF#32).extractLsb' 26 6 = 0x0A#6 ∧ ((0x280000FF#32).extractLsb' 0 8).toNat = 0xFF) := by decide +kernel

/-- base with a floating-point flag enabled: DZ, bit 3 of fen. -/
def trapping : State := (reg [(2, 0x3FF0000000000000), (3, 0)]).modHart fun h => { h with status := 0x2A000 }

/-- No raised flag enabled, and an enabled one: 1.0 / 0 with DZ enabled. -/
theorem witness_ScalarFloatResults :
    base.settled ∧ trapping.settled ∧
    (Fmt.f64.div 0 (Fmt.f64.decode (trapping.rX 2).toNat) (Fmt.f64.decode (trapping.rX 3).toNat)).2 &&& trapping.me.hart.fen ≠ 0 ∧
    (Fmt.f64.add 0 (Fmt.f64.decode (trapping.rX 2).toNat) (Fmt.f64.decode (trapping.rX 3).toNat)).2 &&& trapping.me.hart.fen = 0 := by
  decide +kernel

/-- An aligned pc; a target of jalr that is aligned, one that is not. -/
theorem witness_ControlTransfers : base.settled ∧ fieldOf base.pc 0 2 = 0 ∧
    fieldOf ((reg [(2, 0x1000)]).rX 2 + (4#13).signExtend 64) 0 2 = 0 ∧
    fieldOf ((reg [(2, 0x1000)]).rX 2 + (0x1FFF#13).signExtend 64) 0 2 ≠ 0 := by decide +kernel

/-- 1, −1, 2 and −2 with sums, products and fused sums that are zero and that are not, a divisor and a radicand. -/
theorem witness_Rounding :
    standsFor (.fin false 1 0) 1 ∧ standsFor (.fin true 1 0) (-1) ∧ standsFor (.fin false 1 1) 2 ∧ standsFor (.fin true 1 1) (-2) ∧
    (1 : ℝ) + 2 ≠ 0 ∧ (1 : ℝ) + -1 = 0 ∧ (1 : ℝ) * 2 + 1 ≠ 0 ∧ (1 : ℝ) * 2 + -2 = 0 ∧ (0 : ℝ) < 2 := by
  norm_num [standsFor]

/-- Table 5 of 02_number_formats and the examples of R35. -/
theorem test_worked_conversions :
    vecConvert 10 12 0 0x3E99999A = (0x2A, flagNX) ∧ vecConvert 10 12 0 0x3A800000 = (0x00, flagUF ||| flagNX) ∧
    vecConvert 10 0 0 0xC0200000 = (0xFE, flagNX) ∧ vecConvert 10 12 0 0x43E60000 = (0x7E, flagNX) ∧
    vecConvert 10 12 0 0x43FA0000 = (0x7F, flagOF ||| flagNX) ∧ vecConvert 10 12 1 0x43FA0000 = (0x7E, flagOF ||| flagNX) ∧
    convertTy (.flt .f32) (.flt .e4m3) 0 true 0x43FA0000 = (0x7E, flagOF ||| flagNX) := by decide +kernel

/-- base with x2 at a word of ordinary memory and x4 at a managed word that holds a reference. -/
def memory : State := { reg [(2, 0x4000), (3, 0x4001), (4, 0x80000000)] with tags := [(0x80000, 1)] }

theorem memory_settled : memory.settled ∧ memory.memOk := ⟨by decide +kernel, memOk_of (by decide +kernel)⟩

/-- Every size at both ends of the displacement, and a tagged word of a managed page. -/
theorem witness_Loads :
    (∀ l ∈ [0, 1, 2, 3], ∀ i ∈ [0x00#8, 0x7F#8, 0x80#8],
      (memory.rX 2 + i.signExtend 64 * BitVec.ofNat 64 (2 ^ l)).toNat % 2 ^ l = 0 ∧
      ∃ p, memory.reaches .load (memory.rX 2 + i.signExtend 64 * BitVec.ofNat 64 (2 ^ l)) p) ∧
    ∃ p, memory.reaches .load (memory.rX 4) p ∧ p.managed = true ∧ tagAt memory.tags (p.pa / 8) = 1 := by
  refine ⟨fun l hl i hi => ⟨?_, _, reaches_of_canReach ?_⟩, _, reaches_of_canReach (by decide +kernel), by decide +kernel⟩
  · revert l i; decide +kernel
  · revert l i; decide +kernel

theorem witness_Stores :
    (∀ l ∈ [0, 1, 2, 3], ∀ i ∈ [0x00#8, 0x7F#8, 0x80#8], ∃ p,
      memory.reaches .store (memory.rX 2 + i.signExtend 64 * BitVec.ofNat 64 (2 ^ l)) p ∧
        ¬(p.managed = true ∧ l = 3 ∧ memory.rTag 2 = true)) ∧
    ∃ p, memory.reaches .store (memory.rX 4) p ∧ ¬(p.managed = true ∧ 3 = 3 ∧ memory.rTag 2 = true) := by
  refine ⟨fun l hl i hi => ⟨_, reaches_of_canReach ?_, ?_⟩, _, reaches_of_canReach (by decide +kernel), by decide +kernel⟩
  · revert l i; decide +kernel
  · revert l i; decide +kernel

/-- The address with bit 0 set is misaligned for every size. -/
theorem witness_ScalarAccessTraps :
    memory.settled ∧ (∀ l ∈ [1, 2, 3], (memory.rX 3 + (0#8).signExtend 64 * BitVec.ofNat 64 (2 ^ l)).toNat % 2 ^ l ≠ 0) ∧
    (let s := memory.modHart fun h => { h with xtag := 4 }
     s.settled ∧ s.rTag 2 = true ∧ (s.rX 3).toNat % 8 ≠ 0) := by
  decide +kernel

theorem witness_PrefetchesComplete : base.flips = [] ∧ base.sram = [] ∧ base.seq = [] ∧ base.locks = [] ∧ base.wparts = [] ∧
    (∀ die < 16, refreshRest die base.cycle = 0) ∧ base.lateRefreshes = [] ∧ base.settled ∧ (vec 5 16 []).vectorReady ∧
    8 ≤ (vec 5 16 []).me.vec.width := by decide +kernel

/-- base under a pending prefix with polarity 0: pfx k1, whose mask is empty. -/
def prefixed : State := base.modHart fun h => { h with pv := true, pword := 0x04800000 }

/-- Without and under a pending prefix; a predicate that is false at element 0. -/
theorem witness_Prefixes :
    base.me.live = true ∧ base.me.hart.pv = false ∧ prefixed.me.live = true ∧ prefixed.me.hart.pv = true ∧
    prefixed.me.hart.pend = [] ∧ prefixed.me.hart.overrides = [] ∧ prefixed.me.hart.pword.getLsbD 21 = false ∧
    prefixed.vecDenied = false ∧ prefixed.pred 0 = false ∧ (prefixed.me.hart.ss && !prefixed.me.hart.prv) = false := by decide +kernel

/-- A hart of four elements under the pending prefix whose word is w. -/
def under (w : BitVec 32) : State := (vec 5 4 []).modHart fun h => { h with pv := true, pword := w }

/-- Prefixes pfx k0 without a copy register, with one of each class, with a class that no instruction has, and with polarity 1. -/
theorem witness_prefixedResults :
    (∀ s ∈ [under 0x04000000, under 0x0421C000, under 0x0429C000, under 0x0431C000, under 0x0439C000, under 0x04400000], s.me.live = true ∧
      s.me.hart.pend = [] ∧ s.me.hart.overrides = [] ∧ s.me.hart.pv = true ∧ s.vecDenied = false ∧ (s.me.hart.ss && !s.me.hart.prv) = false ∧
      (s.modHart fun h => { h with pv := false }).vectorReady ∧ 8 ≤ s.me.vec.width) ∧
    (∀ s ∈ [under 0x04000000, under 0x0421C000, under 0x0429C000, under 0x0431C000, under 0x0439C000],
      ((s.rK 0).getLsbD 0 != s.me.hart.pword.getLsbD 22) = true) ∧
    (0x04000000#32).getLsbD 21 = false ∧ (0x04400000#32).getLsbD 22 = true ∧ (0x04400000#32).extractLsb' 23 3 = 0 ∧
    ∀ c < 4, (0x0421C000#32 ||| (BitVec.ofNat 32 c <<< 19)).getLsbD 21 = true ∧
      (0x0421C000#32 ||| (BitVec.ofNat 32 c <<< 19)).extractLsb' 19 2 = BitVec.ofNat 2 c := by decide +kernel

/-- base with a result for x2 in flight, with status.sc set. -/
def inFlight (fixed : Bool) (ready : Nat) : State :=
  base.modHart fun h => { h with status := 0x28001, pend := [{ before := .x 2 0, ready := ready, fixed := fixed }] }

/-- One cycle early and 255 cycles early, for a result of fixed latency and for a scoreboarded one. -/
theorem witness_EarlyReads :
    ∀ f ∈ [true, false], ∀ r ∈ [49, 303], (inFlight f r).me.live = true ∧ (inFlight f r).me.hart.pv = false ∧ (2#5) ≠ 0 ∧
      (inFlight f r).me.hart.pend = [{ before := .x 2 0, ready := r, fixed := f }] ∧ (inFlight f r).cycle < r ∧
      r < (inFlight f r).cycle + 256 ∧ (inFlight f r).me.hart.sc = true := by decide +kernel

/-- The same with status.sc clear. -/
theorem witness_EarlyReads_other :
    (let s := (inFlight true 49).modHart fun h => { h with status := 0x28000 }
     s.me.live = true ∧ s.me.hart.pend = [{ before := .x 2 0, ready := 49, fixed := true }] ∧ s.cycle < 49 ∧ s.me.hart.sc = false ∧
       s.me.hart.overrides = [] ∧ (s.me.hart.ss && !s.me.hart.prv) = false) := by decide +kernel

/-- base with the frames of its partition at an address, and locks. -/
def framed (at_ : Nat) (locks : List LockEntry) : State :=
  { base.modPart 0 (fun p => { p with cfg := { p.cfg with frames := at_ } }) with locks := locks }

/-- The frame of the hart in focus. -/
def frameOf (s : State) : Nat := ((s.part? s.me.hart.pid).map (fun p => p.cfg.frames)).getD 0 + 64 * s.me.hart.hid.toNat

/-- A frame in DRAM below row 1008 that nothing holds back, with both ends of the bytes outside it; one behind another hart's row-lock; one in
a reserved row. -/
theorem witness_TrapEntry :
    (let s := framed 0x30000 []
     s.dramWaits (frameOf s) (some (s.me.hart.pid, s.me.hart.hid)) = false ∧ ¬(isDram (frameOf s) = true ∧ 1008 ≤ rowOf (frameOf s)) ∧
       s.dramLost (frameOf s) = false ∧ isScratch (frameOf s) = false ∧ (∀ g ∈ granules (frameOf s) 64, flipsAt s.flips (g / 16) = []) ∧
       frameOf s - 1 < frameOf s ∧ frameOf s + 64 ≤ frameOf s + 64) ∧
    (let s := framed 0 [lockOf 1]
     s.dramWaits (frameOf s) (some (s.me.hart.pid, s.me.hart.hid)) = true) ∧
    (let s := framed (1008 * 2 ^ 21) []
     s.dramWaits (frameOf s) (some (s.me.hart.pid, s.me.hart.hid)) = false ∧ isDram (frameOf s) = true ∧ 1008 ≤ rowOf (frameOf s)) := by
  decide +kernel

theorem witness_CallsTrap : base.me.live = true ∧ base.me.hart.pend = [] ∧ base.me.hart.pv = false := by decide +kernel

/-- base with x3 a PFX word with bit 63, and x4 a word that is no PFX word with bit 63. -/
def returning : State := reg [(3, 0x8000000004000000), (4, 0x8000000000000001)]

/-- No pending prefix, a legal one, and one that is no PFX word. -/
theorem witness_ReturnFromTrap : returning.settled ∧ returning.me.hart.prv = true ∧
    ¬((returning.rX 0).getLsbD 63 = true ∧ legalPfx ((returning.rX 0).extractLsb' 0 32) = false) ∧
    (returning.rX 3).getLsbD 63 = true ∧ legalPfx ((returning.rX 3).extractLsb' 0 32) = true ∧
    (returning.rX 4).getLsbD 63 = true ∧ legalPfx ((returning.rX 4).extractLsb' 0 32) = false := by decide +kernel

/-- base at user level. -/
def user : State := base.modHart fun h => { h with status := 0x20000 }

theorem witness_DeniedInstructionsTrap : user.me.live = true ∧ user.me.hart.pend = [] ∧ user.me.hart.pv = false ∧ user.me.hart.prv = false ∧
    ∀ c ∈ [0x001#9, 0x004#9, 0x018#9, 0x019#9, 0x021#9, 0x030#9, 0x048#9, 0x04F#9],
      (1 ≤ c.toNat ∧ c.toNat ≤ 4) ∨ c = 0x18 ∨ c = 0x19 ∨ c = 0x21 ∨ c = 0x30 ∨ (0x48 ≤ c.toNat ∧ c.toNat ≤ 0x4F) := by decide +kernel

/-- base with a MOP of its slot in flight until cycle 60. -/
def chained : State := base.modVec fun v => { v with chain := [(0, 60)] }

/-- base whose Dawn array has been written, ready in cycle 60. -/
def dawnLate : State := base.modVec fun v => { v with dawnAt := 60 }

/-- Supervisor registers at supervisor level, vector state of its owner, both ends of each range of numbers, and the ends of the ranges of
numbers that name no register; vector work in flight, a write of the Dawn array that is not ready, and neither. -/
theorem witness_ControlRegisterReads : (∀ c ∈ [0x006#9, 0x00F#9, 0x01A#9, 0x01F#9, 0x022#9, 0x02F#9, 0x031#9, 0x03F#9, 0x050#9, 0x0FF#9, 0x140#9, 0x1FF#9],
      ¬(c.toNat ≤ 0x005 ∨ (0x010 ≤ c.toNat ∧ c.toNat ≤ 0x019) ∨ c = 0x020 ∨ c = 0x021 ∨ c = 0x030 ∨
        (0x040 ≤ c.toNat ∧ c.toNat ≤ 0x04F) ∨ (0x100 ≤ c.toNat ∧ c.toNat ≤ 0x13F)) ∧ cregSupervisor c.toNat = false ∧ cregVector c.toNat = false) ∧
    chained.settled ∧ chained.owns = true ∧
    chained.cycle < max ((chained.me.vec.chain.map (fun q => q.2) ++ chained.me.vec.raceEnd.toList).foldl max 0) chained.me.vec.dawnAt ∧
    dawnLate.settled ∧ dawnLate.owns = true ∧ dawnLate.cycle < dawnLate.me.vec.dawnAt ∧ base.me.vec.dawnAt ≤ base.cycle ∧
    (base.me.vec.chain.map (fun q => q.2) ++ base.me.vec.raceEnd.toList).foldl max 0 ≤ base.cycle ∧ base.settled ∧ base.me.hart.prv = true ∧ base.vecDenied = false ∧
    user.settled ∧ cregSupervisor 0x000 = false ∧ cregVector 0x000 = false ∧ cregVector 0x13F = true ∧ cregVector 0x140 = false ∧
    (0x047#9).toNat = 0x040 + 7 ∧ (0x04F#9).toNat = 0x048 + 7 ∧ (0x13F#9).toNat = 0x100 + 63 := by decide +kernel

/-- dwin of 0 and of 1023; a reserved rounding mode and the last legal one, at both levels. -/
theorem witness_ControlRegisterWritesTakeEffect : base.settled ∧ base.me.hart.prv = true ∧ base.vecDenied = false ∧ user.settled ∧
    ((reg [(2, 1023)]).rX 2).extractLsb' 0 10 ≠ 0#10 ∧ ((reg [(2, 1024)]).rX 2).extractLsb' 0 10 = 0#10 ∧
    (((reg [(2, 0x10)]).rX 2).extractLsb' 2 3).toNat = 4 ∧ (((reg [(2, 0x14)]).rX 2).extractLsb' 2 3).toNat = 5 := by decide +kernel

/-- base with an asynchronous cause pending, and with the alarm due. -/
def pending : State := base.modHart fun h => { h with async := [{ code := 0x342, tval := 0, info0 := 0, info1 := 0 }] }
/-- base with the alarm due at mtime 0. -/
def alarmed : State := base.modHart fun h => { h with status := 0x828000 }

/-- A pending cause, a due alarm, none; an address that is not canonical, and one that is; an owner with a grant. -/
theorem witness_SystemInstructions : base.settled ∧ base.me.hart.prv = true ∧ pending.settled ∧ pending.me.hart.async ≠ [] ∧
    alarmed.settled ∧ alarmed.alarmDue alarmed.me.hart = true ∧ base.me.hart.async = [] ∧ base.alarmDue base.me.hart = false ∧
    canonical ((reg [(2, 0x0040000000000000)]).rX 2) = false ∧ canonical (base.rX 0) = true ∧
    base.planeWork base.pid (some (base.rX 0)) = [] ∧ base.planeWork base.pid none = [] ∧ base.owns = true ∧
    1 ≤ base.me.vec.grant ∧ base.me.vec.vill = false := by decide +kernel

/-- vown by the owner's number and by another; wpart of a partition that owns the scratch, with 15 ways, and of one that does not. -/
theorem witness_OwnershipWrites :
    let other : State := { base with parts := [] }
    base.settled ∧ base.me.hart.prv = true ∧ other.settled ∧ (base.rX 0).extractLsb' 0 32 = base.me.vec.owner ∧
    ((reg [(2, 1)]).rX 2).extractLsb' 0 32 ≠ (reg [(2, 1)]).me.vec.owner ∧ base.me.vec.busyUntil ≤ base.cycle ∧
    ((other.part? other.pid).map (fun p => decide ((stackOf other.me.core, positionOf other.me.core) ∈ p.cfg.scratch))).getD false = false ∧
    ((base.part? base.pid).map (fun p => decide ((stackOf base.me.core, positionOf base.me.core) ∈ p.cfg.scratch))).getD false = true ∧
    (((reg [(2, 15)]).rX 2).extractLsb' 0 5).toNat < 16 := by decide +kernel

/-- base with a header of scope 8 at the managed address in x3, tagged as a reference, and x2 at a managed word below it. -/
def headed : State :=
  { (reg [(2, 0x80000000), (3, 0x80000040)]).modHart (fun h => { h with xtag := 8 }) with
    mem := memWrite base.mem 0x400040 (leBytes 8 (8 * 2 ^ 36)), tags := [(0x80008, 2)] }

theorem headed_header : headerAt headed (headed.rX 3) (place headed 0 (headed.rX 3)) :=
  have h : (headed.rX 3).toNat % 8 = 0 ∧ (place headed 0 (headed.rX 3)).managed = true ∧
      tagAt headed.tags ((place headed 0 (headed.rX 3)).pa / 8) = 2 ∧
      headerValid (BitVec.ofNat 64 (bytesAt headed (place headed 0 (headed.rX 3)).pa 8)) = true := by decide +kernel
  ⟨memOk_of (by decide +kernel), h.1, reaches_of_canReach (by decide +kernel), h.2⟩

theorem witness_ReferenceInstructions :
    headed.settled ∧ headerAt headed (headed.rX 3) (place headed 0 (headed.rX 3)) ∧ headed.rTag 3 = true ∧
      (let w : X := BitVec.ofNat 64 (bytesAt headed (place headed 0 (headed.rX 3)).pa 8)
       fieldOf w 36 4 = 8 ∧ bitAt w 0 = false) ∧ headed.interruptAhead = none ∧ (headed.rX 2).toNat % 8 = 0 ∧
      headed.reaches .store (headed.rX 2) (place headed 0 (headed.rX 2)) ∧ (place headed 0 (headed.rX 2)).managed = true ∧
      headed.headerBelow ((place headed 0 (headed.rX 2)).pa / 8) = none := by
  refine ⟨?_, headed_header, ?_, ?_, ?_, ?_, reaches_of_canReach ?_, ?_⟩ <;> decide +kernel

/-- headed with the header words h1 at the address in x3 and h2 at the managed address 0x80000080, and x6 at the word after the latter. -/
def referring (h1 h2 : Nat) : State :=
  { headed.modHart fun h => { h with x := h.x.set 6 0x80000088 } with
    mem := memWrite (memWrite base.mem 0x400040 (leBytes 8 h1)) 0x400080 (leBytes 8 h2), tags := [(0x80008, 2), (0x80010, 2)] }

/-- The scope of the object that contains a word, none where its header is invalid. -/
def scopeAt (s : State) (pa : Nat) : Option Nat :=
  match s.containing pa with
  | .error _ => none
  | .ok c => some (match c with | some (_, w) => fieldOf w 36 4 | none => 8)

/-- A store of the reference in x3 to the word in no object at x2 and to the word at x6: a header of scope 8 that is no candidate, one that is,
one of scope 0, an invalid one and a word with no tag; a container with an invalid header, and a private one. -/
theorem witness_storesReference :
    (∀ s ∈ [referring (8 * 2 ^ 36) 0, referring (8 * 2 ^ 36 + 1) 0, referring 0 0, referring (9 * 2 ^ 36) 0,
        referring (8 * 2 ^ 36) (9 * 2 ^ 36), referring 0 (15 * 2 ^ 36 + 2 ^ 40), { referring 0 0 with tags := [] }],
      s.settled ∧ s.memOk ∧ s.rTag 3 = true ∧ (∀ r ∈ [2, 6], (s.rX r).toNat % 8 = 0 ∧ s.reaches .store (s.rX r) (place s 0 (s.rX r)) ∧
        (place s 0 (s.rX r)).managed = true) ∧
      s.reaches .otherRead (s.rX 3) (place s 0 (s.rX 3)) ∧ (place s 0 (s.rX 3)).managed = true ∧ (s.rX 3).toNat % 8 = 0) ∧
    (∀ h ∈ [0, 8 * 2 ^ 36, 8 * 2 ^ 36 + 1], headerValid (BitVec.ofNat 64 h) = true) ∧ headerValid (BitVec.ofNat 64 (9 * 2 ^ 36)) = false ∧
    tagAt (referring 0 0).tags ((place (referring 0 0) 0 ((referring 0 0).rX 3)).pa / 8) = 2 ∧
    scopeAt (referring 0 0) (place (referring 0 0) 0 ((referring 0 0).rX 2)).pa = some 8 ∧ scopeRank 0 < scopeRank 8 ∧
    (let s := referring (8 * 2 ^ 36) (9 * 2 ^ 36)
     scopeAt s (place s 0 (s.rX 6)).pa = none) ∧
    (let s := referring 0 (15 * 2 ^ 36 + 2 ^ 40)
     scopeAt s (place s 0 (s.rX 6)).pa = some 15) := by
  refine ⟨fun s hs => ?_, by decide +kernel⟩
  have h : s.settled ∧ decide (Memory.wf s.mem) = true ∧ s.rTag 3 = true ∧ (∀ r ∈ [2, 6], (s.rX r).toNat % 8 = 0 ∧
      canReach s .store (s.rX r) = true ∧ (place s 0 (s.rX r)).managed = true) ∧
      canReach s .otherRead (s.rX 3) = true ∧ (place s 0 (s.rX 3)).managed = true ∧ (s.rX 3).toNat % 8 = 0 ∧ s.me.core = 0 := by
    revert s; decide +kernel
  obtain ⟨h1, h2, h3, h4, h5, h6, h7, h8⟩ := h
  refine ⟨h1, memOk_of h2, h3, fun r hr => ⟨(h4 r hr).1, ?_, (h4 r hr).2.2⟩, ?_, h6, h7⟩
  · have := reaches_of_canReach (h4 r hr).2.1
    rwa [h8] at this
  · have := reaches_of_canReach h5
    rwa [h8] at this

/-- memory with poison at the managed address in x4. -/
def poisoned : State := { memory with tags := [(0x80000, 3)] }

theorem witness_storesToPoison :
    poisoned.settled ∧ (∀ l ∈ [0, 1, 2, 3], (poisoned.rX 4 + (0#8).signExtend 64 * BitVec.ofNat 64 (2 ^ l)).toNat % 2 ^ l = 0 ∧
      poisoned.locate .store (poisoned.rX 4 + (0#8).signExtend 64 * BitVec.ofNat 64 (2 ^ l)) =
        (.ok (place poisoned 0 (poisoned.rX 4)), poisoned)) ∧
    (place poisoned 0 (poisoned.rX 4)).managed = true ∧ tagAt poisoned.tags ((place poisoned 0 (poisoned.rX 4)).pa / 8) = 3 ∧
    poisoned.sram = [] ∧ (∀ g, g / 8 = (place poisoned 0 (poisoned.rX 4)).pa / 128 → flipsAt poisoned.flips g = []) ∧
    poisoned.rTag 2 = false := by
  have h : ∀ l ∈ [0, 1, 2, 3], poisoned.rX 4 + (0#8).signExtend 64 * BitVec.ofNat 64 (2 ^ l) = poisoned.rX 4 := by decide +kernel
  refine ⟨by decide +kernel, fun l hl => ?_, by decide +kernel, by decide +kernel, by decide +kernel, flips_of_line (by decide +kernel),
    by decide +kernel⟩
  rw [h l hl]
  exact ⟨by revert l; decide +kernel, locateBy_of_canPlace (by decide +kernel)⟩

/-- headed, whose object of scope 0 has two words of data, with x2 at an unmanaged word and x4 at the managed word of `witness_publishes`. -/
def publishing : State := { (referring (2 * 2 ^ 40) 0).modHart fun h => { h with x := h.x.set 5 0x4000 } with tags := [(0x80008, 2)] }

/-- An object of scope 0 with two words, published at scope 1 to an unmanaged word and at scope 8 to a word in no object; a word without a header. -/
theorem witness_publishes :
    publishing.settled ∧ publishing.interruptAhead = none ∧ publishing.rTag 3 = true ∧ headerAt publishing (publishing.rX 3) (place publishing 0 (publishing.rX 3)) ∧
    (let h : X := BitVec.ofNat 64 (bytesAt publishing (place publishing 0 (publishing.rX 3)).pa 8)
     fieldOf h 36 4 = 0 ∧ fieldOf h 40 24 = 2 ∧ scopeRank 0 < 1) ∧
    (∀ r ∈ [2, 5], (publishing.rX r).toNat % 8 = 0 ∧ publishing.reaches .store (publishing.rX r) (place publishing 0 (publishing.rX r)) ∧
      (place publishing 0 (publishing.rX r)).pa / 8 ≠ (place publishing 0 (publishing.rX 3)).pa / 8) ∧
    (place publishing 0 (publishing.rX 5)).managed = false ∧ publishing.headerBelow ((place publishing 0 (publishing.rX 2)).pa / 8) = none ∧
    (∀ j ∈ [1, 2], publishing.reaches .otherRead (publishing.rX 3 + BitVec.ofNat 64 (8 * j))
        (place publishing 0 (publishing.rX 3 + BitVec.ofNat 64 (8 * j))) ∧
      tagAt publishing.tags ((place publishing 0 (publishing.rX 3 + BitVec.ofNat 64 (8 * j))).pa / 8) ≠ 1) ∧
    (let s : State := { publishing with tags := [] }
     s.reaches .otherRead (s.rX 3) (place s 0 (s.rX 3)) ∧ tagAt s.tags ((place s 0 (s.rX 3)).pa / 8) ≠ 2) := by
  have h : (publishing.rX 3).toNat % 8 = 0 ∧ (place publishing 0 (publishing.rX 3)).managed = true ∧
      tagAt publishing.tags ((place publishing 0 (publishing.rX 3)).pa / 8) = 2 ∧
      headerValid (BitVec.ofNat 64 (bytesAt publishing (place publishing 0 (publishing.rX 3)).pa 8)) = true := by decide +kernel
  have hs : ∀ r ∈ [2, 5], (publishing.rX r).toNat % 8 = 0 ∧ canReach publishing .store (publishing.rX r) = true ∧
      (place publishing 0 (publishing.rX r)).pa / 8 ≠ (place publishing 0 (publishing.rX 3)).pa / 8 := by decide +kernel
  have hb : ∀ j ∈ [1, 2], canReach publishing .otherRead (publishing.rX 3 + BitVec.ofNat 64 (8 * j)) = true ∧
      tagAt publishing.tags ((place publishing 0 (publishing.rX 3 + BitVec.ofNat 64 (8 * j))).pa / 8) ≠ 1 := by decide +kernel
  exact ⟨by decide +kernel, by decide +kernel, by decide +kernel,
    ⟨memOk_of (by decide +kernel), h.1, reaches_of_canReach (by decide +kernel), h.2⟩, by decide +kernel,
    fun r hr => ⟨(hs r hr).1, reaches_of_canReach (hs r hr).2.1, (hs r hr).2.2⟩, by decide +kernel, by decide +kernel,
    fun j hj => ⟨reaches_of_canReach (hb j hj).1, (hb j hj).2⟩, reaches_of_canReach (by decide +kernel), by decide +kernel⟩

/-- Both sizes, in ordinary memory and in a managed word that holds plain data. -/
theorem witness_Atomics :
    (∀ n ∈ [4, 8], (memory.rX 2).toNat % n = 0) ∧
    (memory.reaches .store (memory.rX 2) (place memory 0 (memory.rX 2)) ∧ (place memory 0 (memory.rX 2)).managed = false) ∧
    headed.reaches .store (headed.rX 2) (place headed 0 (headed.rX 2)) ∧ (place headed 0 (headed.rX 2)).managed = true ∧
      tagAt headed.tags ((place headed 0 (headed.rX 2)).pa / 8) = 0 := by
  refine ⟨?_, ⟨reaches_of_canReach ?_, ?_⟩, reaches_of_canReach ?_, ?_⟩ <;> decide +kernel

theorem witness_OrderedAccesses :
    memory.settled ∧ memory.memOk ∧ (∀ l ∈ [0, 1, 2, 3], (memory.rX 2).toNat % 2 ^ l = 0) ∧
    (∀ k ∈ [Access.load, .store], memory.reaches k (memory.rX 2) (place memory 0 (memory.rX 2))) ∧
    ¬((place memory 0 (memory.rX 2)).managed = true ∧ 3 = 3 ∧ memory.rTag 2 = true) := by
  have h : ∀ k ∈ [Access.load, .store], canReach memory k (memory.rX 2) = true := by decide +kernel
  exact ⟨memory_settled.1, memory_settled.2, by decide +kernel, fun k hk => reaches_of_canReach (h k hk), by decide +kernel⟩

/-- base with barrier 0 in a given condition, and registers. -/
def barriered (expect arrived phase : BitVec 32) (l : List (Fin 32 × X)) : State :=
  { reg l with barriers := [{ n := 0, pid := 0, expect := expect, arrived := arrived, phase := phase, bound := 0, who := [] }] }

/-- base with barrier 0, and with es. -/
def syncing (arrived phase : BitVec 32) (es : BitVec 18) : State := (barriered 2 arrived phase []).modHart fun h => { h with es := es }

/-- Both ends of the expected count and the counts beside them; a barrier that expects an arrival, and one that expects none; a token whose
phase has passed, and one whose phase has not, for both widths of the token; an arrival that is not the last and one that is. -/
theorem witness_Barriers :
    (let s := barriered 2 0 1 [(2, 1), (3, 65535), (4, 65536)]
     s.settled ∧ (s.rX 0).toNat < 65536 ∧ (s.rX 3).toNat < 65536 ∧ s.holdsBarrier s.pid (s.rX 0).toNat = true ∧ 1 ≤ (s.rX 2).toNat ∧
       ¬(1 ≤ (s.rX 0).toNat ∧ (s.rX 0).toNat < 65536) ∧ ¬(1 ≤ (s.rX 4).toNat ∧ (s.rX 4).toNat < 65536)) ∧
    (let k := (barriered 2 0 1 []).barrier 0
     ¬(k.bound = 0 ∧ k.expect = 0) ∧ k.phase = 1 ∧ (1 ≤ (k.phase - 0).toNat % 2 ^ 32 ∧ (k.phase - 0).toNat % 2 ^ 32 ≤ 2 ^ 31) ∧
       ¬(1 ≤ (k.phase - 1).toNat % 2 ^ 32 ∧ (k.phase - 1).toNat % 2 ^ 32 ≤ 2 ^ 31) ∧
       ¬(k.expect ≠ 0 ∧ k.expect.toNat ≤ (k.arrived + 1).toNat)) ∧
    (let k := (barriered 0 0 1 []).barrier 0
     k.bound = 0 ∧ k.expect = 0) ∧
    (barriered 0 0 1 []).settled ∧ (barriered 0 0 1 []).me.hart.es.getLsbD 17 = false ∧
    (let s := syncing 1 1 0x20001
     let token : BitVec 32 := (s.me.hart.es.extractLsb' 0 16).setWidth 32
     s.settled ∧ s.me.hart.es.getLsbD 17 = true ∧ ¬(1 ≤ ((s.barrier 0).phase - token).toNat % 2 ^ 16 ∧
       ((s.barrier 0).phase - token).toNat % 2 ^ 16 ≤ 2 ^ 15)) ∧
    (let k := (syncing 1 1 0).barrier 0
     k.expect ≠ 0 ∧ k.expect.toNat ≤ (k.arrived + 1).toNat ∧
       (1 ≤ (k.phase + 1 - k.phase).toNat % 2 ^ 16 ∧ (k.phase + 1 - k.phase).toNat % 2 ^ 16 ≤ 2 ^ 15)) ∧
    (syncing 1 1 0).settled ∧ (syncing 1 1 0).me.hart.es.getLsbD 17 = false ∧
    (let s := syncing 1 1 0x20000
     let token : BitVec 32 := (s.me.hart.es.extractLsb' 0 16).setWidth 32
     s.settled ∧ s.me.hart.es.getLsbD 17 = true ∧ 1 ≤ ((s.barrier 0).phase - token).toNat % 2 ^ 16 ∧
       ((s.barrier 0).phase - token).toNat % 2 ^ 16 ≤ 2 ^ 15) := by decide +kernel

/-- base whose hart is a member of the sets from 1 to n, with the set number 4095 in x2 and 1 in x3. -/
def member (n : Nat) : State :=
  (reg [(2, 4095), (3, 1)]).modPart 0 fun p => { p with sets := (List.range n).map fun i => (BitVec.ofNat 16 (i + 1), 0) }

/-- The same on core 16, in a stack other than that of the table. -/
def away : State := let s := member 7; { s with me := { s.me with core := 16 } }

/-- member 7 with a barrier bound to set 1, at which another hart has arrived, and another hart in that set. -/
def counted : State :=
  { (member 7).modPart 0 (fun p => { p with sets := p.sets ++ [(1, 9)] }) with
    barriers := [{ n := 0, pid := 0, expect := 2, arrived := 1, phase := 0, bound := 1, who := [9] },
      { n := 1, pid := 0, expect := 1, arrived := 1, phase := 0, bound := 4095, who := [9] }] }

/-- Both ends of the set numbers; a member, and no member with 7 and with 8 sets; both stacks of the table; barriers bound to the set that
the hart leaves and to the one that it joins. -/
theorem witness_HartSets :
    (∀ s ∈ [member 7, member 8, away, counted], s.settled ∧ (s.part? s.pid).isSome = true ∧ 1 ≤ (s.rX 3).toNat ∧ (s.rX 3).toNat < 4096 ∧
      1 ≤ (s.rX 2).toNat ∧ (s.rX 2).toNat < 4096) ∧
    (∀ e ∈ [(member 7, true), (away, false)],
      ((e.1.part? e.1.pid).map fun p => decide ((p.cfg.cores.map (fun c => stackOf c.core)).foldr min 7 = stackOf e.1.me.core)) = some e.2) ∧
    (let mine := fun (s : State) => s.setsOf s.pid s.me.hart.hid
     (∀ s ∈ [member 7, away, counted], (s.rX 3).setWidth 16 ∈ mine s ∧ (s.rX 2).setWidth 16 ∉ mine s ∧ (mine s).length < 8) ∧
       ((member 8).rX 2).setWidth 16 ∉ mine (member 8) ∧ 8 ≤ (mine (member 8)).length) ∧
    2 ≤ counted.membership counted.pid ((counted.rX 3).setWidth 16) ∧
    (∀ k ∈ counted.barriers, (k.bound = (counted.rX 3).setWidth 16 ∨ k.bound = (counted.rX 2).setWidth 16) ∧ k.pid = counted.pid ∧
      counted.me.hart.hid ∉ k.who) := by decide +kernel

/-- base with a watermark descriptor of n elements at the address in x2. -/
def described (n : Nat) : State :=
  { reg [(2, 0x4000), (3, 60)] with
    mem := memWrite base.mem 0x4000 (leBytes 8 0x8000 ++ leBytes 8 n ++ leBytes 8 3 ++ leBytes 8 0) }

/-- Both ends of the number of elements; a time that has come, and one that has not. -/
theorem witness_WatermarksAndWaitm :
    (∀ n ∈ [1, 2 ^ 40],
      (described n).settled ∧ ((described n).rX 0).toNat < 256 ∧ (described n).holdsWatermark (described n).pid ((described n).rX 0).toNat = true ∧
      ((described n).rX 2).toNat % 32 = 0 ∧
      let word := fun (j : Nat) => (BitVec.ofNat 64 (bytesAt (described n) (0x4000 + 8 * j) 8) : X)
      (word 0).toNat % 128 = 0 ∧ 1 ≤ (word 1).toNat ∧ (word 1).toNat ≤ 2 ^ 40 ∧ (word 2).toNat < 4 ∧ word 3 = 0) ∧
    (∀ j : Fin 4, (described 1).reaches .otherRead ((described 1).rX 2 + BitVec.ofNat 64 (8 * j.val))
      (place (described 1) 0 ((described 1).rX 2 + BitVec.ofNat 64 (8 * j.val))) ∧
      (place (described 1) 0 ((described 1).rX 2 + BitVec.ofNat 64 (8 * j.val))).pa = 0x4000 + 8 * j.val) ∧ (described 1).memOk ∧
    ((described 1).rX 0).toNat ≤ (described 1).cycle ∧ (described 1).cycle < ((described 1).rX 3).toNat := by
  have h : ∀ j : Fin 4, canReach (described 1) .otherRead ((described 1).rX 2 + BitVec.ofNat 64 (8 * j.val)) = true ∧
      (place (described 1) 0 ((described 1).rX 2 + BitVec.ofNat 64 (8 * j.val))).pa = 0x4000 + 8 * j.val := by decide +kernel
  refine ⟨?_, fun j => ⟨reaches_of_canReach (h j).1, (h j).2⟩, memOk_of ?_, ?_⟩ <;> decide +kernel

/-- A command of no meaning. -/
def someCommand : Command := { w0 := 0, w1 := 0, w2 := 0, w3 := 0, pid := 0, hid := 0, prv := true, start := none, accepted := 0 }

/-- base with engine 0 holding n commands, and completions. -/
def engined (n : Nat) (done : List X) (frozen : Option X) : State :=
  { base with
    engines := [{
      n := 0, cmds := List.replicate n someCommand, done := done, frozen := frozen, progress := 0, emitted := 0, bad := false,
      readyAt := 0, waitsOn := none }] }

/-- 15 and 16 queued commands, a frozen port, a completion and none. -/
theorem witness_EnginePorts :
    (engined 15 [] none).settled ∧ ((engined 15 [] none).rX 0).extractLsb' 8 55 = 0#55 ∧
    (((engined 15 [] none).part? (engined 15 [] none).pid).map (fun p => decide (0 ∈ p.cfg.engines))).getD false = true ∧
    ((engined 15 [] none).engine 0).frozen = none ∧ ((engined 15 [] none).engine 0).cmds.length < 16 ∧
    (engined 16 [] none).settled ∧ 16 ≤ ((engined 16 [] none).engine 0).cmds.length ∧
    ((engined 0 [] (some 0)).engine 0).frozen ≠ none ∧ ((engined 0 [1] none).engine 0).done = [1] ∧
    ((engined 0 [] none).engine 0).done = [] := by decide +kernel

/-- base with a nest record of one dimension with an extent, at the address in x2, records queued at stack 0 that a walker accepts in the
cycles given, and stack 1 selected in x3. -/
def nesting (extent : Nat) (accepted : List Nat) : State :=
  { reg [(2, 0x4000), (3, 9)] with
    mem := memWrite base.mem 0x4000 (leBytes 8 0x2000 ++ leBytes 8 0 ++ leBytes 8 extent ++ List.replicate 40 0)
    walkers := accepted.map fun at_ =>
      { id := 0, stack := 0, pid := 0, hid := 0, prv := true, tvec := 0, addr := 0, words := [], start := none, accepted := at_, next := 0 } }

/-- The words of the record. -/
def nestWords (s : State) : List X := (List.finRange 8).map fun j => BitVec.ofNat 64 (bytesAt s (0x4000 + 8 * j.val) 8)

/-- The same with a partition that has a core in stack 1 too. -/
def nestingAway : State :=
  (nesting 1 []).modPart 0 fun p => { p with cfg := { p.cfg with cores := p.cfg.cores ++ [{ core := 16, mask := 1, part := 16 }] } }

/-- The own stack with 15 and 16 records queued, some accepted before the new one and some after; the other stack; a record with iterations
and one without. -/
theorem witness_Nests :
    (∀ s ∈ [nesting 1 (List.replicate 12 0 ++ [60, 61, 62]), nesting 1 (List.replicate 16 0), nesting 0 [], nestingAway],
      s.settled ∧ s.rX 0 = 0 ∧ (s.rX 2).toNat % 64 = 0 ∧ nestValid (nestWords s) = true ∧ ((nestWords s).getD 4 0).getLsbD 19 = false ∧
      s.holdsStack s.pid (stackOf s.me.core) = true) ∧
    (∀ s ∈ [nesting 1 [], nesting 0 []], s.memOk ∧ ∀ u ∈ [4000, 4001], ∀ j : Fin 8,
      s.reachesBy u .otherRead (s.rX 2 + BitVec.ofNat 64 (8 * j.val)) (place s u (s.rX 2 + BitVec.ofNat 64 (8 * j.val))) ∧
        (place s u (s.rX 2 + BitVec.ofNat 64 (8 * j.val))).pa = 0x4000 + 8 * j.val) ∧
    (let s := nesting 1 (List.replicate 12 0 ++ [60, 61, 62])
     s.walkers = s.walkers.take 13 ++ s.walkers.drop 13 ∧ (∀ r ∈ s.walkers.take 13, r.accepted ≤ s.cycle + 12) ∧
       (∀ r ∈ (s.walkers.drop 13).head?, s.cycle + 12 < r.accepted) ∧ (s.walkers.filter (fun r => r.stack == 0)).length < 16 ∧
       0 < nestCount (nestWords s)) ∧
    16 ≤ ((nesting 1 (List.replicate 16 0)).walkers.filter (fun r => r.stack == 0)).length ∧ nestCount (nestWords (nesting 0 [])) = 0 ∧
    (nestingAway.rX 3).extractLsb' 4 60 = 0#60 ∧ (nestingAway.rX 3).getLsbD 3 = true ∧
    nestingAway.holdsStack nestingAway.pid ((nestingAway.rX 3).extractLsb' 0 3).toNat = true := by
  refine ⟨?_, fun s hs => ?_, ?_⟩
  · decide +kernel
  · have h : ∀ s ∈ [nesting 1 [], nesting 0 []], decide (Memory.wf s.mem) = true ∧ ∀ u ∈ [4000, 4001], ∀ j : Fin 8,
        canReachBy s u .otherRead (s.rX 2 + BitVec.ofNat 64 (8 * j.val)) = true ∧
        (place s u (s.rX 2 + BitVec.ofNat 64 (8 * j.val))).pa = 0x4000 + 8 * j.val := by decide +kernel
    exact ⟨memOk_of (h s hs).1, fun u hu j => ⟨reachesBy_of_canReach ((h s hs).2 u hu j).1, ((h s hs).2 u hu j).2⟩⟩
  · decide +kernel

theorem witness_DoneAndYield : base.settled ∧ base.memOk ∧ base.owns = true ∧
    base.recordWait base.pid base.me.hart.hid (base.pid, base.me.hart.hid) = none ∧ recordSound base base.pid base.me.hart.hid ∧
    base.me.vec.busyUntil ≤ base.cycle :=
  ⟨base_settled, base_memOk, by decide +kernel⟩

/-- base with a lane request, where another slot of the core may hold every lane group. -/
def laned (req : BitVec 5) (taken : Bool) : State :=
  let s := base.modHart fun h => { h with lanesReq := req }
  if taken then { s with others := [{ Slot.empty 0 1 with vec := { Vec.creation 64 0 with groups := List.range 16 } }] } else s

/-- A grant that stays, one that changes with no vector work in flight, a request of 0, and no free lane group. -/
theorem witness_VectorConfiguration :
    (laned 1 false).settled ∧ (laned 1 false).owns = true ∧ (laned 1 false).newGroups 1 = [0] ∧ (laned 1 false).me.vec.grant = 1 ∧
    ((laned 16 false).newGroups 16).length = 16 ∧ (laned 16 false).vecBusy ≤ (laned 16 false).cycle ∧
    (laned 0 false).newGroups 0 = [] ∧ (laned 0 false).settled ∧ (laned 1 true).settled ∧ (laned 1 true).owns = true ∧
    (laned 1 true).newGroups 1 = [] ∧ (laned 1 true).me.hart.lanesReq ≠ 0 ∧ (laned 1 true).newGroups 16 = [] ∧
    (((laned 1 true).modHart fun h => { h with x := h.x.set 2 17 }).rX 2).toNat ≠ 0 ∧
    (let vt : BitVec 5 := 5; (vt.extractLsb' 0 3).toNat ≤ 5 ∧ vt.extractLsb' 3 2 = 0) ∧
    (let vt : BitVec 5 := 0x1B; ¬((vt.extractLsb' 0 3).toNat ≤ 5 ∧ (vt.extractLsb' 3 2 = 0 ∨ vt.extractLsb' 0 3 = 1 ∨ vt.extractLsb' 0 3 = 2))) := by
  decide +kernel

/-- v registers set, and bits of status.fen. -/
def filled (s : State) (l : List (Fin 32 × Nat)) : State :=
  s.modVec fun v => { v with v := l.foldl (fun r e => r.set e.1 (BitVec.ofNat 16384 e.2)) v.v }

theorem all_active {s : State} {k : BitVec 3} {P : Nat → Prop} (h : ∀ n < s.me.vec.vl.toNat, P n) : ∀ n, s.active k n → P n :=
  fun n hn => h n hn.2.1

theorem active_of {s : State} {k : BitVec 3} {n : Nat}
    (h : (decide (s.es ≤ n) && decide (n < s.me.vec.vl.toNat) && (s.rK k).getLsbD n) = true) : s.active k n := by
  simp only [Bool.and_eq_true, decide_eq_true_eq] at h
  exact ⟨h.1.1, h.1.2, h.2⟩

/-- Every width from 8 on, with one element and with all. -/
theorem witness_VectorInteger :
    (∀ e ∈ [(2#3, 128), (3#3, 64), (4#3, 32), (5#3, 16)], (vec e.1 (BitVec.ofNat 64 e.2) []).vectorReady ∧
      8 ≤ (vec e.1 (BitVec.ofNat 64 e.2) []).me.vec.width) ∧ (vec 5 1 []).vectorReady ∧ (vec 5 1 []).active 0 0 :=
  ⟨by decide +kernel, by decide +kernel, active_of (by decide +kernel)⟩

/-- Four elements under a fault mask that names element 0 alone. -/
def masked : State := ((vec 5 4 []).modHart fun h => { h with status := h.status ||| 0x1000000 }).modVec fun v => { v with kf := 1 }

theorem witness_restrictedByFaultMask :
    (masked.modHart fun h => { h with status := setField h.status 24 1 0 }).vectorReady ∧ masked.me.hart.fm = true ∧ 8 ≤ masked.me.vec.width ∧
    masked.active 0 0 ∧ masked.active 0 1 ∧ masked.me.vec.kf.getLsbD 0 = true ∧ masked.me.vec.kf.getLsbD 1 = false :=
  ⟨by decide +kernel, by decide +kernel, by decide +kernel, active_of (by decide +kernel), active_of (by decide +kernel), by decide +kernel⟩

/-- vl elements of 64 bits with reuse on, every register zero and mapped onto register 0, which has a name. -/
def reusing (vl : X) : State := (vec 5 vl []).modHart fun h => { h with status := h.status ||| 2 }

/-- The same with the entry that vadd v3, v1, v2 makes. -/
def reused (vl : X) : State :=
  { reusing vl with fife := (vaddKey (reusing vl) 3 1 2 0).toList.map fun q =>
      { core := 0, slot := 0, key := q, result := 0, flags := 0, load := none } }

/-- The CRC of zeros. -/
theorem crc48_zeros (l : List Byte) (h : ∀ b ∈ l, b = 0) : crc48 l = 0 := by
  unfold crc48
  induction l with
  | nil => rfl
  | cons b rest ih =>
    rw [List.foldl_cons, h b List.mem_cons_self, show crcByte 0 0 = 0 by decide]
    exact ih fun c hc => h c (List.mem_cons_of_mem _ hc)

/-- A whole destination and a part of one, with an entry for the key and without; a register that holds the contents of the result. -/
theorem witness_reuseOfResults :
    (∀ s ∈ [reusing 16, reusing 4, reused 16, reused 4], s.settled ∧ s.owns = true ∧ 1 ≤ s.me.vec.grant ∧ s.me.vec.grant ≤ 16 ∧ s.me.vec.vill = false ∧
      s.me.vec.illegal = false ∧ s.me.hart.fm = false ∧ s.me.hart.ru = true ∧ s.interruptAhead = none ∧ s.me.vec.streams = [] ∧
      8 ≤ s.me.vec.width ∧ s.es = 0 ∧ 0 < s.me.vec.vl.toNat ∧ (vaddKey s 3 1 2 0).isSome = true) ∧
    writesWhole (reusing 16) 0 = true ∧ writesWhole (reusing 4) 0 = false ∧ (reusing 16).fife.length = 0 ∧
    (∀ s ∈ [reused 16, reused 4], ((vaddKey s 3 1 2 0).bind fun q => s.fife.find? fun e =>
      e.core == s.me.core && e.slot == s.me.idx && decide (e.key = q) && e.flags &&& s.me.hart.fen == 0).isSome = true ∧
      (s.me.vec.pregs.find? (fun p => p.id == 0)).isSome = true) ∧
    (let s := reusing 16
     (s.me.vec.pregs.filterMap fun p => p.name).Nodup ∧ (∀ o ∈ s.others, ¬(o.core = s.me.core ∧ o.idx = s.me.idx)) ∧
       (s.me.vec.pregs.any fun q => q.id == s.me.vec.phys[1] && q.img == 0 && q.name.map (fun m => m.1) == some 0) = true ∧
       s.me.vec.grant = 1) ∧
    crc48 (imageBytes 1 0) = 0 :=
  ⟨by decide +kernel, by decide +kernel, by decide +kernel, by decide +kernel, by decide +kernel, by decide +kernel,
    crc48_zeros _ (by decide +kernel)⟩

/-- Four elements of 1.0 in v1, and 1.0, 1.0, 1.0, 0 in v2, with status.fen as given. -/
def floats (fen : BitVec 64) : State :=
  (filled (vec 5 4 [(2, 0), (3, 0)]) [(1, fieldOf (BitVec.ofNat 256 (0x3FF0000000000000 * (1 + 2 ^ 64 + 2 ^ 128 + 2 ^ 192))) 0 256),
    (2, 0x3FF0000000000000 * (1 + 2 ^ 64 + 2 ^ 128))]).modHart fun h => { h with status := h.status ||| fen }

/-- The widths with and without a format; no enabled flag, and a division by zero at the last element with DZ enabled. -/
theorem witness_VectorFloatResults :
    (floats 0x2000).active 0 3 ∧ (floats 0).vectorReady ∧ vecFmt 0 (floats 0).me.vec.width = some .f64 ∧ vecFmt 1 64 = none ∧ vecFmt 0 8 = none ∧
    vecFmt 0 16 = some .f16 ∧ vecFmt 1 16 = some .bf16 ∧ vecFmt 0 32 = some .f32 ∧ vecFmt 1 32 = none ∧ (vec 2 128 []).vectorReady ∧
    (let s := floats 0x2000
     let r := fun n => Fmt.f64.div 0 (Fmt.f64.decode (s.elem 1 n)) (Fmt.f64.decode (s.elem 2 n))
     s.vectorReady ∧ (∀ n < 3, (r n).2 &&& s.me.hart.fen = 0) ∧ (r 3).2 &&& s.me.hart.fen ≠ 0 ∧
       (Fmt.f64.add 0 (Fmt.f64.decode (s.elem 1 3)) (Fmt.f64.decode (s.elem 2 3))).2 &&& s.me.hart.fen = 0) :=
  ⟨active_of (by decide +kernel), by decide +kernel⟩

/-- A state for the compares of every kind; es below vl. -/
theorem witness_ComparesAndMasks :
    (floats 0x2000).vectorReady ∧ 8 ≤ (floats 0x2000).me.vec.width ∧ vecFmt 0 (floats 0x2000).me.vec.width = some .f64 ∧
    (∀ n < 4, ∀ op < 3, ((Fmt.f64.decode ((floats 0x2000).elem 1 n)).compare op (Fmt.f64.decode ((floats 0x2000).elem 2 n))).2 &&&
      (floats 0x2000).me.hart.fen = 0) ∧ (floats 0x2000).es < (floats 0x2000).me.vec.vl.toNat := by decide +kernel

/-- An index inside vl, and one outside. -/
theorem witness_SelectionsAndMoves : (vec 5 16 [(2, 15), (3, 16)]).vectorReady ∧
    ((vec 5 16 [(2, 15), (3, 16)]).rX 2).toNat < (vec 5 16 [(2, 15), (3, 16)]).me.vec.vl.toNat ∧
    ¬((vec 5 16 [(2, 15), (3, 16)]).rX 3).toNat < (vec 5 16 [(2, 15), (3, 16)]).me.vec.vl.toNat := by decide +kernel

/-- An element width, a block length and all elements. -/
def blocked (sew : BitVec 3) (bl : BitVec 2) (vl : X) : State := (vec sew vl []).modVec fun v => { v with bl := bl }

/-- Every width with its first class, and a blocked width; headers that exist, and a header register that does not. -/
theorem witness_DotAndDistanceResults :
    (∀ e ∈ [(1#3, 0#2, 256), (2#3, 0#2, 128), (0#3, 0#2, 512), (1#3, 1#2, 256), (2#3, 1#2, 128)],
      let s := blocked e.1 e.2.1 (BitVec.ofNat 64 e.2.2)
      s.vectorReady ∧ s.me.hart.fen = 0 ∧ s.es < s.me.vec.vl.toNat ∧ s.me.vec.classOk 0 = true ∧
        s.me.vec.headerOk 1 (s.me.vec.classOf 0) = true) ∧
    (blocked 2 1 128).me.vec.headerOk 31 (classCode 8 1).get! = false := by decide +kernel

/-- Narrow widths with and without blocks; groups that may be a base, and outlier blocks. -/
theorem witness_Quantisation :
    (∀ e ∈ [(1#3, 1#2, 256), (2#3, 1#2, 128)],
      let s := blocked e.1 e.2.1 (BitVec.ofNat 64 e.2.2)
      s.vectorReady ∧ s.me.vec.classOk 0 = true ∧ s.me.vec.headerOk 1 (s.me.vec.classOf 0) = true ∧ wideOk 8 s.me.vec.width = true ∧
        s.me.hart.fen = 0 ∧ s.me.vec.encodeOk 30 8 0 = true) ∧
    (let s := blocked 1 1 256
     s.vectorReady ∧ s.me.vec.encodeOk 30 8 1 = true ∧ s.me.vec.classOf 1 = 16 ∧ s.me.vec.block ≠ 0 ∧ s.es < s.me.vec.vl.toNat) := by
  decide +kernel

/-- int8 to binary32 at width 32, and a width to unpack from. -/
theorem witness_ConversionResults : (vec 4 32 []).vectorReady ∧ (vec 4 32 []).me.vec.width = max (tyBits 0) (tyBits 10) ∧
    8 ≤ (vec 4 32 []).me.vec.width ∧ ∀ w < 4, (BitVec.ofNat 3 w).toNat < (vec 4 32 []).me.vec.sew.toNat := by decide +kernel

theorem witness_PermutationResults : (vec 2 128 []).vectorReady ∧ 8 ≤ (vec 2 128 []).me.vec.width ∧
    (vec 2 128 []).es < (vec 2 128 []).me.vec.vl.toNat ∧ (vec 0 512 []).vectorReady := by decide +kernel

theorem witness_Reductions : (vec 5 16 []).vectorReady ∧ 8 ≤ (vec 5 16 []).me.vec.width ∧ (vec 5 16 []).es < (vec 5 16 []).me.vec.vl.toNat ∧
    (vec 5 16 []).me.hart.fen = 0 ∧ vecFmt 0 (vec 5 16 []).me.vec.width = some .f64 := by decide +kernel

/-! Vector memory and the matrix unit. -/

/-- What `State.reaches` asks over a range of addresses, each at the physical address that f gives. -/
def reachAll (s : State) (k : Access) (lo hi : Nat) (va : Nat → X) (pa : Nat → Nat) : Bool :=
  (List.range (hi - lo)).all fun j =>
    let n := lo + j
    canReach s k (va n) && decide ((place s s.me.core (va n)).pa = pa n) && (s.marksOn (va n) 8).isEmpty

theorem reachAll_spec {s : State} {k : Access} {lo hi : Nat} {va : Nat → X} {pa : Nat → Nat} (h : reachAll s k lo hi va pa = true) :
    ∀ n, lo ≤ n → n < hi → s.reaches k (va n) (place s s.me.core (va n)) ∧ (place s s.me.core (va n)).pa = pa n ∧ s.marksOn (va n) 8 = [] := by
  intro n h1 h2
  simp only [reachAll, List.all_eq_true, List.mem_range, Bool.and_eq_true, decide_eq_true_eq, List.isEmpty_iff] at h
  have := h (n - lo) (by omega)
  rw [Nat.add_sub_cancel' h1] at this
  exact ⟨reaches_of_canReach this.1.1, this.1.2, this.2⟩

/-- Values of w bits one after another share no bit. -/
theorem apart_of_packed {w base : Nat} {p : Nat → Prop} {pa sh : Nat → Nat} (h : ∀ n, p n → 8 * pa n + sh n = 8 * base + n * w)  :
    bitsApart w p pa sh := by
  intro m n hm hn hne b hb c hc
  have h1 := h m hm
  have h2 := h n hn
  rintro ⟨h3, h4⟩
  have h5 : m * w + b = n * w + c := by omega
  have h6 : (m * w + b) / w = (n * w + c) / w := by rw [h5]
  rw [Nat.mul_comm m, Nat.mul_comm n, Nat.mul_add_div (by omega), Nat.mul_add_div (by omega), Nat.div_eq_of_lt hb, Nat.div_eq_of_lt hc] at h6
  omega

/-- Elements 0 to 15 with the indexes 0 to 15 in v1, x2 the address of a column of core 0 and x3 a stride of 8. -/
def streaming (sew : BitVec 3) (vl : X) : State :=
  filled (vec sew vl [(2, 0x20000), (3, 8)]) [(1, ((List.range 16).map fun n => n * 2 ^ (64 * n)).sum)]

/-- Elements of 64 bits, and packed ones, at every form of address; columns; indexes that differ. -/
theorem witness_VectorLoads :
    (streaming 5 16).vectorReady ∧ (streaming 0 512).vectorReady ∧ (streaming 5 16).memOk ∧
    ((streaming 5 16).rX 2).toNat % 8 = 0 ∧ ((streaming 5 16).rX 3).toNat % 8 = 0 ∧
    (∀ k, ∀ va ∈ [fun n => (streaming 5 16).rX 2 + BitVec.ofNat 64 (n * 64 / 8),
        fun n => (streaming 5 16).rX 2 + BitVec.ofNat 64 n * (streaming 5 16).rX 3, laneVa (streaming 5 16) 2], ∀ n,
      (streaming 5 16).active k n → (streaming 5 16).reaches .vload (va n) (place (streaming 5 16) 0 (va n)) ∧
        (streaming 5 16).marksOn (va n) 8 = []) ∧
    (∀ k n, (streaming 5 16).active k n →
      (streaming 5 16).reaches .gather (indexVa (streaming 5 16) 2 1 n) (place (streaming 5 16) 0 (indexVa (streaming 5 16) 2 1 n))) ∧
    (∀ k, inColumns (streaming 5 16) ((streaming 5 16).active k) fun n => place (streaming 5 16) 0 (laneVa (streaming 5 16) 2 n)) ∧
    ∀ k n, (streaming 0 512).active k n → (streaming 0 512).reaches .vload ((streaming 0 512).rX 2 + BitVec.ofNat 64 (n * 2 / 8))
      (place (streaming 0 512) 0 ((streaming 0 512).rX 2 + BitVec.ofNat 64 (n * 2 / 8))) := by
  have h64 : ∀ va ∈ [fun n => (streaming 5 16).rX 2 + BitVec.ofNat 64 (n * 64 / 8),
      fun n => (streaming 5 16).rX 2 + BitVec.ofNat 64 n * (streaming 5 16).rX 3, laneVa (streaming 5 16) 2],
      reachAll (streaming 5 16) .vload 0 16 va (fun n => 0x20000 + 8 * n) = true := by decide +kernel
  refine ⟨by decide +kernel, by decide +kernel, memOk_of (by decide +kernel), by decide +kernel, by decide +kernel, ?_, ?_, ?_, ?_⟩
  · intro k va hva n hn
    have := reachAll_spec (h64 va hva) n (Nat.zero_le _) hn.2.1
    exact ⟨this.1, this.2.2⟩
  · exact fun k n hn => (reachAll_spec (pa := fun n => 0x20000 + 8 * n)
      (by decide +kernel : reachAll (streaming 5 16) .gather 0 16 (indexVa (streaming 5 16) 2 1) _ = true) n (Nat.zero_le _) hn.2.1).1
  · exact fun k => all_active (by decide +kernel)
  · exact fun k n hn => (reachAll_spec (pa := fun n => 0x20000 + n * 2 / 8) (by decide +kernel : reachAll (streaming 0 512) .vload 0 512
      (fun n => (streaming 0 512).rX 2 + BitVec.ofNat 64 (n * 2 / 8)) _ = true) n (Nat.zero_le _) hn.2.1).1

theorem witness_VectorStores :
    (∀ k n, (streaming 5 16).active k n →
      (streaming 5 16).reaches .scatter (indexVa (streaming 5 16) 2 1 n) (place (streaming 5 16) 0 (indexVa (streaming 5 16) 2 1 n))) ∧
    (∀ k, bitsApart 64 ((streaming 5 16).active k) (fun n => (place (streaming 5 16) 0 (indexVa (streaming 5 16) 2 1 n)).pa) fun _ => 0) ∧
    (∀ k, ∀ va ∈ [fun n => (streaming 5 16).rX 2 + BitVec.ofNat 64 (n * 64 / 8),
        fun n => (streaming 5 16).rX 2 + BitVec.ofNat 64 n * (streaming 5 16).rX 3, laneVa (streaming 5 16) 2],
      (∀ n, (streaming 5 16).active k n → (streaming 5 16).reaches .vstore (va n) (place (streaming 5 16) 0 (va n))) ∧
      bitsApart 64 ((streaming 5 16).active k) (fun n => (place (streaming 5 16) 0 (va n)).pa) fun _ => 0) ∧
    ∀ k, (∀ n, (streaming 0 512).active k n → (streaming 0 512).reaches .vstore ((streaming 0 512).rX 2 + BitVec.ofNat 64 (n * 2 / 8))
        (place (streaming 0 512) 0 ((streaming 0 512).rX 2 + BitVec.ofNat 64 (n * 2 / 8)))) ∧
      bitsApart 2 ((streaming 0 512).active k)
        (fun n => (place (streaming 0 512) 0 ((streaming 0 512).rX 2 + BitVec.ofNat 64 (n * 2 / 8))).pa) fun n => n * 2 % 8 := by
  have h64 : ∀ va ∈ [fun n => (streaming 5 16).rX 2 + BitVec.ofNat 64 (n * 64 / 8),
      fun n => (streaming 5 16).rX 2 + BitVec.ofNat 64 n * (streaming 5 16).rX 3, laneVa (streaming 5 16) 2],
      reachAll (streaming 5 16) .vstore 0 16 va (fun n => 0x20000 + 8 * n) = true := by decide +kernel
  have hx : reachAll (streaming 5 16) .scatter 0 16 (indexVa (streaming 5 16) 2 1) (fun n => 0x20000 + 8 * n) = true := by decide +kernel
  have h2 : reachAll (streaming 0 512) .vstore 0 512 (fun n => (streaming 0 512).rX 2 + BitVec.ofNat 64 (n * 2 / 8))
      (fun n => 0x20000 + n * 2 / 8) = true := by decide +kernel
  refine ⟨fun k n hn => (reachAll_spec hx n (Nat.zero_le _) hn.2.1).1, fun k => apart_of_packed (base := 0x20000) fun n hn => ?_,
    fun k va hva => ⟨fun n hn => (reachAll_spec (h64 va hva) n (Nat.zero_le _) hn.2.1).1,
      apart_of_packed (base := 0x20000) fun n hn => ?_⟩,
    fun k => ⟨fun n hn => (reachAll_spec h2 n (Nat.zero_le _) hn.2.1).1, apart_of_packed (base := 0x20000) fun n hn => ?_⟩⟩
  · have := (reachAll_spec hx n (Nat.zero_le _) hn.2.1).2.1
    change 8 * (place (streaming 5 16) (streaming 5 16).me.core _).pa + _ = _
    omega
  · have := (reachAll_spec (h64 va hva) n (Nat.zero_le _) hn.2.1).2.1
    change 8 * (place (streaming 5 16) (streaming 5 16).me.core _).pa + _ = _
    omega
  · have := (reachAll_spec h2 n (Nat.zero_le _) hn.2.1).2.1
    change 8 * (place (streaming 0 512) (streaming 0 512).me.core _).pa + _ = _
    omega

/-- Sixteen elements of which the first n lie in a managed page and the others in a page that the core's TLB holds and that permits nothing. -/
def walled (n : Nat) : State :=
  let s := (streaming 5 16).modHart fun h => { h with x := h.x.set 2 (BitVec.ofNat 64 (0x80080000 - 8 * n)) }
  { s with tlb := { core := 0, tlb := 1, pid := 0, va := 4097, size := 2 ^ 19, pte := 0x6000A3 } :: s.tlb }

/-- walled under a fault mask that names the elements of which kf has the bits. -/
def masking (n kf : Nat) : State :=
  ((walled n).modHart fun h => { h with status := h.status ||| 0x1000000 }).modVec fun v => { v with kf := BitVec.ofNat 4096 kf }

/-- Where the elements of walled lie. -/
def wallPa (n e : Nat) : Nat := 0x480000 - 8 * n + 8 * e

/-- Six elements that are reached and ten that are denied, without a fault mask and under one; element 0 denied, and none. -/
theorem witness_gathersAndScatters :
    (∀ s ∈ [walled 6, masking 6 0x3F, masking 6 0xFFFF, walled 0, walled 16], (unmasked s).vectorReady ∧ 8 ≤ s.me.vec.width ∧
      (s.rX 2).toNat % (s.me.vec.width / 8) = 0 ∧ s.memOk) ∧
    (∀ k ∈ [Access.gather, .scatter], ∀ s ∈ [walled 6, masking 6 0x3F, masking 6 0xFFFF],
      (∀ n < 6, denial s k (indexVa s 2 1 n) = none ∧ s.reaches k (indexVa s 2 1 n) (place s 0 (indexVa s 2 1 n)) ∧
        s.marksOn (indexVa s 2 1 n) 8 = []) ∧ ∀ n < 10, (denial s k (indexVa s 2 1 (6 + n))).isSome = true) ∧
    (∀ k ∈ [Access.gather, .scatter], deniedElems (walled 6) 0 k (indexVa (walled 6) 2 1) = List.range' 6 10 ∧
      deniedElems (masking 6 0x3F) 0 k (indexVa (masking 6 0x3F) 2 1) = [] ∧
      deniedElems (masking 6 0xFFFF) 0 k (indexVa (masking 6 0xFFFF) 2 1) = List.range' 6 10 ∧
      (deniedElems (walled 0) 0 k (indexVa (walled 0) 2 1)).head? = some 0 ∧ deniedElems (walled 16) 0 k (indexVa (walled 16) 2 1) = []) ∧
    bitsApart 64 (fun n => n < 6) (wallPa 6) (fun _ => 0) ∧ ∀ n < 6, (place (walled 6) 0 (indexVa (walled 6) 2 1 n)).pa = wallPa 6 n := by
  have h : ∀ k ∈ [Access.gather, .scatter], ∀ s ∈ [walled 6, masking 6 0x3F, masking 6 0xFFFF],
      (∀ n < 6, denial s k (indexVa s 2 1 n) = none) ∧ reachAll s k 0 6 (indexVa s 2 1) (wallPa 6) = true ∧ s.me.core = 0 ∧
        ∀ n < 10, (denial s k (indexVa s 2 1 (6 + n))).isSome = true := by decide +kernel
  have hw : ∀ s ∈ [walled 6, masking 6 0x3F, masking 6 0xFFFF, walled 0, walled 16], (unmasked s).vectorReady ∧ 8 ≤ s.me.vec.width ∧
      (s.rX 2).toNat % (s.me.vec.width / 8) = 0 ∧ decide (Memory.wf s.mem) = true := by decide +kernel
  refine ⟨fun s hs => ⟨(hw s hs).1, (hw s hs).2.1, (hw s hs).2.2.1, memOk_of (hw s hs).2.2.2⟩, fun k hk s hs => ⟨fun n hn => ?_, (h k hk s hs).2.2.2⟩,
    by decide +kernel, apart_of_packed (base := 0x47FFD0) fun n _ => by simp only [wallPa]; omega, by decide +kernel⟩
  have := reachAll_spec (h k hk s hs).2.1 n (Nat.zero_le _) hn
  rw [(h k hk s hs).2.2.1] at this
  exact ⟨(h k hk s hs).1 n hn, this.1, this.2.2⟩

/-- Unit-stride and strided accesses whose lowest denied element is 6, and 0. -/
theorem witness_faultOnlyFirst :
    (∀ i ∈ [0, 6], (walled i).vectorReady ∧ (walled i).me.hart.begun = none ∧ (walled i).memOk ∧ ((walled i).rX 2).toNat % 8 = 0 ∧
      ((walled i).rX 3).toNat % 8 = 0 ∧ (walled i).active 0 i ∧ (walled i).es < 6 ∧
      ∀ k ∈ [Access.vload, .vstore], ∀ va ∈ [fun n => (walled i).rX 2 + BitVec.ofNat 64 (n * 64 / 8), fun n => (walled i).rX 2 + BitVec.ofNat 64 n * (walled i).rX 3],
        (denial (walled i) k (va i)).isSome = true ∧ ∀ n < i, denial (walled i) k (va n) = none ∧
          (walled i).reaches k (va n) (place (walled i) 0 (va n)) ∧ (walled i).marksOn (va n) 8 = []) := by
  intro i hi
  have h : ∀ i ∈ [0, 6], ∀ k ∈ [Access.vload, .vstore], ∀ va ∈ [fun n => (walled i).rX 2 + BitVec.ofNat 64 (n * 64 / 8),
      fun n => (walled i).rX 2 + BitVec.ofNat 64 n * (walled i).rX 3],
      (denial (walled i) k (va i)).isSome = true ∧ (∀ n < i, denial (walled i) k (va n) = none) ∧
        reachAll (walled i) k 0 i va (wallPa i) = true := by decide +kernel
  have hw : ∀ i ∈ [0, 6], (walled i).vectorReady ∧ (walled i).me.hart.begun = none ∧ decide (Memory.wf (walled i).mem) = true ∧
      ((walled i).rX 2).toNat % 8 = 0 ∧ ((walled i).rX 3).toNat % 8 = 0 ∧ (walled i).es < 6 ∧
      (decide ((walled i).es ≤ i) && decide (i < (walled i).me.vec.vl.toNat) && ((walled i).rK 0).getLsbD i) = true := by decide +kernel
  obtain ⟨h1, h2, h3, h4, h5, h6, h7⟩ := hw i hi
  refine ⟨h1, h2, memOk_of h3, h4, h5, active_of h7, h6, fun k hk va hva => ⟨(h i hi k hk va hva).1, fun n hn => ?_⟩⟩
  have := reachAll_spec (h i hi k hk va hva).2.2 n (Nat.zero_le _) hn
  exact ⟨(h i hi k hk va hva).2.1 n hn, this.1, this.2.2⟩

/-- One register and all 32, loaded and stored. -/
theorem witness_MultiRegisterTransfers :
    (streaming 5 16).vectorReady ∧ ((streaming 5 16).rX 2).toNat % 8 = 0 ∧ (streaming 5 16).memOk ∧ (streaming 5 16).me.vec.grant = 1 ∧
    (∀ n ∈ [0#5, 31#5], ∀ e, (streaming 5 16).es ≤ e ∧ e < (n.toNat + 1) * 16 →
      ∀ k ∈ [Access.vload, Access.vstore], (streaming 5 16).reaches k ((streaming 5 16).rX 2 + BitVec.ofNat 64 (8 * e))
          (place (streaming 5 16) 0 ((streaming 5 16).rX 2 + BitVec.ofNat 64 (8 * e))) ∧
        (place (streaming 5 16) 0 ((streaming 5 16).rX 2 + BitVec.ofNat 64 (8 * e))).pa = 0x20000 + 8 * e) ∧
    bitsApart 64 (fun e => e < 512) (fun e => 0x20000 + 8 * e) (fun _ => 0) := by
  have h : ∀ k ∈ [Access.vload, Access.vstore], reachAll (streaming 5 16) k 0 512
      (fun e => (streaming 5 16).rX 2 + BitVec.ofNat 64 (8 * e)) (fun e => 0x20000 + 8 * e) = true := by decide +kernel
  refine ⟨by decide +kernel, by decide +kernel, memOk_of (by decide +kernel), by decide +kernel, fun n hn e he k hk => ?_,
    apart_of_packed (base := 0x20000) fun n _ => ?_⟩
  · have : e < 512 := by
      have : n.toNat < 32 := n.isLt
      omega
    exact ⟨(reachAll_spec (h k hk) e (Nat.zero_le _) this).1, (reachAll_spec (h k hk) e (Nat.zero_le _) this).2.1⟩
  · omega

/-- A save area with the contents of v0 and v31, and the mask of both in x4. -/
def saved : State :=
  { (vec 5 16 [(2, 0x20000), (4, 0x80000001)]) with
    mem := memWrite base.mem 0x20000 (leBytes 8 0x101 ++ leBytes 8 (2 ^ 63) ++ List.replicate 240 0 ++ leBytes 8 (2 ^ 63)) }

/-- The selected registers at both ends of the numbers, with every word of the area. -/
theorem witness_NamedTransfers :
    saved.vectorReady ∧ (saved.rX 2).toNat % 128 = 0 ∧ saved.memOk ∧ selected (saved.rX 4) = [0, 31] ∧
    (saved.me.vec.contents [0, 31]).length = 1 ∧
    (∀ k ∈ [Access.vload, Access.vstore], ∀ e < 64, saved.reaches k (saved.rX 2 + BitVec.ofNat 64 (8 * e))
      (place saved 0 (saved.rX 2 + BitVec.ofNat 64 (8 * e)))) ∧
    (let word := fun e => (BitVec.ofNat 64 (bytesAt saved (place saved 0 (saved.rX 2 + BitVec.ofNat 64 (8 * e))).pa 8) : X)
     fieldOf (word 0) 8 5 = saved.me.vec.grant ∧ fieldOf (word 0) 0 6 ≤ 32 ∧
       ∀ q ∈ [0#5, 31#5], bitAt (word (1 + q.toNat)) 63 = true ∧ fieldOf (word (1 + q.toNat)) 58 5 < fieldOf (word 0) 0 6) := by
  have h : ∀ k ∈ [Access.vload, Access.vstore], reachAll saved k 0 64
      (fun e => saved.rX 2 + BitVec.ofNat 64 (8 * e)) (fun e => 0x20000 + 8 * e) = true := by decide +kernel
  exact ⟨by decide +kernel, by decide +kernel, memOk_of (by decide +kernel), by decide +kernel, by decide +kernel,
    fun k hk e he => (reachAll_spec (h k hk) e (Nat.zero_le _) he).1, by decide +kernel⟩

/-- A state with n bound registers, v1 to vn. -/
def bound (n : Nat) : State :=
  (vec 5 16 [(2, 0x20000), (4, 0x20008)]).modVec fun v => { v with
    streams := (List.range n).map fun j => { reg := BitVec.ofNat 5 (j + 1), data := 0x5000, scale := 0, count := 0, bounded := false, ctl := 0, ahead := [] } }

/-- No slot used and three, a valid record; a bound register and one that is not, an address to store the record to and a misaligned one. -/
theorem witness_StreamBindings :
    (bound 0).vectorOwned ∧ (bound 3).vectorOwned ∧ (bound 3).bindingsUsed = 3 ∧ (bound 3).memOk ∧ ((bound 3).rX 2).toNat % 64 = 0 ∧
    (∀ k ∈ [Access.otherRead, Access.otherWrite], ∀ j < 8, (bound 3).reaches k ((bound 3).rX 2 + BitVec.ofNat 64 (8 * j))
      (place (bound 3) 0 ((bound 3).rX 2 + BitVec.ofNat 64 (8 * j)))) ∧
    validStream ((List.range 8).map fun j => BitVec.ofNat 64 (bytesAt (bound 3) (0x20000 + 8 * j) 8)) = true ∧
    ((bound 3).me.vec.stream? 3).isSome = true ∧ ((bound 3).me.vec.stream? 9).isNone = true ∧ ((bound 3).rX 4).toNat % 64 ≠ 0 ∧ bitsApart 64 (fun j => j < 8) (fun j => 0x20000 + 8 * j) (fun _ => 0) := by
  have h : ∀ k ∈ [Access.otherRead, Access.otherWrite], reachAll (bound 3) k 0 8
      (fun e => (bound 3).rX 2 + BitVec.ofNat 64 (8 * e)) (fun e => 0x20000 + 8 * e) = true := by decide +kernel
  refine ⟨by decide +kernel, by decide +kernel, by decide +kernel, memOk_of (by decide +kernel), by decide +kernel,
    fun k hk j hj => (reachAll_spec (h k hk) j (Nat.zero_le _) hj).1, by decide +kernel, by decide +kernel, by decide +kernel, by decide +kernel,
    apart_of_packed (base := 0x20000) fun n _ => ?_⟩
  omega

/-- g lane groups and a width, with msr. -/
def tiled (sew : BitVec 3) (bl : BitVec 2) (g : Nat) (vl : X) (msr : BitVec 5) : State :=
  (vec sew vl [(2, 0x20000)]).modVec fun v => { v with groups := List.range g, bl := bl, msr := msr }

/-- The first slice under 2 lane groups and the last under 16, for every element width of a MOP. -/
theorem witness_OuterProducts :
    (∀ e ∈ [(5#3, 0#2, 64), (4#3, 0#2, 32), (3#3, 0#2, 16), (2#3, 1#2, 8), (1#3, 1#2, 4)], ∀ g ∈ [2, 16],
      let s := tiled e.1 e.2.1 g 0 0
      s.vectorReady ∧ s.tilesFree ∧ s.me.hart.fen = 0 ∧ s.heldBack = false ∧ (s.coreSt s.me.core).half s.cycle = false ∧
      (s.coreSt (pairCore s.me.core)).lastMop ≠ some s.cycle ∧ s.me.vec.width = e.2.2 ∧ (s.me.vec.block ≠ 0 ∨ 16 ≤ e.2.2) ∧
      (∀ c ∈ [9, 10, 11, 12, 13, 15, 16], s.me.vec.headerOk 1 c = true) ∧ 2048 * ((BitVec.ofNat 5 (g / 2 - 1)).toNat + 1) ≤ 1024 * s.me.vec.grant) ∧
    (∀ c ∈ [9, 10, 11, 12, 13, 15, 16], c ≠ 16 ∨ (tiled 1 1 2 0 0).me.vec.block ≠ 0) := by decide +kernel

/-- Both widths of a row; a transfer from row 31 on. -/
theorem witness_TileMoves :
    (tiled 5 0 2 32 31).vectorReady ∧ (tiled 5 0 2 32 31).tilesFree ∧ (tiled 4 0 2 64 0).vectorReady ∧ (tiled 5 0 2 32 31).memOk ∧
    (∀ s ∈ [tiled 5 0 2 32 31, tiled 4 0 2 64 0], rowEntries s.me.vec.width ≠ 0 ∧ rowEntries s.me.vec.width ≤ s.me.vec.vlmaxe) ∧
    ((tiled 5 0 2 32 31).rX 2).toNat % 8 = 0 ∧
    (∀ k ∈ [Access.vload, Access.vstore], ∀ e, 32 * (tiled 5 0 2 32 31).me.vec.msr.toNat ≤ e ∧ e < 1024 →
      (tiled 5 0 2 32 31).reaches k ((tiled 5 0 2 32 31).rX 2 + BitVec.ofNat 64 (8 * e))
          (place (tiled 5 0 2 32 31) 0 ((tiled 5 0 2 32 31).rX 2 + BitVec.ofNat 64 (8 * e))) ∧
        (tiled 5 0 2 32 31).marksOn ((tiled 5 0 2 32 31).rX 2 + BitVec.ofNat 64 (8 * e)) 8 = []) ∧
    bitsApart 64 (fun e => e < 1024) (fun e => 0x20000 + 8 * e) (fun _ => 0) := by
  have h : ∀ k ∈ [Access.vload, Access.vstore], reachAll (tiled 5 0 2 32 31) k 992 1024
      (fun e => (tiled 5 0 2 32 31).rX 2 + BitVec.ofNat 64 (8 * e)) (fun e => 0x20000 + 8 * e) = true := by decide +kernel
  refine ⟨by decide +kernel, by decide +kernel, by decide +kernel, memOk_of (by decide +kernel), by decide +kernel, by decide +kernel,
    fun k hk e he => ?_, apart_of_packed (base := 0x20000) fun n _ => ?_⟩
  · have := reachAll_spec (h k hk) e he.1 he.2
    exact ⟨this.1, this.2.2⟩
  · omega

/-- base with handles: p0, p1 and p2 of 32 planes at the rows 0, 32 and 64 of a subarray, p3 of one plane in row 3, and p4 of another
stack. -/
def planed : State :=
  (reg [(2, 0x80080000), (3, 0x60), (29, 0x4000)]).modHart fun h => { h with
    p := ((((h.p.set 0 { word := 0x80000000003E0000, va := 0 }).set 1 { word := 0x80000000083E0000, va := 0 }).set 2
      { word := 0x80000000103E0000, va := 0 }).set 3 { word := 0x8000000000C00000, va := 0 }).set 4 { word := 0x90000000003E0000, va := 0 } }

/-- Handles of one geometry that do not overlap and one that is the destination; every width; room in the sequencer; a program of two
words in a program space, and both ends of its alignment. -/
theorem witness_PlaneWorkAccepted :
    planed.settled ∧ live planed 0 ∧ live planed 1 ∧ live planed 2 ∧
    sameGeometry (planed.rP 0).word (planed.rP 1).word = true ∧ sameGeometry (planed.rP 0).word (planed.rP 2).word = true ∧
    room planed (planed.rP 0).word ∧ hWidth (planed.rP 0).word = 32 ∧ hBase (planed.rP 0).word + 32 ≤ hBase (planed.rP 1).word ∧
    hBase (planed.rP 1).word + 32 ≤ hBase (planed.rP 2).word ∧ live planed 4 ∧ room planed (planed.rP 4).word ∧
    hStack (planed.rP 4).word ≠ stackOf planed.me.core ∧
    (let s := planed.modHart fun h => { h with pready := [(0, 0)] }
     live s 0 ∧ s.settled) := by decide +kernel

/-- planed with a program at the address in x29: NOT of plane 0 of space A into plane 0 of space D, and END. -/
def programmed : State := { planed with mem := memWrite base.mem 0x4000 (leBytes 4 0x10008000 ++ leBytes 4 0) }

/-- The words of the program. -/
def programWords : List X := (List.range 2).map fun j => BitVec.ofNat 64 (bytesAt programmed (0x4000 + 4 * j) 4)

/-- The handles of the program. -/
def programHandles : RunHandles := { a := (programmed.rP 1).word, b := (programmed.rP 2).word, d := (programmed.rP 0).word }

/-- A program of legal operations over live handles, and a misaligned one. -/
theorem witness_microprogram :
    programmed.memOk ∧ (∀ j ≤ 1, programmed.reaches .load (programmed.rX 29 + BitVec.ofNat 64 (4 * j))
      (place programmed 0 (programmed.rX 29 + BitVec.ofNat 64 (4 * j)))) ∧
    programmed.settled ∧ live programmed 0 ∧ handleReady programmed 1 ∧ handleReady programmed 2 ∧ (programmed.rX 29).toNat % 4 = 0 ∧
    ((reg [(29, 2)]).rX 29).toNat % 4 ≠ 0 ∧ (programWords.map fun x => fieldOf x 28 4) = [1, 0] ∧
    (programWords.all fun x => (runWord programHandles 1 0 x.toNat).isSome) = true ∧ namesSpace 0 programWords = true ∧
    live programmed 1 ∧ sameGeometry programHandles.d (programmed.rP 1).word = true ∧ room programmed programHandles.d := by
  have h : reachAll programmed .load 0 2 (fun j => programmed.rX 29 + BitVec.ofNat 64 (4 * j)) (fun j => 0x4000 + 4 * j) = true := by
    decide +kernel
  exact ⟨memOk_of (by decide +kernel), fun j hj => (reachAll_spec h j (Nat.zero_le _) (by omega)).1, by decide +kernel⟩

/-- No lock, a lock of another hart, a lock of the hart, and 63 locks; plane work under way and none; a descriptor over four dies. -/
theorem witness_PlaneControl :
    planed.settled ∧ live planed 0 ∧
    (let s := { planed with locks := [lockOf 1] }
     s.settled ∧ (s.dropReserved s.pid s.me.hart.hid).locks.any (fun l => l.heldBy s.pid s.me.hart.hid && l.covers (s.rP 0).word) = false ∧
       s.lockedByOther s.pid s.me.hart.hid (s.rP 0).word = true ∧ s.lockHeldBack s.pid s.me.hart.hid (s.rP 0).word = true ∧
       s.lockedByOther s.pid s.me.hart.hid (s.rP 1).word = false ∧ s.plockers.length = 0 ∧
       s.lockHeldBack s.pid s.me.hart.hid (s.rP 1).word = false) ∧
    (let s := { planed with locks := List.replicate 63 (lockOf 0) }
     let x := (s.dropReserved s.pid s.me.hart.hid).dropPlocker s.pid s.me.hart.hid
     x.locks.any (fun l => l.heldBy s.pid s.me.hart.hid && l.covers (s.rP 1).word) = false ∧
       (x.locks.filter (fun l => l.stack == hStack (s.rP 1).word)).length < 64 ∧
       (s.locks.filter (fun l => l.stack == hStack (s.rP 1).word)).length < 64 ∧
       s.locks.any (fun l => l.placed && l.heldBy s.pid s.me.hart.hid && (sameGeometry l.handle (s.rP 0).word &&
         fieldOf l.handle 17 15 == fieldOf (s.rP 0).word 17 15)) = true) ∧
    planed.planesOf planed.pid planed.me.hart.hid = false ∧
    ({ planed with seq := [planeWork] } : State).planesOf planed.pid planed.me.hart.hid = true ∧
    (validDesc (planed.rX 3) = true ∧ (planed.rX 2).toNat % 2 ^ 17 = 0 ∧ (planeDesc (planed.rX 3)).w * (planeDesc (planed.rX 3)).nd = 4 ∧
       (planeDesc (planed.rX 3)).nd % 4 = 0 ∧ paDie (place planed 0 (planed.rX 2)).pa % 4 = 0) ∧
    (validDesc 0x40 = true ∧ (planeDesc 0x40).w * (planeDesc 0x40).nd = 3 ∧ (planeDesc 0x40).nd % 4 ≠ 0) := by
  decide +kernel

/-- A descriptor over four dies, and one over three. -/
theorem witness_blocks : ∀ n < 4,
    planed.translate planed.me.core planed.me.hart.pid planed.me.hart.prv .otherWrite (planed.rX 2 + BitVec.ofNat 64 (n * 2 ^ 17)) planed.hartAgent =
      (.ok (place planed planed.me.core (planed.rX 2 + BitVec.ofNat 64 (n * 2 ^ 17))), planed) ∧
    blockFits (planeDesc (planed.rX 3)) (place planed 0 (planed.rX 2)).pa
      (place planed 0 (planed.rX 2 + BitVec.ofNat 64 (n * 2 ^ 17))) (n / 4) (n % 4) = true ∧
    (n < 3 → blockFits (planeDesc 0x40) (place planed 0 (planed.rX 2)).pa
      (place planed 0 (planed.rX 2 + BitVec.ofNat 64 (n * 2 ^ 17))) (n / 3) (n % 3) = true) := by
  have h : ∀ n < 4, holds planed planed.me.core planed.me.hart.pid planed.me.hart.prv .otherWrite (planed.rX 2 + BitVec.ofNat 64 (n * 2 ^ 17)) = true ∧
      blockFits (planeDesc (planed.rX 3)) (place planed 0 (planed.rX 2)).pa
        (place planed 0 (planed.rX 2 + BitVec.ofNat 64 (n * 2 ^ 17))) (n / 4) (n % 4) = true ∧
      (n < 3 → blockFits (planeDesc 0x40) (place planed 0 (planed.rX 2)).pa
        (place planed 0 (planed.rX 2 + BitVec.ofNat 64 (n * 2 ^ 17))) (n / 3) (n % 3) = true) := by decide +kernel
  exact fun n hn => ⟨translate_of_holds rfl (h n hn).1, (h n hn).2⟩

/-- A state to read lanes of p0 from lane b on, at width 32. -/
def laneReading (b : X) : State :=
  { (vec 4 32 [(3, b)]) with tags := [] }

/-- The first and the last 32 of the 8,192 lanes of p0. -/
theorem witness_laneReads : (laneReading 0).memOk ∧ (laneReading 0).flips = [] ∧ (laneReading 0).tags = [] ∧ live planed 0 ∧
    (laneReading 0).vectorReady ∧ (laneReading 8160).vectorReady ∧ (laneReading 8160).rX 3 = 8160 ∧ (laneReading 8160).me.vec.vl = 32 ∧
    laneCount (planed.rP 0).word = 8192 ∧ hWidth (planed.rP 0).word = 32 ∧ (laneReading 0).me.vec.width = 32 ∧
    (laneReading 0).setLost (planed.rP 0).word = false ∧
    (laneReading 0).rowsWait (laneReading 0).pid (laneReading 0).me.hart.hid (planed.rP 0).word = false :=
  ⟨base_memOk, by decide +kernel⟩

/-- A ready Dawn array under every width, with x2 and x3 at the ends of their ranges and x28 a time to come. -/
def dawned (sew : BitVec 3) (vl : X) : State :=
  (vec sew vl [(2, 1), (3, 64), (4, 1023), (5, 0x1A), (28, 60)]).modVec fun v => { v with dawn := { v.dawn with rdy := true } }

/-- Configurations and windows at the ends of their ranges; a race at once and one to wait for; every item. -/
theorem witness_DawnInstructions :
    (dawned 3 64).dawnFree ∧ (dawned 3 64).me.hart.fm = false ∧ (dawned 3 64).settled ∧ (dawned 3 64).owns = true ∧
    fieldOf ((dawned 3 64).rX 5) 0 4 ≤ 10 ∧ fieldOf ((dawned 3 64).rX 5) 5 59 = 0 ∧ 1 ≤ ((dawned 3 64).rX 2).toNat ∧
    ((dawned 3 64).rX 4).toNat ≤ 1023 ∧ (dawned 3 64).vectorReady ∧ (dawned 3 64).me.vec.width = 16 ∧ (dawned 3 64).me.vec.dawn.rdy = true ∧
    ((dawned 3 64).rX 0).toNat ≤ (dawned 3 64).cycle ∧ (dawned 3 64).cycle < ((dawned 3 64).rX 28).toNat ∧
    (dawned 3 64).frozen = false ∧
    (let s := (dawned 3 64).modPart 0 fun p => { p with frozen := true }
     s.dawnFree ∧ s.vectorReady ∧ s.frozen = true) := by decide +kernel

theorem witness_dawnItems :
    (dawned 4 32).vectorReady ∧ (dawned 4 32).dawnFree ∧ (dawned 4 32).me.vec.width = 32 ∧ 1 ≤ ((dawned 4 32).rX 2).toNat ∧
    ((dawned 4 32).rX 3).toNat ≤ 64 ∧ (dawned 3 64).me.vec.width = (dawnItem 0).1 ∧ (dawned 2 128).vectorReady ∧
    (dawned 2 128).me.vec.width = (dawnItem 1).1 ∧ (dawned 4 32).me.vec.width = (dawnItem 2).1 ∧ (dawned 5 16).vectorReady ∧
    (dawned 5 16).me.vec.width = (dawnItem 3).1 ∧ (dawned 5 16).elem 0 0 < 64 ∧ (dawned 5 16).elem 0 0 % 16 ≤ 10 := by decide +kernel

/-! Events. -/

/-- base in a cycle, with its hart in a wait. -/
def waits (w : Option Wait) (cycle : Nat) : State := { (base.modHart fun h => { h with wait := w }) with cycle := cycle }

theorem focus_here {s : State} {c i : Nat} (h : (decide (s.me.core = c) && decide (s.me.idx = i)) = true) : s.focus c i = s := by
  simp only [Bool.and_eq_true, decide_eq_true_eq] at h
  exact if_pos h

theorem here_listed (s : State) : s.me ∈ s.slots := List.mem_cons_self

/-- A lock that the hart waits for, the end of a race and of a window, a race to begin. -/
def waitsLock : State := { waits (some (.plock 0 0x80000000003E0000)) 60 with locks := [{ lockOf 0 with placed := false }] }
/-- A race that has ended. -/
def raceOver : State := { base.modVec (fun v => { v with raceEnd := some 60 }) with cycle := 60 }
/-- A race whose start time has come. -/
def raceReady : State := (dawned 3 64).modHart fun h => { h with wait := some (.race 0) }
/-- A half-rate window that is over. -/
def windowOver : State := { base with cycle := 4, cores := [{ id := 0, lastSlot := 3, lastCycle := none, lastMop := none, halfUntil := 4 }] }
/-- A stream to read ahead. -/
def aheadOf : State := (vec 2 16 []).modVec fun v => { v with
  streams := [{ reg := 1, data := 0x5000, scale := 0, count := 0, bounded := false, ctl := 0x400, ahead := [] }] }

/-- Every clause: waits that end, traps that are due, the two words of the cause, a stream with room to read ahead. -/
theorem witness_HartEvents :
    (∀ s ∈ [waits none 0, waits (some (.watermark 0 0)) 0], s.focus 0 0 = s ∧ s.me ∈ s.slots) ∧
    ((waits (some (.watermark 0 0)) 0).me.live = true ∧ (waits (some (.watermark 0 0)) 0).me.hart.wait = some (.watermark 0 0) ∧
      0 ≤ ((waits (some (.watermark 0 0)) 0).watermark 0).count.toNat) ∧
    (let s : State := alarmed.modHart fun h => { h with wait := some .wfi }
     (s.slotAt 0 0).live = true ∧ s.runs (s.slotAt 0 0).hart.pid = true ∧ (s.slotAt 0 0).hart.wait = some .wfi ∧
       s.alarmDue (s.slotAt 0 0).hart = true) ∧
    (waitsLock.me.live = true ∧ waitsLock.me.hart.wait = some (.plock 0 0x80000000003E0000) ∧
      (waitsLock.locks.find? (fun q => q.id == 0 && !q.placed && q.heldBy waitsLock.me.hart.pid waitsLock.me.hart.hid)).isSome = true ∧
      waitsLock.lockHeldBack waitsLock.me.hart.pid waitsLock.me.hart.hid 0x80000000003E0000 = false) ∧
    (raceOver.me.vec.raceEnd = some 60 ∧ 60 ≤ raceOver.cycle) ∧
    (raceReady.me.live = true ∧ raceReady.me.hart.wait = some (.race 0) ∧ raceReady.frozen = false) ∧
    ((windowOver.coreSt 0).halfUntil ≠ 0 ∧ (windowOver.coreSt 0).halfUntil ≤ windowOver.cycle) ∧
    (alarmed.asyncDue (alarmed.slotAt 0 0) = true ∧ alarmed.me.hart.async = [] ∧ pending.asyncDue (pending.slotAt 0 0) = true ∧
      (firstAsync pending.me.hart.async).isSome = true) ∧
    base.me.live = true := by
  refine ⟨fun s hs => ⟨focus_here ?_, here_listed _⟩, by decide +kernel⟩
  revert s
  decide +kernel

theorem witness_readAhead :
    aheadOf.focus 0 0 = aheadOf ∧ aheadOf.me ∈ aheadOf.slots ∧ aheadOf.me.live = true ∧ aheadOf.owns = true ∧ aheadOf.memOk ∧
    (aheadOf.me.vec.stream? 1).any (fun b => b.nextAhead == 0x5000 && decide ((b.nextAhead - b.data).toNat + b.bytes ≤
      fieldOf b.ctl 10 4 * (aheadOf.me.vec.vl.toNat * b.width / 8)) && (aheadOf.marksOn 0x5000 b.bytes).isEmpty) = true ∧
    aheadOf.reaches .vload 0x5000 (place aheadOf 0 0x5000) := by
  refine ⟨focus_here ?_, here_listed _, ?_, ?_, memOk_of ?_, ?_, reaches_of_canReach ?_⟩ <;> decide +kernel

theorem witness_raceBegin :
    (raceReady.modHart fun r => { r with wait := none }).vectorReady ∧ (raceReady.modHart fun r => { r with wait := none }).dawnFree ∧
    raceReady.me.vec.width = 16 ∧ raceReady.me.vec.dawn.rdy = true := by decide +kernel

/-- A queued hart, and the record of hart 1 in a state. -/
def queued : Runnable := { stack := 0, pid := 0, hid := 1 }
/-- base in a cycle with a queue and the record of hart 1 in a state. -/
def scheduled (cycle state : Nat) (w : Option Wait) (queue : List Runnable) : State :=
  { waits w cycle with queue := queue, mem := memWrite base.mem 0x40200 (leBytes 8 (state * 2 ^ 44)) }

/-- The same without a resident hart. -/
def idle (cycle state : Nat) (queue : List Runnable) : State :=
  let s := scheduled cycle state none queue
  { s with me := Slot.empty 0 0 }

/-- A walker's record of one dimension with extent 1. -/
def walked : WalkerRec :=
  { id := 0, stack := 0, pid := 0, hid := 0, prv := true, tvec := 0, addr := 0x4000, words := [0x2000, 0, 1, 0, 0, 0, 0, 0], start := none, accepted := 0, next := 0 }

/-- Slices that expire with a queue and without one, a waiter of 256 cycles, records to switch in, a wait that is over, a hand-off. -/
theorem witness_SchedulerEvents :
    ((scheduled 1100 2 none [queued]).sliceDue ((scheduled 1100 2 none [queued]).slotAt 0 0) = true ∧
      (scheduled 1100 2 none [queued]).queueWaits 0 0 = true) ∧
    ((scheduled 1100 2 none []).sliceDue ((scheduled 1100 2 none []).slotAt 0 0) = true ∧
      (scheduled 1100 2 none []).queueWaits 0 0 = false) ∧
    (scheduled 400 2 (some (.epop 0)) [queued]).waiterDue ((scheduled 400 2 (some (.epop 0)) [queued]).slotAt 0 0) = true ∧
    ((idle 100 1 [queued]).switchInNext 0 0 = some queued ∧ (idle 100 1 [queued]).recordState 0 1 = 1 ∧ recordSound (idle 100 1 [queued]) 0 1) ∧
    ((idle 100 2 [queued]).switchInNext 0 0 = some queued ∧ (idle 100 2 [queued]).recordState 0 1 = 2 ∧ recordSound (idle 100 2 [queued]) 0 1) ∧
    (let s := { scheduled 100 4 none [] with waiting := [queued] }
     s.waiting.find? (fun q => q.pid == 0 && q.hid == 1 && s.observed q) = some queued ∧ recordSound s 0 1) ∧
    (let s := { idle 100 0 [] with walkers := [walked] }
     s.handoffDue 0 0 0 = true ∧ s.slotPid 0 0 = some 0 ∧ s.nextRecord 0 0 = some walked ∧ s.freeRecord 0 = some 0 ∧ recordSound s 0 0) := by
  decide +kernel

theorem witness_scheduledMemory :
    (scheduled 1100 2 none []).memOk ∧ (idle 100 1 []).memOk :=
  ⟨memOk_of (by decide +kernel), memOk_of (by decide +kernel)⟩

/-- base with one accepted plane instruction, in cycle 1000, that owes a refresh of die 0 and has left row 5 unchecked. -/
def sequenced (running : Bool) (prog : List RowOp) (since : Nat) : State :=
  { base with cycle := 1000, seq := [{ planeWork with running := running, prog := prog, sinceSync := since, owed := [0], unchecked := [5] }] }

/-- An instruction to start, its end, its last operation before a window, a window; a release; the refresh that is due; a bank. -/
theorem witness_SequencerEvents :
    (∀ s ∈ [sequenced false [.fin] 0, sequenced true [.fin] 0, sequenced true [.tra, .fin] 31, sequenced true [.sync, .fin] 3],
      (s.seqOp? 0).isSome = true) ∧
    ((sequenced false [.fin] 0).seq.all fun o => (sequenced false [.fin] 0).canStart o) = true ∧
    ((sequenced true [.fin] 0).seq.all fun o => (sequenced true [.fin] 0).rowDue o) = true ∧
    ((sequenced true [.tra, .fin] 31).seq.all fun o => (sequenced true [.tra, .fin] 31).rowDue o && o.sinceSync != 0) = true ∧
    ((sequenced true [.sync, .fin] 3).seq.all fun o => o.running && o.refused.isNone && decide (o.nextAt ≤ 1000)) = true ∧
    (let s := { base with locks := [{ lockOf 0 with releasing := true }] }
     (s.locks.find? (fun r => r.stack == 0 && r.id == 0)).any (fun l => s.lockDone l) = true) ∧
    (let s := { base with cycle := 312 }
     s.refreshCount 7 % 16 = 1 ∧ 312 * s.refreshCount 7 ≤ s.cycle) ∧
    bankBases planeWork.geo = [0] ∧ rowZ ≠ 0 ∧ rowO ≠ 0 ∧ rowH ≠ 0 ∧ rowZ < 1024 ∧ rowO < 1024 ∧
    (sequenced true [.sync, .fin] 3).waitersOn planeWork.geo = [] ∧
    (let s : State := { sequenced true [.sync, .fin] 3 with rows := [(rowPa 0 5 / 1024, .unchecked)] }
     ∀ b ∈ bankBases planeWork.geo, (s.rowCond (rowPa b 5) = some .unchecked ∧ paDie b = 0)) := by decide +kernel

/-- Rows of D, A and B that lie apart, and D the same as A and as B, at both ends of the widths. -/
theorem witness_expansionResults :
    State.reset.memOk ∧ 0 ∈ bankBases planeWork.geo ∧ State.reset.rowBits (rowPa 0 rowZ) = 0 ∧ State.reset.rowBits (rowPa 0 rowO) = 2 ^ 8192 - 1 ∧
    (∀ r ∈ [({ d := 0, a := 32, b := 64, scratch := false } : PlaneRows), { d := 976, a := 944, b := 912, scratch := true }], ∀ w ∈ [1, 32],
      r.d + w ≤ 1008 ∧ r.a + w ≤ 1008 ∧ r.b + 2 ≤ 1008 ∧ r.b + w ≤ 1008 ∧ (r.d + w ≤ r.a ∨ r.a + w ≤ r.d) ∧ (r.d + w ≤ r.b ∨ r.b + w ≤ r.d) ∧
        (r.d + w ≤ r.b ∨ r.b + 2 ≤ r.d)) := by
  refine ⟨memOk_of (by decide +kernel), by decide +kernel, by decide +kernel, by decide +kernel, by decide +kernel⟩

/-- What `engReaches` asks, as a test, with the physical address. -/
def engCan (s : State) (n : Nat) (c : Command) (k : Access) (va : X) (pa : Nat) : Bool :=
  let p := place s (1000 + n) va
  holds s (1000 + n) c.pid c.prv k va && (isDram p.pa && (!reservedRow p.pa &&
    (decide (engFree s n p.pa) &&
      (!s.scratchMarked p.pa && ((tagAt s.tags (p.pa / 8) != 3) &&
        (((List.range 8).all fun j => (flipsAt s.flips (8 * (p.pa / 128) + j)).isEmpty) && (p.pa == pa)))))))

theorem engReaches_of_can {s : State} {n : Nat} {c : Command} {k : Access} {va : X} {pa : Nat} (hp : c.pid = s.me.hart.pid)
    (h : engCan s n c k va pa = true) : engReaches s n c k va (place s (1000 + n) va) ∧ (place s (1000 + n) va).pa = pa := by
  simp only [engCan, Bool.and_eq_true, Bool.not_eq_true', bne_iff_ne, ne_eq, beq_iff_eq, decide_eq_true_eq] at h
  obtain ⟨h1, h2, h3, h4, h5, h6, h7, h8⟩ := h
  exact ⟨⟨translate_of_holds hp h1, h2, h3, h4, h5, h6, flips_of_line h7⟩, h8⟩

/-- A command of the hart's partition. -/
def command (w0 w1 w2 w3 : X) : Command :=
  { w0 := w0, w1 := w1, w2 := w2, w3 := w3, pid := 0, hid := 0, prv := true, start := none, accepted := 0 }

/-- base in a cycle in which engine 0 can perform its head command. -/
def engineAt (c : Command) : State := { engined 0 [] none with
  cycle := 60
  engines := [{ n := 0, cmds := [c], done := [], frozen := none, progress := 0, emitted := 0, bad := false, readyAt := 0, waitsOn := none }] }

/-- The premises of every command but those on addresses. -/
def headDue (c : Command) : Bool :=
  let s := engineAt c
  let k := s.engine 0
  s.engineDue k && (k.cmds.head? == some c) && k.cmds.length == 1 && k.progress == 0 && k.emitted == 0 && !k.bad && k.spoiled.isEmpty &&
    s.sram.isEmpty

/-- COPY of two words. -/
def copyCmd : Command := command 0x301 0x4000 0x8000 16
/-- FILL of two words. -/
def fillCmd : Command := command 0x35 0x4000 0x55 16
/-- SNAP of one block. -/
def snapCmd : Command := command 0x104 0x10000 0x20000 0x30000
/-- PREF of two lines. -/
def prefCmd : Command := command 0x3 0x407F 0 2
/-- CTURN of eight lanes of one plane to bytes. -/
def turnCmd : Command := command 0x812 0x4000 0x80080000 0
/-- CTURN of eight bytes to eight lanes of one plane. -/
def spreadCmd : Command := command 0x802 0x4000 0x80080000 0
/-- The commands that are well formed. -/
def commands : List Command := [copyCmd, turnCmd, spreadCmd, prefCmd, snapCmd, fillCmd]

/-- Malformed and empty commands, and each kind; the conversion of a way. -/
theorem witness_EngineCommands :
    (headDue (command 0x301 1 0 16) = true ∧ cmdMalformed (command 0x301 1 0 16) = true) ∧
    (headDue (command 0x301 0 0 0) = true ∧ cmdMalformed (command 0x301 0 0 0) = false ∧ cmdEmpty (command 0x301 0 0 0) = true) ∧
    (commands.all fun c => headDue c && !cmdMalformed c && !cmdEmpty c) = true ∧
    (commands.map fun c => (fieldOf c.w0 0 4, bitAt c.w0 4)) = [(1, false), (2, true), (2, false), (3, false), (4, false), (5, true)] ∧
    (let s : State := { base with wparts := [{ stack := 0, pos := 0, req := 1, cur := 0, way := some (1, 0) }] }
     (s.wpart 0 0).stack = 0 ∧ (s.wpart 0 0).pos = 0 ∧ (s.wpart 0 0).way = some (1, 0)) := by decide +kernel

/-- No hash is zero. -/
theorem snapHash_ne_zero (ws : List Nat) : snapHash ws ≠ 0 := by
  intro h
  have h1 : (snapHash ws).toNat = 0 := by rw [h]; rfl
  have h2 := (crc48 (ws.flatMap (leBytes 8))).isLt
  simp only [snapHash, xOf, BitVec.toNat_ofNat] at h1
  omega

/-- The address of element i of SNAP: the words of a block that has changed, and the count. -/
def snapVa (i : Nat) : X :=
  if i = 514 then snapCmd.w3 else if i = 0 then snapCmd.w2 else snapCmd.w3 + BitVec.ofNat 64 (8 + 8 * (i - 1))

/-- Where it lies. -/
def snapPa (i : Nat) : Nat := if i = 514 then 0x30000 else if i = 0 then 0x20000 else 0x30008 + 8 * (i - 1)

theorem witness_engineAddresses :
    (List.range 2).all (fun i =>
      engCan (engineAt copyCmd) 0 copyCmd .otherRead (copyCmd.w1 + BitVec.ofNat 64 (layoutOffset 0 1 8 i)) (0x4000 + 8 * i) &&
      engCan (engineAt copyCmd) 0 copyCmd .otherWrite (copyCmd.w2 + BitVec.ofNat 64 (layoutOffset 0 1 8 i)) (0x8000 + 8 * i) &&
      engCan (engineAt fillCmd) 0 fillCmd .otherWrite (fillCmd.w1 + BitVec.ofNat 64 (i * 8)) (0x4000 + 8 * i) &&
      engCan (engineAt prefCmd) 0 prefCmd .otherRead (BitVec.ofNat 64 ((0x407F / 128 + i) * 128)) (0x4000 + 128 * i)) = true ∧
    (List.range 512).all (fun i =>
      engCan (engineAt snapCmd) 0 snapCmd .otherRead (snapCmd.w1 + BitVec.ofNat 64 (8 * i)) (0x10000 + 8 * i)) = true ∧
    (List.range 515).all (fun i => engCan (engineAt snapCmd) 0 snapCmd .otherWrite (snapVa i) (snapPa i)) = true ∧
    engCan (engineAt snapCmd) 0 snapCmd .otherRead snapCmd.w2 0x20000 = true ∧
    ∀ ws, BitVec.ofNat 64 (bytesAt (engineAt snapCmd) 0x20000 8) ≠ snapHash ws := by
  refine ⟨?_, ?_, ?_, ?_, fun ws h => snapHash_ne_zero ws (h.symm.trans ?_)⟩ <;> decide +kernel

/-- The elements of each command lie apart. -/
theorem witness_engineApart :
    bitsApart 64 (fun i => i < 2) (fun i => 0x8000 + 8 * i) (fun _ => 0) ∧
    (∀ i j, i ≤ 514 → j ≤ 514 → i ≠ j → snapPa i + 8 ≤ snapPa j ∨ snapPa j + 8 ≤ snapPa i) ∧
    (∀ i < 512, ∀ j ≤ 514, 0x10000 + 8 * i + 8 ≤ snapPa j ∨ snapPa j + 8 ≤ 0x10000 + 8 * i) ∧
    (∀ i < 2, ∀ j < 2, 0x4000 + 8 * i + 8 ≤ 0x8000 + 8 * j ∨ 0x8000 + 8 * j + 8 ≤ 0x4000 + 8 * i) := by
  refine ⟨apart_of_packed (base := 0x8000) fun n _ => by omega, fun i j hi hj hne => ?_, fun i hi j hj => ?_, fun i hi j hj => by omega⟩ <;>
  · unfold snapPa
    split_ifs <;> omega

/-- CTURN from planes and to planes: its block, its lanes and its elements. -/
theorem witness_turn :
    ∀ e ∈ [(turnCmd, Access.otherRead, Access.otherWrite), (spreadCmd, .otherWrite, .otherRead)],
      (engCan (engineAt e.1) 0 e.1 .otherWrite e.1.w2 0x600000 &&
        blockFits (planeDesc (turnDesc e.1)) 0x600000 (place (engineAt e.1) 1000 e.1.w2) 0 0) = true ∧ e.1.w1.toNat % 1 = 0 ∧
      (let h := handleWord (planeDesc (turnDesc e.1)) 0x600000
       (List.range 8).all fun j => engCan (engineAt e.1) 0 e.1 .otherRead (Machine.laneVa e.1 h 0 j) 0x600000 &&
         engCan (engineAt e.1) 0 e.1 e.2.1 (Machine.laneVa e.1 h 0 j) 0x600000 &&
         engCan (engineAt e.1) 0 e.1 e.2.2 (e.1.w1 + BitVec.ofNat 64 j) (0x4000 + j)) = true := by decide +kernel

/-- The eight lanes of one byte lie apart, and away from the bytes. -/
theorem witness_turnApart :
    bitsApart 1 (fun q => q < 1 * 8) (fun _ => 0x600000) (fun q => (0 + q % 8) % 8) ∧
    ∀ j < 8, 0x600000 < 0x4000 + j ∨ 0x4000 + j + 1 ≤ 0x600000 := by
  refine ⟨fun m n hm hn hne b hb c hc => ?_, fun j hj => by omega⟩
  rintro ⟨h1, h2⟩
  dsimp only at hm hn h1 h2
  omega

/-- base with its partition changed. -/
def parted (f : Part → Part) (s : State) : State := s.modPart 0 f

/-- A configuration for partition 1, of another core. -/
def otherCfg : PartCfg :=
  { placedCfg with
    root := 0x200000
    pool := 0x50000
    frames := 0x38000
    cores := [{ core := 1, mask := 1, part := 16 }]
    scratch := [(0, 1)]
    watermarks := [1]
    engines := [1] }

/-- base with partition 0 swapped out, with the slot of its hart in the image, and no scratch in use. -/
def swapped : State :=
  let s := idle 100 1 []
  parted (fun p => { p with cond := .swapped, image := [Slot.imaged 0 base.me], heldSeq := [planeWork], heldWalk := [walked] }) s

/-- Whether an address is that of a record of a partition. -/
def recordAt (p : Part) (a : Nat) : Bool :=
  decide (p.cfg.pool ≤ a) && decide (a < p.cfg.pool + 512 * p.cfg.count) && decide ((a - p.cfg.pool) % 512 = 0)

/-- base whose partition halts for a swap-out, with its hart in a wait. -/
def halting (w : Option Wait) : State := parted (fun p => { p with cond := .halting }) (base.modHart fun h => { h with wait := w })

/-- No partition and a partition in each condition; records in state 1 and in another, a free queue; configurations that are well formed,
one that is not, and one that takes a slot of the image away; a record whose die performs a refresh; a swap-out that runs, and one whose hart must
complete its instruction first; firmware in recovery and in reset. -/
theorem witness_ManagementEvents :
    ((base.part? 1).isNone = true ∧ base.fw.recovery = false ∧ base.fw.inReset = false ∧ base.cfgMalformed 1 otherCfg = false ∧
      base.cfgMalformed 1 { otherCfg with slice := 9 } = true) ∧
    (let s := scheduled 100 1 none []
     (s.part? 0).any (fun p => recordAt p 0x40200 && !recordAt p 0x40201 && !recordAt p 0x42000 && recordAt p 0x40000 && p.cond == .running && s.hasHart p) = true ∧
       s.recordState 0 (BitVec.ofNat 32 ((0x40200 - 0x40000) / 512)) = 1 ∧ s.recordState 0 0 ≠ 1 ∧ s.queue.length = 0 ∧
       s.startBusy 0 0x40200 = false ∧ (scheduled 640 1 none []).startBusy 0 0x40200 = true) ∧
    ((parted (fun p => { p with cond := .idle }) (scheduled 100 1 none [])).part? 0).any (fun p => p.cond == .idle && !p.frozen) = true ∧
    ((swapped.part? 0).any (fun p => p.cond == .swapped && !swapped.cfgRemoves p placedCfg &&
        swapped.cfgRemoves p { placedCfg with cores := [{ core := 1, mask := 1, part := 16 }] } && recordAt p 0x40200) = true ∧
      swapped.cfgMalformed 0 placedCfg = false ∧ swapped.cfgMalformed 0 { placedCfg with slice := 9 } = true ∧
      swapped.cfgMalformed 0 { placedCfg with cores := [{ core := 1, mask := 1, part := 16 }] } = false) ∧
    (let s := parted (fun p => { p with cond := .swapped }) (idle 100 1 [])
     (s.part? 0).any (fun p => !s.hasHart p) = true) ∧
    ((halting none).part? 0).any (fun p => p.cond == .halting && (halting none).halted p) = true ∧
    ((halting (some (.bank 0 true))).part? 0).any (fun p => p.cond == .halting && !(halting (some (.bank 0 true))).halted p) = true ∧
    (halting none).swapRuns = true ∧ base.swapRuns = false ∧ swapped.swapRuns = false ∧
    (∀ s ∈ [({ base with fw := { base.fw with recovery := true } } : State), { base with fw := { base.fw with inReset := true } }],
      (s.fw.recovery = true ∨ s.fw.inReset = true) ∧ s.swapRuns = false) ∧
    ((engined 0 [] none).engine 0).frozen.isNone = true ∧ ((engined 1 [] (some 0)).engine 0).frozen.isSome = true ∧
    (3 ∈ ({ base with peersFrozen := [3] } : State).peersFrozen ∧ 3 ∉ base.peersFrozen) ∧
    (let s := { base with seq := [{ planeWork with refused := some 0, running := true }] }
     s.seqFrozen 0 0 = true ∧ (∀ o ∈ s.seq, o.refused ≠ none → o.running = true) ∧ base.seqFrozen 0 0 = false) ∧
    (List.replicate 32 (0#8)).length = 32 := by decide +kernel

theorem witness_swappedImage :
    (swapped.part? 0).any (fun p => decide (p.image.Pairwise fun u v => ¬(u.core = v.core ∧ u.idx = v.idx))) = true := by decide +kernel

/-- Whether a granule is in order, held back, or backs nothing. -/
def granuleGood (s : State) (g : Nat) : Bool :=
  !s.backsNothing g && !s.scratchMarked g && !s.dramWaits g none && tagAt s.tags (g / 8) != 3 && tagAt s.tags (g / 8 + 1) != 3 &&
    (flipsAt s.flips (g / 16)).isEmpty

/-- A partition that grants a peer 1 MiB of its memory. -/
def sharing : State := parted (fun p => { p with cfg := { p.cfg with peers := [{ peer := 3, base := 0x4000, size := 0x100000 }] } }) base

/-- base with CXL port 1 mapped out with its stack. -/
def portLost : State := { base with fw := { base.fw with lost := [.baseDie 3] } }

/-- The host and a peer with a grant and without one, on ports that work and on one that does not; granules in order at both ends of a
granule, in a reserved row, and in banks that a microprogram holds; the host's own memory; a request that times out. -/
theorem witness_transfers :
    base.fw.inReset = false ∧ base.sram.length = 0 ∧ (sharing.reachable (.host 0) && sharing.reachable (.host 3) && sharing.reachable (.peer 3)) = true ∧
    portLost.reachable (.host 1) = false ∧ base.portWorks 0 = true ∧ 2 ^ 51 + 64 ≤ 2 ^ 52 ∧
    (sharing.peerGranted 3 0x4000 16 && sharing.peersFrozen.isEmpty && !sharing.peerGranted 4 0x4000 16) = true ∧
    ({ sharing with peersFrozen := [3] } : State).reachable (.peer 3) = true ∧
    ((granules 0x4001 31).all (granuleGood sharing)) = true ∧ 0x4001 + 31 ≤ 2 ^ 39 ∧
    base.backsNothing (1008 * 2 ^ 21) = true ∧ base.dramWaits (1008 * 2 ^ 21) none = false ∧
    (sequenced true [.fin] 0).dramWaits 0 none = true ∧
    (let s : State := { base with lines := [{ pa := 2 ^ 51, way := 15, lowHalf := true, highHalf := true, dirtyLow := false, dirtyHigh := false }] }
     s.lines.all (fun k => k.pa == 2 ^ 51 / 128 * 128) = true) ∧
    (let s : State := { base with
       cycle := 1300000
       requests := [{ id := 2, who := .host 0, pa := 0, size := 16, write := none, since := 0 }] }
     (s.requests.find? (fun q => q.id == 2 && decide (q.since + 1300000 ≤ s.cycle))).isSome = true) := by decide +kernel

/-- base with a line in its column bank and in the L1 data cache of core 0, dirty or clean, and in the L1 instruction cache of core 1. -/
def copied (dirty : Bool) : State :=
  { base with
    lines := [{ pa := 0x4000, way := 15, lowHalf := true, highHalf := true, dirtyLow := dirty, dirtyHigh := false }]
    dir := [{ pa := 0x4000, data := [0], instr := [1], modLow := dirty, modHigh := false }] }

/-- Transfers that fail, with repeats that pass and that fail; a bus that awaits its diagnosis; units to lose, and a module that is due to
reset; every place of a word, dirty and clean. -/
theorem witness_BusEvents :
    failingGroups [(0, 3)] = [0] ∧ failingGroups [(0, 3), (0, 4)] = [] ∧ failingGroups [(7, 127), (7, 135)] = [] ∧
    failingGroups [(7, 112)] = [7] ∧ failingGroups [] = [] ∧ (∀ f ∈ [((8 : Nat), (3 : Nat)), (0, 128)], 8 ≤ f.1 ∨ 128 ≤ f.2) ∧
    (let s := { base with fw := { base.fw with diagnosing := [({ stack := 7, column := 127 }, 7)] } }
     s.fw.diagnosing.lookup { stack := 7, column := 127 } = some 7 ∧ (inGroup 7 127 && inGroup 7 135 && !inGroup 7 111) = true ∧
       s.swapsOf { stack := 7, column := 127 } < 4) ∧
    (let s := { base with fw := { base.fw with laneSwaps := List.replicate 4 ({ stack := 7, column := 127 }, 112) } }
     4 ≤ s.swapsOf { stack := 7, column := 127 }) ∧
    unitOk (.bus 7 127) = true ∧ base.fw.losing.length = 0 ∧ base.fw.lost.length = 0 ∧
    ({ base with fw := { base.fw with resetAt := some 0 } } : State).resetDue = true ∧ base.fw.coolantLost = false ∧
    (∀ q ∈ [(ModuleUnit.sramLayer 0, 104)], q.2 < 105) ∧ (ModuleUnit.die 7 15, 105) ∈ [(ModuleUnit.die 7 15, 105)] ∧
    base.busTaken { stack := 7, column := 127 } = false ∧
    ({ base with buses := [({ stack := 7, column := 127 }, 100)] } : State).busTaken { stack := 7, column := 127 } = true ∧
    base.poisonedAt false 0x4000 = false ∧ base.errorSites 0x4000 = [.dram] ∧
    base.errorSites 0x4000 = [.dram] ∧
    (∀ d ∈ [true, false], (copied d).errorSites 0x4000 = [.dram, .bank, .l1 0, .l1i 1] ∧
      (copied d).siteDirty 0x4000 .bank = d ∧ (copied d).siteDirty 0x4000 (.l1 0) = d) := by decide +kernel

/-- copied with flipped bits of its word in a place. -/
def struckAt (dirty : Bool) (k : ErrorSite) (bits : List Nat) : State :=
  { copied dirty with sram := [{ pa := 0x4000, site := k, bits := bits }] }

/-- The bits that stay flipped in a place of the word. -/
def heldAt (s : State) (k : ErrorSite) : List Nat :=
  ((s.sram.find? fun f => f.pa == 0x4000 / 8 * 8 && decide (f.site = k)).map (fun f => f.bits)).getD []

/-- A word in DRAM alone, one in a bank alone, and one in several places, some of which the free choice names; a word in no place; one and two
flipped bits in every place of SRAM, where the copy is dirty and where it is clean. -/
theorem witness_softErrors :
    (base.errorSites 0x4000)[Config.freeChoice base.fresh 0 % max 1 (base.errorSites 0x4000).length]? = some .dram ∧
    (∃ k, ((copied true).errorSites 0x4000)[Config.freeChoice (copied true).fresh 0 % max 1 ((copied true).errorSites 0x4000).length]? = some k) ∧
    base.errorSites (2 ^ 51) = [] ∧
    (∀ d ∈ [true, false], ∀ k ∈ [ErrorSite.bank, .l1 0, .l1i 1], ∀ l ∈ [[127], [0, 127]], heldAt (struckAt d k l) k = l) ∧
    (∀ d ∈ [true, false], ∀ k ∈ [ErrorSite.bank, .l1 0], ∀ l ∈ [[127], [0, 127]], (struckAt d k l).siteDirty 0x4000 k = d) := by
  have h : base.errorSites 0x4000 = [.dram] := by decide +kernel
  have h4 : ((copied true).errorSites 0x4000).length = 4 := by decide +kernel
  refine ⟨?_, ⟨_, List.getElem?_eq_getElem (by rw [h4]; exact Nat.mod_lt _ (by omega))⟩, by decide +kernel, by decide +kernel, by decide +kernel⟩
  rw [h]
  simp [Nat.mod_one]

/-! ### Single steps with results from the manual -/

/-- What an instruction leaves, where it completes. -/
def leaves {α : Type} (i : Instr) (s : State) (f : State → α) : Option α :=
  match exec i s with
  | .next t => some (f t)
  | _ => none

/-- An image with elements from the first on, under one lane group. -/
def image (g w : Nat) (l : List Nat) : Nat := (setElems g w (l.zipIdx.map fun e => (e.2, e.1)) 0).toNat

/-- 04, the example of li and lih. -/
theorem test_lih : leaves (.lih 0 9 0x89AB) (reg [(9, 0x01234567)]) (fun t => t.rX 9) = some 0x00000123456789AB := by decide +kernel

/-- Table 3 of 04. -/
theorem test_division :
    leaves (.div 0 4 2 3) (reg [(2, 7), (3, -2)]) (fun t => t.me.hart.x[4]) = some (-3) ∧
    leaves (.rem 0 4 2 3) (reg [(2, -7), (3, 2)]) (fun t => t.me.hart.x[4]) = some (-1) ∧
    divS 0x8000000000000000 (-1) = 0x8000000000000000 ∧ divS 5 0 = -1 ∧ divN (-1) 2 = 0x7FFFFFFFFFFFFFFF := by decide +kernel

/-- R79: fkind of −0, +1.0 and a signalling NaN with sign 1. -/
theorem test_kind :
    Fmt.f64.kind 0x8000000000000000 = 8 ∧ Fmt.f64.kind 0x3FF0000000000000 = 2 ∧ Fmt.f64.kind 0xFFF0000000000001 = 0xD := by decide +kernel

/-- Table 5 of 02: NX is bit 0 of a set of flags, UF 1, OF 2 and NV 4. -/
theorem test_conversions :
    vecConvert 10 12 0 0x3E99999A = (0x2A, 1) ∧ vecConvert 10 13 0 0x47800000 = (0x7C, 5) ∧ vecConvert 10 12 0 0x3A800000 = (0, 3) ∧
    vecConvert 10 0 0 0xC0200000 = (0xFE, 1) ∧ vecConvert 10 0 0 0x43960000 = (0x7F, 16) ∧
    vecConvert 9 11 0 0x3FC0 = (0x3FF8000000000000, 0) := by decide +kernel

/-- base where the hart asks for 16 lane groups, with x10. -/
def asking (x10 : X) : State := (reg [(10, x10)]).modHart fun h => { h with lanesReq := 16 }

/-- Table 1 of 05. -/
theorem test_setvl :
    leaves (.setvl 0 9 10 5) (asking 1000) (fun t => (t.rX 9, t.me.vec.vill)) = some (256, false) ∧
    leaves (.setvl 0 9 10 10) (asking 100) (fun t => (t.rX 9, t.me.vec.vill)) = some (96, false) ∧
    leaves (.setvlm 0 9 10 10) (asking 4) (fun t => (t.rX 9, t.me.vec.vill)) = some (512, false) ∧
    leaves (.setvl 0 9 10 29) (asking 8) (fun t => (t.rX 9, t.me.vec.vill)) = some (0, true) := by decide +kernel

/-- The example of R107: G = 16, x[a] = 0xC040. -/
theorem test_lane_addresses :
    (let s := (vec 5 256 [(2, 0xC040)]).modVec fun v => { v with groups := List.range 16 }
     [laneVa s 2 0, laneVa s 2 17, laneVa s 2 255]) = [0xC040, 0xC448, 0xFCB8] := by decide +kernel

/-- The value of a Q4X code under a header, the first outlier marker of its block or not. -/
def q4x (header code : Nat) (first : Bool) : FV × Flags := narrowValue 16 code (some header) first

/-- Table 9 of 02: binary32 values, and NV for the second marker. -/
theorem test_outlier_decode :
    ([(3, false), (15, false), (8, true), (9, false), (8, false), (7, false), (12, false)].map fun e =>
      ((Fmt.f32.ofFV 0 false (q4x 0x4C804000 e.1 e.2).1).1, (q4x 0x4C804000 e.1 e.2).2)) =
      [(0x40F00000, 0), (0xC0200000, 0), (0x41700000, 0), (0xC18C0000, 0), (0, 16), (0x418C0000, 0), (0xC1200000, 0)] := by decide +kernel

/-- The example of R131: the two blocks of vdist.ip. -/
theorem test_distance :
    (let term := fun (h g : Nat) (e : Nat × Nat × Bool) => (((q4x h e.1 e.2.2).1.mul (q4x g e.2.1 false).1).1, (0 : Flags))
     (segmentSum false 0 0 ([(3, 1, false), (15, 2, false), (8, 15, true), (9, 1, false), (0, 0, false)].map (term 0x4C804000 0x00800000)),
       segmentSum false 0 0 ([(8, 0, true), (7, 2, false), (0, 0, false)].map (term 0x007F0000 0x007E0000)))) =
      ((0xC2700000, 0), (0x40E00000, 0)) := by decide +kernel

/-- The example of R152: one rounding of the sum of four products. -/
theorem test_outer_product :
    (({ e := 8, code := 12, r := 4, n := 64, acc := some .f32 } : MopForm).update 0 0x4B800000
      (mopProducts (List.replicate 4 (narrowValue 12 0x30 none false)) (List.replicate 4 (narrowValue 12 0x38 none false)))) =
      (0x4B800001, 0) := by decide +kernel

/-- The first eight lanes of the worked race of 09, among 64. -/
def racing : State :=
  (filled (vec 3 8 []) [(2, image 1 16 [12, 5, 30, 5, 1023, 17, 2, 9]), (3, image 1 16 [0, 0, 0, 0, 0, 20, 0, 40])]).modVec fun v => { v with
    dwin := 40, dawn := { v.dawn with rdy := true, gs := 2, mode := false } }

/-- The worked race of 09: group results and arrivals. -/
theorem test_race :
    leaves (.dwlaunch 0 1 2 3 0) racing (fun t => ((t.me.vec.dawn.r.toList.take 8).map (·.toNat), t.me.vec.dawn.c.toList.take 7, t.me.vec.dawn.rdy)) =
      some ([5, 2, 1023, 1023, 1023, 1023, 1023, 1023],
        [0x00060002, 0x00010005, 0x00030005, 0x0000000C, 0x0002001E, 0x00050025, 0x800003FF], false) := by decide +kernel

/-- Table 8 of 14: what a trap makes of the status, from user level, with a prefix pending. -/
theorem test_trap :
    leaves (.ecall 0 1) (user.modHart fun h => { h with tvec := 0x4000008000 >>> 2 }) (fun t => (t.me.hart.epc, t.me.hart.prv, t.me.hart.ie)) =
      some (0x2000, true, false) := by decide +kernel

/-- The example of 15: element 5 of the lane-blocked layout for G = 2. -/
theorem test_layout : layoutOffset 1 2 8 5 = 1024 + 16 ∧ layoutOffset 1 2 8 4 = 16 := by decide +kernel

/-- A word of the plane example of 18 and a store of a double word are read back in little-endian order. -/
theorem test_store_bytes :
    leaves (.sd 0 3 2 0 0) (reg [(2, 0x4000), (3, 0x0123456789ABCDEF)]) (fun t => (memRead t.mem 0x4000, memRead t.mem 0x4007)) =
      some (0xEF, 0x01) := by decide +kernel

/-- A window of 19 that opens at t = 7,384, with the items of a bank of die 0 and of one of die 3, and the rows that it serves. -/
def windowFor (die0 die3 : Nat) (rows : List (Nat × Nat)) : Nat :=
  (({ planeWork with nextAt := 7384, prog := [.sync] } : SeqOp).openWindow [] [(bankNum 0x231AA00000, die0), (bankNum 0x231AA00000 + 3 * 2 ^ 7, die3)]
    [] rows).nextAt - 7384

/-- Table 5 of 19: the bank of die 0 rewrites a row and serves the host's read, those of die 3 refresh and rewrite, in two row times; the read
makes the window longer where its own bank has two items already. -/
theorem test_window_times :
    windowFor 1 2 [rowItem 0x231AA00000] = 2 * 48 ∧ windowFor 1 2 [] = 2 * 48 ∧ windowFor 1 1 [] = 48 ∧ windowFor 2 1 [rowItem 0x231AA00000] = 3 * 48 ∧
      windowFor 0 0 [] = 0 := by decide +kernel

/-- base whose core holds one translation of the low addresses, without permissions, and one of scratch above 2 GiB. -/
def guarded : State :=
  { reg [(2, 0x4000), (3, 0x80000000)] with
    tlb := [{ core := 0, tlb := 1, pid := 0, va := 0, size := 2 ^ 31, pte := 1 }, { core := 0, tlb := 1, pid := 0, va := 1, size := 2 ^ 31, pte := 0x100000000BF }] }

/-- Poison in a managed word, in a granule of an unmanaged page, and an address of a reserved row. -/
def poisonedWords : State := { reg [(2, 0x4000), (3, 0x7E000000), (4, 0x80000000)] with tags := [(0x800, 3), (0x801, 3), (0x80000, 3)] }

/-- An address that is not canonical, a page without permission, a reserved row, a scratch block that is not granted, and both kinds of
poison. -/
theorem witness_accessFaults :
    (∀ k ∈ [Access.load, Access.store], (denial (reg []) k 0x0040000000000000).isSome = true ∧ (denial guarded k (guarded.rX 2)).isSome = true ∧
      poisonedWords.translate 0 poisonedWords.me.hart.pid true k (poisonedWords.rX 3) poisonedWords.hartAgent =
        (.ok (place poisonedWords 0 (poisonedWords.rX 3)), poisonedWords) ∧
      guarded.translate 0 guarded.me.hart.pid true k (guarded.rX 3) guarded.hartAgent = (.ok (place guarded 0 (guarded.rX 3)), guarded)) ∧
    (let p := place poisonedWords 0 (poisonedWords.rX 3)
     isDram p.pa = true ∧ 1008 ≤ rowOf p.pa) ∧
    (let p := place guarded 0 (guarded.rX 3)
     isDram p.pa = false ∧ isScratch p.pa = true ∧ guarded.scratchLost p.pa = false ∧
       64 * (guarded.wpart (p.pa / 2 ^ 36 % 8) (p.pa / 2 ^ 14 % 8)).req ≤ p.pa / 2 ^ 17 % 1024) ∧
    (∀ r ∈ [(2#5, 0x4000, false), (4#5, 0x400000, true)],
      poisonedWords.locate .load (poisonedWords.rX r.1) = (.ok (place poisonedWords 0 (poisonedWords.rX r.1)), poisonedWords) ∧
      (place poisonedWords 0 (poisonedWords.rX r.1)).pa = r.2.1 ∧ (place poisonedWords 0 (poisonedWords.rX r.1)).managed = r.2.2 ∧
      tagAt poisonedWords.tags (r.2.1 / 8) = 3) ∧
    tagAt poisonedWords.tags (0x4000 / 16 * 2) = 3 ∧ tagAt poisonedWords.tags (0x4000 / 16 * 2 + 1) = 3 ∧ poisonedWords.sram = [] ∧
    poisonedWords.flips = [] := by
  have h : ∀ k ∈ [Access.load, Access.store], holds poisonedWords 0 0 true k (poisonedWords.rX 3) = true ∧
      holds guarded 0 0 true k (guarded.rX 3) = true ∧ (denial (reg []) k 0x0040000000000000).isSome = true ∧
      (denial guarded k (guarded.rX 2)).isSome = true := by decide +kernel
  have g : ∀ r ∈ [(2#5, 0x4000, false), (4#5, 0x400000, true)], canPlace poisonedWords 0 .load (poisonedWords.rX r.1) = true ∧
      (place poisonedWords 0 (poisonedWords.rX r.1)).pa = r.2.1 ∧ (place poisonedWords 0 (poisonedWords.rX r.1)).managed = r.2.2 ∧
      tagAt poisonedWords.tags (r.2.1 / 8) = 3 := by decide +kernel
  exact ⟨fun k hk => ⟨(h k hk).2.2.1, (h k hk).2.2.2, translate_of_holds rfl (h k hk).1, translate_of_holds rfl (h k hk).2.1⟩,
    by decide +kernel, by decide +kernel, fun r hr => ⟨locateBy_of_canPlace (g r hr).1, (g r hr).2⟩, by decide +kernel, by decide +kernel,
    by decide +kernel, by decide +kernel⟩

/-- Another hart's vector state with and without a lazy switch, at both levels; no lane groups; an illegal configuration. -/
theorem witness_vectorStateDenied :
    (let s := base.modVec fun v => { v with owner := 9, lz := true }
     s.me.live = true ∧ s.me.hart.pv = false ∧ s.owns = false ∧ s.me.vec.lz = true ∧ s.me.vec.vill = false) ∧
    (let s := user.modVec fun v => { v with owner := 9 }
     s.me.live = true ∧ s.me.hart.pv = false ∧ s.owns = false ∧ s.me.hart.prv = false ∧ s.me.vec.vill = false) ∧
    (let s := base.modVec fun v => { v with groups := [] }
     s.owns = true ∧ s.me.vec.grant = 0 ∧ s.me.vec.vill = false) ∧
    (let s := base.modVec fun v => { v with vill := true }
     s.owns = true ∧ 1 ≤ s.me.vec.grant ∧ s.me.vec.vill = true) ∧
    (∀ c ∈ [0x100#9, 0x13F#9], 0x100 ≤ c.toNat ∧ c.toNat ≤ 0x13F) := by decide +kernel

/-- User level, both ends of kf and of the counters. -/
theorem witness_userLevelWrites : user.settled ∧ user.me.hart.prv = false ∧ user.owns = true ∧
    ((reg [(2, 1023)]).rX 2).extractLsb' 0 10 ≠ 0#10 ∧ (user.rX 2).extractLsb' 0 10 = 0#10 ∧
    (0x100#9).toNat = 0x100 + 0 ∧ (0x13F#9).toNat = 0x100 + 63 ∧ (0x040 ≤ (0x040#9).toNat ∧ (0x047#9).toNat ≤ 0x047) := by decide +kernel

/-- A result of v1 or k1 in flight, one cycle early and 255. -/
def vectorInFlight (before : RegVal) (fixed : Bool) (ready : Nat) : State :=
  (vec 5 16 []).modHart fun h => { h with status := 0x28001, pend := [{ before := before, ready := ready, fixed := fixed }] }

theorem witness_vectorEarlyReads : ∀ f ∈ [true, false], ∀ r ∈ [49, 303], ∀ b ∈ [RegVal.v 1 0, RegVal.k 1 0],
    ((vectorInFlight b f r).modHart fun h => { h with pend := [] }).vectorReady ∧ (vectorInFlight b f r).cycle < r ∧
    r < (vectorInFlight b f r).cycle + 256 ∧ 8 ≤ (vectorInFlight b f r).me.vec.width ∧ (vectorInFlight b f r).me.hart.sc = true ∧ (1#3) ≠ 0 := by
  decide +kernel

/-- A request of 2 ways with L1 copies modified over scratch of the first way and of the second, and the requests of 1, 15 and 16. -/
def covering : State :=
  { base with
    wparts := [{ stack := 0, pos := 0, req := 2, cur := 2, way := none }]
    under := [{ pa := 2 ^ 40, bytes := List.replicate 128 1, tags := [] }, { pa := 2 ^ 40 + 64 * 2 ^ 17, bytes := List.replicate 128 2, tags := [] }] }

theorem witness_wpartRequests :
    covering.settled ∧ covering.memOk ∧ (covering.wpart 0 0).req = 2 ∧ (∀ o ∈ covering.under, o.bytes.length = 128) ∧
    covering.under.Pairwise (fun o q => o.pa + 128 ≤ q.pa ∨ q.pa + 128 ≤ o.pa) ∧
    (∀ o ∈ covering.under, isScratch o.pa = true ∧ o.pa / 2 ^ 36 % 8 = 0 ∧ o.pa / 2 ^ 14 % 8 = 0) ∧
    (covering.under.map fun o => decide (64 * 1 ≤ o.pa / 2 ^ 17 % 1024)) = [false, true] ∧
    (((reg [(2, 1)]).rX 2).extractLsb' 0 5).toNat < 2 ∧ 16 ≤ (((reg [(2, 16)]).rX 2).extractLsb' 0 5).toNat := by
  refine ⟨by decide +kernel, memOk_of (by decide +kernel), ?_⟩
  decide +kernel

/-- A halting partition whose engine is frozen: the end of that freeze is taken, and another command waits. -/
theorem witness_endsHalt :
    let s := parted (fun p => { p with cond := .halting }) (engined 1 [] (some 0))
    s.swapRuns = true ∧ s.endsHalt (.resumeMaster (.engine 0)) = true ∧ s.endsHalt (.abortMaster (.engine 0)) = true ∧
      s.endsHalt (.freezeSet 0) = false ∧ (s.engine 0).frozen ≠ none ∧ s.fw.recovery = false ∧ s.fw.inReset = false ∧
      base.i3c.headD false = false ∧ ({ base with i3c := [true] } : State).i3c.headD false = true := by decide +kernel

/-- A START behind another of its partition, none behind any, and none due. -/
theorem witness_starts :
    base.starts.length = 0 ∧ base.nextStart.isNone = true ∧
    (let s := { scheduled 640 1 none [] with starts := [(0, 0x40200)] }
     s.nextStart.isNone = true ∧ (s.starts.any fun q => q.1 == 0) = true) := by decide +kernel

/-- The first row operation of a run, a copy of the first row of a handle whose start is not canonical: its block is refused. -/
theorem witness_firstRow :
    let o : SeqOp := { planeWork with
      running := true, handles := [{ word := planeWork.geo, va := 0x0040000000000000 }],
      prog := [.aap (.row (hBase planeWork.geo)) (hBase planeWork.geo) true, .fin] }
    let s : State := { base with cycle := 1000, seq := [o] }
    s.seqOp? 0 = some o ∧ s.rowDue o = true ∧ o.sinceSync = 0 ∧
      (dataRows ((runAhead o.prog).flatMap fun q => q.reads ++ q.wrote)).flatMap (rowBlocks o) ≠ [] ∧
      (s.refusedBlock o ((dataRows ((runAhead o.prog).flatMap fun q => q.reads ++ q.wrote)).flatMap (rowBlocks o))).1 =
        some (.inl 0x0040000000000000) := by decide +kernel

end Sys2Proof.Tests
end

section
/-! Bits and fields of words, and the running of meanings. -/

namespace Sys2Proof.Machine
/-- Bit i of a word with a field replaced (R14, R25). -/
theorem getLsbD_setField {n : Nat} (w : BitVec n) (lo len v i : Nat) :
    (setField w lo len v).getLsbD i =
      if lo ≤ i ∧ i < lo + len then decide (i < n) && v.testBit (i - lo) else w.getLsbD i := by
  unfold setField
  simp only [BitVec.getLsbD_or, BitVec.getLsbD_and, BitVec.getLsbD_not, BitVec.getLsbD_shiftLeft, BitVec.getLsbD_ofNat,
    Nat.testBit_two_pow_sub_one, Nat.testBit_mod_two_pow]
  by_cases hn : i < n
  case neg => simp [hn, BitVec.getLsbD_of_ge w i (by omega)]
  by_cases hlo : i < lo
  · simp [hn, hlo, show ¬(lo ≤ i ∧ i < lo + len) by omega]
  · by_cases hl : i - lo < len
    · simp [hn, hlo, hl, show i - lo < n by omega, show lo ≤ i ∧ i < lo + len by omega]
    · simp [hn, hlo, hl, show ¬(lo ≤ i ∧ i < lo + len) by omega]

/-- Bit i of a field (R14, R25). -/
theorem testBit_fieldOf {n : Nat} (w : BitVec n) (lo len i : Nat) :
    (fieldOf w lo len).testBit i = (decide (i < len) && w.getLsbD (lo + i)) := by
  unfold fieldOf
  rw [BitVec.testBit_toNat, BitVec.getLsbD_extractLsb']

/-- A field taken over from another word (R14). -/
theorem getLsbD_setField_fieldOf {n : Nat} (w u : BitVec n) (lo len i : Nat) :
    (setField w lo len (fieldOf u lo len)).getLsbD i = if lo ≤ i ∧ i < lo + len then u.getLsbD i else w.getLsbD i := by
  rw [getLsbD_setField, testBit_fieldOf]
  split
  case isFalse => rfl
  case isTrue h =>
    rw [show lo + (i - lo) = i by omega, decide_eq_true (by omega : i - lo < len), Bool.true_and]
    by_cases hi : i < n
    · simp [hi]
    · simp [BitVec.getLsbD_of_ge u i (by omega)]

/-! ### Running a meaning -/

/-- A choice between two meanings runs the one that is chosen. -/
theorem M.run_ite {α : Type} (p : Prop) [Decidable p] (x y : M α) (s : State) : (if p then x else y) s = if p then x s else y s := by
  split <;> rfl

/-- A sequence whose first part ends well. -/
theorem M.bind_of_ok {α β : Type} {x : M α} {f : α → M β} {s t : State} {a : α} (h : x s = (.ok a, t)) : (x >>= f) s = f a t := by
  rw [M.run_bind, h]

/-- A sequence whose first part stops. -/
theorem M.bind_of_error {α β : Type} {x : M α} {f : α → M β} {s t : State} {e : Stop} (h : x s = (.error e, t)) :
    (x >>= f) s = (.error e, t) := by
  rw [M.run_bind, h]

theorem M.bind_get {α : Type} (f : State → M α) (s : State) : (get >>= f) s = f s s := M.bind_of_ok (M.run_get s)

theorem M.bind_modify {α : Type} (g : State → State) (f : Unit → M α) (s : State) : (modify g >>= f) s = f () (g s) :=
  M.bind_of_ok (M.run_modify g s)

theorem M.bind_set {α : Type} (t : State) (f : Unit → M α) (s : State) : (set t >>= f) s = f () t := M.bind_of_ok (M.run_set t s)

theorem M.bind_require {α : Type} (ok : Bool) (c : Nat) (v : X) (f : Unit → M α) (s : State) :
    (require ok c v >>= f) s = if ok then f () s else (.error (.trap { code := c, tval := v }), s) := by
  cases ok <;> simp [M.run_bind]

end Sys2Proof.Machine
end

section
/-! Steps: what a step does where it issues an instruction, and the state after reset. -/

namespace Sys2Proof.Machine

/-- A step in which no event is offered or due runs the issue of the picked hart (R272). -/
theorem step_of_pick (s : State) (o : Slot) (hi : s.inputs = []) (hd : s.dueEvent = none) (hp : s.pick = some o)
    (hs : ((s.passOver o).focus o.core o.idx).noteIssue.me.hart.stopped = false) :
    step s = s.settleIssue o.core o.idx (issue ((s.passOver o).focus o.core o.idx).noteIssue) := by
  unfold step
  simp only [hi, hd, hp, hs, Bool.false_eq_true, if_false]

/-- The issue of a word that decodes runs its instruction, with the word noted (R50). -/
theorem issue_of_decode {t u : State} {w : BitVec 32} {i : Instr} (hf : t.fetch = (.ok w, u)) (hd : decode w = .ok i) :
    issue t = exec i (u.modHart fun h => { h with word := w }) := by
  unfold issue
  simp only [hf, hd]

/-- The waits that keep a place at a row-lock (R178). -/
def Wait.atLock : Wait → Bool
  | .plock _ _ => true
  | _ => false

/-- The waits that keep a place at the port of an engine (R217). -/
def Wait.atPort : Wait → Bool
  | .epush _ => true
  | .epop _ => true
  | _ => false

/-- The places of a hart whose instruction was not found unready: each is kept only where the hart waits there (R178, R217). -/
theorem settlePlaces_of_not_held {r : State} (hh : r.me.hart.held = false) :
    r.settlePlaces = { r with
      plockers := if r.me.hart.wait.any Wait.atLock then r.plockers
        else r.plockers.filter fun q => !(q.pid == r.me.hart.pid && q.hid == r.me.hart.hid)
      portWaits := if r.me.hart.wait.any Wait.atPort then r.portWaits
        else r.portWaits.filter fun q => !(q.pid == r.me.hart.pid && q.hid == r.me.hart.hid) } := by
  unfold State.settlePlaces
  simp only [hh, Bool.false_or]
  rcases r.me.hart.wait with _ | w
  · rfl
  · cases w <;> rfl

end Sys2Proof.Machine

namespace Sys2Proof.Proofs
open Sys2Proof.Machine

/-- Settles O3: a step that issues is `settleIssue` of the run of the decoded instruction, and what it keeps of the places depends on
whether the instruction was found unready. -/
theorem stepRunsTheDecodedInstruction : Obligations.StepRunsTheDecodedInstruction := by
  unfold Obligations.StepRunsTheDecodedInstruction
  intro s u o w i hi hd hp t hs hf hw v waitsAt lock port
  have run : step s = s.settleIssue o.core o.idx (exec i v) := by
    rw [step_of_pick s o hi hd hp hs, issue_of_decode hf hw]
  have lock_eq : lock = Wait.atLock := by funext q; cases q <;> rfl
  have port_eq : port = Wait.atPort := by funext q; cases q <;> rfl
  refine ⟨fun r hr hh hc hx => ?_, fun r hr hc hx hl hh => ?_⟩
  · rw [run, hr, lock_eq, port_eq]
    simp only [State.settleIssue, hc, hx, and_self, if_true, settlePlaces_of_not_held hh, hh, Bool.false_eq_true, and_false,
      if_false]
    rfl
  · rw [run, hr]
    simp [State.settleIssue, State.settlePlaces, hc, hx, hl, hh]

/-- Settles O5: every list of the module is empty at reset, and memory reads as its default. -/
theorem resetState : Obligations.ResetState := by
  unfold Obligations.ResetState
  refine ⟨rfl, ?_, rfl, rfl, rfl, rfl, rfl, rfl, rfl, rfl, rfl, ?_⟩
  · simp [State.slots, State.reset, Slot.empty]
  · intro pa hd hr
    simp [memRead, State.reset, memDefault, hd, hr]

end Sys2Proof.Proofs
end

section
/-! The checks before an instruction (R285): which of them stops it, whatever is in flight. -/

namespace Sys2Proof.Machine

theorem awaitReads_nil (s : State) : awaitReads [] s = (.ok (), s) := by
  simp [awaitReads, State.scoreboard, M.run_bind]

/-- Supervisor instructions are refused at user level before anything else (R12). -/
theorem gate_supervisor (q : Req) {s : State} (hq : q.sup = true) (hp : s.me.hart.prv = false) :
    gate q s = (.error (.trap { code := 0x002 }), s) := by
  simp [gate, M.run_bind, hq, hp]

/-- What the checks of an instruction of R18 come to without a pending PFX, up to those of its own: the holder, the lane groups and the
configuration. -/
theorem gate_vectorState (q : Req) {s : State} (hv : s.me.hart.pv = false) (hs : (q.sup && !s.me.hart.prv) = false)
    (hf : q.first = true) :
    ((s.vecDenied || (q.config && !s.owns)) = true → gate q s = (.error (.trap { code := 0x180 }), s)) ∧
    ((s.vecDenied || (q.config && !s.owns)) = false → q.scalar = false →
      ((q.grant && s.me.vec.grant == 0) = true → gate q s = (.error (.trap { code := 0x182 }), s)) ∧
      ((q.grant && s.me.vec.grant == 0) = false → (q.cfg && s.me.vec.vill) = true →
        gate q s = (.error (.trap { code := 0x183 }), s))) := by
  have hn : s.me.hart.nullified = false := by simp [Hart.nullified, hv]
  have hq : s.me.hart.pairs q = true := by simp [Hart.pairs, hv]
  have h0 : s.pred 0 = true := by simp [State.pred, hv]
  unfold gate
  simp only [M.run_bind, M.run_get, hs, hq, hv, hn, hf, Bool.false_and, Bool.not_false, Bool.true_and, M.run_require_true,
    Bool.false_eq_true, if_false]
  refine ⟨fun hd => ?_, fun hd hc => ⟨fun hg => ?_, fun hg hb => ?_⟩⟩
  · cases q.scalar <;> simp [hd, checkEarly, M.run_bind, awaitReads_nil, h0]
  · simp [hd, hc, hg, M.run_bind]
  · simp [hd, hc, hg, hb, M.run_bind]

/-- A meaning whose checks trap. -/
theorem runM_gate_trap (q : Req) (k : Bool → M Unit) {s : State} {c : Nat} (hl : s.me.live = true)
    (hg : gate q s = (.error (.trap { code := c }), s)) : runM (gate q >>= k) s = .next (s.enterTrap false s.pc { code := c }) := by
  apply runM_trap c 0 _ s s hl
  rw [M.run_bind, hg]

/-- i begins with the checks that q stands for. -/
def State.checks (s : State) (i : Instr) (q : Req) : Prop := ∃ k, exec i s = runM (gate q >>= k) s

/-- i begins with the checks of R18 and R16 for an instruction that is no scalar one, and with that of R24 where `grant` says so. -/
def State.checksVector (s : State) (i : Instr) (grant : Bool) : Prop :=
  ∃ q : Req, s.checks i q ∧ q.first = true ∧ q.scalar = false ∧ q.cfg = true ∧ q.sup = false ∧ q.grant = grant

theorem State.checks.denied {i : Instr} {s : State} {q : Req} (h : s.checks i q) (hl : s.me.live = true)
    (hs : q.sup = true) (hp : s.me.hart.prv = false) : exec i s = .next (s.enterTrap false s.pc { code := 0x002 }) := by
  obtain ⟨k, hk⟩ := h
  rw [hk, runM_gate_trap q k hl (gate_supervisor q hs hp)]

theorem State.checks.notOwned {i : Instr} {s : State} {q : Req} (h : s.checks i q) (hl : s.me.live = true)
    (hv : s.me.hart.pv = false) (hs : q.sup = false) (hf : q.first = true) (hd : s.vecDenied = true) :
    exec i s = .next (s.enterTrap false s.pc { code := 0x180 }) := by
  obtain ⟨k, hk⟩ := h
  rw [hk, runM_gate_trap q k hl ((gate_vectorState q hv (by simp [hs]) hf).1 (by simp [hd]))]

theorem State.checksVector.notOwned {i : Instr} {s : State} {g : Bool} (h : s.checksVector i g) (hl : s.me.live = true)
    (hv : s.me.hart.pv = false) (hd : s.vecDenied = true) : exec i s = .next (s.enterTrap false s.pc { code := 0x180 }) := by
  obtain ⟨q, hc, hf, -, -, hs, -⟩ := h
  exact hc.notOwned hl hv hs hf hd

theorem State.checksVector.noLanes {i : Instr} {s : State} (h : s.checksVector i true) (hl : s.me.live = true)
    (hv : s.me.hart.pv = false) (ho : s.owns = true) (hg : s.me.vec.grant = 0) :
    exec i s = .next (s.enterTrap false s.pc { code := 0x182 }) := by
  obtain ⟨q, ⟨k, hk⟩, hf, hc, -, hs, hq⟩ := h
  have hd : (s.vecDenied || (q.config && !s.owns)) = false := by simp [State.vecDenied, ho]
  rw [hk, runM_gate_trap q k hl (((gate_vectorState q hv (by simp [hs]) hf).2 hd hc).1 (by simp [hq, hg]))]

theorem State.checksVector.illegalConfig {i : Instr} {s : State} {g : Bool} (h : s.checksVector i g) (hl : s.me.live = true)
    (hv : s.me.hart.pv = false) (ho : s.owns = true) (hg : 1 ≤ s.me.vec.grant) (hb : s.me.vec.vill = true) :
    exec i s = .next (s.enterTrap false s.pc { code := 0x183 }) := by
  obtain ⟨q, ⟨k, hk⟩, hf, hc, hq, hs, -⟩ := h
  have hd : (s.vecDenied || (q.config && !s.owns)) = false := by simp [State.vecDenied, ho]
  have h0 : (q.grant && s.me.vec.grant == 0) = false := by simp; omega
  rw [hk, runM_gate_trap q k hl (((gate_vectorState q hv (by simp [hs]) hf).2 hd hc).2 h0 (by simp [hq, hb]))]

/-- A tile instruction checks the configuration before the holder and the lane groups (R150). -/
theorem runTile_denied (q : TileReq) (body : M Unit) {s : State} (hl : s.me.live = true) (hv : s.me.hart.pv = false) :
    (s.me.vec.vill = true → runTile q body s = .next (s.enterTrap false s.pc { code := 0x183 })) ∧
    (s.me.vec.vill = false → s.vecDenied = true → runTile q body s = .next (s.enterTrap false s.pc { code := 0x180 })) ∧
    (s.me.vec.vill = false → s.vecDenied = false → s.me.vec.grant = 0 →
      runTile q body s = .next (s.enterTrap false s.pc { code := 0x182 })) := by
  have checks := gate_vectorState { st := q.st, pfxOk := false, first := true, grant := true, scalar := false } hv rfl rfl
  refine ⟨fun hb => ?_, fun hb hd => ?_, fun hb hd hg => ?_⟩ <;> refine runM_trap _ 0 _ s s hl ?_
  · simp [M.run_bind, hv, hb]
  · simp [M.run_bind, hv, hb, checks.1 (by simp [hd])]
  · simp [M.run_bind, hv, hb, (checks.2 (by simp [hd]) rfl).1 (by simp [hg])]

/-- A Dawn instruction of a hart that may not use the vector state waits for nothing (R189). -/
theorem runDawn_denied (q : DawnReq) (body : M Unit) {s : State} (hl : s.me.live = true) (hv : s.me.hart.pv = false)
    (hd : s.vecDenied = true) : runDawn q body s = .next (s.enterTrap false s.pc { code := 0x180 }) := by
  refine runM_trap _ 0 _ s s hl ?_
  simp only [hd, Bool.not_true, Bool.false_and, Bool.false_eq_true, if_false, M.run_bind]
  rw [(gate_vectorState _ hv rfl rfl).1 (by simp [hd])]

end Sys2Proof.Machine

namespace Sys2Proof.Proofs
open Sys2Proof.Machine Sys2Proof.Cert

theorem checksVector_elements (s : State) (st : BitVec 3) (d a b : BitVec 5) (k e : BitVec 3) (h : BitVec 2) (l : BitVec 1) :
    ∀ i ∈ ([.vadd st d a b k, .vfadd st d a b k l, .vmseq st e a b k, .vmvx st d a b, .vsel st d a b k, .vperm st d a b k,
      .vrsum st d a b k, .vld st d a k h, .vst st d a k h, .vlds st d a b k h, .vldx st d a b k h, .vstx st d a b k h, .vbind st d a,
      .vname st d a] : List Instr), s.checksVector i true := by
  simp only [List.forall_mem_cons, List.not_mem_nil, false_implies, implies_true, and_true]
  refine ⟨?_, ?_, ?_, ?_, ?_, ?_, ?_, ?_, ?_, ?_, ?_, ?_, ?_, ?_⟩ <;> exact ⟨_, ⟨_, rfl⟩, rfl, rfl, rfl, rfl, rfl⟩

theorem userLevelMayNot : Cert.userLevelMayNot := by
  intro s st d e p a c hl hp hv hu denied
  refine ⟨?_, ?_, ?_, ?_, ?_, ?_, fun hc => ?_⟩
  iterate 6 exact State.checks.denied ⟨_, rfl⟩ hl rfl hu
  have closed : cregSupervisor c.toNat = true := by
    unfold cregSupervisor
    simp only [Bool.or_eq_true, Bool.and_eq_true, decide_eq_true_eq, beq_iff_eq]
    rcases hc with h | rfl | rfl | rfl | rfl | h <;> simp_all
  exact ⟨State.checks.denied ⟨_, rfl⟩ hl closed hu, State.checks.denied ⟨_, rfl⟩ hl closed hu⟩

theorem vectorStateDenied : Cert.vectorStateDenied := by
  intro s st d a b k e f h l c t hl hv traps elems
  have each := checksVector_elements s st d a b k e h l
  have kand : s.checksVector (.kand st e f k) false := ⟨_, ⟨_, rfl⟩, rfl, rfl, rfl, rfl, rfl⟩
  refine ⟨fun ho hb => ?_, fun ho hg => ?_, fun ho hg hb => ?_⟩
  · have hd : s.vecDenied = true := by rcases hb with hb | hb <;> simp [State.vecDenied, ho, hb]
    have scalar : ∀ {i : Instr} {q : Req}, s.checks i q → q.sup = false → q.first = true → traps 0x180 i :=
      fun hc hs hf => hc.notOwned hl hv hs hf hd
    refine ⟨fun i hi => (each i hi).notOwned hl hv hd, kand.notOwned hl hv hd, scalar ⟨_, rfl⟩ rfl rfl, scalar ⟨_, rfl⟩ rfl rfl,
      runDawn_denied _ _ hl hv hd, fun hb => (runTile_denied _ _ hl hv).2.1 hb hd, fun hc => ?_⟩
    have vector : cregVector c.toNat = true ∧ cregSupervisor c.toNat = false := by
      unfold cregVector cregSupervisor
      rcases hc with rfl | rfl | rfl | rfl | ⟨h1, h2⟩
      iterate 4 decide
      simp [h1, h2]
      omega
    exact ⟨scalar ⟨_, rfl⟩ vector.2 vector.1, scalar ⟨_, rfl⟩ vector.2 vector.1⟩
  · exact ⟨fun i hi => (each i hi).noLanes hl hv ho hg,
      fun hb => (runTile_denied _ _ hl hv).2.2 hb (by simp [State.vecDenied, ho]) hg⟩
  · exact ⟨fun i hi => (each i hi).illegalConfig hl hv ho hg hb, kand.illegalConfig hl hv ho hg hb, (runTile_denied _ _ hl hv).1 hb⟩

/-- Settles O22: each instruction begins with the checks of R285, and the check that the state fails is the first that it meets. -/
theorem deniedInstructionsTrap : Obligations.DeniedInstructionsTrap := ⟨userLevelMayNot, vectorStateDenied⟩

end Sys2Proof.Proofs
end

section
/-! Control registers: what sysr and sysw do for a settled hart (R12 to R21, R97). -/

namespace Sys2Proof.Machine

@[simp] theorem State.stopBy_trap (t : Trap) (s : State) : s.stopBy (.trap t) = s.enterTrap false s.pc t := rfl

/-- The checks of a settled hart's instruction that the level and the holder of the vector state allow, and that no lane group or
configuration concerns. -/
theorem gate_scalar (q : Req) {s : State} (hp : s.me.hart.pend = []) (hv : s.me.hart.pv = false) (hq : q.scalar = true)
    (hs : q.sup = true → s.me.hart.prv = true) (hf : q.first = true → (s.vecDenied || (q.config && !s.owns)) = false) :
    gate q s = (.ok true, s) := by
  rw [gate_plain q s hp hv]
  cases h1 : q.sup <;> cases h2 : q.first <;> simp_all

/-- The level and the holder of the vector state allow an access to a control register (R12, R18). -/
def State.mayAccess (s : State) (c : Nat) : Prop :=
  (cregSupervisor c = true → s.me.hart.prv = true) ∧ (cregVector c = true → s.vecDenied = false)

/-- The cycle by which every earlier instruction of a settled hart has completed (R13). -/
def State.allBy (s : State) : Nat := max s.me.vec.busyUntil s.me.vec.dawnAt

/-- The cycle from which sysr of a register reads it (R13, R55, R191). -/
def State.readableAt (s : State) (c : Nat) : Nat :=
  if cregWaits c then s.allBy else if c = 0x016 then s.me.vec.dawnAt else 0

theorem awaitAll_of_pend {s : State} (hp : s.me.hart.pend = []) :
    awaitAll s = if s.cycle < s.allBy then (.error (.hold s.allBy), s) else (.ok (), s) := by
  unfold awaitAll State.allBy
  simp only [M.run_bind, M.run_get, hp, List.map_nil, List.foldl_nil, Nat.zero_max]
  split <;> rfl

/-- sysr of a register that is not ready yet waits for it. -/
theorem exec_sysr_waits {s : State} (h : s.settled) (st : BitVec 3) (d : BitVec 5) (c : BitVec 9) (ha : s.mayAccess c.toNat)
    (hc : s.cycle < s.readableAt c.toNat) : exec (.sysr st d c) s = .next (s.stopBy (.hold (s.readableAt c.toNat))) := by
  obtain ⟨hl, hp, -, hv, -⟩ := h
  show execSysr st d c s = _
  have g := gate_scalar { st := st, dst := .x d, pfxOk := false, sup := cregSupervisor c.toNat, first := cregVector c.toNat } hp hv rfl
    ha.1 (fun hf => by simp [ha.2 hf])
  unfold execSysr runM
  simp only [hl, if_true, M.run_bind, g]
  unfold State.readableAt at hc ⊢
  cases hw : cregWaits c.toNat
  · by_cases h16 : c = 0x016
    · have h : s.cycle < s.me.vec.dawnAt := by simpa [h16, cregWaits] using hc
      simp [h16, M.run_bind, h]
    · have : c.toNat ≠ 0x016 := fun h => h16 (BitVec.eq_of_toNat_eq h)
      simp [hw, this] at hc
  · simp_all [M.run_bind, awaitAll_of_pend hp]

/-- sysr of a register that is ready answers by its value. -/
theorem exec_sysr_ready {s : State} (h : s.settled) (st : BitVec 3) (d : BitVec 5) (c : BitVec 9) (ha : s.mayAccess c.toNat)
    (hc : s.readableAt c.toNat ≤ s.cycle) :
    exec (.sysr st d c) s = .next (match s.readCreg c.toNat with
      | some w => s.afterX d w false 2 false st 0 (s.pc + 4)
      | none => s.enterTrap false s.pc { code := 0x003, tval := xOf s.me.hart.word.toNat }) := by
  obtain ⟨hl, hp, -, hv, hs⟩ := h
  have g := gate_scalar { st := st, dst := .x d, pfxOk := false, sup := cregSupervisor c.toNat, first := cregVector c.toNat } hp hv rfl
    ha.1 (fun hf => by simp [ha.2 hf])
  have h1 : cregWaits c.toNat = true → ¬ s.cycle < s.allBy := by
    intro hw; simp only [State.readableAt, hw, if_true] at hc; omega
  have h2 : ¬(c = 22#9 ∧ s.cycle < s.me.vec.dawnAt) := by
    rintro ⟨rfl, hd⟩; simp [State.readableAt, cregWaits] at hc; omega
  show execSysr st d c s = _
  unfold execSysr runM
  simp only [hl, if_true, M.run_bind, g]
  cases hw : cregWaits c.toNat <;> cases hr : s.readCreg c.toNat <;>
    simp [M.run_bind, awaitAll_of_pend hp, h1, h2, hw, hr, putX_plain _ _ _ _ _ s hv, done,
      complete_wXat _ _ _ _ _ _ _ _ _ hp hs]

/-- sysw of a settled hart: the write, the completion, and then what is written after it (R97). -/
theorem exec_sysw {s : State} (h : s.settled) (st : BitVec 3) (a : BitVec 5) (c : BitVec 9) (ha : s.mayAccess c.toNat) :
    exec (.sysw st a c) s = .next (match s.readCreg c.toNat with
      | some _ => (((s.writeCreg c.toNat (s.rX a)).after st 0 (s.pc + 4)).writeLate c.toNat (s.rX a)).stepTrap s.pc
      | none => s.enterTrap false s.pc { code := 0x003, tval := xOf s.me.hart.word.toNat }) := by
  obtain ⟨hl, hp, -, hv, -⟩ := h
  have g := gate_scalar { st := st, srcs := [.x a], pfxOk := false, sup := cregSupervisor c.toNat, first := cregVector c.toNat } hp hv
    rfl ha.1 (fun hf => by simp [ha.2 hf])
  show execSysw st a c s = _
  unfold execSysw sysWrite runM
  simp only [hl, if_true, M.run_bind, g]
  cases hr : s.readCreg c.toNat <;> simp [M.run_bind, hr, retire_eq_after]

theorem stepTrap_of_none {s : State} (old : X) (h : (s.me.hart.ss && !s.me.hart.prv) = false) : s.stepTrap old = s := by
  unfold State.stepTrap
  rw [if_neg (by simp [h])]

/-- What sysw of an existing register leaves, where no step trap follows it. -/
theorem exec_sysw_gives {s t : State} (h : s.settled) (st : BitVec 3) (a : BitVec 5) (c : BitVec 9) (ha : s.mayAccess c.toNat)
    (hr : (s.readCreg c.toNat).isSome = true)
    (ht : ((s.writeCreg c.toNat (s.rX a)).after st 0 (s.pc + 4)).writeLate c.toNat (s.rX a) = t)
    (hs : (t.me.hart.ss && !t.me.hart.prv) = false) : exec (.sysw st a c) s = .next t := by
  obtain ⟨w, hw⟩ := Option.isSome_iff_exists.mp hr
  rw [exec_sysw h st a c ha, hw]
  simp only [ht, stepTrap_of_none _ hs]

end Sys2Proof.Machine

namespace Sys2Proof.Proofs
open Sys2Proof.Machine Sys2Proof.Cert

/-- The numbers of Table 2 of 01_machine_state (R12). -/
def cregListed (c : Nat) : Prop :=
  c ≤ 0x005 ∨ (0x010 ≤ c ∧ c ≤ 0x019) ∨ c = 0x020 ∨ c = 0x021 ∨ c = 0x030 ∨ (0x040 ≤ c ∧ c ≤ 0x04F) ∨ (0x100 ≤ c ∧ c ≤ 0x13F)

theorem xOf_toNat {n : Nat} (w : BitVec n) : xOf w.toNat = w.setWidth 64 := BitVec.ofNat_toNat ..

theorem b2n_mul (b : Bool) (n : Nat) : b2n b * n = if b then n else 0 := by cases b <;> simp [b2n]

theorem readCreg_cnt (s : State) (j : Fin 8) : s.readCreg (0x040 + j.val) = some s.me.hart.cnt[j] := by
  have hj := j.isLt
  unfold State.readCreg
  iterate 19 rw [if_neg (by omega)]
  rw [if_pos (by omega)]
  simp

theorem readCreg_cntev (s : State) (j : Fin 8) : s.readCreg (0x048 + j.val) = some s.me.hart.cntev[j] := by
  have hj := j.isLt
  unfold State.readCreg
  iterate 20 rw [if_neg (by omega)]
  rw [if_pos (by omega)]
  simp

theorem readCreg_kf (s : State) {j : Nat} (hj : j < 64) :
    s.readCreg (0x100 + j) = some (s.me.vec.kf.extractLsb' (64 * j) 64) := by
  unfold State.readCreg
  iterate 21 rw [if_neg (by omega)]
  rw [if_pos (by omega)]
  simp only [fieldOf, Nat.add_sub_cancel_left, xOf_toNat, BitVec.setWidth_eq]

theorem readCreg_of_not_listed (s : State) {c : Nat} (hc : ¬cregListed c) : s.readCreg c = none := by
  unfold cregListed at hc
  unfold State.readCreg
  iterate 22 rw [if_neg (by omega)]

theorem cregWaits_iff (c : BitVec 9) : cregWaits c.toNat = true ↔
    (c = 0x000 ∨ c = 0x010 ∨ c = 0x011 ∨ c = 0x012 ∨ (0x100 ≤ c.toNat ∧ c.toNat ≤ 0x13F)) := by
  simp [cregWaits, BitVec.toNat_eq]
  omega

/-- Settles O23: `readCreg` gives the value of each register, and sysr writes it once what the register waits for has completed. -/
theorem controlRegisterReads : Obligations.ControlRegisterReads := by
  intro s st d c hset h v hsup hvec all late busy reads
  have ha : s.mayAccess c.toNat := ⟨hsup, hvec⟩
  have hbusy : busy = s.readableAt c.toNat := by
    have h16 : c = 0x016 ↔ c.toNat = 0x016 := by simp [BitVec.toNat_eq]
    simp only [busy, late, State.readableAt, cregWaits_iff, h16]
    rfl
  have gives : ∀ {w : X}, s.readCreg c.toNat = some w → reads w := by
    intro w hw hb
    refine ⟨2, ?_⟩
    rw [exec_sysr_ready hset st d c ha (hbusy ▸ hb), hw]
  refine ⟨fun _ hb => ?_, ?_, ?_, ?_, ?_, ?_, ?_, ?_, ?_, ?_, ?_, ?_, ?_, ?_, ?_, ?_, ?_, ?_, ?_, ?_, ?_, ?_, ?_, ?_⟩
  · rw [exec_sysr_waits hset st d c ha (hbusy ▸ hb), ← hbusy]
    have : max busy (s.cycle + 1) = busy := by omega
    simp only [State.stopBy, this]
  iterate 8 (rintro rfl; exact gives rfl)
  · rintro rfl
    exact gives (by rw [← b2n_mul]; rfl)
  iterate 4 (rintro rfl; exact gives rfl)
  · rintro rfl
    exact gives (by rw [← b2n_mul]; rfl)
  · rintro rfl; exact gives rfl
  · rintro rfl
    exact gives (by rw [← b2n_mul]; rfl)
  iterate 3 (rintro rfl; exact gives rfl)
  · intro j hj
    apply gives
    rw [hj, readCreg_cnt]
  · intro j hj
    apply gives
    rw [hj, readCreg_cntev]
  · intro j hj hc
    apply gives
    rw [hc, readCreg_kf s hj]
  · intro hn absent
    have hn : ¬cregListed c.toNat := fun hc => hn (by simpa [cregListed, BitVec.toNat_eq] using hc)
    have hr : s.readCreg c.toNat = none := readCreg_of_not_listed s hn
    have hb : s.readableAt c.toNat = 0 := by
      unfold cregListed at hn
      unfold State.readableAt
      rw [if_neg (by simp [cregWaits]; omega), if_neg (by omega)]
    constructor
    · rw [exec_sysr_ready hset st d c ha (by omega), hr]
      simp only [absent, xOf_toNat, h]
    · rw [exec_sysw hset st d c ha, hr]
      simp only [absent, xOf_toNat, h]

end Sys2Proof.Proofs
end

section
/-! The writes of control registers (R12 to R21, R97). -/

namespace Sys2Proof.Machine

theorem shiftPair_eq_clear (w : X) : (w >>> 2) <<< 2 = w &&& ~~~3#64 := by
  apply BitVec.eq_of_getLsbD_eq
  intro i hi
  have h3 : (3#64).getLsbD i = decide (i < 2) := by
    interval_cases i <;> rfl
  simp only [BitVec.getLsbD_shiftLeft, BitVec.getLsbD_ushiftRight, BitVec.getLsbD_and, BitVec.getLsbD_not, h3, hi, decide_true,
    Bool.true_and]
  by_cases h : i < 2
  · simp [h]
  · simp [h, show 2 + (i - 2) = i by omega]

theorem setIfInBounds_eq_set {α : Type} {n : Nat} (v : Vector α n) (j : Fin n) (w : α) :
    v.setIfInBounds j.val w = v.set j.val w j.isLt := by
  ext i hi
  simp only [Vector.getElem_setIfInBounds, Vector.getElem_set]

theorem writeCreg_cnt {s : State} (hp : s.me.hart.prv = true) (j : Fin 8) (w : X) :
    s.writeCreg (0x040 + j.val) w = s.modHart fun h => { h with cnt := h.cnt.set j w } := by
  have hj := j.isLt
  unfold State.writeCreg
  iterate 12 rw [if_neg (by omega)]
  rw [if_pos (by omega), if_pos hp]
  simp only [Nat.add_sub_cancel_left, setIfInBounds_eq_set]

theorem writeCreg_cntev {s : State} (j : Fin 8) (w : X) :
    s.writeCreg (0x048 + j.val) w = s.modHart fun h => { h with cntev := h.cntev.set j (w &&& 0xFF) } := by
  have hj := j.isLt
  unfold State.writeCreg
  iterate 13 rw [if_neg (by omega)]
  rw [if_pos (by omega)]
  simp only [Nat.add_sub_cancel_left, setIfInBounds_eq_set]

theorem writeCreg_kf {s : State} {j : Nat} (hj : j < 64) (w : X) :
    s.writeCreg (0x100 + j) w =
      s.modVec fun v => { v with kf := setField v.kf (64 * j) 64 w.toNat, vdirty := v.vdirty ||| 0x100000000000#64 } := by
  unfold State.writeCreg
  iterate 14 rw [if_neg (by omega)]
  rw [if_pos (by omega), Nat.add_sub_cancel_left]
  rfl

theorem writeLate_other {s : State} {c : Nat} (h1 : c ≠ 0x010) (h2 : c ≠ 0x017) (w : X) : s.writeLate c w = s := by
  simp [State.writeLate, h1, h2]

theorem writeLate_pfxs {s : State} (hp : s.me.hart.prv = true) (w : X) :
    s.writeLate 0x017 w = s.modHart fun h => { h with pv := w.getLsbD 63, pword := w.extractLsb' 0 32 } := by
  unfold State.writeLate
  rw [if_neg (by omega), if_pos ⟨rfl, hp⟩]
  rfl

theorem writeLate_user {s : State} (hu : s.me.hart.prv = false) {c : Nat} (hc : c ≠ 0x010) (w : X) : s.writeLate c w = s := by
  simp [State.writeLate, hu, hc]

theorem writeCreg_cnt_user {s : State} (hu : s.me.hart.prv = false) {c : Nat} (hc : 0x040 ≤ c ∧ c ≤ 0x047) (w : X) :
    s.writeCreg c w = s := by
  unfold State.writeCreg
  iterate 12 rw [if_neg (by omega)]
  simp [hc, hu]

/-- The bits of status after a write at a level (R14). -/
theorem getLsbD_writeStatus (w : X) (h : Hart) (i : Nat) :
    (h.writeStatus w).status.getLsbD i =
      if i < 2 ∨ (5 ≤ i ∧ i < 15) then w.getLsbD i
      else if 2 ≤ i ∧ i < 5 then (if fieldOf w 2 3 ≤ 4 then w.getLsbD i else h.status.getLsbD i)
      else if 16 ≤ i ∧ i < 25 then (if h.prv then w.getLsbD i else h.status.getLsbD i)
      else h.status.getLsbD i := by
  have rm : (if 5 ≤ fieldOf w 2 3 then h.rm else fieldOf w 2 3) = fieldOf (if fieldOf w 2 3 ≤ 4 then w else h.status) 2 3 := by
    by_cases hr : fieldOf w 2 3 ≤ 4
    · rw [if_pos hr, if_neg (by omega)]
    · rw [if_neg hr, if_pos (by omega)]
      rfl
  unfold Hart.writeStatus
  simp only [rm, apply_ite (fun x : X => x.getLsbD i), getLsbD_setField_fieldOf]
  split_ifs <;> first | rfl | omega

end Sys2Proof.Machine

namespace Sys2Proof.Proofs
open Sys2Proof.Machine Sys2Proof.Cert

theorem controlRegisterWrites : Cert.controlRegisterWrites := by
  intro s st a c hset hp hd w hart vec
  have ha : s.mayAccess c.toNat := ⟨fun _ => hp, fun _ => hd⟩
  have gives : ∀ {t : State}, (s.readCreg c.toNat).isSome = true →
      ((s.writeCreg c.toNat (s.rX a)).after st 0 (s.pc + 4)).writeLate c.toNat (s.rX a) = t →
      t.me.hart.prv = true → exec (.sysw st a c) s = .next t :=
    fun hr ht hs => exec_sysw_gives hset st a c ha hr ht (by simp [hs])
  refine ⟨?_, ?_, ?_, ?_, ?_, ?_, ?_, ?_, ?_, ?_, ?_, ?_, ?_, ?_, ?_, ?_, ?_, ?_, ?_, ?_⟩
  iterate 3 (rintro rfl; exact gives rfl rfl hp)
  · rintro rfl
    simp only [hart, ← shiftPair_eq_clear]
    exact gives rfl rfl hp
  · rintro rfl; exact gives rfl rfl hp
  · rintro rfl
    exact gives rfl (by simp [State.writeCreg, hp]; rfl) hp
  · rintro rfl
    exact gives rfl (by simp [State.writeCreg, hp]; rfl) hp
  · intro j hj
    refine gives (by rw [hj, readCreg_cnt]; rfl) ?_ hp
    rw [hj, writeCreg_cnt hp, writeLate_other (by omega) (by omega)]
  · intro j hj
    refine gives (by rw [hj, readCreg_cntev]; rfl) ?_ hp
    rw [hj, writeCreg_cntev, writeLate_other (by omega) (by omega)]
  · rintro rfl; exact gives rfl rfl hp
  · rintro rfl; exact gives rfl rfl hp
  · rintro rfl; exact gives rfl rfl hp
  · rintro rfl; exact gives rfl rfl hp
  · rintro rfl hn
    have hn : fieldOf (s.rX a) 0 10 ≠ 0 := fun h => hn (BitVec.eq_of_toNat_eq h)
    exact gives rfl (by simp [State.writeCreg, hn]; rfl) hp
  · rintro rfl hn
    have hn : fieldOf (s.rX a) 0 10 = 0 := congrArg BitVec.toNat hn
    exact gives rfl (by simp [State.writeCreg, hn]; rfl) hp
  · rintro rfl
    exact gives rfl (writeLate_pfxs (s := s.after st 0 (s.pc + 4)) hp _) hp
  · rintro rfl; exact gives rfl rfl hp
  · rintro rfl; exact gives rfl rfl hp
  · rintro rfl; exact gives rfl rfl hp
  · intro j hj hc
    refine gives (by rw [hc, readCreg_kf s hj]; rfl) ?_ hp
    rw [hc, writeCreg_kf hj, writeLate_other (by omega) (by omega)]
    rfl


theorem userLevelWrites : Cert.userLevelWrites := by
  intro s st a c hset hu ho w hart vec
  have hd : s.vecDenied = false := by simp [State.vecDenied, ho]
  have hss : (s.me.hart.ss && !s.me.hart.prv) = false := hset.2.2.2.2
  have gives : ∀ {t : State}, cregSupervisor c.toNat = false → (s.readCreg c.toNat).isSome = true →
      ((s.writeCreg c.toNat (s.rX a)).after st 0 (s.pc + 4)).writeLate c.toNat (s.rX a) = t →
      (t.me.hart.ss && !t.me.hart.prv) = false → exec (.sysw st a c) s = .next t :=
    fun hc hr ht hs => exec_sysw_gives hset st a c ⟨by simp [hc], fun _ => hd⟩ hr ht hs
  refine ⟨?_, ?_, ?_, ?_, ?_, ?_, fun hc => ?_⟩
  iterate 3 (rintro rfl; exact gives rfl rfl rfl hss)
  · rintro rfl hn
    have hn : fieldOf (s.rX a) 0 10 ≠ 0 := fun h => hn (BitVec.eq_of_toNat_eq h)
    exact gives rfl rfl (by simp [State.writeCreg, hn]; rfl) hss
  · rintro rfl hn
    have hn : fieldOf (s.rX a) 0 10 = 0 := congrArg BitVec.toNat hn
    exact gives rfl rfl (by simp [State.writeCreg, hn]; rfl) hss
  · intro j hj hc
    refine gives (by simp [hc, cregSupervisor]; omega) (by rw [hc, readCreg_kf s hj]; rfl) ?_ hss
    rw [hc, writeCreg_kf hj, writeLate_other (by omega) (by omega)]
    rfl
  · rcases hc with rfl | rfl | rfl | rfl | rfl | rfl | ⟨h1, h2⟩
    · exact gives rfl rfl rfl hss
    · exact gives rfl rfl (by simp [State.writeCreg, hu]; rfl) hss
    · exact gives rfl rfl (by simp [State.writeCreg, hu]; rfl) hss
    · exact gives rfl rfl rfl hss
    · exact gives rfl rfl (writeLate_user (s := s.after st 0 (s.pc + 4)) hu (by decide) _) hss
    · exact gives rfl rfl rfl hss
    · refine gives (by simp [cregSupervisor]; omega) ?_ ?_ hss
      · rw [show c.toNat = 0x040 + (⟨c.toNat - 0x040, by omega⟩ : Fin 8).val by simp; omega, readCreg_cnt]
        rfl
      · rw [writeCreg_cnt_user hu ⟨h1, h2⟩, writeLate_other (by omega) (by omega)]


theorem statusWrites : Cert.statusWrites := by
  intro s st a hset w rm
  have hprv : ∀ h : Hart, (h.writeStatus w).prv = h.prv := fun h => getLsbD_writeStatus w h 15
  have hss : ((s.me.hart.writeStatus w).ss && !(s.me.hart.writeStatus w).prv) = false := by
    have := hset.2.2.2.2
    have h19 : (s.me.hart.writeStatus w).ss = _ := getLsbD_writeStatus w s.me.hart 19
    rw [hprv, h19]
    cases hp : s.me.hart.prv <;> simp_all [Hart.ss]
  refine ⟨_, exec_sysw_gives hset st a 0 ⟨nofun, nofun⟩ rfl rfl hss, fun i hi => ?_, fun i hi => ?_, fun i hi => ?_,
    fun i hi => ?_, rfl⟩
  all_goals refine (getLsbD_writeStatus w s.me.hart i).trans ?_
  · rw [if_pos hi]
  · rw [if_neg (by omega), if_pos hi]
    rfl
  · rw [if_neg (by omega), if_neg (by omega), if_pos hi]
  · rw [if_neg (by omega), if_neg (by omega), if_neg (by omega)]

/-- Settles O24: `writeCreg` and `writeLate` change the fields that the register has at the level, and nothing else. -/
theorem controlRegisterWritesTakeEffect : Obligations.ControlRegisterWritesTakeEffect :=
  ⟨controlRegisterWrites, statusWrites, userLevelWrites⟩


end Sys2Proof.Proofs
end

section
/-! Elements of register images (R25, R111) and bits of masks. -/

namespace Sys2Proof.Machine

/-! ### Fields -/

theorem fieldOf_setField_same {n : Nat} (w : BitVec n) {lo len : Nat} (v : Nat) (h : lo + len ≤ n) :
    fieldOf (setField w lo len v) lo len = v % 2 ^ len := by
  apply Nat.eq_of_testBit_eq
  intro i
  rw [testBit_fieldOf, getLsbD_setField, Nat.testBit_mod_two_pow]
  by_cases hi : i < len
  · simp [hi, show lo + i < n by omega]
  · simp [hi]

theorem fieldOf_setField_apart {n : Nat} (w : BitVec n) {lo len lo' len' : Nat} (v : Nat) (h : lo' + len' ≤ lo ∨ lo + len ≤ lo') :
    fieldOf (setField w lo len v) lo' len' = fieldOf w lo' len' := by
  apply Nat.eq_of_testBit_eq
  intro i
  rw [testBit_fieldOf, testBit_fieldOf, getLsbD_setField]
  by_cases hi : i < len'
  · rw [if_neg (by omega)]
  · simp [hi]

theorem fieldOf_lt {n : Nat} (w : BitVec n) (lo len : Nat) : fieldOf w lo len < 2 ^ len := (w.extractLsb' lo len).isLt

/-! ### Elements -/

/-- The element widths of a register (Table 4 of 01_machine_state). -/
def ElemWidth (w : Nat) : Prop := w = 2 ∨ w = 4 ∨ w = 8 ∨ w = 16 ∨ w = 32 ∨ w = 64

theorem ElemWidth.pos {w : Nat} (h : ElemWidth w) : 0 < w := by unfold ElemWidth at h; omega

/-- The elements of w bits fill each 64-bit word. -/
theorem ElemWidth.words {w : Nat} (h : ElemWidth w) (g : Nat) : g * 1024 / w = 16 * g * (64 / w) := by
  rcases h with rfl | rfl | rfl | rfl | rfl | rfl <;> omega

/-- Element i lies within its 64-bit word: w × (i div 16g) + w ≤ 64. -/
theorem elem_fits {g w i : Nat} (hw : ElemWidth w) (hi : i < g * 1024 / w) : w * (i / (16 * g)) + w ≤ 64 := by
  rw [hw.words] at hi
  have hq : i / (16 * g) < 64 / w := Nat.div_lt_of_lt_mul hi
  calc w * (i / (16 * g)) + w = w * (i / (16 * g) + 1) := by ring
    _ ≤ w * (64 / w) := Nat.mul_le_mul_left w hq
    _ ≤ 64 := Nat.mul_div_le 64 w

theorem elemPos_le {g w i : Nat} (hg : g ≤ 16) (hw : ElemWidth w) (hi : i < g * 1024 / w) : elemPos g w i + w ≤ 16384 := by
  have hf := elem_fits hw hi
  have h0 : 0 < g := by
    rcases Nat.eq_zero_or_pos g with rfl | h
    · simp at hi
    · exact h
  have hm : i % (16 * g) < 16 * g := Nat.mod_lt _ (by omega)
  unfold elemPos
  omega

/-- Two elements share no bit of a register. -/
theorem elemPos_apart {g w i j : Nat} (hw : ElemWidth w) (hi : i < g * 1024 / w) (hj : j < g * 1024 / w) (hne : i ≠ j) :
    elemPos g w j + w ≤ elemPos g w i ∨ elemPos g w i + w ≤ elemPos g w j := by
  have hfi := elem_fits hw hi
  have hfj := elem_fits hw hj
  unfold elemPos
  rcases Nat.lt_trichotomy (i % (16 * g)) (j % (16 * g)) with h | h | h
  · omega
  · have hq : i / (16 * g) ≠ j / (16 * g) := fun hq => hne (by
      rw [← Nat.mod_add_div i (16 * g), ← Nat.mod_add_div j (16 * g), h, hq])
    rcases Nat.lt_or_gt_of_ne hq with hq | hq
    · right
      have := Nat.mul_le_mul_left w (Nat.succ_le_of_lt hq)
      rw [Nat.mul_succ] at this
      omega
    · left
      have := Nat.mul_le_mul_left w (Nat.succ_le_of_lt hq)
      rw [Nat.mul_succ] at this
      omega
  · omega

theorem getElem_setField_same {g w i : Nat} (hg : g ≤ 16) (hw : ElemWidth w) (hi : i < g * 1024 / w) (img : Img) (v : Nat) :
    getElem g w (setField img (elemPos g w i) w v) i = v % 2 ^ w :=
  fieldOf_setField_same img v (elemPos_le hg hw hi)

theorem getElem_setField_other {g w i j : Nat} (hw : ElemWidth w) (hi : i < g * 1024 / w) (hj : j < g * 1024 / w) (hne : i ≠ j)
    (img : Img) (v : Nat) : getElem g w (setField img (elemPos g w i) w v) j = getElem g w img j :=
  fieldOf_setField_apart img v (elemPos_apart hw hi hj hne)

theorem getElem_lt (g w : Nat) (img : Img) (i : Nat) : getElem g w img i < 2 ^ w := fieldOf_lt ..

/-- An image with the elements of a list replaced by the values of a function: those hold the values, the others stay. -/
theorem getElem_setElems {g w : Nat} (hg : g ≤ 16) (hw : ElemWidth w) (f : Nat → Nat) (els : List Nat)
    (hl : ∀ i ∈ els, i < g * 1024 / w) (img : Img) {j : Nat} (hj : j < g * 1024 / w) :
    getElem g w (setElems g w (els.map fun i => (i, f i)) img) j = if j ∈ els then f j % 2 ^ w else getElem g w img j := by
  induction els generalizing img with
  | nil => rfl
  | cons i rest ih =>
    have hi : i < g * 1024 / w := hl i (by simp)
    have step := ih (fun k hk => hl k (by simp [hk])) (setField img (elemPos g w i) w (f i))
    simp only [List.map_cons, setElems, List.foldl_cons] at step ⊢
    rw [step]
    by_cases hr : j ∈ rest
    · simp [hr]
    · by_cases hij : j = i
      · simp [hij, getElem_setField_same hg hw hi]
      · simp [hr, hij, getElem_setField_other hw hi hj (Ne.symm hij)]

/-! ### Bits of masks -/

/-- A mask with the bits of a list replaced. -/
theorem getLsbD_setBits (f : Nat → Bool) (els : List Nat) (m : Mask) {j : Nat} (hj : j < 4096) :
    (setBits (els.map fun i => (i, b2n (f i))) m).getLsbD j = if j ∈ els then f j else m.getLsbD j := by
  induction els generalizing m with
  | nil => rfl
  | cons i rest ih =>
    have step := ih (setField m i 1 (b2n (f i)))
    simp only [List.map_cons, setBits, List.foldl_cons] at step ⊢
    rw [step, getLsbD_setField]
    by_cases hr : j ∈ rest
    · simp [hr]
    · by_cases hij : j = i
      · subst hij
        cases h : f j <;> simp [hj, b2n]
      · rw [if_neg (show ¬(i ≤ j ∧ j < i + 1) by omega)]
        simp [hr, hij]

end Sys2Proof.Machine
end

section
/-! What the operations on the register file change (R249 to R254). -/

namespace Sys2Proof.Machine

/-! ### Frames -/

/-- t is s but for what writes of v registers change: the registers with their physical registers and dirty bits, the Fife table, and of
the hart the results in flight and the event counters. -/
def State.vecChange (s t : State) : Prop :=
  ∃ f pend cnt v phys r dirty, t = { s with
    fife := f
    me := { s.me with
      hart := { s.me.hart with pend := pend, cnt := cnt }
      vec := { s.me.vec with v := v, phys := phys, pregs := r, vdirty := dirty } } }

theorem State.vecChange.refl (s : State) : s.vecChange s := ⟨_, _, _, _, _, _, _, rfl⟩

theorem State.vecChange.trans {s t u : State} (h : s.vecChange t) (h' : t.vecChange u) : s.vecChange u := by
  obtain ⟨_, _, _, _, _, _, _, rfl⟩ := h
  obtain ⟨_, _, _, _, _, _, _, rfl⟩ := h'
  exact ⟨_, _, _, _, _, _, _, rfl⟩

theorem State.vecChange.count {s t : State} (h : s.vecChange t) (e n : Nat) : s.vecChange (t.modHart (Hart.count e n)) :=
  h.trans ⟨_, _, _, _, _, _, _, rfl⟩

theorem State.inFlight_vecChange (r : Reg) (ready : Nat) (fixed : Bool) (s : State) : s.vecChange (s.inFlight r ready fixed) :=
  ⟨_, _, _, _, _, _, _, rfl⟩

/-! ### Freeing of registers -/

/-- Whether a v register maps onto a physical register. -/
def Vec.mapped (v : Vec) (p : PReg) : Prop := p.id ∈ v.phys.toList

/-- Freeing registers leaves those that a v register maps onto, and may drop entries and others (R253). -/
theorem settleRegs_spec (core idx : Nat) (n : Nat) (f : List FifeEntry) (v : Vec) :
    ∃ c : PReg → Bool, (settleRegs core idx n f v).2 = { v with pregs := v.pregs.filter c } ∧ (∀ p, v.mapped p → c p = true) ∧
      (settleRegs core idx n f v).1.Sublist f := by
  induction n generalizing f v with
  | zero => exact ⟨fun _ => true, by simp [settleRegs], by simp, List.Sublist.refl _⟩
  | succ n ih =>
    unfold settleRegs
    simp only
    split
    · exact ⟨fun _ => true, by simp, by simp, List.Sublist.refl _⟩
    · obtain ⟨c, h1, h2, h3⟩ := ih _ _
      refine ⟨_, h1.trans (by rw [List.filter_filter]), fun p hp => ?_, h3.trans List.filter_sublist⟩
      simp [h2 p hp, show p.id ∈ v.phys.toList from hp]

/-- With every register mapped, there is nothing to free. -/
theorem settleRegs_of_mapped (core idx n : Nat) (f : List FifeEntry) (v : Vec) (h : ∀ p ∈ v.pregs, v.mapped p) :
    settleRegs core idx n f v = (f, v) := by
  cases n with
  | zero => rfl
  | succ n =>
    unfold settleRegs
    simp only
    rw [if_pos]
    simp only [List.isEmpty_iff, List.filter_eq_nil_iff]
    intro p hp
    simp [show p.id ∈ v.phys.toList from h p hp]

/-- A vector state that freeing leaves as it is, with no entries, has every register mapped. -/
theorem mapped_of_settleRegs {core idx n : Nat} {v : Vec} (h : (settleRegs core idx (n + 1) [] v).2 = v) :
    ∀ p ∈ v.pregs, v.mapped p := by
  unfold settleRegs at h
  simp only [List.filter_nil, List.map_nil, List.append_nil] at h
  split at h
  case isTrue hd =>
    intro p hp
    by_contra hm
    have : p ∈ v.pregs.filter fun p => decide (p.id ∉ v.phys.toList) := List.mem_filter.mpr ⟨hp, by simpa [Vec.mapped] using hm⟩
    rw [List.isEmpty_iff.mp hd] at this
    simp at this
  case isFalse hd =>
    obtain ⟨c, h1, -, -⟩ := settleRegs_spec core idx n [] { v with pregs := v.pregs.filter fun p => decide (p.id ∈ v.phys.toList) }
    rw [h1] at h
    have hr : (v.pregs.filter fun p => decide (p.id ∈ v.phys.toList)).filter c = v.pregs := congrArg Vec.pregs h
    intro p hp
    rw [← hr] at hp
    simpa [Vec.mapped] using (List.mem_filter.mp (List.mem_filter.mp hp).1).2

/-- What operations that free registers of the slot in focus leave: all but the table and the registers that nothing maps onto. -/
def State.frees (s t : State) : Prop :=
  ∃ f, ∃ c : PReg → Bool, t = { s with fife := f, me := { s.me with vec := { s.me.vec with pregs := s.me.vec.pregs.filter c } } } ∧
    ∀ p, s.me.vec.mapped p → c p = true

theorem State.frees.of_fife (s : State) (f : List FifeEntry) : s.frees { s with fife := f } :=
  ⟨f, fun _ => true, by simp, by simp⟩

theorem State.frees.refl (s : State) : s.frees s := .of_fife s s.fife

theorem State.frees.trans {s t u : State} (h : s.frees t) (h' : t.frees u) : s.frees u := by
  obtain ⟨f, c, rfl, hc⟩ := h
  obtain ⟨f', c', rfl, hc'⟩ := h'
  exact ⟨f', _, by simp only [List.filter_filter]; rfl, fun p hp => by simp [hc p hp, hc' p hp]⟩

theorem State.frees.vecChange {s t : State} (h : s.frees t) : s.vecChange t := by
  obtain ⟨_, _, rfl, -⟩ := h
  exact ⟨_, _, _, _, _, _, _, rfl⟩

theorem State.frees.mem {s t : State} (h : s.frees t) {p : PReg} (hp : p ∈ s.me.vec.pregs) (hm : s.me.vec.mapped p) :
    p ∈ t.me.vec.pregs := by
  obtain ⟨_, c, rfl, hc⟩ := h
  exact List.mem_filter.mpr ⟨hp, hc p hm⟩

theorem State.frees.sublist {s t : State} (h : s.frees t) : t.me.vec.pregs.Sublist s.me.vec.pregs := by
  obtain ⟨_, c, rfl, -⟩ := h
  exact List.filter_sublist

theorem State.freeRegs_frees (s : State) : s.frees s.freeRegs := by
  obtain ⟨c, h1, h2, -⟩ := settleRegs_spec s.me.core s.me.idx 128 s.fife s.me.vec
  refine ⟨(settleRegs s.me.core s.me.idx 128 s.fife s.me.vec).1, c, ?_, h2⟩
  simp only [State.freeRegs, h1]

theorem State.dropEntries_frees (dead : FifeEntry → Bool) (s : State) : s.frees (s.dropEntries dead) := by
  unfold State.dropEntries
  split
  · exact (State.frees.of_fife s _).trans (State.freeRegs_frees _)
  · exact .refl s

theorem State.makeRoom_frees (n : Nat) (s : State) : s.frees (State.makeRoom n s) := by
  induction n generalizing s with
  | zero => exact .refl s
  | succ n ih =>
    unfold State.makeRoom
    split
    · exact .refl s
    · split
      · exact (State.dropEntries_frees _ s).trans (ih _)
      · exact .refl s

/-! ### Writes of a v register -/

theorem getElem_set_reg {α : Type} {w m : Nat} (v : Vector α m) (d n : BitVec w) (a : α) (hd : d.toNat < m) (hn : n.toNat < m) :
    (v.set d.toNat a hd)[n.toNat] = if n = d then a else v[n.toNat] := by
  rw [Vector.getElem_set]
  simp only [eq_comm (a := d.toNat), BitVec.toNat_inj]

/-- The names of the physical registers (R250, R251). -/
def Vec.names (v : Vec) : List (BitVec 48 × Nat) := v.pregs.filterMap fun p => p.name

/-- What a write of v[d] leaves: the frame, the contents, and a physical register that holds them (R251, R252). -/
structure State.wroteV (s t : State) (d : BitVec 5) (img : Img) : Prop where
  change : s.vecChange t
  v_eq : t.me.vec.v = s.me.vec.v.set d.toNat img
  phys_eq : ∃ id, t.me.vec.phys = s.me.vec.phys.set d.toNat id
  holder : ∃ p ∈ t.me.vec.pregs, p.id = t.me.vec.phys[d.toNat] ∧ p.img = img ∧
    ∀ n ∈ p.name, n.1 = crc48 (imageBytes s.me.vec.grant img)
  /-- a mapped register that holds the contents under the name of their CRC is shared (R252) -/
  shares : ∀ q ∈ s.me.vec.pregs, s.me.vec.mapped q → q.img = img →
    q.name.map (fun m => m.1) = some (crc48 (imageBytes s.me.vec.grant img)) →
    ∃ r ∈ s.me.vec.pregs, r.id = t.me.vec.phys[d.toNat] ∧ r.img = img
  keeps : ∀ p ∈ s.me.vec.pregs, ∀ n : BitVec 5, n ≠ d → p.id = s.me.vec.phys[n.toNat] → p ∈ t.me.vec.pregs
  names_nodup : s.me.vec.names.Nodup → t.me.vec.names.Nodup

theorem mapped_of_eq {v : Vec} {p : PReg} {n : BitVec 5} (h : p.id = v.phys[n.toNat]) : v.mapped p := by
  unfold Vec.mapped
  rw [h]
  exact Vector.mem_toList_iff.mpr (Vector.getElem_mem _)

theorem State.frees.names_sublist {s t : State} (h : s.frees t) : t.me.vec.names.Sublist s.me.vec.names := h.sublist.filterMap _

/-- v[d] mapped onto a register that is there. -/
theorem State.mapV_spec {s : State} (d : BitVec 5) {p : PReg} (hp : p ∈ s.me.vec.pregs) :
    let t := s.mapV d p.id p.img
    s.vecChange t ∧ t.me.vec.v = s.me.vec.v.set d.toNat p.img ∧ t.me.vec.phys = s.me.vec.phys.set d.toNat p.id ∧ p ∈ t.me.vec.pregs ∧
      (∀ q ∈ s.me.vec.pregs, ∀ n : BitVec 5, n ≠ d → q.id = s.me.vec.phys[n.toNat] → q ∈ t.me.vec.pregs) ∧
      t.me.vec.names.Sublist s.me.vec.names := by
  obtain ⟨u, hu⟩ : ∃ u, u = s.modVec fun v =>
    { v with v := v.v.set d.toNat p.img, phys := v.phys.set d.toNat p.id, vdirty := v.vdirty ||| xOf (2 ^ d.toNat) } := ⟨_, rfl⟩
  have hphys : u.me.vec.phys = s.me.vec.phys.set d.toNat p.id := by rw [hu]; rfl
  have hpregs : u.me.vec.pregs = s.me.vec.pregs := by rw [hu]; rfl
  have hf := State.freeRegs_frees u
  have mapped : ∀ q ∈ s.me.vec.pregs, ∀ n : BitVec 5, q.id = u.me.vec.phys[n.toNat] → q ∈ u.freeRegs.me.vec.pregs :=
    fun q hq n hn => hf.mem (hpregs ▸ hq) (mapped_of_eq hn)
  intro t
  have ht : t = u.freeRegs := by rw [hu]; rfl
  have hsub : t.me.vec.names.Sublist u.me.vec.names := ht ▸ hf.names_sublist
  rw [ht]
  refine ⟨?_, ?_, ?_, mapped p hp d ?_, fun q hq n hn hid => mapped q hq n ?_, ?_⟩
  · exact State.vecChange.trans (t := u) (hu ▸ ⟨_, _, _, _, _, _, _, rfl⟩) hf.vecChange
  · obtain ⟨_, _, h, -⟩ := hf
    rw [h, hu]
    rfl
  · obtain ⟨_, _, h, -⟩ := hf
    rw [h]
    exact hphys
  · simp [hphys]
  · rw [hphys, getElem_set_reg, if_neg hn, hid]
  · unfold Vec.names at hsub ⊢
    rw [hpregs] at hsub
    exact ht ▸ hsub

/-- The lowest free number of a list that is too short to hold all of them. -/
theorem lowestFree_not_mem {l : List Nat} {n : Nat} (h : l.length < n) : lowestFree l n ∉ l := by
  unfold lowestFree
  rcases hf : (List.range n).find? (fun i => decide (i ∉ l)) with _ | i
  · rw [List.find?_eq_none] at hf
    have sub : List.range n ⊆ l := fun i hi => by simpa using hf i hi
    have := (List.nodup_range.subperm sub).length_le
    rw [List.length_range] at this
    omega
  · simpa using List.find?_some hf

/-- Registers with a new one added, under a name whose variant is free (R251). -/
theorem names_nodup_append {l : List PReg} {crc : BitVec 48} {id : Nat} {img : Img} {taken : List Nat}
    (ht : ∀ n, (crc, n) ∈ l.filterMap (fun p => p.name) → n ∈ taken) (h : (l.filterMap fun p => p.name).Nodup) :
    ((l ++ [PReg.mk id img (if taken.length < 4 then some (crc, lowestFree taken 4) else none)]).filterMap fun p => p.name).Nodup := by
  rw [List.filterMap_append]
  split
  case isTrue h4 => exact h.append (by simp) (by simpa using fun hm => lowestFree_not_mem h4 (ht _ hm))
  case isFalse => simpa using h

theorem State.wV_spec (d : BitVec 5) (img : Img) (s : State) : s.wroteV (s.wV d img) d img := by
  obtain ⟨s1, hs1⟩ : ∃ s1, s1 = State.makeRoom 128 s := ⟨_, rfl⟩
  have room : s.frees s1 := hs1 ▸ State.makeRoom_frees 128 s
  have sub : ∀ q ∈ s1.me.vec.pregs, q ∈ s.me.vec.pregs := fun q hq => room.sublist.subset hq
  have hphys : s1.me.vec.phys = s.me.vec.phys := by obtain ⟨_, _, rfl, -⟩ := room; rfl
  have hv : s1.me.vec.v = s.me.vec.v := by obtain ⟨_, _, rfl, -⟩ := room; rfl
  have kept : ∀ q ∈ s.me.vec.pregs, s.me.vec.mapped q → q ∈ s1.me.vec.pregs := fun q hq hm => room.mem hq hm
  have nodup : s.me.vec.names.Nodup → s1.me.vec.names.Nodup := fun h => h.sublist room.names_sublist
  unfold State.wV
  rw [← hs1]
  dsimp only
  split
  case h_1 p hp =>
    obtain ⟨hp1, hp2⟩ := List.mem_filter.mp (List.mem_of_find?_eq_some hp)
    have himg : p.img = img := by simpa using List.find?_some hp
    have hname : p.name.map (fun q => q.1) = some (crc48 (imageBytes s.me.vec.grant img)) := by simpa using hp2
    obtain ⟨h1, h2, h3, h4, h5, h6⟩ := State.mapV_spec d hp1
    refine ⟨(room.vecChange.trans h1).count 5 1, ?_, ⟨p.id, ?_⟩, ⟨p, h4, ?_, himg, ?_⟩, fun q hq hm hi hn => ⟨p, sub p hp1, ?_, himg⟩,
      fun q hq n hn hid => h5 q (kept q hq (mapped_of_eq hid)) n hn (hphys ▸ hid), fun hn => (nodup hn).sublist h6⟩
    · exact h2.trans (by rw [hv, himg])
    · exact h3.trans (by rw [hphys])
    · exact (congrArg (fun v : Vector Nat 32 => v[d.toNat]) h3).trans (by simp) |>.symm
    · intro n hn
      simp only [Option.mem_def.mp hn, Option.map_some, Option.some.injEq] at hname
      exact hname
    · exact (congrArg (fun v : Vector Nat 32 => v[d.toNat]) h3).trans (by simp) |>.symm
  case h_2 hnone =>
    set p : PReg := { id := _, img := img, name := _ } with hp
    obtain ⟨s2, hs2⟩ : ∃ s2, s2 = s1.modVec fun v => { v with pregs := v.pregs ++ [p] } := ⟨_, rfl⟩
    have hpregs : s2.me.vec.pregs = s1.me.vec.pregs ++ [p] := by rw [hs2]; rfl
    have hv2 : s2.me.vec.v = s1.me.vec.v := by rw [hs2]; rfl
    have hphys2 : s2.me.vec.phys = s1.me.vec.phys := by rw [hs2]; rfl
    obtain ⟨h1, h2, h3, h4, h5, h6⟩ := State.mapV_spec (s := s2) d (p := p) (by rw [hpregs]; simp)
    rw [← hs2]
    refine ⟨(room.vecChange.trans (hs2 ▸ ⟨_, _, _, _, _, _, _, rfl⟩)).trans h1, ?_, ⟨p.id, ?_⟩, ⟨p, h4, ?_, rfl, ?_⟩,
      fun q hq hm hi hn => ?_, fun q hq n hn hid => ?_, fun hn => ?_⟩
    · exact h2.trans (by rw [hv2, hv])
    · exact h3.trans (by rw [hphys2, hphys])
    · exact (congrArg (fun v : Vector Nat 32 => v[d.toNat]) h3).trans (by simp) |>.symm
    · intro n hn
      simp only [hp, Option.mem_def, Option.ite_none_right_eq_some, Option.some.injEq] at hn
      obtain ⟨-, rfl⟩ := hn
      rfl
    · have := List.find?_eq_none.mp hnone q (List.mem_filter.mpr ⟨kept q hq hm, by simp [hn]⟩)
      simp [hi] at this
    · exact h5 q (by rw [hpregs]; exact List.mem_append_left _ (kept q hq (mapped_of_eq hid))) n hn (by rw [hphys2, hphys, hid])
    · refine List.Nodup.sublist h6 ?_
      unfold Vec.names
      rw [hpregs]
      refine names_nodup_append (fun n hn => ?_) (nodup hn)
      obtain ⟨q, hq, hqn⟩ := List.mem_filterMap.mp hn
      exact List.mem_filterMap.mpr ⟨q, List.mem_filter.mpr ⟨hq, by simp [hqn]⟩, by simp [hqn]⟩

theorem State.wVat_spec (d : BitVec 5) (img : Img) (lat : Nat) (fixed : Bool) (s : State) : s.wroteV (s.wVat d img lat fixed) d img := by
  obtain ⟨h1, h2, h3, h4, h5, h6, h7⟩ := State.wV_spec d img (s.inFlight (.v d) (s.cycle + lat) fixed)
  exact ⟨(State.inFlight_vecChange ..).trans h1, h2, h3, h4, h5, h6, h7⟩

end Sys2Proof.Machine
end

section
/-! The frame of a vector instruction and its parts (R101, R122), where nothing that it reads is in flight or bound to a stream. -/

namespace Sys2Proof.Machine

/-! ### Checks -/

/-- What `gate` answers without results in flight: the checks of R285 in their order, a pending PFX among them (R59, R60). -/
theorem gate_of_pend (q : Req) (s : State) (hp : s.me.hart.pend = []) :
    gate q s =
      let predReads := s.me.hart.pv && s.me.hart.predK != 0
      let denied := s.vecDenied || (q.config && !s.owns)
      if q.sup && !s.me.hart.prv then (.error (.trap { code := 0x002 }), s)
      else if !s.me.hart.pairs q then (.error (.trap { code := 0x004, tval := xOf s.me.hart.word.toNat }), s)
      else if predReads && s.vecDenied then (.error (.trap { code := 0x180 }), s)
      else if q.scalar then
        if s.pred 0 then (if q.first && denied then (.error (.trap { code := 0x180 }), s) else (.ok true, s)) else (.ok false, s)
      else if s.me.hart.nullified then (.ok false, s)
      else if q.first && denied then (.error (.trap { code := 0x180 }), s)
      else if q.grant && s.me.vec.grant == 0 then (.error (.trap { code := 0x182 }), s)
      else if q.cfg && s.me.vec.vill then (.error (.trap { code := 0x183 }), s)
      else if q.shape then
        (match q.strips with
         | some (c, v) => (.error (.trap { code := c, tval := v }), s)
         | none => (.ok true, s))
      else (.error (.trap { code := 0x183 }), s) := by
  have hr : (s.inFlightOf (.k s.me.hart.predK)).isSome = false := by simp [inFlightOf_of_pend s hp]
  have reads : ∀ l, awaitReads l s = (.ok (), s) := fun l => awaitReads_of_pend l s hp
  have early : ∀ l, checkEarly [] l s = (.ok (), s) := fun l => checkEarly_of_pend [] l s hp
  have all : ∀ l, checkReads q.wid l s = (.ok (), s) := fun l => checkReads_of_pend q.wid l s hp
  have swap : ∀ (b : Bool) (x y : Id (Except Stop Bool × State)), (if (!b) = true then x else y) = if b = true then y else x := by
    intro b x y; cases b <;> rfl
  unfold gate
  rcases hs : q.strips with _ | ⟨c, v⟩ <;>
    simp only [M.bind_get, M.bind_require, M.run_ite, M.bind_of_ok (reads _), M.bind_of_ok (early _), M.bind_of_ok (all _), hr,
      Bool.and_false, Bool.false_eq_true, if_false, M.run_pure, swap]
  rfl

/-! ### A state in which a vector instruction runs undisturbed -/

/-- A live hart with nothing in flight and no step trap to follow may use the vector state, whose lane groups and configuration suit and none of
whose registers is bound to a stream. A pending PFX and a fault mask are left open. -/
structure State.vectorRuns (s : State) : Prop where
  live : s.me.live = true
  pend : s.me.hart.pend = []
  overrides : s.me.hart.overrides = []
  noStep : (s.me.hart.ss && !s.me.hart.prv) = false
  allowed : s.vecDenied = false
  grant_pos : 1 ≤ s.me.vec.grant
  grant_le : s.me.vec.grant ≤ 16
  legal : s.me.vec.vill = false
  within : s.me.vec.illegal = false
  streams : s.me.vec.streams = []

theorem State.vectorReady.runs {s : State} (h : s.vectorReady) : s.vectorRuns := by
  obtain ⟨⟨⟨hl, hp, ho, -, hs⟩, hown, hg1, hg2, hv, hi, -, -, -⟩, hst⟩ := h
  exact ⟨hl, hp, ho, hs, by simp [State.vecDenied, hown], hg1, hg2, hv, hi, hst⟩

theorem State.vectorRuns.width {s : State} (h : s.vectorRuns) : ElemWidth s.me.vec.width := by
  have hi := h.within
  simp only [Vec.illegal, Bool.or_eq_false_iff, decide_eq_false_iff_not] at hi
  obtain ⟨⟨⟨h6, -⟩, -⟩, -⟩ := hi
  unfold Vec.width ElemWidth
  rcases (by omega : s.me.vec.sew.toNat = 0 ∨ s.me.vec.sew.toNat = 1 ∨ s.me.vec.sew.toNat = 2 ∨ s.me.vec.sew.toNat = 3 ∨
    s.me.vec.sew.toNat = 4 ∨ s.me.vec.sew.toNat = 5) with h | h | h | h | h | h <;> simp [h, sewBits]

/-- vl is within the elements of a register (R15, R16). -/
theorem State.vectorRuns.vl_le {s : State} (h : s.vectorRuns) :
    s.me.vec.vl.toNat ≤ s.me.vec.grant * 1024 / s.me.vec.width ∧ s.me.vec.vl.toNat ≤ 4096 := by
  have hi := h.within
  have hw := h.width.pos
  simp only [Vec.illegal, Bool.or_eq_false_iff, decide_eq_false_iff_not] at hi
  obtain ⟨⟨-, hv⟩, -⟩ := hi
  unfold Vec.vlmaxe at hv
  rw [if_neg (by omega)] at hv
  omega

theorem rV_of_overrides {s : State} (ho : s.me.hart.overrides = []) (n : BitVec 5) : s.rV n = s.me.vec.v[n.toNat] := by
  simp [State.rV, State.chosen, ho]

theorem rK_of_overrides {s : State} (ho : s.me.hart.overrides = []) (n : BitVec 3) :
    s.rK n = if n = 0 then BitVec.allOnes 4096 else s.me.vec.k[n.toNat] := by
  simp [State.rK, State.chosen, ho]

theorem rX_of_overrides {s : State} (ho : s.me.hart.overrides = []) (n : BitVec 5) :
    s.rX n = if n = 0 then 0 else s.me.hart.x[n.toNat] := by
  simp [State.rX, State.chosen, ho]

/-! ### Active elements -/

theorem mem_actives {s : State} {k : BitVec 3} {lo i : Nat} :
    i ∈ s.actives k lo ↔ lo ≤ i ∧ i < s.me.vec.vl.toNat ∧ s.masked k i = true ∧ s.kfOk i = true := by
  simp only [State.actives, List.range_eq_range', List.drop_range', List.mem_filter, List.mem_range'_1, Bool.and_eq_true]
  grind

theorem mem_enabled {s : State} {k : BitVec 3} {lo i : Nat} :
    i ∈ s.enabled k lo ↔ lo ≤ i ∧ i < s.me.vec.vl.toNat ∧ s.masked k i = true := by
  simp only [State.enabled, List.range_eq_range', List.drop_range', List.mem_filter, List.mem_range'_1]
  grind

/-- Without a fault mask and a pending PFX the active elements are those of the mask (R5, R122). -/
theorem mem_actives_iff_active {s : State} (hf : s.me.hart.fm = false) (hv : s.me.hart.pv = false) {k : BitVec 3} {i : Nat} :
    i ∈ s.actives k s.es ↔ s.active k i := by
  simp [mem_actives, State.active, State.masked, State.kfOk, State.pred, hf, hv]

/-! ### Reads of elements -/

theorem srcElem_of_unbound {s : State} (hs : s.me.vec.streams = []) (ho : s.me.hart.overrides = []) (n : BitVec 5) (w i : Nat) :
    srcElem n w i s = (.ok (getElem s.me.vec.grant w s.me.vec.v[n.toNat] i, 0), s) := by
  simp [srcElem, M.bind_get, Vec.stream?, hs, rV_of_overrides ho]

theorem srcElems_of_unbound {s : State} (hs : s.me.vec.streams = []) (ho : s.me.hart.overrides = []) (w i : Nat) (ns : List (BitVec 5)) :
    srcElems w i ns s = (.ok (ns.map fun n => getElem s.me.vec.grant w s.me.vec.v[n.toNat] i, 0), s) := by
  induction ns with
  | nil => rfl
  | cons n rest ih =>
    exact (M.bind_of_ok (srcElem_of_unbound hs ho n w i)).trans (M.bind_of_ok ih)

/-! ### Element-wise runs -/

theorem Hart.raise_zero (h : Hart) : h.raise 0 = h := by
  have : setField h.status 5 5 (h.ff ||| 0).toNat = h.status := by
    apply BitVec.eq_of_getLsbD_eq
    intro i _
    rw [show (h.ff ||| 0).toNat = fieldOf h.status 5 5 by simp [Hart.ff, fieldOf], getLsbD_setField_fieldOf]
    split <;> rfl
  unfold Hart.raise Hart.setStatus
  rw [this]

/-- A run over elements that each give a value without flags. -/
theorem elemRun_pure {f : Nat → M (Nat × Flags)} {g : Nat → Nat} {els : List Nat} {s : State}
    (h : ∀ i ∈ els, f i s = (.ok (g i, 0), s)) : elemRun f els s = (.ok (els.map fun i => (i, g i), 0, none), s) := by
  induction els with
  | nil => rfl
  | cons i rest ih =>
    have one : observe (f i) s = (.ok (.ok (g i, 0)), s) := by rw [M.run_observe, h i (by simp)]
    have raise : s.modHart (Hart.raise 0) = s := by unfold State.modHart; rw [Hart.raise_zero]
    unfold elemRun
    rw [M.bind_of_ok one]
    simp only [M.bind_modify, raise, M.bind_get]
    simp [M.bind_of_ok (ih fun j hj => h j (by simp [hj]))]

theorem elementwise_pure {f : Nat → M (Nat × Flags)} {g : Nat → Nat} {els : List Nat} {put : List (Nat × Nat) → M Unit} {s t : State}
    (h : ∀ i ∈ els, f i s = (.ok (g i, 0), s)) (hp : put (els.map fun i => (i, g i)) s = (.ok (), t)) :
    elementwise els f put s = (.ok 0, t.modHart (Hart.count 6 els.length)) := by
  unfold elementwise
  rw [M.bind_get, M.bind_of_ok (elemRun_pure h)]
  simp only [endElems]
  rw [M.bind_of_ok hp, M.bind_modify]
  rfl

/-! ### Writes of elements -/

/-- s with elements of width w written to v[d] and to its PFX copy. -/
def State.putV (d : BitVec 5) (w : Nat) (l : List (Nat × Nat)) (lat : Nat) (fixed : Bool) (s : State) : State :=
  let t := s.wVat d (setElems s.me.vec.grant w l s.me.vec.v[d.toNat]) lat fixed
  match s.copyV d with
  | some c => t.wVat c (setElems s.me.vec.grant w l s.me.vec.v[c.toNat]) lat fixed
  | none => t

theorem putElems_eq (d : BitVec 5) (w : Nat) (l : List (Nat × Nat)) (lat : Nat) (fixed : Bool) (s : State) :
    putElems d w l lat fixed s = (.ok (), s.putV d w l lat fixed) := rfl

theorem State.putV_spec (d : BitVec 5) (w : Nat) (l : List (Nat × Nat)) (lat : Nat) (fixed : Bool) (s : State) :
    s.vecChange (s.putV d w l lat fixed) ∧ ∀ n : BitVec 5, (s.putV d w l lat fixed).me.vec.v[n.toNat] =
      if n = d ∨ s.copyV d = some n then setElems s.me.vec.grant w l s.me.vec.v[n.toNat] else s.me.vec.v[n.toNat] := by
  obtain ⟨h1, h2, -⟩ := State.wVat_spec d (setElems s.me.vec.grant w l s.me.vec.v[d.toNat]) lat fixed s
  unfold State.putV
  rcases hc : s.copyV d with _ | c
  · refine ⟨h1, fun n => ?_⟩
    simp only [h2, getElem_set_reg]
    grind
  · obtain ⟨h3, h4, -⟩ := State.wVat_spec c (setElems s.me.vec.grant w l s.me.vec.v[c.toNat]) lat fixed
      (s.wVat d (setElems s.me.vec.grant w l s.me.vec.v[d.toNat]) lat fixed)
    refine ⟨h1.trans h3, fun n => ?_⟩
    simp only [h4, h2, getElem_set_reg]
    grind

/-- The elements of a register that was written from a list of active elements (R122). -/
theorem elemsBecome_of_setElems {s t : State} (h : s.vectorRuns) {d : BitVec 5} {els : List Nat} {p : Nat → Prop} {f : Nat → Nat}
    (hv : t.me.vec.v[d.toNat] =
      setElems s.me.vec.grant s.me.vec.width (els.map fun i => (i, f i)) s.me.vec.v[d.toNat])
    (hp : ∀ i, i ∈ els ↔ p i) (hl : ∀ i, p i → i < s.me.vec.vl.toNat) : s.elemsBecome t d s.me.vec.width p f := by
  have hb : ∀ i ∈ els, i < s.me.vec.grant * 1024 / s.me.vec.width := fun i hi =>
    lt_of_lt_of_le (hl i ((hp i).mp hi)) h.vl_le.1
  intro i hi
  rw [hv, getElem_setElems h.grant_le h.width f els hb _ hi]
  exact ⟨fun hpi => by rw [if_pos ((hp i).mpr hpi)], fun hpi => by rw [if_neg (fun hm => hpi ((hp i).mp hm))]⟩

end Sys2Proof.Machine
end

section
/-! Reuse and completion of vector instructions (R7, R19, R255 to R258). -/

namespace Sys2Proof.Machine

/-! ### Reuse -/

/-- Nothing could be reused, and an entry made frees nothing (R14, R256): reuse is off, or the table is empty and every register of the other
slots is mapped. -/
def State.reuseIdle (s : State) : Prop :=
  s.me.hart.ru = false ∨ (s.fife = [] ∧ ∀ o ∈ s.others, ∀ p ∈ o.vec.pregs, o.vec.mapped p)

theorem settleSlots_of_mapped (l : List Slot) (f : List FifeEntry) (h : ∀ o ∈ l, ∀ p ∈ o.vec.pregs, o.vec.mapped p) :
    settleSlots l f = (l, f) := by
  induction l generalizing f with
  | nil => rfl
  | cons o rest ih =>
    unfold settleSlots
    simp only [settleRegs_of_mapped o.core o.idx 128 f o.vec (h o (by simp)), ih f fun q hq => h q (by simp [hq])]

theorem mapped_of_settleSlots {l : List Slot} (h : (settleSlots l []).1 = l) : ∀ o ∈ l, ∀ p ∈ o.vec.pregs, o.vec.mapped p := by
  induction l with
  | nil => simp
  | cons o rest ih =>
    obtain ⟨-, -, -, hf⟩ := settleRegs_spec o.core o.idx 128 [] o.vec
    rw [List.sublist_nil] at hf
    unfold settleSlots at h
    simp only [List.cons.injEq, hf] at h
    obtain ⟨ho, hr⟩ := h
    intro q hq
    rcases List.mem_cons.mp hq with rfl | hq
    · exact mapped_of_settleRegs (congrArg Slot.vec ho)
    · exact ih hr q hq

theorem reuseIdle_of_freeAllRegs {s : State} (h : s.me.hart.ru = false ∨ (s.fife = [] ∧ s.freeAllRegs = s)) : s.reuseIdle := by
  refine h.imp_right fun ⟨hf, ha⟩ => ⟨hf, ?_⟩
  obtain ⟨f, c, hfr, -⟩ := State.freeRegs_frees s
  obtain ⟨-, -, -, hsub⟩ := settleRegs_spec s.me.core s.me.idx 128 s.fife s.me.vec
  have hf' : s.freeRegs.fife = [] := List.sublist_nil.mp (hf ▸ hsub)
  have ho : s.freeRegs.others = s.others := by rw [hfr]
  have : (settleSlots s.freeRegs.others s.freeRegs.fife).1 = s.others := congrArg State.others ha
  rw [ho, hf'] at this
  exact mapped_of_settleSlots this

theorem State.freeAllRegs_frees {s : State} (h : ∀ o ∈ s.others, ∀ p ∈ o.vec.pregs, o.vec.mapped p) : s.frees s.freeAllRegs := by
  obtain ⟨f, c, hfr, -⟩ := State.freeRegs_frees s
  have ho : s.freeRegs.others = s.others := by rw [hfr]
  have : s.freeAllRegs = s.freeRegs := by
    unfold State.freeAllRegs
    simp only [ho, settleSlots_of_mapped _ _ h]
    rw [hfr]
  exact this ▸ State.freeRegs_frees s

theorem State.addEntry_frees {s : State} (h : ∀ o ∈ s.others, ∀ p ∈ o.vec.pregs, o.vec.mapped p) (key : FifeKey) (d : BitVec 5)
    (fl : BitVec 5) (load : Option LoadRecord) : s.frees (s.addEntry key d fl load) := by
  unfold State.addEntry
  split
  · exact .refl s
  · simp only
    split
    · exact (State.frees.of_fife s _).trans (State.freeAllRegs_frees h)
    · exact .refl s

theorem fifeKey_of_off {s : State} (q : ReuseReq) (h : s.me.hart.ru = false) : s.fifeKey q = none := by
  simp [State.fifeKey, h]

/-- A reusable instruction without a hit runs, and makes an entry where it has a key. -/
theorem reusable_of_miss {q : ReuseReq} {lat : Nat} {fixed : Bool} {run : M (Option (Flags × Option LoadRecord))} {s t : State}
    {r : Option (Flags × Option LoadRecord)} (hm : s.fifeHit q = none) (hr : run s = (.ok r, t)) :
    reusable q lat fixed run s = (.ok (), match s.fifeKey q, r with
      | some key, some (fl, load) => t.addEntry key q.dst fl load
      | _, _ => t) := by
  have hm' : (if s.copyFits q = true then s.fifeHit q else none) = none := by simp [hm]
  unfold reusable
  rw [M.bind_get]
  simp only [hm', M.bind_of_ok hr]
  cases s.fifeKey q <;> rcases r with _ | ⟨fl, load⟩ <;> rfl

/-- Where nothing could be reused, a reusable instruction runs; an entry that it makes changes only what frees do. -/
theorem reusable_of_idle {q : ReuseReq} {lat : Nat} {fixed : Bool} {run : M (Option (Flags × Option LoadRecord))} {s t : State}
    {r : Option (Flags × Option LoadRecord)} (hi : s.reuseIdle) (ht : t.others = s.others) (hr : run s = (.ok r, t)) :
    ∃ u, reusable q lat fixed run s = (.ok (), u) ∧ t.frees u := by
  have hm : s.fifeHit q = none := by
    unfold State.fifeHit
    rcases hi with hi | ⟨hi, -⟩
    · simp [fifeKey_of_off q hi]
    · simp [hi]
  refine ⟨_, reusable_of_miss hm hr, ?_⟩
  rcases hk : s.fifeKey q with _ | key
  · exact .refl t
  · rcases r with _ | ⟨fl, load⟩
    · exact .refl t
    · rcases hi with hi | ⟨-, hi⟩
      · rw [fifeKey_of_off q hi] at hk
        cases hk
      · exact State.addEntry_frees (ht ▸ hi) key q.dst fl load

/-! ### The frame -/

theorem checkBound_of_streams {s : State} (hs : s.me.vec.streams = []) (l : List (BitVec 5)) : checkBound l s = (.ok (), s) := by
  have : ∀ l : List (BitVec 5), l.find? (fun n => (s.me.vec.stream? n).isSome) = none := fun l => by
    simp [List.find?_eq_none, Vec.stream?, hs]
  unfold checkBound
  simp only [M.bind_get, this]
  rfl

theorem nextStrips_of_streams {s : State} (hs : s.me.vec.streams = []) (vl : Nat) (l : List (BitVec 5)) : s.nextStrips vl l = s := by
  simp [State.nextStrips, hs]

theorem stripsTrap_of_streams {v : Vec} (hs : v.streams = []) (l : List (BitVec 5)) : v.stripsTrap l = none := by
  have : ∀ n, v.stripTrap n = none := fun n => by simp [Vec.stripTrap, Vec.stream?, hs]
  simp [Vec.stripsTrap, this]

/-- The checks of a vector instruction that runs undisturbed, under a PFX that may precede it. -/
theorem gate_vector {s : State} (h : s.vectorRuns) (q : Req) (hq : q.scalar = false) (hs : q.sup = false) (hc : q.config = false)
    (hp : s.me.hart.pairs q = true) (hsh : q.shape = true) (hst : q.strips = none) :
    gate q s = (.ok (!s.me.hart.nullified), s) := by
  have hg : ¬ s.me.vec.grant = 0 := by have := h.grant_pos; omega
  rw [gate_of_pend q s h.pend]
  cases hn : s.me.hart.nullified <;> simp [hq, hs, hc, hp, hsh, hst, h.allowed, h.legal, hg]

theorem gate_runVector {s : State} (h : s.vectorRuns) (q : VReq)
    (hp : s.me.hart.pairs { st := q.st, dst := q.dst, noPred := q.noPred } = true) (hsh : q.shape = true) :
    gate { st := q.st, srcs := q.vs.map .v ++ q.rs ++ [.k q.k], dst := q.dst, first := true, grant := q.grant,
           cfg := true, shape := q.shape, scalar := false, noPred := q.noPred, wid := q.wid,
           strips := if q.anyEs || decide (s.es < s.me.vec.vl.toNat) then s.me.vec.stripsTrap q.vs else none } s =
      (.ok (!s.me.hart.nullified), s) :=
  gate_vector h _ rfl rfl rfl hp hsh (by simp [stripsTrap_of_streams h.streams])

/-- A vector instruction that runs undisturbed: its body, where it has elements to process, then the end of a fault mask and its
completion (R7, R19, R370). -/
theorem runVector_runs {s t : State} (h : s.vectorRuns) (q : VReq) (body : M Unit)
    (hp : s.me.hart.pairs { st := q.st, dst := q.dst, noPred := q.noPred } = true) (hn : s.me.hart.nullified = false)
    (hsh : q.shape = true) (hb : q.anyEs = true ∨ s.es < s.me.vec.vl.toNat → body s = (.ok (), t))
    (hb' : ¬(q.anyEs = true ∨ s.es < s.me.vec.vl.toNat) → t = s) (ht : t.me.vec.streams = []) :
    runVector q body s = .next ((if q.kf then t.clearKf else t).complete q.st 0 (s.pc + 4)) := by
  unfold runVector runM
  rw [if_pos h.live, M.bind_of_ok (gate_runVector h q hp hsh), hn]
  simp only [Bool.not_false, if_true, M.bind_get, M.bind_of_ok (checkBound_of_streams h.streams _)]
  by_cases hbusy : q.anyEs = true ∨ s.es < s.me.vec.vl.toNat
  · rw [if_pos (by simpa using hbusy), M.bind_of_ok (hb hbusy)]
    cases hk : q.kf <;> simp [M.run_bind, nextStrips_of_streams ht, done]
  · rw [if_neg (by simpa using hbusy), hb' hbusy]
    cases hk : q.kf <;> simp [M.run_bind, done]

/-- A vector instruction under pfx k0 with polarity 1 only completes (R59). -/
theorem runVector_nullified {s : State} (h : s.vectorRuns) (q : VReq) (body : M Unit)
    (hp : s.me.hart.pairs { st := q.st, dst := q.dst, noPred := q.noPred } = true) (hn : s.me.hart.nullified = true)
    (hsh : q.shape = true) : runVector q body s = .next (s.after q.st 0 (s.pc + 4)) := by
  unfold runVector runM
  rw [if_pos h.live, M.bind_of_ok (gate_runVector h q hp hsh), hn]
  simp [M.bind_get, done, complete_eq_after _ _ _ s h.noStep]

theorem clearKf_of_off {s : State} (h : s.me.hart.fm = false) : s.clearKf = s := by simp [State.clearKf, h]

/-- The completion of an instruction that wrote v registers. -/
theorem State.vecChange.completes {s t : State} (h : s.vecChange t) (hs : (s.me.hart.ss && !s.me.hart.prv) = false) (st : BitVec 3) :
    s.vecFrame (t.complete st 0 (s.pc + 4)) st s.me.hart.status ∧ (t.complete st 0 (s.pc + 4)).me.vec.v = t.me.vec.v := by
  have hc : t.complete st 0 (s.pc + 4) = t.after st 0 (s.pc + 4) := by
    apply complete_eq_after
    obtain ⟨_, _, _, _, _, _, _, rfl⟩ := h
    exact hs
  rw [hc]
  refine ⟨?_, rfl⟩
  obtain ⟨_, _, _, _, _, _, _, rfl⟩ := h
  unfold State.vecFrame State.after
  rw [Nat.max_zero]

end Sys2Proof.Machine
end

section
/-! The integer operations of the model on numbers of w bits, as operations on bit vectors (R46, R78, R124, R125). -/

namespace Sys2Proof.Machine

theorem two_pow_pred {w : Nat} (hw : 0 < w) : 2 ^ w = 2 * 2 ^ (w - 1) := by
  obtain ⟨n, rfl⟩ : ∃ n, w = n + 1 := ⟨w - 1, by omega⟩
  rw [Nat.add_sub_cancel, pow_succ]
  ring

theorem sextNat_toNat {w : Nat} (hw : 0 < w) (x : BitVec w) : sextNat w x.toNat = x.toInt := by
  have h := two_pow_pred hw
  unfold sextNat
  rw [Nat.mod_eq_of_lt x.isLt, BitVec.toInt_eq_toNat_cond]
  by_cases hx : x.toNat < 2 ^ (w - 1)
  · rw [if_pos hx, if_pos (by omega)]
  · rw [if_neg hx, if_neg (by omega)]

theorem ofIntBits_eq_toNat (w : Nat) (i : Int) : ofIntBits w i = (BitVec.ofInt w i).toNat := by
  rw [BitVec.toNat_ofInt]
  rfl

theorem ofIntBits_toInt {w : Nat} (x : BitVec w) : ofIntBits w x.toInt = x.toNat := by
  rw [ofIntBits_eq_toNat, BitVec.ofInt_toInt]

theorem clampInt_eq {lo hi : Int} (h : lo ≤ hi) (i : Int) : clampInt lo hi i = max lo (min hi i) := by
  unfold clampInt
  split_ifs <;> omega

theorem satS_eq_toNat {w : Nat} (i : Int) :
    satS w i = (BitVec.ofInt w (max (-2 ^ (w - 1)) (min (2 ^ (w - 1) - 1) i))).toNat := by
  have h : (0 : Int) < 2 ^ (w - 1) := by positivity
  unfold satS
  rw [clampInt_eq (by push_cast; omega), ofIntBits_eq_toNat]
  push_cast
  rfl

theorem satN_add (w x y : Nat) : satN w ((x : Int) + y) = min (2 ^ w - 1) (x + y) := by
  have h : 0 < 2 ^ w := by positivity
  unfold satN
  rw [clampInt_eq (by omega)]
  omega

theorem satN_sub {w x : Nat} (y : Nat) (hx : x < 2 ^ w) : satN w ((x : Int) - y) = x - y := by
  unfold satN
  rw [clampInt_eq (by omega)]
  omega

theorem mul_signed_high {w : Nat} (hw : 0 < w) (x y : BitVec w) :
    ofIntBits (2 * w) (sextNat w x.toNat * sextNat w y.toNat) / 2 ^ w % 2 ^ w =
      ((x.signExtend (2 * w) * y.signExtend (2 * w)).extractLsb' w w).toNat := by
  rw [BitVec.extractLsb'_toNat, Nat.shiftRight_eq_div_pow, sextNat_toNat hw, sextNat_toNat hw, ofIntBits_eq_toNat, BitVec.ofInt_mul]
  rfl

theorem mul_natural_high {w : Nat} (x y : BitVec w) :
    x.toNat * y.toNat / 2 ^ w % 2 ^ w = ((x.setWidth (2 * w) * y.setWidth (2 * w)).extractLsb' w w).toNat := by
  have hx : x.toNat < 2 ^ (2 * w) := lt_of_lt_of_le x.isLt (Nat.pow_le_pow_right (by omega) (by omega))
  have hy : y.toNat < 2 ^ (2 * w) := lt_of_lt_of_le y.isLt (Nat.pow_le_pow_right (by omega) (by omega))
  have hxy : x.toNat * y.toNat < 2 ^ (2 * w) := by
    rw [two_mul, pow_add]
    exact Nat.mul_lt_mul'' x.isLt y.isLt
  rw [BitVec.extractLsb'_toNat, Nat.shiftRight_eq_div_pow, BitVec.toNat_mul, BitVec.toNat_setWidth, BitVec.toNat_setWidth,
    Nat.mod_eq_of_lt hx, Nat.mod_eq_of_lt hy, Nat.mod_eq_of_lt hxy]

theorem shift_right_signed {w : Nat} (hw : 0 < w) (x : BitVec w) (n : Nat) :
    ofIntBits w (sextNat w x.toNat / (2 ^ n : Nat)) = (x.sshiftRight n).toNat := by
  rw [sextNat_toNat hw, ← ofIntBits_toInt, BitVec.toInt_sshiftRight, Int.shiftRight_eq_div_pow]

theorem shift_left_mod {w : Nat} (x : BitVec w) (n : Nat) : x.toNat * 2 ^ n % 2 ^ w = (x <<< n).toNat := by
  rw [BitVec.toNat_shiftLeft, Nat.shiftLeft_eq]

theorem shift_right_natural {w : Nat} (x : BitVec w) (n : Nat) : x.toNat / 2 ^ n = (x >>> n).toNat := by
  rw [BitVec.toNat_ushiftRight, Nat.shiftRight_eq_div_pow]

theorem min_signed {w : Nat} (hw : 0 < w) (x y : BitVec w) :
    (if sextNat w x.toNat ≤ sextNat w y.toNat then x.toNat else y.toNat) = (if y.slt x then y else x).toNat := by
  simp only [sextNat_toNat hw, BitVec.slt_iff_toInt_lt]
  by_cases h : x.toInt ≤ y.toInt
  · rw [if_pos h, if_neg (by omega)]
  · rw [if_neg h, if_pos (by omega)]

theorem max_signed {w : Nat} (hw : 0 < w) (x y : BitVec w) :
    (if sextNat w x.toNat ≤ sextNat w y.toNat then y.toNat else x.toNat) = (if x.slt y then y else x).toNat := by
  simp only [sextNat_toNat hw, BitVec.slt_iff_toInt_lt]
  by_cases h : x.toInt < y.toInt
  · rw [if_pos h, if_pos (by omega)]
  · rw [if_neg h]
    split_ifs with h'
    · rw [BitVec.eq_of_toInt_eq (show x.toInt = y.toInt by omega)]
    · rfl

theorem min_natural {w : Nat} (x y : BitVec w) : min x.toNat y.toNat = (if y.ult x then y else x).toNat := by
  simp only [BitVec.ult_iff_toNat_lt]
  split_ifs <;> omega

theorem max_natural {w : Nat} (x y : BitVec w) : max x.toNat y.toNat = (if x.ult y then y else x).toNat := by
  simp only [BitVec.ult_iff_toNat_lt]
  split_ifs <;> omega

theorem vdivS_toNat {w : Nat} (hw : 0 < w) (x y : BitVec w) :
    (vdivS w x.toNat y.toNat).1 = (if y = 0 then BitVec.allOnes w else x.sdiv y).toNat ∧
    (vdivS w x.toNat y.toNat).2 = (if y = 0 then x else x.srem y).toNat := by
  have h0 : y.toInt = 0 ↔ y = 0 := ⟨fun h => BitVec.eq_of_toInt_eq (by rw [h]; simp), fun h => by rw [h]; simp⟩
  unfold vdivS
  simp only [sextNat_toNat hw, h0]
  by_cases hy : y = 0
  · simp [hy]
  · rw [if_neg hy, if_neg hy, if_neg hy, ← ofIntBits_toInt (x.srem y), BitVec.toInt_srem, ofIntBits_eq_toNat]
    refine ⟨congrArg BitVec.toNat (BitVec.eq_of_toInt_eq ?_), rfl⟩
    rw [BitVec.toInt_ofInt, BitVec.toInt_sdiv]

theorem vdivN_toNat {w : Nat} (x y : BitVec w) :
    (vdivN w x.toNat y.toNat).1 = (if y = 0 then BitVec.allOnes w else x / y).toNat ∧
    (vdivN w x.toNat y.toNat).2 = (if y = 0 then x else x % y).toNat := by
  have h0 : y.toNat = 0 ↔ y = 0 := by rw [← BitVec.toNat_inj]; simp
  unfold vdivN
  simp only [h0]
  by_cases hy : y = 0
  · simp [hy]
  · simp only [if_neg hy]
    exact ⟨(BitVec.toNat_udiv ..).symm, (BitVec.toNat_umod ..).symm⟩

theorem sub_mod_pow {w : Nat} (x y : BitVec w) : (x.toNat + 2 ^ w - y.toNat) % 2 ^ w = (x - y).toNat := by
  have := y.isLt
  rw [BitVec.toNat_sub]
  congr 1
  omega

/-- A sign-extended immediate of 5 bits as a number of w bits. -/
theorem sextNat_imm5 (i : BitVec 5) : sextNat 5 i.toNat = i.toInt := sextNat_toNat (by omega) i

theorem ofIntBits_imm5 (w : Nat) (i : BitVec 5) : ofIntBits w (sextNat 5 i.toNat) = (i.signExtend w).toNat := by
  rw [sextNat_imm5, ofIntBits_eq_toNat]
  rfl

theorem add_imm5 {w : Nat} (x : BitVec w) (i : BitVec 5) :
    ofIntBits w ((x.toNat : Int) + sextNat 5 i.toNat) = (x + i.signExtend w).toNat := by
  rw [sextNat_imm5, ofIntBits_eq_toNat, BitVec.ofInt_add, BitVec.ofInt_natCast, BitVec.ofNat_toNat, BitVec.setWidth_eq]
  rfl

theorem imm5_sub {w : Nat} (x : BitVec w) (i : BitVec 5) :
    ofIntBits w (sextNat 5 i.toNat - (x.toNat : Int)) = (i.signExtend w - x).toNat := by
  rw [sextNat_imm5, ofIntBits_eq_toNat, Int.sub_eq_add_neg, BitVec.ofInt_add, BitVec.ofInt_neg, BitVec.ofInt_natCast,
    BitVec.ofNat_toNat, BitVec.setWidth_eq, BitVec.sub_eq_add_neg]
  rfl

theorem mul_accumulate {w : Nat} (z x y : BitVec w) :
    (z.toNat + x.toNat * y.toNat) % 2 ^ w = (z + x * y).toNat := by
  rw [BitVec.toNat_add, BitVec.toNat_mul, Nat.add_mod_mod]

theorem mul_subtract {w : Nat} (z x y : BitVec w) :
    (z.toNat + (2 ^ (2 * w) - x.toNat * y.toNat)) % 2 ^ w = (z - x * y).toNat := by
  obtain ⟨N, hN⟩ : ∃ N, N = 2 ^ w := ⟨_, rfl⟩
  obtain ⟨p, hp⟩ : ∃ p, p = x.toNat * y.toNat := ⟨_, rfl⟩
  have hlt : p < N * N := by rw [hp, hN]; exact Nat.mul_lt_mul'' x.isLt y.isLt
  have hpos : 0 < N := by rw [hN]; positivity
  have hr : p % N < N := Nat.mod_lt _ hpos
  obtain ⟨m, hm⟩ : ∃ m, N = p / N + 1 + m := ⟨N - (p / N + 1), by have := Nat.div_lt_of_lt_mul hlt; omega⟩
  have hsq : N * N = N * (p / N) + N + N * m := by
    calc N * N = N * (p / N + 1 + m) := by rw [← hm]
      _ = N * (p / N) + N + N * m := by ring
  have hdiv := Nat.div_add_mod p N
  rw [BitVec.toNat_sub, BitVec.toNat_mul, ← hp, two_mul, pow_add, ← hN,
    show z.toNat + (N * N - p) = N - p % N + z.toNat + N * m by omega, Nat.add_mul_mod_self_left]

end Sys2Proof.Machine
end

section
/-! Element-wise instructions that write a v register without flags (R122). -/

namespace Sys2Proof.Machine

theorem actives_nil {s : State} (k : BitVec 3) (h : ¬s.es < s.me.vec.vl.toNat) : s.actives k s.es = [] := by
  apply List.eq_nil_iff_forall_not_mem.mpr
  intro i hi
  have := mem_actives.mp hi
  omega

theorem enabled_nil {s : State} (k : BitVec 3) (h : ¬s.es < s.me.vec.vl.toNat) : s.enabled k s.es = [] := by
  apply List.eq_nil_iff_forall_not_mem.mpr
  intro i hi
  have := mem_enabled.mp hi
  omega

/-- t is s with values written to some elements of v[d] and of its PFX copy (R60, R122). -/
structure State.elemsWritten (s t : State) (d : BitVec 5) (els : List Nat) (f : Nat → Nat) : Prop where
  change : s.vecChange t
  regs : ∀ n : BitVec 5, t.me.vec.v[n.toNat] =
    if n = d ∨ s.copyV d = some n then
      setElems s.me.vec.grant s.me.vec.width (els.map fun i => (i, f i)) s.me.vec.v[n.toNat]
    else s.me.vec.v[n.toNat]

theorem State.elemsWritten.nil (s : State) (d : BitVec 5) (f : Nat → Nat) : s.elemsWritten s d [] f :=
  ⟨.refl s, fun n => by simp [setElems]⟩

theorem State.elemsWritten.of_frees {s t u : State} {d : BitVec 5} {els : List Nat} {f : Nat → Nat} (h : s.elemsWritten t d els f)
    (hu : t.frees u) : s.elemsWritten u d els f := by
  refine ⟨h.change.trans hu.vecChange, ?_⟩
  obtain ⟨_, _, rfl, -⟩ := hu
  exact h.regs

theorem State.vecChange.others {s t : State} (h : s.vecChange t) : t.others = s.others := by
  obtain ⟨_, _, _, _, _, _, _, rfl⟩ := h; rfl

theorem State.vecChange.streams {s t : State} (h : s.vecChange t) : t.me.vec.streams = s.me.vec.streams := by
  obtain ⟨_, _, _, _, _, _, _, rfl⟩ := h; rfl

/-- A run over elements that each give a value, with the writes of the register. -/
theorem elementwise_putElems {s : State} {F : Nat → M (Nat × Flags)} {f : Nat → Nat} {els : List Nat} (d : BitVec 5) (lat : Nat)
    (fixed : Bool) (h : ∀ i ∈ els, F i s = (.ok (f i, 0), s)) :
    ∃ t, elementwise els F (fun l => putElems d s.me.vec.width l lat fixed) s = (.ok 0, t) ∧ s.elemsWritten t d els f := by
  refine ⟨_, elementwise_pure h (putElems_eq ..), ?_⟩
  obtain ⟨h1, h2⟩ := State.putV_spec d s.me.vec.width (els.map fun i => (i, f i)) lat fixed s
  exact ⟨h1.count 6 els.length, h2⟩

/-- A reusable element-wise run, where nothing could be reused. -/
theorem reusable_elementwise {s : State} (hi : s.reuseIdle) {F : Nat → M (Nat × Flags)} {f : Nat → Nat} {els : List Nat}
    (q : ReuseReq) (d : BitVec 5) (lat : Nat) (fixed : Bool) (h : ∀ i ∈ els, F i s = (.ok (f i, 0), s)) :
    ∃ t, reusable q lat fixed (do
        let fl ← elementwise els F (fun l => putElems d s.me.vec.width l lat fixed)
        pure (some (fl, none))) s = (.ok (), t) ∧ s.elemsWritten t d els f := by
  obtain ⟨t, ht, hw⟩ := elementwise_putElems d lat fixed h
  have run : (do
      let fl ← elementwise els F (fun l => putElems d s.me.vec.width l lat fixed)
      pure (some (fl, none)) : M (Option (Flags × Option LoadRecord))) s = (.ok (some (0, none)), t) := by
    rw [M.bind_of_ok ht]
    rfl
  obtain ⟨u, hu, hf⟩ := reusable_of_idle (lat := lat) (fixed := fixed) (q := q) hi hw.change.others run
  exact ⟨u, hu, hw.of_frees hf⟩

/-- The run of an element-wise computation in s, as reuse takes it (R122, R255). -/
def VArith.run (q : VArith) (f : State → Nat → List Nat → Nat × Flags) (s : State) : M (Option (Flags × Option LoadRecord)) := do
  let fl ← elementwise (s.actives q.k s.es) (fun i => do
    let (vs, fl) ← srcElems s.me.vec.width i (q.srcs ++ if q.old then [q.d] else [])
    let (r, g) := f s s.me.vec.width vs
    pure (r, fl ||| g)) (fun l => putElems q.d s.me.vec.width l (q.lat (stepsRun s.me.vec.grant (s.actives q.k s.es))) q.fixed)
  pure (some (fl, none))

/-- What an element-wise computation puts into its key (R256). -/
def VArith.request (q : VArith) : ReuseReq := { op := q.op, srcs := q.srcs, dst := q.d, readsDst := q.old, xs := q.xs, k := q.k }

/-- An element of a computation that gives a value without flags. -/
theorem VArith.elem_eq {s : State} (h : s.vectorRuns) (q : VArith) {f : State → Nat → List Nat → Nat × Flags} {g : List Nat → Nat}
    {els : List Nat} (hf : ∀ l, f s s.me.vec.width l = (g l, 0)) : ∀ i ∈ els, (do
      let (vs, fl) ← srcElems s.me.vec.width i (q.srcs ++ if q.old then [q.d] else [])
      let (r, g) := f s s.me.vec.width vs
      pure (r, fl ||| g) : M (Nat × Flags)) s =
        (.ok (g ((q.srcs ++ if q.old then [q.d] else []).map fun n => s.elem n i), 0), s) := by
  intro i _
  rw [M.bind_of_ok (srcElems_of_unbound h.streams h.overrides ..)]
  simp only [hf]
  rfl

/-- A reusable element-wise computation with elements to process: its reuse or its run, then the end of a fault mask and its completion. -/
theorem vArith_of_reusable {s t : State} (h : s.vectorRuns) (q : VArith) (f : State → Nat → List Nat → Nat × Flags)
    (hp : s.me.hart.pairs { st := q.st, dst := .v q.d } = true) (hn : s.me.hart.nullified = false) (hsh : q.shape = true)
    (hr : q.reuse = true) (hb : s.es < s.me.vec.vl.toNat)
    (ht : reusable q.request (q.lat (stepsRun s.me.vec.grant (s.actives q.k s.es))) q.fixed (q.run f s) s = (.ok (), t))
    (hst : t.me.vec.streams = []) : vArith q f s = .next (t.clearKf.complete q.st 0 (s.pc + 4)) := by
  unfold vArith
  simp only [hr, if_true]
  exact runVector_runs h _ _ hp hn hsh (fun _ => (M.bind_get _ s).trans ht) (fun hb' => absurd (.inr hb) hb') hst

/-- What an element-wise computation leaves before its completion (R122). -/
theorem vArith_runs {s : State} (h : s.vectorRuns) (hi : s.reuseIdle) (q : VArith) (f : State → Nat → List Nat → Nat × Flags)
    (g : List Nat → Nat) (hp : s.me.hart.pairs { st := q.st, dst := .v q.d } = true) (hn : s.me.hart.nullified = false)
    (hsh : q.shape = true) (hr : q.reuse = true) (hf : ∀ l, f s s.me.vec.width l = (g l, 0)) :
    ∃ t, vArith q f s = .next (t.clearKf.complete q.st 0 (s.pc + 4)) ∧
      s.elemsWritten t q.d (s.actives q.k s.es) fun i => g ((q.srcs ++ if q.old then [q.d] else []).map fun n => s.elem n i) := by
  obtain ⟨t, ht, hw⟩ := reusable_elementwise hi q.request q.d (q.lat (stepsRun s.me.vec.grant (s.actives q.k s.es))) q.fixed
    (VArith.elem_eq h q hf)
  by_cases hb : s.es < s.me.vec.vl.toNat
  · exact ⟨t, vArith_of_reusable h q f hp hn hsh hr hb ht (hw.change.streams.trans h.streams), hw⟩
  · refine ⟨s, ?_, actives_nil q.k hb ▸ .nil s q.d _⟩
    unfold vArith
    exact runVector_runs h _ _ hp hn hsh (fun hb' => absurd hb' (by simp [hb])) (fun _ => rfl) h.streams

end Sys2Proof.Machine
end

section
/-! Vector integer instructions (R122, R124, R125, R129). -/

namespace Sys2Proof.Machine
open Sys2Proof.Cert

theorem pairs_of_noPfx {s : State} (hv : s.me.hart.pv = false) (q : Req) : s.me.hart.pairs q = true := by
  simp [Hart.pairs, hv]

theorem nullified_of_noPfx {s : State} (hv : s.me.hart.pv = false) : s.me.hart.nullified = false := by
  simp [Hart.nullified, hv]

theorem copyV_of_noPfx {s : State} (hv : s.me.hart.pv = false) (d : BitVec 5) : s.copyV d = none := by
  simp [State.copyV, Hart.copyReg, hv]

theorem State.vectorReady.plain {s : State} (h : s.vectorReady) :
    s.me.hart.pv = false ∧ s.me.hart.fm = false ∧ s.reuseIdle ∧ s.interruptAhead = none := by
  obtain ⟨⟨⟨-, -, -, hv, -⟩, -, -, -, -, -, hf, hr, hi⟩, -⟩ := h
  exact ⟨hv, hf, reuseIdle_of_freeAllRegs hr, hi⟩

theorem State.vecChange.fm {s t : State} (h : s.vecChange t) : t.me.hart.fm = s.me.hart.fm := by
  obtain ⟨_, _, _, _, _, _, _, rfl⟩ := h; rfl

/-- The registers outside those written are kept. -/
theorem State.elemsWritten.keepsV {s t : State} {d : BitVec 5} {els : List Nat} {f : Nat → Nat} (h : s.elemsWritten t d els f) :
    s.keepsV t (d :: (s.copyV d).toList) := by
  intro n hn
  rw [h.regs n, if_neg]
  rintro (rfl | hc)
  · simp at hn
  · simp [hc] at hn

/-- The elements of a register written. -/
theorem State.elemsWritten.becomes {s t : State} {d e : BitVec 5} {els : List Nat} {f : Nat → Nat} (h : s.elemsWritten t d els f)
    (hr : s.vectorRuns) (he : e = d ∨ s.copyV d = some e) {p : Nat → Prop} (hp : ∀ i, i ∈ els ↔ p i)
    (hl : ∀ i, p i → i < s.me.vec.vl.toNat) : s.elemsBecome t e s.me.vec.width p f :=
  elemsBecome_of_setElems hr (by rw [h.regs e, if_pos he]) hp hl

theorem elemsBecome_congr {s t : State} {d : BitVec 5} {w : Nat} {p : Nat → Prop} {f g : Nat → Nat} (h : s.elemsBecome t d w p f)
    (hfg : ∀ i, p i → f i % 2 ^ w = g i % 2 ^ w) : s.elemsBecome t d w p g :=
  fun i hi => ⟨fun hp => (h i hi).1 hp |>.trans (hfg i hp), (h i hi).2⟩

theorem elemsBecome_of_v_eq {s t u : State} {d : BitVec 5} {w : Nat} {p : Nat → Prop} {f : Nat → Nat} (h : s.elemsBecome t d w p f)
    (hv : u.me.vec.v = t.me.vec.v) : s.elemsBecome u d w p f := by
  intro i hi
  rw [hv]
  exact h i hi

theorem keepsV_of_v_eq {s t u : State} {ds : List (BitVec 5)} (h : s.keepsV t ds) (hv : u.me.vec.v = t.me.vec.v) : s.keepsV u ds := by
  intro n hn
  rw [hv]
  exact h n hn

/-- The completion of an instruction that wrote the active elements of v[d]. -/
theorem vecGives_of_elemsWritten {s t : State} (h : s.vectorReady) {i : Instr} {st : BitVec 3} {d : BitVec 5} {els : List Nat}
    {p : Nat → Prop} {f g : Nat → Nat} (hx : exec i s = .next (t.clearKf.complete st 0 (s.pc + 4))) (hw : s.elemsWritten t d els f)
    (hp : ∀ i, i ∈ els ↔ p i) (hl : ∀ i, p i → i < s.me.vec.vl.toNat)
    (hfg : ∀ i, p i → f i % 2 ^ s.me.vec.width = g i % 2 ^ s.me.vec.width) : vecGives s i st d s.me.vec.width p g := by
  obtain ⟨hv, hf, -, -⟩ := h.plain
  rw [clearKf_of_off (hw.change.fm.trans hf)] at hx
  obtain ⟨hframe, hvec⟩ := hw.change.completes h.runs.noStep st
  have keeps := hw.keepsV
  rw [copyV_of_noPfx hv] at keeps
  have becomes := elemsBecome_congr (hw.becomes h.runs (.inl rfl) hp hl) hfg
  exact ⟨_, hx, elemsBecome_of_v_eq becomes hvec, keepsV_of_v_eq keeps hvec, hframe⟩

theorem elem_lt (s : State) (n : BitVec 5) (i : Nat) : s.elem n i < 2 ^ s.me.vec.width := getElem_lt ..

theorem toNat_elem (s : State) (n : BitVec 5) (i : Nat) : (BitVec.ofNat s.me.vec.width (s.elem n i)).toNat = s.elem n i := by
  rw [BitVec.toNat_ofNat, Nat.mod_eq_of_lt (elem_lt s n i)]

/-- An element-wise computation of a ready hart gives its function of the elements (R122). -/
theorem vecGives_vArith {s : State} (h : s.vectorReady) {i : Instr} (q : VArith) {f : State → Nat → List Nat → Nat × Flags}
    (g : List Nat → Nat) (hx : exec i s = vArith q f s) (hsh : q.shape = true) (hr : q.reuse = true)
    (hf : ∀ l, f s s.me.vec.width l = (g l, 0)) {v : Nat → Nat}
    (hv : ∀ n, g ((q.srcs ++ if q.old then [q.d] else []).map fun r => s.elem r n) % 2 ^ s.me.vec.width = v n % 2 ^ s.me.vec.width) :
    vecGives s i q.st q.d s.me.vec.width (s.active q.k) v := by
  obtain ⟨hpv, hfm, hidle, -⟩ := h.plain
  obtain ⟨t, ht, hw⟩ := vArith_runs h.runs hidle q f g (pairs_of_noPfx hpv _) (nullified_of_noPfx hpv) hsh hr hf
  exact vecGives_of_elemsWritten h (hx.trans ht) hw (fun _ => mem_actives_iff_active hfm hpv) (fun _ hp => hp.2.1) fun n _ => hv n

/-- A vector integer instruction of two sources gives an operation of bit vectors, where its function of numbers is that modulo 2^w. -/
theorem vec2_vInt2 {s : State} (h : s.vectorReady) (h8 : 8 ≤ s.me.vec.width) {i : Instr} {op : Nat} {st : BitVec 3} {d a b : BitVec 5}
    {k : BitVec 3} {f : Nat → Nat → Nat → Nat} {g : (w : Nat) → BitVec w → BitVec w → BitVec w}
    (hx : exec i s = vInt2 op st d a b k f s ∨ exec i s = vDiv2 op st d a b k f s)
    (hf : ∀ (w : Nat), 0 < w → ∀ x y : BitVec w, f w x.toNat y.toNat % 2 ^ w = (g w x y).toNat) : vec2 s i st d a b k g := by
  have value : ∀ n, f s.me.vec.width (s.elem a n) (s.elem b n) % 2 ^ s.me.vec.width % 2 ^ s.me.vec.width =
      (g s.me.vec.width (BitVec.ofNat _ (s.elem a n)) (BitVec.ofNat _ (s.elem b n))).toNat % 2 ^ s.me.vec.width := fun n => by
    rw [← hf _ (by omega), toNat_elem, toNat_elem, Nat.mod_mod]
  unfold vInt2 vDiv2 at hx
  rcases hx with hx | hx
  all_goals
    exact vecGives_vArith h _ (fun l => f s.me.vec.width (l.getD 0 0) (l.getD 1 0) % 2 ^ s.me.vec.width) hx (decide_eq_true h8) rfl
      (fun _ => rfl) value

/-- A vector integer instruction with an immediate (R125). -/
theorem vecGives_vIntImm {s : State} (h : s.vectorReady) (h8 : 8 ≤ s.me.vec.width) {j : Instr} {op : Nat} {st : BitVec 3}
    {d a i : BitVec 5} {k : BitVec 3} {f : Nat → Nat → Nat} {g : BitVec s.me.vec.width → BitVec s.me.vec.width}
    (hx : exec j s = vIntImm op st d a i k f s)
    (hf : ∀ x : BitVec s.me.vec.width, f s.me.vec.width x.toNat % 2 ^ s.me.vec.width = (g x).toNat) :
    vecGives s j st d s.me.vec.width (s.active k) fun n => (g (BitVec.ofNat s.me.vec.width (s.elem a n))).toNat := by
  have value : ∀ n, f s.me.vec.width (s.elem a n) % 2 ^ s.me.vec.width % 2 ^ s.me.vec.width =
      (g (BitVec.ofNat _ (s.elem a n))).toNat % 2 ^ s.me.vec.width := fun n => by
    rw [← hf, toNat_elem, Nat.mod_mod]
  unfold vIntImm at hx
  exact vecGives_vArith h _ (fun l => f s.me.vec.width (l.getD 0 0) % 2 ^ s.me.vec.width) hx (decide_eq_true h8) rfl
    (fun _ => rfl) value

/-- A multiply-accumulate instruction, whose third operand is the old v[d] (R129). -/
theorem vecGives_vMacOp {s : State} (h : s.vectorReady) (h8 : 8 ≤ s.me.vec.width) {j : Instr} {op : Nat} {st : BitVec 3}
    {d a b : BitVec 5} {k : BitVec 3} (neg : Bool) (hx : exec j s = vMacOp op st d a b k neg s) :
    vecGives s j st d s.me.vec.width (s.active k) fun n =>
      (if neg then BitVec.ofNat s.me.vec.width (s.elem d n) - BitVec.ofNat _ (s.elem a n) * BitVec.ofNat _ (s.elem b n)
       else BitVec.ofNat s.me.vec.width (s.elem d n) + BitVec.ofNat _ (s.elem a n) * BitVec.ofNat _ (s.elem b n)).toNat := by
  unfold vMacOp at hx
  refine vecGives_vArith h _ (fun v => (v.getD 2 0 + (if neg then 2 ^ (2 * s.me.vec.width) - v.getD 0 0 * v.getD 1 0
    else v.getD 0 0 * v.getD 1 0)) % 2 ^ s.me.vec.width) hx (decide_eq_true h8) rfl (fun _ => rfl) fun n => ?_
  cases neg
  · show (s.elem d n + s.elem a n * s.elem b n) % 2 ^ s.me.vec.width % _ =
      (BitVec.ofNat s.me.vec.width (s.elem d n) + BitVec.ofNat _ (s.elem a n) * BitVec.ofNat _ (s.elem b n)).toNat % _
    rw [← mul_accumulate, toNat_elem, toNat_elem, toNat_elem]
  · show (s.elem d n + (_ - s.elem a n * s.elem b n)) % 2 ^ s.me.vec.width % _ =
      (BitVec.ofNat s.me.vec.width (s.elem d n) - BitVec.ofNat _ (s.elem a n) * BitVec.ofNat _ (s.elem b n)).toNat % _
    rw [← mul_subtract, toNat_elem, toNat_elem, toNat_elem]

end Sys2Proof.Machine

namespace Sys2Proof.Proofs
open Sys2Proof.Machine Sys2Proof.Cert

theorem vectorIntegerResults : Cert.vectorIntegerResults := by
  intro s st d a b k h h8 gives
  have lt : ∀ {w : Nat} (x : BitVec w), x.toNat % 2 ^ w = x.toNat := fun x => Nat.mod_eq_of_lt x.isLt
  refine ⟨?_, ?_, ?_, ?_, ?_, ?_, ?_, ?_, ?_, ?_, ?_, ?_, ?_, ?_, ?_, ?_, ?_, ?_, ?_, ?_, ?_, ?_, ?_⟩
  · exact vec2_vInt2 h h8 (.inl (rfl : _ = execVadd st d a b k s)) fun _ _ x y => (BitVec.toNat_add x y).symm
  · exact vec2_vInt2 h h8 (.inl (rfl : _ = execVsub st d a b k s)) fun _ _ x y => sub_mod_pow x y
  · exact vec2_vInt2 h h8 (.inl (rfl : _ = execVaddSI st d a b k s)) fun _ hw x y => by
      rw [satS_eq_toNat, sextNat_toNat hw, sextNat_toNat hw, lt]
  · exact vec2_vInt2 h h8 (.inl (rfl : _ = execVaddSN st d a b k s)) fun _ _ x y => by rw [satN_add, BitVec.toNat_ofNat]
  · exact vec2_vInt2 h h8 (.inl (rfl : _ = execVsubSI st d a b k s)) fun _ hw x y => by
      rw [satS_eq_toNat, sextNat_toNat hw, sextNat_toNat hw, lt]
  · exact vec2_vInt2 h h8 (.inl (rfl : _ = execVsubSN st d a b k s)) fun _ _ x y => by rw [satN_sub _ x.isLt, BitVec.toNat_ofNat]
  · exact vec2_vInt2 h h8 (.inl (rfl : _ = execVmul st d a b k s)) fun _ _ x y => (BitVec.toNat_mul x y).symm
  · exact vec2_vInt2 h h8 (.inl (rfl : _ = execVmulh st d a b k s)) fun _ hw x y => mul_signed_high hw x y
  · exact vec2_vInt2 h h8 (.inl (rfl : _ = execVmulhn st d a b k s)) fun _ _ x y => mul_natural_high x y
  · exact vec2_vInt2 h h8 (.inl (rfl : _ = execVand st d a b k s)) fun _ _ x y => by rw [← BitVec.toNat_and, lt]
  · exact vec2_vInt2 h h8 (.inl (rfl : _ = execVor st d a b k s)) fun _ _ x y => by rw [← BitVec.toNat_or, lt]
  · exact vec2_vInt2 h h8 (.inl (rfl : _ = execVxor st d a b k s)) fun _ _ x y => by rw [← BitVec.toNat_xor, lt]
  · exact vec2_vInt2 h h8 (.inl (rfl : _ = execVsll st d a b k s)) fun _ _ x y => shift_left_mod x _
  · exact vec2_vInt2 h h8 (.inl (rfl : _ = execVsrl st d a b k s)) fun _ _ x y => by rw [shift_right_natural, lt]
  · exact vec2_vInt2 h h8 (.inl (rfl : _ = execVsra st d a b k s)) fun _ hw x y => by rw [shift_right_signed hw, lt]
  · exact vec2_vInt2 h h8 (.inl (rfl : _ = execVmin st d a b k s)) fun _ hw x y => by rw [min_signed hw, lt]
  · exact vec2_vInt2 h h8 (.inl (rfl : _ = execVmax st d a b k s)) fun _ hw x y => by rw [max_signed hw, lt]
  · exact vec2_vInt2 h h8 (.inl (rfl : _ = execVminn st d a b k s)) fun _ _ x y => by rw [min_natural, lt]
  · exact vec2_vInt2 h h8 (.inl (rfl : _ = execVmaxn st d a b k s)) fun _ _ x y => by rw [max_natural, lt]
  · exact vec2_vInt2 h h8 (.inr (rfl : _ = execVdiv st d a b k s)) fun _ hw x y => by rw [(vdivS_toNat hw x y).1, lt]
  · exact vec2_vInt2 h h8 (.inr (rfl : _ = execVdivn st d a b k s)) fun _ _ x y => by rw [(vdivN_toNat x y).1, lt]
  · exact vec2_vInt2 h h8 (.inr (rfl : _ = execVrem st d a b k s)) fun _ hw x y => by rw [(vdivS_toNat hw x y).2, lt]
  · exact vec2_vInt2 h h8 (.inr (rfl : _ = execVremn st d a b k s)) fun _ _ x y => by rw [(vdivN_toNat x y).2, lt]

theorem vectorImmediateAndAccumulateResults : Cert.vectorImmediateAndAccumulateResults := by
  intro s st d a b i k h h8 w gives adds
  have lt : ∀ x : BitVec w, x.toNat % 2 ^ w = x.toNat := fun x => Nat.mod_eq_of_lt x.isLt
  have hw : 0 < w := by omega
  refine ⟨?_, ?_, ?_, ?_, ?_, ?_, ?_, ?_, ?_, ?_⟩
  · exact vecGives_vIntImm (j := .vaddi st d a i k) (g := fun x => x + i.signExtend w) h h8
      (rfl : _ = execVaddi st d a i k s) fun x => by rw [add_imm5, lt]
  · exact vecGives_vIntImm (j := .vrsubi st d a i k) (g := fun x => i.signExtend w - x) h h8
      (rfl : _ = execVrsubi st d a i k s) fun x => by rw [imm5_sub, lt]
  · exact vecGives_vIntImm (j := .vandi st d a i k) (g := fun x => x &&& i.signExtend w) h h8
      (rfl : _ = execVandi st d a i k s) fun x => by rw [ofIntBits_imm5, ← BitVec.toNat_and, lt]
  · exact vecGives_vIntImm (j := .vori st d a i k) (g := fun x => x ||| i.signExtend w) h h8
      (rfl : _ = execVori st d a i k s) fun x => by rw [ofIntBits_imm5, ← BitVec.toNat_or, lt]
  · exact vecGives_vIntImm (j := .vxori st d a i k) (g := fun x => x ^^^ i.signExtend w) h h8
      (rfl : _ = execVxori st d a i k s) fun x => by rw [ofIntBits_imm5, ← BitVec.toNat_xor, lt]
  · exact vecGives_vIntImm (j := .vslli st d a i k) (g := fun x => x <<< (i.toNat % w)) h h8
      (rfl : _ = execVslli st d a i k s) fun x => shift_left_mod x _
  · exact vecGives_vIntImm (j := .vsrli st d a i k) (g := fun x => x >>> (i.toNat % w)) h h8
      (rfl : _ = execVsrli st d a i k s) fun x => by rw [shift_right_natural, lt]
  · exact vecGives_vIntImm (j := .vsrai st d a i k) (g := fun x => x.sshiftRight (i.toNat % w)) h h8
      (rfl : _ = execVsrai st d a i k s) fun x => by rw [shift_right_signed hw, lt]
  · exact vecGives_vMacOp (j := .vmac st d a b k) h h8 false (rfl : _ = execVmac st d a b k s)
  · exact vecGives_vMacOp (j := .vnmsac st d a b k) h h8 true (rfl : _ = execVnmsac st d a b k s)

end Sys2Proof.Proofs
end

section
/-! Vector instructions under a fault mask (R19, R140). -/

namespace Sys2Proof.Machine
open Sys2Proof.Cert

/-- What vsel leaves before its completion: kf and status.fm are neither heeded nor cleared (R140). -/
theorem vsel_runs {s : State} (h : s.vectorRuns) (hi : s.reuseIdle) (hpv : s.me.hart.pv = false) (st : BitVec 3) (d a b : BitVec 5)
    (k : BitVec 3) :
    ∃ t, exec (.vsel st d a b k) s = .next (t.complete st 0 (s.pc + 4)) ∧
      s.elemsWritten t d (s.enabled 0 s.es) fun i => if (s.rK k).getLsbD i then s.elem a i else s.elem b i := by
  obtain ⟨t, ht, hw⟩ := reusable_elementwise hi (els := s.enabled 0 s.es)
    (F := fun i => do
      let (l, fl) ← srcElems s.me.vec.width i [a, b]
      pure (l.getD (if (s.rK k).getLsbD i then 0 else 1) 0, fl))
    { op := 0x2D10, srcs := [a, b], dst := d, readsDst := false, xs := [], k := k, selects := true } d 3 true
    (f := fun i => if (s.rK k).getLsbD i then s.elem a i else s.elem b i)
    (fun i _ => by
      rw [M.bind_of_ok (srcElems_of_unbound h.streams h.overrides ..)]
      cases hb : (s.rK k).getLsbD i <;> simp [State.elem])
  by_cases hb : s.es < s.me.vec.vl.toNat
  · refine ⟨t, ?_, hw⟩
    show execVsel st d a b k s = _
    exact runVector_runs h _ _ (pairs_of_noPfx hpv _) (nullified_of_noPfx hpv) rfl (fun _ => (M.bind_get _ s).trans ht)
      (fun hb' => absurd (.inr hb) hb') (hw.change.streams.trans h.streams)
  · refine ⟨s, ?_, enabled_nil 0 hb ▸ .nil s d _⟩
    show execVsel st d a b k s = _
    exact runVector_runs h _ _ (pairs_of_noPfx hpv _) (nullified_of_noPfx hpv) rfl (fun hb' => absurd hb' (by simp [hb]))
      (fun _ => rfl) h.streams

/-- s without the mark of a fault mask runs vector instructions as s does. -/
theorem State.vectorRuns_of_unmasked {s : State} (h : (unmasked s).vectorReady) :
    s.vectorRuns ∧ s.reuseIdle ∧ s.me.hart.pv = false ∧ s.interruptAhead = none := by
  obtain ⟨hv, -, hi, ha⟩ := h.plain
  obtain ⟨hl, hp, ho, hs, hd, hg1, hg2, hvill, hill, hst⟩ := h.runs
  have bit : ∀ i, i ≠ 24 → (setField s.me.hart.status 24 1 0).getLsbD i = s.me.hart.status.getLsbD i := fun i hi => by
    rw [getLsbD_setField, if_neg (by omega)]
  have hprv : (unmasked s).me.hart.prv = s.me.hart.prv := bit 15 (by omega)
  have hss : (unmasked s).me.hart.ss = s.me.hart.ss := bit 19 (by omega)
  have hru : (unmasked s).me.hart.ru = s.me.hart.ru := bit 1 (by omega)
  have hden : (unmasked s).vecDenied = s.vecDenied := by
    show (!s.owns && (s.me.vec.lz || !(unmasked s).me.hart.prv)) = _
    rw [hprv]
    rfl
  have hahead : (unmasked s).interruptAhead = s.interruptAhead := by
    have hie : (unmasked s).me.hart.ie = s.me.hart.ie := bit 17 (by omega)
    have hme : (unmasked s).me.hart.me = s.me.hart.me := bit 23 (by omega)
    unfold State.interruptAhead State.interrupts
    simp only [hie, hme]
    rfl
  rw [hss, hprv] at hs
  exact ⟨⟨hl, hp, ho, hs, hden ▸ hd, hg1, hg2, hvill, hill, hst⟩, hi.imp_left (hru ▸ ·), hv, hahead ▸ ha⟩

/-- The completion of an instruction of R19's kinds under a fault mask, which ends it. -/
theorem State.vecChange.completes_masked {s t : State} (h : s.vecChange t) (hs : (s.me.hart.ss && !s.me.hart.prv) = false)
    (hfm : s.me.hart.fm = true) (st : BitVec 3) :
    let u := t.clearKf.complete st 0 (s.pc + 4)
    u.pc = s.pc + 4 ∧ u.es = 0 ∧ u.mem = s.mem ∧ u.tags = s.tags ∧ u.me.hart.x = s.me.hart.x ∧ u.me.vec.k = s.me.vec.k ∧
      u.me.vec.kf = 0 ∧ u.me.hart.status = setField s.me.hart.status 24 1 0 ∧ u.me.vec.v = t.me.vec.v := by
  have hft : t.me.hart.fm = true := h.fm.trans hfm
  obtain ⟨f, pend, cnt, v, phys, r, dirty, rfl⟩ := h
  unfold State.clearKf
  rw [if_pos hft, complete_eq_after]
  · exact ⟨rfl, rfl, rfl, rfl, rfl, rfl, rfl, rfl, rfl⟩
  · have bit : ∀ i, i ≠ 24 → (setField s.me.hart.status 24 1 0).getLsbD i = s.me.hart.status.getLsbD i := fun i hi => by
      rw [getLsbD_setField, if_neg (by omega)]
    show ((setField s.me.hart.status 24 1 0).getLsbD 19 && !(setField s.me.hart.status 24 1 0).getLsbD 15) = false
    rw [bit 19 (by omega), bit 15 (by omega)]
    exact hs

end Sys2Proof.Machine

namespace Sys2Proof.Proofs
open Sys2Proof.Machine Sys2Proof.Cert

theorem restrictedByFaultMask : Cert.restrictedByFaultMask := by
  intro s st d a b k h hfm w
  obtain ⟨hr, hi, hpv, -⟩ := State.vectorRuns_of_unmasked h
  refine ⟨fun h8 => ?_, ?_⟩
  · obtain ⟨t, ht, hw⟩ := vArith_runs hr hi
      { op := 0x2500, st := st, d := d, k := k, srcs := [a, b], shape := decide (8 ≤ s.me.vec.width), lat := fun _ => 3,
        fixed := true } (fun _ w l => ((l.getD 0 0 + l.getD 1 0) % 2 ^ w, 0)) (fun l => (l.getD 0 0 + l.getD 1 0) % 2 ^ s.me.vec.width)
      (pairs_of_noPfx hpv _) (nullified_of_noPfx hpv) (decide_eq_true h8) rfl (fun _ => rfl)
    obtain ⟨hpc, -, hmem, -, hx, -, hkf, hst, hv⟩ := hw.change.completes_masked hr.noStep hfm st
    have keeps := hw.keepsV
    rw [copyV_of_noPfx hpv] at keeps
    have becomes := hw.becomes hr (.inl rfl) (p := fun n => s.active k n ∧ s.me.vec.kf.getLsbD n = true) (fun i => by
      simp [mem_actives, State.active, State.masked, State.kfOk, State.pred, hpv, hfm]
      tauto) (fun _ hp => hp.1.2.1)
    refine ⟨_, ht, hpc, keepsV_of_v_eq keeps hv, hmem, hx, hkf, hst, elemsBecome_of_v_eq (elemsBecome_congr becomes fun n _ => ?_) hv⟩
    exact Nat.mod_mod ..
  · obtain ⟨t, ht, hw⟩ := vsel_runs hr hi hpv st d a b k
    obtain ⟨hframe, hvec⟩ := hw.change.completes hr.noStep st
    have keeps := hw.keepsV
    rw [copyV_of_noPfx hpv] at keeps
    have becomes := hw.becomes hr (.inl rfl) (p := s.active 0) (fun i => by
      simp [mem_enabled, State.active, State.masked, State.pred, hpv]) (fun _ hp => hp.2.1)
    exact ⟨_, ht, keepsV_of_v_eq keeps hvec, hframe, elemsBecome_of_v_eq becomes hvec⟩

end Sys2Proof.Proofs
end

section
/-! The reuse of results (R250 to R258). -/

namespace Sys2Proof.Machine
open Sys2Proof.Cert

/-! ### Keys and hits -/

/-- What vadd puts into its key. -/
def vaddRequest (d a b : BitVec 5) (k : BitVec 3) : ReuseReq :=
  { op := 0x2500, srcs := [a, b], dst := d, readsDst := false, xs := [], k := k }

/-- The key of vadd, where nothing but the names of registers can rule one out (R256). -/
theorem fifeKey_vadd {s : State} (ho : s.owns = true) (hru : s.me.hart.ru = true) (hov : s.me.hart.overrides = [])
    (hpv : s.me.hart.pv = false) (hfm : s.me.hart.fm = false) (hst : s.me.vec.streams = []) (hes : s.es = 0) (d a b : BitVec 5)
    (k : BitVec 3) : s.fifeKey (vaddRequest d a b k) = vaddKey s d a b k := by
  have he : s.me.hart.es = 0 := BitVec.eq_of_toNat_eq hes
  have unbound : ∀ n, s.me.vec.stream? n = none := fun n => by simp [Vec.stream?, hst]
  have name : ∀ n, s.me.vec.regName n = nameOf s n := fun _ => rfl
  have whole : (!(vaddRequest d a b k).readsDst && (vaddRequest d a b k).k == 0 &&
      !(s.me.hart.pv && (s.me.hart.predK != 0 || s.me.hart.pword.getLsbD 22)) && s.me.vec.vl.toNat == s.me.vec.vlmaxe &&
      s.me.vec.vlmaxe * s.me.vec.width == s.me.vec.grant * 1024) = writesWhole s k := by
    simp [hpv, writesWhole, vaddRequest]
  unfold State.fifeKey vaddKey
  simp only [whole]
  simp [vaddRequest, ho, hru, Hart.noReuse, hpv, hfm, he, hov, unbound, name]
  rcases ha : nameOf s a with _ | x
  case none => simp
  rcases hb : nameOf s b with _ | y
  case none => simp
  cases writesWhole s k
  case true => simp [ha, hb]
  rcases nameOf s d with _ | z
  case none => simp
  case some => simp [ha, hb]

theorem fifeHit_vadd {s : State} {d a b : BitVec 5} {k : BitVec 3} (hk : s.fifeKey (vaddRequest d a b k) = vaddKey s d a b k) :
    s.fifeHit (vaddRequest d a b k) = (vaddKey s d a b k).bind fun q => s.fife.find? fun e =>
      e.core == s.me.core && e.slot == s.me.idx && decide (e.key = q) && e.flags &&& s.me.hart.fen == 0 := by
  unfold State.fifeHit
  rw [hk]
  rfl

/-! ### A hit -/

/-- A reusable instruction with a hit and no copy. -/
theorem reusable_of_hit {q : ReuseReq} {lat : Nat} {fixed : Bool} {run : M (Option (Flags × Option LoadRecord))} {s : State}
    {e : FifeEntry} (hc : s.copyV q.dst = none) (hh : s.fifeHit q = some e) :
    reusable q lat fixed run s = (.ok (), (s.useEntry e q.dst none lat fixed).modHart
      (Hart.count 6 (s.actives (if q.selects then 0 else q.k) 0).length)) := by
  have fits : s.copyFits q = true := by simp [State.copyFits, hc]
  unfold reusable
  rw [M.bind_get]
  simp only [fits, if_true, hh, hc]
  rfl

/-- What a hit leaves: the entry's register for v[d], and the flags of the entry (R258). -/
theorem State.useEntry_spec {s : State} {e : FifeEntry} {p : PReg} (hp : s.me.vec.pregs.find? (fun p => p.id == e.result) = some p)
    (d : BitVec 5) (lat : Nat) (fixed : Bool) :
    ∃ t, s.useEntry e d none lat fixed = t.modHart (Hart.raise e.flags) ∧ s.vecChange t ∧
      t.me.vec.v = s.me.vec.v.set d.toNat p.img ∧ t.me.vec.phys = s.me.vec.phys.set d.toNat e.result := by
  obtain ⟨u, hu⟩ : ∃ u, u = ({ s with fife := e :: s.fife.filter (fun o => o ≠ e) } : State).inFlight (.v d)
    (s.cycle + if fixed then lat else 2) fixed := ⟨_, rfl⟩
  have change : s.vecChange u := by rw [hu]; exact ⟨_, _, _, _, _, _, _, rfl⟩
  have pregs : u.me.vec.pregs = s.me.vec.pregs := by rw [hu]; rfl
  have hid : p.id = e.result := by simpa using List.find?_some hp
  obtain ⟨h1, h2, h3, -, -, -⟩ := State.mapV_spec (s := u) d (p := p) (pregs ▸ List.mem_of_find?_eq_some hp)
  refine ⟨(u.mapV d p.id p.img).modHart (Hart.count 4 1), ?_, (change.trans h1).count 4 1, ?_, ?_⟩
  · unfold State.useEntry
    simp only [hp, ← hu, hid, Option.map_some, Option.getD_some]
    rfl
  · exact h2.trans (by rw [hu]; rfl)
  · exact h3.trans (by rw [hu, hid]; rfl)

/-- Counting and the raising of flags touch different fields. -/
theorem State.count_raise (e n : Nat) (fl : BitVec 5) (s : State) :
    (s.modHart (Hart.raise fl)).modHart (Hart.count e n) = (s.modHart (Hart.count e n)).modHart (Hart.raise fl) := rfl

/-- A reusable instruction without a copy that hits an entry (R258). -/
theorem reusable_hit_spec {q : ReuseReq} {lat : Nat} {fixed : Bool} {run : M (Option (Flags × Option LoadRecord))} {s : State}
    {e : FifeEntry} (hc : s.copyV q.dst = none) (hh : s.fifeHit q = some e) {p : PReg}
    (hp : s.me.vec.pregs.find? (fun p => p.id == e.result) = some p) :
    ∃ t, reusable q lat fixed run s = (.ok (), t.modHart (Hart.raise e.flags)) ∧ s.vecChange t ∧
      t.me.vec.v = s.me.vec.v.set q.dst.toNat p.img ∧ t.me.vec.phys = s.me.vec.phys.set q.dst.toNat e.result := by
  obtain ⟨t, ht, change, hv, hphys⟩ := State.useEntry_spec hp q.dst lat fixed
  have hit := reusable_of_hit (lat := lat) (fixed := fixed) (run := run) hc hh
  rw [ht, State.count_raise] at hit
  exact ⟨_, hit, change.count _ _, hv, hphys⟩

/-- The completion of an instruction that wrote v registers and raised flags. -/
theorem State.vecChange.completes_raised {s t : State} (h : s.vecChange t) (hs : (s.me.hart.ss && !s.me.hart.prv) = false)
    (hfm : s.me.hart.fm = false) (st : BitVec 3) (fl : BitVec 5) :
    let u := (t.modHart (Hart.raise fl)).clearKf.complete st 0 (s.pc + 4)
    s.vecFrame u st (s.me.hart.statusWith fl) ∧ u.me.vec.v = t.me.vec.v ∧ u.me.vec.phys = t.me.vec.phys := by
  have bit : ∀ i, ¬(5 ≤ i ∧ i < 5 + 5) → (s.me.hart.statusWith fl).getLsbD i = s.me.hart.status.getLsbD i := fun i hi => by
    unfold Hart.statusWith
    rw [getLsbD_setField, if_neg hi]
  have fm : (t.modHart (Hart.raise fl)).me.hart.fm = false := by
    obtain ⟨_, _, _, _, _, _, _, rfl⟩ := h
    exact (bit 24 (by omega)).trans hfm
  have step : ((t.modHart (Hart.raise fl)).me.hart.ss && !(t.modHart (Hart.raise fl)).me.hart.prv) = false := by
    obtain ⟨_, _, _, _, _, _, _, rfl⟩ := h
    show ((s.me.hart.statusWith fl).getLsbD 19 && !(s.me.hart.statusWith fl).getLsbD 15) = false
    rw [bit 19 (by omega), bit 15 (by omega)]
    exact hs
  rw [clearKf_of_off fm, complete_eq_after _ _ _ _ step]
  refine ⟨?_, rfl, rfl⟩
  obtain ⟨_, _, _, _, _, _, _, rfl⟩ := h
  unfold State.vecFrame State.after
  rw [Nat.max_zero]
  rfl

end Sys2Proof.Machine
end

section
/-! The entries that executions make (R253, R255, R257). -/

namespace Sys2Proof.Machine
open Sys2Proof.Cert

/-! ### Names -/

theorem names_mem {v : Vec} {p : PReg} {x : BitVec 48 × Nat} (hp : p ∈ v.pregs) (hx : p.name = some x) : x ∈ v.names :=
  List.mem_filterMap.mpr ⟨p, hp, hx⟩

/-- A name is that of one register (R251). -/
theorem eq_of_name {v : Vec} (hn : v.names.Nodup) {p q : PReg} (hp : p ∈ v.pregs) (hq : q ∈ v.pregs) {x : BitVec 48 × Nat}
    (hpx : p.name = some x) (hqx : q.name = some x) : p = q := by
  by_contra hne
  have apart := List.pairwise_filterMap.mp hn
  have symm : Std.Symm fun a b : PReg => ∀ y, a.name = some y → ∀ z, b.name = some z → y ≠ z :=
    ⟨fun _ _ h y hy z hz => (h z hz y hy).symm⟩
  exact apart.forall hp hq hne x hpx x hqx rfl

/-- The name by which a mapped register goes stays where registers are freed. -/
theorem State.frees.regName {s t : State} (h : s.frees t) (n : BitVec 5) : t.me.vec.regName n = s.me.vec.regName n := by
  obtain ⟨_, c, rfl, hc⟩ := h
  have same : (fun p : PReg => decide (c p = true ∧ (p.id == s.me.vec.phys[n.toNat]) = true)) = fun p => p.id == s.me.vec.phys[n.toNat] := by
    funext p
    by_cases hp : p.id = s.me.vec.phys[n.toNat]
    · simp [hc p (mapped_of_eq hp), beq_eq_decide]
    · simp [hp]
  simp only [Vec.regName, List.find?_filter, same]

theorem regName_mem {v : Vec} {n : BitVec 5} {x : BitVec 48 × Nat} (h : v.regName n = some x) :
    ∃ p ∈ v.pregs, p.id = v.phys[n.toNat] ∧ p.name = some x := by
  obtain ⟨p, hp, hx⟩ := Option.bind_eq_some_iff.mp h
  exact ⟨p, List.mem_of_find?_eq_some hp, by simpa using List.find?_some hp, hx⟩

/-! ### Entries -/

/-- The names that an entry's key holds are those of mapped registers of v. -/
def FifeEntry.named (e : FifeEntry) (v : Vec) : Prop :=
  ∀ x ∈ e.key.srcs ++ e.key.prior.toList, ∃ p ∈ v.pregs, v.mapped p ∧ p.name = some x

/-- An entry whose names are those of mapped registers stays where the registers of its slot are freed (R253). -/
theorem mem_settleRegs_of_named {core idx n : Nat} {f : List FifeEntry} {v : Vec} {e : FifeEntry} (hn : v.names.Nodup)
    (he : e.named v) (hm : e ∈ f) : e ∈ (settleRegs core idx n f v).1 := by
  induction n generalizing f v with
  | zero => exact hm
  | succ n ih =>
    unfold settleRegs
    dsimp only
    split
    · exact hm
    · refine ih (hn.sublist (List.filter_sublist.filterMap _)) (fun x hx => ?_) (List.mem_filter.mpr ⟨hm, ?_⟩)
      · obtain ⟨p, hp, hpm, hpx⟩ := he x hx
        exact ⟨p, List.mem_filter.mpr ⟨hp, by simp [show p.id ∈ v.phys.toList from hpm]⟩, hpm, hpx⟩
      · suffices ∀ x ∈ e.key.srcs ++ e.key.prior.toList, ∀ q ∈ v.pregs, q.id ∉ v.phys.toList → q.name ≠ some x by
          simp only [Bool.not_eq_true', Bool.and_eq_false_iff, List.any_eq_false, decide_eq_true_eq]
          refine .inr fun x hx hd => ?_
          obtain ⟨q, hq, hqx⟩ := List.mem_filterMap.mp hd
          obtain ⟨hq, hdead⟩ := List.mem_filter.mp hq
          simp only [List.mem_append, not_or, decide_eq_true_eq] at hdead
          exact this x hx q hq hdead.1 hqx
        intro x hx q hq hdead hqx
        obtain ⟨p, hp, hpm, hpx⟩ := he x hx
        exact hdead (eq_of_name hn hp hq hpx hqx ▸ hpm)

/-- An entry of another slot stays where the registers of a slot are freed. -/
theorem mem_settleRegs_of_foreign {core idx n : Nat} {f : List FifeEntry} {v : Vec} {e : FifeEntry} (he : e.inSlot core idx = false)
    (hm : e ∈ f) : e ∈ (settleRegs core idx n f v).1 := by
  induction n generalizing f v with
  | zero => exact hm
  | succ n ih =>
    unfold settleRegs
    dsimp only
    split
    · exact hm
    · exact ih (List.mem_filter.mpr ⟨hm, by simp [he]⟩)

theorem mem_settleSlots {l : List Slot} {f : List FifeEntry} {e : FifeEntry} (he : ∀ o ∈ l, e.inSlot o.core o.idx = false)
    (hm : e ∈ f) : e ∈ (settleSlots l f).2 := by
  induction l generalizing f with
  | nil => exact hm
  | cons o rest ih => exact ih (fun q hq => he q (by simp [hq])) (mem_settleRegs_of_foreign (he o (by simp)) hm)

theorem State.freeAllRegs_eq (s : State) : ∃ u o, s.frees u ∧ s.freeAllRegs = { u with others := o } :=
  ⟨{ s.freeRegs with fife := (settleSlots s.freeRegs.others s.freeRegs.fife).2 }, _,
    (State.freeRegs_frees s).trans (.of_fife s.freeRegs _), rfl⟩

theorem State.addEntry_eq (s : State) (key : FifeKey) (d : BitVec 5) (fl : BitVec 5) (load : Option LoadRecord) :
    ∃ u o, s.frees u ∧ s.addEntry key d fl load = { u with others := o } := by
  unfold State.addEntry
  split
  · exact ⟨s, s.others, .refl s, rfl⟩
  · dsimp only
    split
    · obtain ⟨u, o, hu, h⟩ := State.freeAllRegs_eq { s with fife := _ }
      exact ⟨u, o, (State.frees.of_fife s _).trans hu, h⟩
    · exact ⟨s, s.others, .refl s, rfl⟩

/-- An entry is made where the result has a name and the names of the key are those of mapped registers (R257). -/
theorem mem_addEntry {s : State} (hn : s.me.vec.names.Nodup) (ho : ∀ o ∈ s.others, ¬(o.core = s.me.core ∧ o.idx = s.me.idx))
    {key : FifeKey} {d : BitVec 5} (fl : BitVec 5) (load : Option LoadRecord) (hd : (s.me.vec.regName d).isSome = true)
    (hk : ∀ x ∈ key.srcs ++ key.prior.toList, ∃ p ∈ s.me.vec.pregs, s.me.vec.mapped p ∧ p.name = some x) :
    { core := s.me.core, slot := s.me.idx, key := key, result := s.me.vec.phys[d.toNat], flags := fl, load := load } ∈
      (s.addEntry key d fl load).fife := by
  have named : ∀ x ∈ key.srcs ++ key.prior.toList, x ∈ s.me.vec.pregs.filterMap (fun p => p.name) := fun x hx => by
    obtain ⟨p, hp, -, hpx⟩ := hk x hx
    exact names_mem hp hpx
  obtain ⟨e, he⟩ : ∃ e, e = FifeEntry.mk s.me.core s.me.idx key s.me.vec.phys[d.toNat] fl load := ⟨_, rfl⟩
  unfold State.addEntry
  rw [if_neg (by simpa [Option.isNone_iff_eq_none, Option.isSome_iff_ne_none] using hd)]
  dsimp only
  rw [if_pos (List.all_eq_true.mpr fun x hx => decide_eq_true (named x hx)), ← he]
  unfold State.freeAllRegs
  refine mem_settleSlots (fun o hm => ?_) ?_
  · refine Bool.eq_false_iff.mpr fun hs => ?_
    simp only [FifeEntry.inSlot, he, Bool.and_eq_true, beq_iff_eq] at hs
    obtain ⟨hcore, hidx⟩ := hs
    exact ho o hm ⟨hcore.symm, hidx.symm⟩
  · exact mem_settleRegs_of_named hn (he ▸ hk) (List.mem_append_left _ (by simp))

/-! ### A miss -/

theorem State.wroteV.count {s t : State} {d : BitVec 5} {img : Img} (h : s.wroteV t d img) (e n : Nat) :
    s.wroteV (t.modHart (Hart.count e n)) d img := by
  obtain ⟨h1, h2, h3, h4, h5, h6, h7⟩ := h
  exact ⟨h1.count e n, h2, h3, h4, h5, h6, h7⟩

theorem State.vecChange.slot {s t : State} (h : s.vecChange t) : t.me.core = s.me.core ∧ t.me.idx = s.me.idx := by
  obtain ⟨_, _, _, _, _, _, _, rfl⟩ := h; exact ⟨rfl, rfl⟩

theorem State.frees.phys {s t : State} (h : s.frees t) (d : BitVec 5) : s.me.vec.phys[d.toNat] = t.me.vec.phys[d.toNat] := by
  obtain ⟨_, _, rfl, -⟩ := h; rfl

/-- The name of another register than the one written is still that of a mapped register. -/
theorem State.wroteV.mem_of_regName {s t : State} {d : BitVec 5} {img : Img} (h : s.wroteV t d img) {n : BitVec 5} (hn : n ≠ d)
    {x : BitVec 48 × Nat} (hx : s.me.vec.regName n = some x) :
    ∃ p ∈ t.me.vec.pregs, t.me.vec.mapped p ∧ p.name = some x := by
  obtain ⟨p, hp, hid, hpx⟩ := regName_mem hx
  obtain ⟨id, hphys⟩ := h.phys_eq
  exact ⟨p, h.keeps p hp n hn hid, mapped_of_eq (n := n) (by rw [hphys, getElem_set_reg, if_neg hn, hid]), hpx⟩

/-- A run of an element-wise computation without a PFX: one image written to v[d]. -/
theorem VArith.run_wroteV {s : State} (h : s.vectorRuns) (hpv : s.me.hart.pv = false) (q : VArith)
    {f : State → Nat → List Nat → Nat × Flags} {g : List Nat → Nat} (hf : ∀ l, f s s.me.vec.width l = (g l, 0)) :
    ∃ t, q.run f s s = (.ok (some (0, none)), t) ∧ s.wroteV t q.d (setElems s.me.vec.grant s.me.vec.width
      ((s.actives q.k s.es).map fun i => (i, g ((q.srcs ++ if q.old then [q.d] else []).map fun n => s.elem n i)))
      s.me.vec.v[q.d.toNat]) := by
  refine ⟨_, M.bind_of_ok (elementwise_pure (VArith.elem_eq h q hf) (putElems_eq ..)), ?_⟩
  unfold State.putV
  rw [copyV_of_noPfx hpv]
  exact (State.wVat_spec ..).count _ _

/-- What stays of a register written, where freeing follows. -/
theorem State.wroteV.of_frees {s t u : State} {d : BitVec 5} {img : Img} (h : s.wroteV t d img) (hu : t.frees u) : s.wroteV u d img := by
  obtain ⟨h1, h2, h3, ⟨p, hp, hid, himg, hname⟩, h5, h6, h7⟩ := h
  have kept : ∀ q ∈ t.me.vec.pregs, t.me.vec.mapped q → q ∈ u.me.vec.pregs := fun q hq hm => hu.mem hq hm
  have names := hu.names_sublist
  have change := hu.vecChange
  obtain ⟨_, _, rfl, -⟩ := hu
  refine ⟨h1.trans change, h2, h3, ⟨p, kept p hp (mapped_of_eq hid), hid, himg, hname⟩, h5, fun q hq n hn hid => ?_,
    fun hn => (h7 hn).sublist names⟩
  obtain ⟨id, h3⟩ := h3
  exact kept q (h6 q hq n hn hid) (mapped_of_eq (n := n) (by rw [h3, getElem_set_reg, if_neg hn, hid]))

/-- The completion of an instruction that wrote v registers and freed registers of every slot. -/
theorem State.vecChange.completes_freed {s u : State} (h : s.vecChange u) (hs : (s.me.hart.ss && !s.me.hart.prv) = false)
    (hfm : s.me.hart.fm = false) (st : BitVec 3) (o : List Slot) :
    let t := ({ u with others := o } : State).clearKf.complete st 0 (s.pc + 4)
    t.pc = s.pc + 4 ∧ t.mem = s.mem ∧ t.me.hart.x = s.me.hart.x ∧ t.me.vec.k = s.me.vec.k ∧ t.me.vec = u.me.vec ∧ t.fife = u.fife := by
  obtain ⟨_, _, _, _, _, _, _, rfl⟩ := h
  rw [clearKf_of_off (by exact hfm), complete_eq_after _ _ _ _ (by exact hs)]
  exact ⟨rfl, rfl, rfl, rfl, rfl, rfl⟩

/-- A reusable instruction without a hit leaves what its run leaves, registers freed and other slots aside, with the entry that it makes. -/
theorem reusable_miss_spec {q : ReuseReq} {lat : Nat} {fixed : Bool} {run : M (Option (Flags × Option LoadRecord))} {s t : State}
    {fl : Flags} {load : Option LoadRecord} (hm : s.fifeHit q = none) (hr : run s = (.ok (some (fl, load)), t)) :
    ∃ u o, reusable q lat fixed run s = (.ok (), { u with others := o }) ∧ t.frees u ∧
      ∀ key, s.fifeKey q = some key → u.fife = (t.addEntry key q.dst fl load).fife := by
  have miss := reusable_of_miss (lat := lat) (fixed := fixed) hm hr
  rcases hk : s.fifeKey q with _ | key
  · rw [hk] at miss
    exact ⟨t, t.others, miss, .refl t, fun _ h => by cases h⟩
  · obtain ⟨u, o, hu, he⟩ := State.addEntry_eq t key q.dst fl load
    rw [hk] at miss
    refine ⟨u, o, miss.trans (by rw [← he]), hu, fun key' h => ?_⟩
    cases h
    rw [he]

end Sys2Proof.Machine
end

section
/-! Reuse by vadd (R250 to R258), and the vector integer instructions as a whole. -/

namespace Sys2Proof.Machine
open Sys2Proof.Cert

/-- vadd as an element-wise computation (R124). -/
def vaddArith (s : State) (st : BitVec 3) (d a b : BitVec 5) (k : BitVec 3) : VArith :=
  { op := 0x2500, st := st, d := d, k := k, srcs := [a, b], shape := decide (8 ≤ s.me.vec.width), lat := fun _ => 3, fixed := true }

/-- The sum of R124. -/
def vaddStep (_ : State) (w : Nat) (l : List Nat) : Nat × Flags := ((l.getD 0 0 + l.getD 1 0) % 2 ^ w, 0)

theorem exec_vadd (s : State) (st : BitVec 3) (d a b : BitVec 5) (k : BitVec 3) :
    exec (.vadd st d a b k) s = vArith (vaddArith s st d a b k) vaddStep s := rfl

/-- The names in a key of vadd are those of its sources and, where it does not write the whole register, of its destination (R256). -/
theorem vaddKey_names {s : State} {d a b : BitVec 5} {k : BitVec 3} {q : FifeKey} (hw : writesWhole s k = true)
    (hq : q ∈ vaddKey s d a b k) : ∀ x ∈ q.srcs ++ q.prior.toList, s.me.vec.regName a = some x ∨ s.me.vec.regName b = some x := by
  unfold vaddKey at hq
  rw [hw, if_pos rfl] at hq
  split at hq
  case h_1 x y prior ha hb hp =>
    cases hp
    cases hq
    intro z hz
    simp only [Option.toList_none, List.append_nil, List.mem_cons, List.not_mem_nil, or_false] at hz
    rcases hz with rfl | rfl
    · exact .inl ha
    · exact .inr hb
  case h_2 => cases hq

end Sys2Proof.Machine

namespace Sys2Proof.Proofs
open Sys2Proof.Machine Sys2Proof.Cert

theorem reuseOfResults : Cert.reuseOfResults := by
  intro s st d a b k hset hown hg1 hg2 hvill hill hfm hru _ hst h8 hes hvl g key hit
  obtain ⟨hlive, hpend, hov, hpv, hss⟩ := hset
  have hr : s.vectorRuns := ⟨hlive, hpend, hov, hss, by simp [State.vecDenied, hown], hg1, hg2, hvill, hill, hst⟩
  have hkey : s.fifeKey (vaddRequest d a b k) = key := fifeKey_vadd hown hru hov hpv hfm hst hes d a b k
  have hh : s.fifeHit (vaddRequest d a b k) = hit := fifeHit_vadd hkey
  have runs := fun t => vArith_of_reusable (t := t) hr (vaddArith s st d a b k) vaddStep (pairs_of_noPfx hpv _)
    (nullified_of_noPfx hpv) (decide_eq_true h8) rfl (hes ▸ hvl)
  rw [exec_vadd]
  refine ⟨fun e p he hp => ?_, fun hmiss => ?_⟩
  · obtain ⟨t, ht, change, hv, hphys⟩ := reusable_hit_spec (q := vaddRequest d a b k) (lat := 3) (fixed := true)
      (run := (vaddArith s st d a b k).run vaddStep s) (copyV_of_noPfx hpv d) (hh.trans he) hp
    obtain ⟨hframe, hv', hphys'⟩ := change.completes_raised hss hfm st e.flags
    refine ⟨_, runs _ ht (change.streams.trans hst), ?_, ?_, fun n hn => ?_, hframe⟩
    · rw [show (vaddArith s st d a b k).st = st from rfl, hv', hv]
      simp [vaddRequest]
    · rw [show (vaddArith s st d a b k).st = st from rfl, hphys', hphys]
      simp [vaddRequest]
    · rw [show (vaddArith s st d a b k).st = st from rfl, hv', hv, getElem_set_reg, if_neg (by simpa [vaddRequest] using hn)]
  · obtain ⟨t, ht, wrote⟩ := VArith.run_wroteV hr hpv (vaddArith s st d a b k) (f := vaddStep)
      (g := fun l => (l.getD 0 0 + l.getD 1 0) % 2 ^ s.me.vec.width) (fun _ => rfl)
    obtain ⟨u, o, hu, frees, entry⟩ := reusable_miss_spec (lat := 3) (fixed := true) (hh.trans hmiss) ht
    obtain ⟨change, hv, ⟨id, hphys⟩, holder, shares, keeps, nodup⟩ := wrote.of_frees frees
    obtain ⟨hpc, hmem, hx, hkr, hvec, hfife⟩ := change.completes_freed hss hfm st o
    obtain ⟨r, hrun, hr'⟩ : ∃ r, vArith (vaddArith s st d a b k) vaddStep s = .next r ∧
      r = ({ u with others := o } : State).clearKf.complete st 0 (s.pc + 4) := ⟨_, runs _ hu (change.streams.trans hst), rfl⟩
    rw [← hr'] at hpc hmem hx hkr hvec hfife
    have img : r.me.vec.v[d.toNat] = setElems g s.me.vec.width
        ((s.actives k s.es).map fun i => (i, (s.elem a i + s.elem b i) % 2 ^ s.me.vec.width)) s.me.vec.v[d.toNat] := by
      rw [hvec, hv, getElem_set_reg]
      exact if_pos rfl
    refine ⟨r, hrun, hpc, hmem, hx, hkr, ?_, fun n hn => ?_, ?_, fun n hn q hq hid himg hname => ?_, ?_⟩
    · exact elemsBecome_congr (elemsBecome_of_setElems hr img (fun _ => mem_actives_iff_active hfm hpv) fun _ hp => hp.2.1)
        fun n _ => Nat.mod_mod ..
    · rw [hvec, hv, getElem_set_reg]
      exact if_neg (by simpa [vaddArith] using hn)
    · obtain ⟨p, hp, hid, himg, hname⟩ := holder
      rw [img, hvec]
      exact ⟨p, hp, hid, himg, fun m hm => by rw [himg]; exact hname m hm⟩
    · rw [img] at himg ⊢
      rw [hvec]
      exact shares q hq (mapped_of_eq hid) himg (himg ▸ hname)
    · intro hnodup hothers hda hdb hwhole q hq hnamed
      have named : (t.me.vec.regName d).isSome = true := by
        rw [← frees.regName, Option.isSome_iff_ne_none, ← hvec]
        exact hnamed
      have sources : ∀ x ∈ q.srcs ++ q.prior.toList, ∃ p ∈ t.me.vec.pregs, t.me.vec.mapped p ∧ p.name = some x := by
        intro x hx
        rcases vaddKey_names hwhole hq x hx with h | h
        · exact wrote.mem_of_regName hda.symm h
        · exact wrote.mem_of_regName hdb.symm h
      obtain ⟨hcore, hidx⟩ := wrote.change.slot
      have made := mem_addEntry (wrote.names_nodup hnodup) (by rwa [wrote.change.others, hcore, hidx]) 0 none named sources
      rw [hfife, entry q (hkey.trans hq)]
      refine ⟨_, made, hcore, hidx, rfl, ?_, rfl⟩
      rw [hvec]
      exact frees.phys d

/-- Settles O37: the integer instructions element by element, the fault mask, and the reuse of results. -/
theorem vectorInteger : Obligations.VectorInteger :=
  ⟨vectorIntegerResults, vectorImmediateAndAccumulateResults, restrictedByFaultMask, reuseOfResults⟩

end Sys2Proof.Proofs
end

section
/-! PFX and its scalar successors (R58 to R62). -/

namespace Sys2Proof.Machine
open Sys2Proof.Cert

/-! ### PFX -/

theorem toNat_append_eq_add {m n : Nat} (x : BitVec m) (y : BitVec n) : (x ++ y).toNat = x.toNat * 2 ^ n + y.toNat := by
  rw [BitVec.toNat_append, ← Nat.shiftLeft_add_eq_or_of_lt y.isLt, Nat.shiftLeft_eq]

/-- The word of PFX, field by field (R58). -/
theorem encode_pfx (k : BitVec 3) (p e : BitVec 1) (c : BitVec 2) (r : BitVec 5) :
    BitVec.ofNat 32 ((encodeNat (.pfx k p e c r)).getD 0) = 0b000001#6 ++ k ++ p ++ e ++ c ++ r ++ 0#14 := by
  apply BitVec.eq_of_toNat_eq
  simp only [toNat_append_eq_add, encodeNat, layWord, Option.getD_some, BitVec.toNat_ofNat]
  omega

/-! ### Successors without effect -/

/-- The checks of a scalar successor whose predicate is 0 (R59). -/
theorem gate_of_predFalse {s : State} (q : Req) (hp : s.me.hart.pend = []) (hd : s.vecDenied = false) (h0 : s.pred 0 = false)
    (hq : q.scalar = true) (hs : q.sup = false) (hpair : s.me.hart.pairs q = true) : gate q s = (.ok false, s) := by
  rw [gate_of_pend q s hp]
  simp [hd, h0, hq, hs, hpair]

/-- A meaning that only completes where its checks find it without effect. -/
theorem runM_of_gate_false {s : State} {q : Req} {x : M Unit} (hl : s.me.live = true) (hg : gate q s = (.ok false, s))
    (hs : (s.me.hart.ss && !s.me.hart.prv) = false) (st : BitVec 3) :
    runM (gate q >>= fun ok => if ok then x else do let t ← get; done st 0 (t.pc + 4)) s = .next (s.after st 0 (s.pc + 4)) := by
  unfold runM
  rw [if_pos hl, M.bind_of_ok hg]
  simp [M.bind_get, done, complete_eq_after _ _ _ s hs]

/-- A successor that no pairing rule and no copy register rules out (R60, R62). -/
theorem pairs_of_noCopy {h : Hart} (q : Req) (hc : h.pword.getLsbD 21 = false) (ho : q.pfxOk = true) (hn : q.noPred = false) :
    h.pairs q = true := by
  have none : h.copyReg = none := by rw [Hart.copyReg, hc, Bool.and_false]; rfl
  simp [Hart.pairs, none, ho, hn]

/-! ### Successors of another class -/

/-- A successor that does not go with the pending PFX traps with its word (R60; log entry 16). -/
theorem State.checks.unpaired {s : State} {i : Instr} {q : Req} (h : s.checks i q) (hl : s.me.live = true) (hp : s.me.hart.pend = [])
    (hs : q.sup = false) (hq : s.me.hart.pairs q = false) :
    exec i s = .next (s.enterTrap false s.pc { code := 0x004, tval := s.me.hart.word.setWidth 64 }) := by
  obtain ⟨k, hk⟩ := h
  have denied : gate q s = (.error (.trap { code := 0x004, tval := xOf s.me.hart.word.toNat }), s) := by
    rw [gate_of_pend q s hp]
    simp [hs, hq]
  rw [hk, runM_trap 0x004 (xOf s.me.hart.word.toNat) _ s s hl (M.bind_of_error denied), Proofs.xOf_toNat]

/-- The class of a copy register decides whether a successor with a destination goes with the PFX (R60). -/
theorem pairs_iff_class {h : Hart} (hv : h.pv = true) (q : Req) (ho : q.pfxOk = true) (hn : q.noPred = false) {cls : BitVec 2}
    (hd : (cls = 0 ∧ ∃ d, q.dst = .x d) ∨ (cls = 1 ∧ ∃ d, q.dst = .v d) ∨ (cls = 2 ∧ ∃ d, q.dst = .k d)) :
    h.pairs q = true ↔ (h.pword.getLsbD 21 = true → h.pword.extractLsb' 19 2 = cls) := by
  have field : fieldOf h.pword 19 2 = (h.pword.extractLsb' 19 2).toNat := rfl
  cases hc : h.pword.getLsbD 21
  · simp [pairs_of_noCopy q hc ho hn]
  · have copy : h.copyReg = some (fieldOf h.pword 19 2, h.pword.extractLsb' 14 5) := by
      rw [Hart.copyReg, hc, hv]
      rfl
    rcases hd with ⟨rfl, d, hd⟩ | ⟨rfl, d, hd⟩ | ⟨rfl, d, hd⟩
    all_goals simp [Hart.pairs, copy, hv, ho, hn, hd, field, BitVec.toNat_eq]

/-! ### A scalar successor with its effect -/

theorem Hart.getElem_withX (h : Hart) (d r : BitVec 5) (v : X) (tag : Bool) :
    (h.withX d v tag).x[r.toNat] = if r = d ∧ d ≠ 0 then v else h.x[r.toNat] := by
  unfold Hart.withX
  split
  case isTrue hd => simp [hd]
  case isFalse hd => simp only [getElem_set_reg, ne_eq, hd, not_false_eq_true, and_true]

theorem Hart.getLsbD_withX (h : Hart) (d r : BitVec 5) (v : X) (tag : Bool) :
    (h.withX d v tag).xtag.getLsbD r.toNat = if r = d ∧ d ≠ 0 then tag else h.xtag.getLsbD r.toNat := by
  unfold Hart.withX
  split
  case isTrue hd => simp [hd]
  case isFalse hd =>
    have same : d.toNat ≤ r.toNat ∧ r.toNat < d.toNat + 1 ↔ r = d := by rw [← BitVec.toNat_inj]; omega
    rw [getLsbD_setField]
    simp only [same, hd, ne_eq, not_false_eq_true, and_true]
    split
    case isTrue he => cases tag <;> simp [he, b2n, d.isLt]
    case isFalse => rfl

/-- A result of latency 1 is never in flight (R55). -/
theorem wXat_of_pend {s : State} (hp : s.me.hart.pend = []) (d : BitVec 5) (v : X) (tag : Bool) :
    s.wXat d v tag 1 true = s.modHart fun h => h.withX d v tag := by
  unfold State.wXat Hart.withX
  by_cases hd : d = 0
  · simp only [hd, if_true]
    rfl
  · simp only [State.wX, State.inFlight, hd, State.modHart, hp, stillPending, if_false, List.foldl_nil, List.filter_nil, le_refl,
      and_self, if_true]

/-- The hart after a result and its copy (R60). -/
def Hart.withXs (h : Hart) (d : BitVec 5) (copy : Option (BitVec 5)) (v : X) : Hart :=
  match copy with
  | some c => (h.withX d v false).withX c v false
  | none => h.withX d v false

/-- The x register that a pending PFX names for the copy of x[d] (R60). -/
def Hart.copyX (h : Hart) (d : BitVec 5) : Option (BitVec 5) :=
  match h.copyReg with
  | some (0, c) => if c = d then none else some c
  | _ => none

theorem putX_of_pend {s : State} (hp : s.me.hart.pend = []) (d : BitVec 5) (v : X) :
    putX d v false 1 true s = (.ok (), s.modHart fun h => h.withXs d (s.me.hart.copyX d) v) := by
  have first := wXat_of_pend hp d v false
  have pend : (s.modHart fun h => h.withX d v false).me.hart.pend = [] := by
    show (s.me.hart.withX d v false).pend = []
    unfold Hart.withX
    split <;> exact hp
  unfold putX Hart.copyX
  rw [M.run_modify, first]
  rcases s.me.hart.copyReg with _ | ⟨_ | n, c⟩
  · rfl
  · by_cases hc : c = d
    · simp only [hc, if_true]
      rfl
    · simp only [hc, if_false, wXat_of_pend pend]
      rfl
  · rfl

end Sys2Proof.Machine

namespace Sys2Proof.Proofs
open Sys2Proof.Machine Sys2Proof.Cert

theorem prefixBecomesPending : Cert.prefixBecomesPending := by
  intro s k p e c r hl
  have word := encode_pfx k p e c r
  refine ⟨fun hv => ?_, fun hv => ?_⟩
  · let next : Hart :=
      { s.me.hart with
        pv := true, pword := 0b000001#6 ++ k ++ p ++ e ++ c ++ r ++ 0#14, es := 0, pc := s.pc + 4, readyAt := s.cycle + 1,
        overrides := [] }
    refine ⟨s.modHart fun _ => next, ?_, rfl⟩
    show execPfx k p e c r s = _
    unfold execPfx runM
    rw [if_pos hl, M.bind_get, M.bind_require, hv]
    simp only [Bool.not_false, if_true, M.run_set, word]
    rfl
  · show execPfx k p e c r s = _
    unfold execPfx
    rw [runM_trap 0x004 (xOf s.me.hart.word.toNat) _ s s hl, xOf_toNat]
    rw [M.bind_get, M.bind_require, hv]
    rfl

theorem falsePredicateHasNoEffect : Cert.falsePredicateHasNoEffect := by
  intro s st d a b i h j hl hp ho hv hc hd h0 hs nothing
  have gate := fun (q : Req) (hq : q.scalar = true) (hsup : q.sup = false) (hok : q.pfxOk = true) (hnp : q.noPred = false) =>
    gate_of_predFalse q hp hd h0 hq hsup (pairs_of_noCopy q hc hok hnp)
  refine ⟨?_, ?_, ?_, ?_, ?_, ?_, ?_, ?_, ?_⟩
  all_goals exact runM_of_gate_false hl (gate _ rfl rfl rfl rfl) hs st

end Sys2Proof.Proofs
end

section
/-! Successors of PFX with their effect, and their copy registers (R59, R60). -/

namespace Sys2Proof.Machine
open Sys2Proof.Cert

/-! ### Copy registers -/

/-- The copy register of a pending PFX that names class cls (R58, R60). -/
theorem copyReg_of_class {h : Hart} (hv : h.pv = true) {cls : BitVec 2}
    (hc : h.pword.getLsbD 21 = true → h.pword.extractLsb' 19 2 = cls) :
    h.copyReg = if h.pword.getLsbD 21 then some (cls.toNat, h.pword.extractLsb' 14 5) else none := by
  unfold Hart.copyReg
  rw [hv, Bool.true_and]
  split
  case isTrue h21 => rw [← hc h21]; rfl
  case isFalse => rfl

theorem copyX_iff {h : Hart} (hv : h.pv = true) (hc : h.pword.getLsbD 21 = true → h.pword.extractLsb' 19 2 = 0) (d r : BitVec 5) :
    (r = d ∨ h.copyX d = some r) ↔ (r = d ∨ (h.pword.getLsbD 21 = true ∧ r = h.pword.extractLsb' 14 5)) := by
  unfold Hart.copyX
  rw [copyReg_of_class hv hc]
  cases h.pword.getLsbD 21
  · simp
  · by_cases hd : h.pword.extractLsb' 14 5 = d <;> simp [hd, eq_comm]

theorem copyV_iff {s : State} (hv : s.me.hart.pv = true)
    (hc : s.me.hart.pword.getLsbD 21 = true → s.me.hart.pword.extractLsb' 19 2 = 1) (d r : BitVec 5) :
    (r = d ∨ s.copyV d = some r) ↔ (r = d ∨ (s.me.hart.pword.getLsbD 21 = true ∧ r = s.me.hart.pword.extractLsb' 14 5)) := by
  unfold State.copyV
  rw [copyReg_of_class hv hc]
  cases s.me.hart.pword.getLsbD 21
  · simp
  · by_cases hd : s.me.hart.pword.extractLsb' 14 5 = d <;> simp [hd, eq_comm]

/-- The k register that a pending PFX names for the copy of k[d] (R60). -/
def State.copyK (s : State) (d : BitVec 3) : Option (BitVec 3) :=
  match s.me.hart.copyReg with
  | some (2, c) => if c.setWidth 3 = d then none else some (c.setWidth 3)
  | _ => none

theorem copyK_iff {s : State} (hv : s.me.hart.pv = true)
    (hc : s.me.hart.pword.getLsbD 21 = true → s.me.hart.pword.extractLsb' 19 2 = 2) (d r : BitVec 3) :
    (r = d ∨ s.copyK d = some r) ↔ (r = d ∨ (s.me.hart.pword.getLsbD 21 = true ∧ r = s.me.hart.pword.extractLsb' 14 3)) := by
  have low : (s.me.hart.pword.extractLsb' 14 5).setWidth 3 = s.me.hart.pword.extractLsb' 14 3 := by
    apply BitVec.eq_of_getLsbD_eq
    intro i hi
    simp [hi, show i < 5 by omega]
  unfold State.copyK
  rw [copyReg_of_class hv hc]
  cases s.me.hart.pword.getLsbD 21
  · simp
  · by_cases hd : s.me.hart.pword.extractLsb' 14 3 = d <;> simp [low, hd, eq_comm]

/-! ### Results in x registers -/

theorem Hart.withX_eq (h : Hart) (d : BitVec 5) (v : X) (tag : Bool) : ∃ x xt, h.withX d v tag = { h with x := x, xtag := xt } := by
  unfold Hart.withX
  split
  · exact ⟨h.x, h.xtag, rfl⟩
  · exact ⟨_, _, rfl⟩

theorem Hart.withXs_eq (h : Hart) (d : BitVec 5) (copy : Option (BitVec 5)) (v : X) :
    ∃ x xt, h.withXs d copy v = { h with x := x, xtag := xt } := by
  obtain ⟨x, xt, one⟩ := Hart.withX_eq h d v false
  cases copy with
  | none => exact ⟨x, xt, one⟩
  | some c =>
    obtain ⟨y, yt, two⟩ := Hart.withX_eq { h with x := x, xtag := xt } c v false
    exact ⟨y, yt, (congrArg (fun g => Hart.withX g c v false) one).trans two⟩

theorem Hart.getElem_withXs (h : Hart) (d : BitVec 5) (copy : Option (BitVec 5)) (v : X) (r : BitVec 5) :
    (h.withXs d copy v).x[r.toNat] = if (r = d ∨ copy = some r) ∧ r ≠ 0 then v else h.x[r.toNat] := by
  unfold Hart.withXs
  cases copy with
  | none => simp only [Hart.getElem_withX]; grind
  | some c => simp only [Hart.getElem_withX]; grind

theorem Hart.getLsbD_withXs (h : Hart) (d : BitVec 5) (copy : Option (BitVec 5)) (v : X) (r : BitVec 5) :
    (h.withXs d copy v).xtag.getLsbD r.toNat = if (r = d ∨ copy = some r) ∧ r ≠ 0 then false else h.xtag.getLsbD r.toNat := by
  unfold Hart.withXs
  cases copy with
  | none => simp only [Hart.getLsbD_withX]; grind
  | some c => simp only [Hart.getLsbD_withX]; grind

/-- A scalar successor of latency 1 whose predicate is 1 has its effect on x[d] and on the copy register (R59, R60). -/
theorem computeX_of_pend {s : State} (hl : s.me.live = true) (hp : s.me.hart.pend = []) (hd : s.vecDenied = false)
    (h0 : s.pred 0 = true) (hs : (s.me.hart.ss && !s.me.hart.prv) = false) (st : BitVec 3) (d : BitVec 5) (srcs : List (BitVec 5))
    (f : State → X) (hpair : s.me.hart.pairs { st := st, srcs := srcs.map .x, dst := .x d } = true) :
    computeX st d srcs 1 true f s =
      .next ((s.modHart fun h => h.withXs d (s.me.hart.copyX d) (f s)).after st 0 (s.pc + 4)) := by
  have gate : gate { st := st, srcs := srcs.map .x, dst := .x d } s = (.ok true, s) := by
    rw [gate_of_pend _ s hp]
    simp [hd, h0, hpair]
  have put := putX_of_pend hp d (f s)
  unfold computeX runScalar runM
  rw [if_pos hl, M.bind_of_ok gate]
  simp only [if_true, M.run_bind, M.run_get, put, M.run_pure, done, M.run_modify]
  obtain ⟨x, xt, eq⟩ := Hart.withXs_eq s.me.hart d (s.me.hart.copyX d) (f s)
  rw [complete_eq_after]
  show ((s.me.hart.withXs d (s.me.hart.copyX d) (f s)).ss && !(s.me.hart.withXs d (s.me.hart.copyX d) (f s)).prv) = false
  rw [eq]
  exact hs

end Sys2Proof.Machine

namespace Sys2Proof.Proofs
open Sys2Proof.Machine Sys2Proof.Cert

/-- add under a PFX (R59, R60). -/
theorem add_prefixed {s : State} (hl : s.me.live = true) (hp : s.me.hart.pend = []) (ho : s.me.hart.overrides = [])
    (hv : s.me.hart.pv = true) (hd : s.vecDenied = false) (hs : (s.me.hart.ss && !s.me.hart.prv) = false) (st : BitVec 3)
    (d a b : BitVec 5) (hc : s.me.hart.pword.getLsbD 21 = true → s.me.hart.pword.extractLsb' 19 2 = 0) (h0 : s.pred 0 = true) :
    ∃ t, exec (.addR st d a b) s = .next t ∧
      (∀ r, t.rX r = if (r = d ∨ (s.me.hart.pword.getLsbD 21 = true ∧ r = s.me.hart.pword.extractLsb' 14 5)) ∧ r ≠ 0
        then s.rX a + s.rX b else s.rX r) ∧
      (∀ r, t.rTag r = if (r = d ∨ (s.me.hart.pword.getLsbD 21 = true ∧ r = s.me.hart.pword.extractLsb' 14 5)) ∧ r ≠ 0
        then false else s.rTag r) ∧
      t = (s.after st 0 (s.pc + 4)).modHart fun h => { h with x := t.me.hart.x, xtag := t.me.hart.xtag } := by
  refine ⟨_, computeX_of_pend hl hp hd h0 hs st d [a, b] (fun t => t.rX a + t.rX b)
    ((pairs_iff_class hv _ rfl rfl (.inl ⟨rfl, d, rfl⟩)).mpr hc), fun r => ?_, fun r => ?_, ?_⟩
  · simp only [← copyX_iff hv hc d r]
    rw [rX_of_overrides rfl, rX_of_overrides ho r]
    show (if r = 0 then 0 else (s.me.hart.withXs d _ _).x[r.toNat]) = _
    rw [Hart.getElem_withXs]
    grind
  · simp only [← copyX_iff hv hc d r]
    show (r != 0 && (s.me.hart.withXs d _ _).xtag.getLsbD r.toNat) = _
    rw [Hart.getLsbD_withXs]
    unfold State.rTag
    grind
  · obtain ⟨x, xt, eq⟩ := Hart.withXs_eq s.me.hart d (s.me.hart.copyX d) (s.rX a + s.rX b)
    unfold State.modHart State.after
    simp only [eq]
    rfl

end Sys2Proof.Proofs
end

section
/-! Vector successors of PFX (R59, R60, R138). -/

namespace Sys2Proof.Machine
open Sys2Proof.Cert

/-! ### Writes of k registers -/

/-- t is s but for what writes of k registers change. -/
def State.maskChange (s t : State) : Prop :=
  ∃ f pend cnt k kgen r dirty, t = { s with
    fife := f
    me := { s.me with
      hart := { s.me.hart with pend := pend, cnt := cnt }
      vec := { s.me.vec with k := k, kgen := kgen, pregs := r, vdirty := dirty } } }

theorem State.maskChange.refl (s : State) : s.maskChange s := ⟨_, _, _, _, _, _, _, rfl⟩

theorem State.maskChange.trans {s t u : State} (h : s.maskChange t) (h' : t.maskChange u) : s.maskChange u := by
  obtain ⟨_, _, _, _, _, _, _, rfl⟩ := h
  obtain ⟨_, _, _, _, _, _, _, rfl⟩ := h'
  exact ⟨_, _, _, _, _, _, _, rfl⟩

theorem State.frees.maskChange {s t : State} (h : s.frees t) : s.maskChange t := by
  obtain ⟨_, _, rfl, -⟩ := h
  exact ⟨_, _, _, _, _, _, _, rfl⟩

theorem State.maskChange.count {s t : State} (h : s.maskChange t) (e n : Nat) : s.maskChange (t.modHart (Hart.count e n)) :=
  h.trans ⟨_, _, _, _, _, _, _, rfl⟩

/-- A write of k[d]; one to k0 is discarded (R9). -/
theorem State.wKat_spec (d : BitVec 3) (m : Mask) (lat : Nat) (fixed : Bool) (s : State) :
    s.maskChange (s.wKat d m lat fixed) ∧
      ∀ n : BitVec 3, (s.wKat d m lat fixed).me.vec.k[n.toNat] = if n = d ∧ d ≠ 0 then m else s.me.vec.k[n.toNat] := by
  unfold State.wKat State.wK
  by_cases hd : d = 0
  · rw [if_pos hd]
    exact ⟨.refl s, fun n => by rw [if_neg (by simp [hd])]⟩
  · rw [if_neg hd, if_neg hd]
    have drops := State.dropEntries_frees (fun e => e.key.holdsK d.toNat) (s.inFlight (.k d) (s.cycle + lat) fixed)
    have hk : (State.dropEntries (fun e => e.key.holdsK d.toNat) (s.inFlight (.k d) (s.cycle + lat) fixed)).me.vec.k = s.me.vec.k := by
      obtain ⟨_, _, h, -⟩ := drops
      rw [h]
      rfl
    refine ⟨State.maskChange.trans (t := s.inFlight (.k d) (s.cycle + lat) fixed) ⟨_, _, _, _, _, _, _, rfl⟩
      (drops.maskChange.trans ⟨_, _, _, _, _, _, _, rfl⟩), fun n => ?_⟩
    show ((State.dropEntries (fun e => e.key.holdsK d.toNat) (s.inFlight (.k d) (s.cycle + lat) fixed)).me.vec.k.set d.toNat m)[n.toNat] = _
    rw [getElem_set_reg, hk]
    simp only [hd, ne_eq, not_false_eq_true, and_true]

/-- s with bits written to k[d] and to its PFX copy. -/
def State.putK (d : BitVec 3) (l : List (Nat × Nat)) (lat : Nat) (fixed : Bool) (s : State) : State :=
  let t := s.wKat d (setBits l s.me.vec.k[d.toNat]) lat fixed
  match s.copyK d with
  | some c => t.wKat c (setBits l s.me.vec.k[c.toNat]) lat fixed
  | none => t

theorem putBits_eq (d : BitVec 3) (l : List (Nat × Nat)) (lat : Nat) (fixed : Bool) (s : State) :
    putBits d l lat fixed s = (.ok (), s.putK d l lat fixed) := by
  unfold putBits State.putK State.copyK
  rw [M.run_modify]
  rcases s.me.hart.copyReg with _ | ⟨_ | _ | _ | n, c⟩
  case some.succ.succ.zero => by_cases hc : c.setWidth 3 = d <;> simp [hc]
  all_goals rfl

theorem copyK_ne {s : State} {d c : BitVec 3} (h : s.copyK d = some c) : c ≠ d := by
  unfold State.copyK at h
  rcases hc : s.me.hart.copyReg with _ | ⟨n, e⟩
  · simp [hc] at h
  · rw [hc] at h
    rcases n with _ | _ | _ | n <;> grind

theorem State.putK_spec (d : BitVec 3) (l : List (Nat × Nat)) (lat : Nat) (fixed : Bool) (s : State) :
    s.maskChange (s.putK d l lat fixed) ∧ ∀ n : BitVec 3, (s.putK d l lat fixed).me.vec.k[n.toNat] =
      if (n = d ∨ s.copyK d = some n) ∧ n ≠ 0 then setBits l s.me.vec.k[n.toNat] else s.me.vec.k[n.toNat] := by
  obtain ⟨h1, h2⟩ := State.wKat_spec d (setBits l s.me.vec.k[d.toNat]) lat fixed s
  unfold State.putK
  rcases hc : s.copyK d with _ | c
  · refine ⟨h1, fun n => ?_⟩
    simp only [h2]
    grind
  · obtain ⟨h3, h4⟩ := State.wKat_spec c (setBits l s.me.vec.k[c.toNat]) lat fixed
      (s.wKat d (setBits l s.me.vec.k[d.toNat]) lat fixed)
    refine ⟨h1.trans h3, fun n => ?_⟩
    have := copyK_ne hc
    simp only [h4, h2]
    grind

/-- The completion of an instruction that wrote k registers. -/
theorem State.maskChange.completes {s t : State} (h : s.maskChange t) (hs : (s.me.hart.ss && !s.me.hart.prv) = false)
    (hfm : s.me.hart.fm = false) (st : BitVec 3) :
    let u := t.clearKf.complete st 0 (s.pc + 4)
    s.maskFrame u st s.me.hart.status ∧ u.me.hart.x = s.me.hart.x ∧ u.me.hart.xtag = s.me.hart.xtag ∧ u.me.vec.k = t.me.vec.k ∧
      u.me.hart.overrides = [] := by
  obtain ⟨_, _, _, _, _, _, _, rfl⟩ := h
  rw [clearKf_of_off (by exact hfm), complete_eq_after _ _ _ _ (by exact hs)]
  refine ⟨?_, rfl, rfl, rfl, rfl⟩
  unfold State.maskFrame State.after
  rw [Nat.max_zero]

/-- An integer compare leaves its bits in k[d] and in the copy of k[d] (R60, R138). -/
theorem intCompare_runs {s : State} (h : s.vectorRuns) (hfm : s.me.hart.fm = false) (h8 : 8 ≤ s.me.vec.width) (st d : BitVec 3)
    (a b : BitVec 5) (k : BitVec 3) (f : Nat → Nat → Nat → Bool) (hp : s.me.hart.pairs { st := st, dst := .k d } = true)
    (hn : s.me.hart.nullified = false) :
    ∃ t, intCompare st d a b k f s = .next t ∧ s.maskFrame t st s.me.hart.status ∧ t.me.hart.x = s.me.hart.x ∧
      t.me.hart.xtag = s.me.hart.xtag ∧ t.me.hart.overrides = [] ∧ ∀ n : BitVec 3, ∀ j < 4096,
        t.me.vec.k[n.toNat].getLsbD j = if (n = d ∨ s.copyK d = some n) ∧ n ≠ 0 ∧ j ∈ s.actives k s.es
          then f s.me.vec.width (s.elem a j) (s.elem b j) else s.me.vec.k[n.toNat].getLsbD j := by
  obtain ⟨t, change, bits, run⟩ : ∃ t, s.maskChange t ∧ (∀ n : BitVec 3, t.me.vec.k[n.toNat] =
      if (n = d ∨ s.copyK d = some n) ∧ n ≠ 0 then setBits ((s.actives k s.es).map fun i =>
        (i, b2n (f s.me.vec.width (s.elem a i) (s.elem b i)))) s.me.vec.k[n.toNat] else s.me.vec.k[n.toNat]) ∧
      intCompare st d a b k f s = .next (t.clearKf.complete st 0 (s.pc + 4)) := by
    by_cases hb : s.es < s.me.vec.vl.toNat
    · obtain ⟨change, bits⟩ := State.putK_spec d ((s.actives k s.es).map fun i =>
        (i, b2n (f s.me.vec.width (s.elem a i) (s.elem b i)))) 3 true s
      refine ⟨_, change.count 6 (s.actives k s.es).length, bits, ?_⟩
      unfold intCompare compareOp
      refine runVector_runs h _ _ hp hn (decide_eq_true h8) (fun _ => ?_) (fun hb' => absurd (.inr hb) hb') ?_
      · rw [M.bind_get]
        refine M.bind_of_ok (elementwise_pure (g := fun i => b2n (f s.me.vec.width (s.elem a i) (s.elem b i))) (fun i _ => ?_)
          (putBits_eq ..))
        rw [M.bind_of_ok (srcElems_of_unbound h.streams h.overrides ..)]
        rfl
      · obtain ⟨_, _, _, _, _, _, _, h'⟩ := change
        rw [h']
        exact h.streams
    · refine ⟨s, .refl s, fun n => by simp [actives_nil k hb, setBits], ?_⟩
      exact runVector_runs h _ _ hp hn (decide_eq_true h8) (fun hb' => absurd hb' (by simp [hb])) (fun _ => rfl) h.streams
  obtain ⟨hframe, hx, htag, hk, hov⟩ := change.completes h.noStep hfm st
  refine ⟨_, run, hframe, hx, htag, hov, fun n j hj => ?_⟩
  rw [hk, bits]
  by_cases hn : (n = d ∨ s.copyK d = some n) ∧ n ≠ 0
  · rw [if_pos hn, getLsbD_setBits _ _ _ hj]
    obtain ⟨hd, h0⟩ := hn
    simp only [hd, h0, ne_eq, not_false_eq_true, true_and]
  · rw [if_neg hn, if_neg (fun h => hn ⟨h.1, h.2.1⟩)]

end Sys2Proof.Machine

namespace Sys2Proof.Proofs
open Sys2Proof.Machine Sys2Proof.Cert

/-- What a PFX makes of its successor (R59): the elements that it enables, and whether it makes it a no-op. -/
theorem pred_of_pfx {s : State} (hv : s.me.hart.pv = true) (n : Nat) :
    s.pred n = ((s.rK (s.me.hart.pword.extractLsb' 23 3)).getLsbD n != s.me.hart.pword.getLsbD 22) := by
  simp only [State.pred, hv, Bool.not_true, Bool.false_or]
  rfl

theorem nullified_iff {h : Hart} (hv : h.pv = true) :
    h.nullified = true ↔ h.pword.extractLsb' 23 3 = 0 ∧ h.pword.getLsbD 22 = true := by
  simp only [Hart.nullified, Hart.predK, hv, Bool.true_and, Bool.and_eq_true, beq_iff_eq]

/-- The elements that a vector successor processes (R5, R59). -/
theorem mem_actives_prefixed {s : State} (hfm : s.me.hart.fm = false) (hv : s.me.hart.pv = true) {k : BitVec 3} {i : Nat} :
    i ∈ s.actives k s.es ↔ s.active k i ∧
      ((s.rK (s.me.hart.pword.extractLsb' 23 3)).getLsbD i != s.me.hart.pword.getLsbD 22) = true := by
  rw [mem_actives, ← pred_of_pfx hv]
  simp only [State.active, State.masked, State.kfOk, hfm, Bool.not_false, Bool.true_or, and_true, Bool.and_eq_true]
  tauto

/-- A hart with a pending PFX that is ready for vector instructions without it. -/
theorem vectorRuns_of_pfx {s : State} (h : (s.modHart fun h => { h with pv := false }).vectorReady) :
    s.vectorRuns ∧ s.reuseIdle ∧ s.me.hart.fm = false := by
  obtain ⟨-, hfm, hi, -⟩ := h.plain
  obtain ⟨hl, hp, ho, hs, hd, hg1, hg2, hvill, hill, hst⟩ := h.runs
  exact ⟨⟨hl, hp, ho, hs, hd, hg1, hg2, hvill, hill, hst⟩, hi, hfm⟩

/-- vadd under a PFX (R59, R60). -/
theorem vadd_prefixed {s : State} (hr : s.vectorRuns) (hi : s.reuseIdle) (hfm : s.me.hart.fm = false) (hv : s.me.hart.pv = true)
    (h8 : 8 ≤ s.me.vec.width) (st : BitVec 3) (d a b : BitVec 5) (k : BitVec 3)
    (hc : s.me.hart.pword.getLsbD 21 = true → s.me.hart.pword.extractLsb' 19 2 = 1) (hn : s.me.hart.nullified = false) :
    let c := s.me.hart.pword.extractLsb' 14 5
    let p := fun n => s.active k n ∧
      ((s.rK (s.me.hart.pword.extractLsb' 23 3)).getLsbD n != s.me.hart.pword.getLsbD 22) = true
    let sum := fun n => s.elem a n + s.elem b n
    ∃ t, exec (.vadd st d a b k) s = .next t ∧ s.elemsBecome t d s.me.vec.width p sum ∧
      (s.me.hart.pword.getLsbD 21 = true → s.elemsBecome t c s.me.vec.width p sum) ∧
      s.keepsV t (if s.me.hart.pword.getLsbD 21 then [d, c] else [d]) ∧ s.vecFrame t st s.me.hart.status := by
  intro c p sum
  have hpair := (pairs_iff_class hv { st := st, dst := .v d } rfl rfl (.inr (.inl ⟨rfl, d, rfl⟩))).mpr hc
  obtain ⟨t, ht, hw⟩ := vArith_runs hr hi (vaddArith s st d a b k) vaddStep
    (fun l => (l.getD 0 0 + l.getD 1 0) % 2 ^ s.me.vec.width) hpair hn (decide_eq_true h8) rfl (fun _ => rfl)
  rw [clearKf_of_off (hw.change.fm.trans hfm)] at ht
  obtain ⟨hframe, hvec⟩ := hw.change.completes hr.noStep st
  have becomes := fun e he => elemsBecome_of_v_eq (elemsBecome_congr (hw.becomes (e := e) hr he (p := p)
    (fun i => mem_actives_prefixed hfm hv) fun _ hp => hp.1.2.1) fun n _ => Nat.mod_mod (sum n) _) hvec
  have regs := copyV_iff hv hc d
  refine ⟨_, ht, becomes d (.inl rfl), fun h21 => becomes c ((regs c).mpr (.inr ⟨h21, rfl⟩)), fun n hn => ?_, hframe⟩
  refine (congrArg (fun v : Vector Img 32 => v[n.toNat]) hvec).trans ?_
  rw [hw.regs n, if_neg]
  intro h
  rcases (regs n).mp h with rfl | ⟨h21, rfl⟩
  · revert hn; split <;> simp
  · simp [h21, c] at hn

theorem prefixedResults : Cert.prefixedResults := by
  intro s st e d a b k hl hp ho hv hd hs pw pk on noOp copies c ck pairs apart
  have null : s.me.hart.nullified = false ↔ ¬noOp := by
    rw [← Bool.not_eq_true]
    exact not_congr (nullified_iff hv)
  have unpaired : ∀ {i : Instr} {q : Req} {cls : BitVec 2}, s.checks i q → (s.me.hart.pairs q = true ↔ pairs cls) → q.sup = false →
      ¬pairs cls → apart i := fun hq hiff hsup hnot => hq.unpaired hl hp hsup (Bool.not_eq_true _ ▸ fun h => hnot (hiff.mp h))
  refine ⟨?_, fun hc h0 => ?_, fun hready h8 => ?_⟩
  · exact unpaired (q := { st := st, srcs := [.x a, .x b], dst := .x d }) ⟨_, rfl⟩
      (pairs_iff_class hv _ rfl rfl (.inl ⟨rfl, d, rfl⟩)) rfl
  · exact add_prefixed hl hp ho hv hd hs st d a b hc ((pred_of_pfx hv 0).trans h0)
  · obtain ⟨hr, hi, hfm⟩ := vectorRuns_of_pfx hready
    intro w p sum
    refine ⟨?_, fun hc hno => ?_, fun hc hno => ?_, ?_, fun hc hno => ?_⟩
    · exact unpaired ⟨_, rfl⟩ (pairs_iff_class hv _ rfl rfl (.inr (.inl ⟨rfl, d, rfl⟩))) rfl
    · exact runVector_nullified hr _ _ ((pairs_iff_class hv _ rfl rfl (.inr (.inl ⟨rfl, d, rfl⟩))).mpr hc)
        ((nullified_iff hv).mpr hno) (decide_eq_true h8)
    · exact vadd_prefixed hr hi hfm hv h8 st d a b k hc (null.mpr hno)
    · exact unpaired ⟨_, rfl⟩ (pairs_iff_class hv _ rfl rfl (.inr (.inr ⟨rfl, e, rfl⟩))) rfl
    · obtain ⟨t, ht, hframe, hx, htag, hov, bits⟩ := intCompare_runs hr hfm h8 st e a b k (fun _ x y => x == y)
        ((pairs_iff_class hv _ rfl rfl (.inr (.inr ⟨rfl, e, rfl⟩))).mpr hc) (null.mpr hno)
      refine ⟨t, ht, hframe, hx, htag, fun n j hj => ?_⟩
      have same : ((n = e ∨ s.copyK e = some n) ∧ n ≠ 0 ∧ j ∈ s.actives k s.es) ↔
          (n = e ∨ (copies = true ∧ n = ck)) ∧ n ≠ 0 ∧ p j := by
        rw [copyK_iff hv hc, mem_actives_prefixed hfm hv]
      rw [rK_of_overrides hov, rK_of_overrides ho]
      have bit := bits n j hj
      refine ⟨fun h => ?_, fun h => ?_⟩
      · rw [if_neg h.2.1, bit, if_pos (same.mpr h)]
      · by_cases h0 : n = 0
        · rw [if_pos h0, if_pos h0]
        · rw [if_neg h0, if_neg h0, bit, if_neg (fun h' => h (same.mp h'))]

/-- Settles O17: PFX itself, successors without effect, and the effects of the others. -/
theorem prefixes : Obligations.Prefixes := ⟨prefixBecomesPending, falsePredicateHasNoEffect, prefixedResults⟩

end Sys2Proof.Proofs
end

section
/-! Vector configuration (R16, R23, R99, R100). -/

namespace Sys2Proof.Machine

/-- Whether a word of vtype names a legal configuration (R16, R40). -/
def vtypeLegal (vt : BitVec 5) : Prop :=
  (vt.extractLsb' 0 3).toNat ≤ 5 ∧ (vt.extractLsb' 3 2 = 0 ∨ vt.extractLsb' 0 3 = 1 ∨ vt.extractLsb' 0 3 = 2)

/-- The VLMAXE of a grant under a word of vtype (R15). -/
def vlmaxOf (vt : BitVec 5) (grant : Nat) : Nat :=
  if sewBits (vt.extractLsb' 0 3).toNat = 0 then 0 else min (grant * 1024 / sewBits (vt.extractLsb' 0 3).toNat) 4096

/-- n elements rounded down to whole blocks (R99). -/
def wholeBlocks (vt : BitVec 5) (n : Nat) : Nat :=
  if blockLen (vt.extractLsb' 3 2).toNat = 0 then n else n - n % blockLen (vt.extractLsb' 3 2).toNat

theorem sewBits_ne_zero {c : Nat} (h : c ≤ 5) : sewBits c ≠ 0 := by
  interval_cases c <;> decide

/-- The configuration that a word asks for, before its check (R99). -/
def Vec.asked (vt : BitVec 5) (ask : Option Nat) (v : Vec) : Vec :=
  { v with
    bl := vt.extractLsb' 3 2, sew := vt.extractLsb' 0 3, vill := false, vdirty := v.vdirty ||| xOf (2 ^ 44)
    vl := xOf (wholeBlocks vt (match ask with
      | some n => min n (vlmaxOf vt v.grant)
      | none => vlmaxOf vt v.grant)) }

theorem Vec.configure_eq (vt : BitVec 5) (ask : Option Nat) (v : Vec) : v.configure vt ask =
    if (v.asked vt ask).illegal then { v.asked vt ask with vl := 0, vill := true } else v.asked vt ask := rfl

theorem wholeBlocks_le (vt : BitVec 5) (n : Nat) : wholeBlocks vt n ≤ n := by
  unfold wholeBlocks
  split <;> omega

theorem wholeBlocks_mod (vt : BitVec 5) (n : Nat) (h : blockLen (vt.extractLsb' 3 2).toNat ≠ 0) :
    wholeBlocks vt n % blockLen (vt.extractLsb' 3 2).toNat = 0 := by
  rw [wholeBlocks, if_neg h]
  exact Nat.sub_mod_eq_zero_of_mod_eq (Nat.mod_mod _ _).symm

theorem blockLen_eq_zero (bl : BitVec 2) : blockLen bl.toNat = 0 ↔ bl = 0 := by
  revert bl
  decide

/-- n elements rounded down to whole blocks, as a product (R99). -/
theorem wholeBlocks_eq (vt : BitVec 5) (n : Nat) : wholeBlocks vt n = if vt.extractLsb' 3 2 = 0 then n
    else n / blockLen (vt.extractLsb' 3 2).toNat * blockLen (vt.extractLsb' 3 2).toNat := by
  unfold wholeBlocks
  simp only [blockLen_eq_zero]
  split
  · rfl
  · have := Nat.div_add_mod n (blockLen (vt.extractLsb' 3 2).toNat)
    rw [Nat.mul_comm] at this
    omega

theorem vlmaxOf_le (vt : BitVec 5) (grant : Nat) : vlmaxOf vt grant ≤ 4096 := by
  unfold vlmaxOf
  split <;> omega

/-- The elements that a configuration is asked for: setvlm asks for all (R99). -/
theorem asked_elems (vt : BitVec 5) (ask : Option Nat) (grant : Nat) :
    (match ask with
      | some n => min n (vlmaxOf vt grant)
      | none => vlmaxOf vt grant) = min (ask.getD 4096) (vlmaxOf vt grant) := by
  have := vlmaxOf_le vt grant
  cases ask with
  | none => exact (Nat.min_eq_right this).symm
  | some n => rfl

theorem Vec.asked_vl (vt : BitVec 5) (ask : Option Nat) (v : Vec) :
    (v.asked vt ask).vl.toNat = wholeBlocks vt (min (ask.getD 4096) (vlmaxOf vt v.grant)) := by
  have h1 := wholeBlocks_le vt (min (ask.getD 4096) (vlmaxOf vt v.grant))
  have h2 := vlmaxOf_le vt v.grant
  have eq : (v.asked vt ask).vl = xOf (wholeBlocks vt (min (ask.getD 4096) (vlmaxOf vt v.grant))) := by
    rw [← asked_elems]
    rfl
  rw [eq]
  exact Nat.mod_eq_of_lt (by omega)

/-- The check of a configuration (R16). -/
theorem Vec.asked_illegal (vt : BitVec 5) (ask : Option Nat) (v : Vec) : (v.asked vt ask).illegal = true ↔ ¬vtypeLegal vt := by
  have hvl := v.asked_vl vt ask
  have hle := wholeBlocks_le vt (min (ask.getD 4096) (vlmaxOf vt v.grant))
  have hmod := wholeBlocks_mod vt (min (ask.getD 4096) (vlmaxOf vt v.grant))
  have hmax : (v.asked vt ask).vlmaxe = vlmaxOf vt v.grant := rfl
  have within : ¬(v.asked vt ask).vlmaxe < (v.asked vt ask).vl.toNat := by omega
  have blocks : ((v.asked vt ask).bl != 0 && (v.asked vt ask).vl.toNat % blockLen (v.asked vt ask).bl.toNat != 0) = false := by
    rw [hvl]
    show ((vt.extractLsb' 3 2) != 0 && _ % blockLen (vt.extractLsb' 3 2).toNat != 0) = false
    by_cases hb : vt.extractLsb' 3 2 = 0
    · simp [hb]
    · rw [hmod (by rwa [Ne, blockLen_eq_zero])]
      exact Bool.and_false _
  unfold Vec.illegal
  simp only [blocks, within, decide_false, Bool.or_false, Bool.or_eq_true, decide_eq_true_eq, Bool.and_eq_true, bne_iff_ne]
  show (6 ≤ (vt.extractLsb' 0 3).toNat ∨ (vt.extractLsb' 3 2 ≠ 0 ∧ vt.extractLsb' 0 3 ≠ 1) ∧ vt.extractLsb' 0 3 ≠ 2) ↔ _
  unfold vtypeLegal
  simp only [not_and_or, not_or, not_le, and_assoc]
  rfl

/-- A configuration changes vl, vtype and their dirty bit only (R99). -/
theorem Vec.configure_frame (vt : BitVec 5) (ask : Option Nat) (v : Vec) : ∃ vl vill dirty, v.configure vt ask =
    { v with bl := vt.extractLsb' 3 2, sew := vt.extractLsb' 0 3, vl := vl, vill := vill, vdirty := dirty } := by
  rw [Vec.configure_eq]
  split
  · exact ⟨_, _, _, rfl⟩
  · exact ⟨_, _, _, rfl⟩

/-- A legal configuration (R16, R99). -/
theorem Vec.configure_legal {vt : BitVec 5} (h : vtypeLegal vt) (ask : Option Nat) (v : Vec) :
    (v.configure vt ask).vill = false ∧ (v.configure vt ask).vl.toNat = wholeBlocks vt (min (ask.getD 4096) (vlmaxOf vt v.grant)) := by
  rw [Vec.configure_eq, if_neg (fun hi => (v.asked_illegal vt ask).mp hi h)]
  exact ⟨rfl, v.asked_vl vt ask⟩

/-- An illegal configuration (R16, R99). -/
theorem Vec.configure_illegal {vt : BitVec 5} (h : ¬vtypeLegal vt) (ask : Option Nat) (v : Vec) :
    (v.configure vt ask).vill = true ∧ (v.configure vt ask).vl = 0 := by
  rw [Vec.configure_eq, if_pos ((v.asked_illegal vt ask).mpr h)]
  exact ⟨rfl, rfl⟩

/-! ### setvl and setvlm -/

/-- What setvl and setvlm ask for (R99): setvlm first writes lanes.req. -/
def State.asking (s : State) (a : BitVec 5) (isM : Bool) : State :=
  if isM then s.modHart fun h => { h with lanesReq := BitVec.ofNat 5 (min (s.rX a).toNat 16) } else s

/-- The state with a grant and a configuration (R99, R100). -/
def State.configured (s : State) (groups : List Nat) (vt : BitVec 5) (ask : Option Nat) : State :=
  (s.setGrant groups).modVec (Vec.configure vt ask)

theorem State.newGroups_asking (s : State) (a : BitVec 5) (isM : Bool) (req : Nat) : (s.asking a isM).newGroups req = s.newGroups req := by
  cases isM <;> rfl

theorem State.asking_frame (s : State) (a : BitVec 5) (isM : Bool) : ∃ r, s.asking a isM = s.modHart fun h => { h with lanesReq := r } := by
  cases isM
  · exact ⟨s.me.hart.lanesReq, rfl⟩
  · exact ⟨_, rfl⟩

/-- setvl and setvlm once lanes.req is written (R99, R100). -/
def setvlBody (d vt : BitVec 5) (ask : Option Nat) (npc : X) : M X := do
  let u ← get
  let req := u.me.hart.lanesReq.toNat
  let groups := u.newGroups req
  require (!(groups.isEmpty && decide (0 < req))) 0x181 (xOf req)
  if groups.length ≠ u.me.vec.grant && decide (u.cycle < u.vecBusy) then throw (.unit u.vecBusy)
  modify fun w => w.configured groups vt ask
  let w ← get
  putX d w.me.vec.vl false 1 true
  pure npc

theorem setvlOp_eq_body {s : State} (h : s.settled) (ho : s.owns = true) (st : BitVec 3) (d a vt : BitVec 5) (isM : Bool) :
    setvlOp st d a vt isM s =
      match setvlBody d vt (if isM then none else some (s.rX a).toNat) (s.pc + 4) (s.asking a isM) with
      | (.ok npc, t) => .next (t.complete st 0 npc)
      | (.error r, t) => .next (t.stopBy r) := by
  obtain ⟨hl, hp, -, hv, -⟩ := h
  unfold setvlOp
  rw [runScalar_plain _ _ s hl hp hv (by simp) (by simp [State.vecDenied, ho]) rfl]
  cases isM <;> rfl

/-- A request that no free lane group meets (R99). -/
theorem setvlBody_unmet {u : State} (d vt : BitVec 5) (ask : Option Nat) (npc : X) (hg : u.newGroups u.me.hart.lanesReq.toNat = [])
    (hr : u.me.hart.lanesReq ≠ 0) :
    setvlBody d vt ask npc u = (.error (.trap { code := 0x181, tval := u.me.hart.lanesReq.setWidth 64 }), u) := by
  have pos : 0 < u.me.hart.lanesReq.toNat := Nat.pos_of_ne_zero fun h => hr (BitVec.eq_of_toNat_eq h)
  unfold setvlBody
  rw [M.bind_get]
  dsimp only
  rw [M.bind_require, hg, Proofs.xOf_toNat]
  simp [pos]

/-- A request that is met, with no earlier vector work in the way of a new grant (R99, R100). -/
theorem setvlBody_met {u : State} (hv : u.me.hart.pv = false) (d vt : BitVec 5) (ask : Option Nat) (npc : X) {groups : List Nat}
    (hg : u.newGroups u.me.hart.lanesReq.toNat = groups) (hr : groups ≠ [] ∨ u.me.hart.lanesReq = 0)
    (hb : groups.length ≠ u.me.vec.grant → u.vecBusy ≤ u.cycle) :
    setvlBody d vt ask npc u =
      (.ok npc, (u.configured groups vt ask).wXat d (u.configured groups vt ask).me.vec.vl false 1 true) := by
  have met : (!(groups.isEmpty && decide (0 < u.me.hart.lanesReq.toNat))) = true := by
    rcases hr with hr | hr <;> simp [hr]
  have idle : (decide (groups.length ≠ u.me.vec.grant) && decide (u.cycle < u.vecBusy)) = false := by
    by_cases h : groups.length = u.me.vec.grant
    · simp [h]
    · simp [hb h]
  have pv : (u.configured groups vt ask).me.hart.pv = false := by
    unfold State.configured State.setGrant
    split <;> exact hv
  unfold setvlBody
  rw [M.bind_get]
  dsimp only
  rw [M.bind_require, hg, if_pos met, idle, if_neg Bool.false_ne_true, M.bind_modify, M.bind_get,
    M.bind_of_ok (putX_plain _ _ _ _ _ _ pv)]
  rfl

/-- What a new grant leaves of the state, its v registers aside (R23, R100). -/
theorem State.setGrant_frame (groups : List Nat) (s : State) :
    ∃ f v phys pregs dirty gs, s.setGrant groups = { s with
      fife := f
      me := { s.me with vec := { s.me.vec with v := v, phys := phys, pregs := pregs, vdirty := dirty, groups := gs } } } ∧
      gs.length = groups.length ∧ (groups.length = s.me.vec.grant → v = s.me.vec.v) ∧
      (groups.length ≠ s.me.vec.grant → v = Vector.replicate 32 0) := by
  unfold State.setGrant
  split
  case isTrue h => exact ⟨s.fife, _, _, _, _, s.me.vec.groups, rfl, h.symm, fun _ => rfl, fun h' => absurd h h'⟩
  case isFalse h => exact ⟨_, _, _, _, _, groups, rfl, rfl, fun h' => absurd h' h, fun _ => rfl⟩

end Sys2Proof.Machine
end

section
/-! setvl and setvlm (R23, R99, R100). -/

namespace Sys2Proof.Machine

/-- A hart after setvl or setvlm asked for elements with a request that is met (R23, R99, R100). -/
structure State.configuredBy (s t : State) (d vt : BitVec 5) (groups : List Nat) (ask : Nat) (lanesReq : BitVec 5) : Prop where
  pc : t.pc = s.pc + 4
  mem : t.mem = s.mem
  sew : t.me.vec.sew = vt.extractLsb' 0 3
  bl : t.me.vec.bl = vt.extractLsb' 3 2
  lanesReq : t.me.hart.lanesReq = lanesReq
  status : t.me.hart.status = s.me.hart.status
  grant : t.me.vec.grant = groups.length
  masks : t.me.vec.k = s.me.vec.k
  keeps : groups.length = s.me.vec.grant → t.me.vec.v = s.me.vec.v
  clears : groups.length ≠ s.me.vec.grant → t.me.vec.v = Vector.replicate 32 0
  legal : vtypeLegal vt → t.me.vec.vill = false ∧ t.me.vec.vl.toNat = wholeBlocks vt (min ask (vlmaxOf vt groups.length))
  illegal : ¬vtypeLegal vt → t.me.vec.vill = true ∧ t.me.vec.vl = 0
  regs : ∀ r, t.rX r = if r = d ∧ d ≠ 0 then t.me.vec.vl else s.rX r

/-- A result of latency 1, in what an instruction leaves. -/
theorem afterX_one (d : BitVec 5) (v : X) (tag : Bool) (st : BitVec 3) (delay : Nat) (npc : X) (s : State) :
    s.afterX d v tag 1 true st delay npc = (s.after st delay npc).modHart fun h =>
      { h with x := (s.me.hart.withX d v tag).x, xtag := (s.me.hart.withX d v tag).xtag, pend := [] } := by
  unfold State.afterX Hart.withX
  by_cases hd : d = 0
  · simp only [hd, if_true]
    rfl
  · simp only [hd, if_false]
    rfl

/-- The x registers after a result. -/
theorem rX_of_withX {s t : State} {h : Hart} {d : BitVec 5} {v : X} {tag : Bool} (hs : s.me.hart.overrides = [])
    (ht : t.me.hart.overrides = []) (hx : t.me.hart.x = (h.withX d v tag).x) (hh : h.x = s.me.hart.x) (n : BitVec 5) :
    t.rX n = if n = d ∧ d ≠ 0 then v else s.rX n := by
  rw [rX_of_overrides ht, rX_of_overrides hs, hx, Hart.getElem_withX, hh]
  by_cases h0 : n = 0
  · rw [if_pos h0, if_pos h0, if_neg]
    rintro ⟨rfl, hd⟩
    exact hd h0
  · rw [if_neg h0, if_neg h0]

/-- setvl and setvlm where the request is met. -/
theorem setvlOp_configures {s : State} (h : s.settled) (ho : s.owns = true) (st : BitVec 3) (d a vt : BitVec 5) (isM : Bool)
    {req : BitVec 5} (hreq : (s.asking a isM).me.hart.lanesReq = req) {groups : List Nat} (hg : s.newGroups req.toNat = groups)
    (hr : groups ≠ [] ∨ req = 0) (hb : groups.length ≠ s.me.vec.grant → s.vecBusy ≤ s.cycle) :
    ∃ t, setvlOp st d a vt isM s = .next t ∧
      s.configuredBy t d vt groups (if isM then 4096 else (s.rX a).toNat) req := by
  obtain ⟨ask, hask⟩ : ∃ ask, ask = if isM then none else some (s.rX a).toNat := ⟨_, rfl⟩
  have elems : (if isM then 4096 else (s.rX a).toNat) = ask.getD 4096 := by rw [hask]; cases isM <;> rfl
  rw [setvlOp_eq_body h ho, elems, ← hask]
  obtain ⟨hl, hp, hov, hv, hs⟩ := h
  obtain ⟨r, hu⟩ := s.asking_frame a isM
  have hr' : r = req := by rw [← hreq, hu]; rfl
  subst hr'
  rw [hu]
  rw [setvlBody_met (u := s.modHart fun h => { h with lanesReq := r }) hv d vt ask _ hg hr hb]
  obtain ⟨f, v, phys, pregs, dirty, gs, hgrant, hlen, hkeep, hclear⟩ := State.setGrant_frame groups
    (s.modHart fun h => { h with lanesReq := r })
  obtain ⟨v0, hv0⟩ : ∃ v0 : Vec, v0 = { s.me.vec with v := v, phys := phys, pregs := pregs, vdirty := dirty, groups := gs } := ⟨_, rfl⟩
  obtain ⟨vl, vill, dirty', hc⟩ := Vec.configure_frame vt ask v0
  have hgr : v0.grant = groups.length := by rw [hv0]; exact hlen
  have legal := fun hleg => Vec.configure_legal (vt := vt) hleg ask v0
  have illegal := fun hill => Vec.configure_illegal (vt := vt) hill ask v0
  rw [hc] at legal illegal
  have hw : (s.modHart fun h => { h with lanesReq := r }).configured groups vt ask =
      { s with
        fife := f
        me := { s.me with
          hart := { s.me.hart with lanesReq := r }
          vec := { v0 with bl := vt.extractLsb' 3 2, sew := vt.extractLsb' 0 3, vl := vl, vill := vill, vdirty := dirty' } } } := by
    unfold State.configured
    rw [hgrant, ← hc, hv0]
    rfl
  rw [hw]
  dsimp only
  rw [complete_wXat _ _ _ _ _ _ _ _ _ (by exact hp) (by exact hs), afterX_one]
  refine ⟨_, rfl, rfl, rfl, rfl, rfl, rfl, rfl, hgr, ?_, fun h => ?_, fun h => ?_, hgr ▸ legal, illegal, fun n => ?_⟩
  · rw [hv0]
    rfl
  · rw [hv0]
    exact hkeep h
  · rw [hv0]
    exact hclear h
  · exact rX_of_withX (h := { s.me.hart with lanesReq := r }) (tag := false) hov rfl rfl rfl n

end Sys2Proof.Machine

namespace Sys2Proof.Proofs
open Sys2Proof.Machine Sys2Proof.Cert

/-- Settles O36: setvl and setvlm where the request is met and where it is not. -/
theorem vectorConfiguration : Obligations.VectorConfiguration := by
  intro s st d a vt h ho sew bl block legal configured ready n own mine wide
  have met : ∀ {i : Instr} {isM : Bool} {groups : List Nat} {req : BitVec 5}, exec i s = setvlOp st d a vt isM s →
      (s.asking a isM).me.hart.lanesReq = req → s.newGroups req.toNat = groups → groups ≠ [] ∨ req = 0 → ready groups →
      configured i groups (if isM then 4096 else n) req := by
    intro i isM groups req hi hreq hg hr hb
    obtain ⟨t, ht, c⟩ := setvlOp_configures h ho st d a vt isM hreq hg hr hb
    refine ⟨t, hi.trans ht, c.pc, c.mem, c.sew, c.bl, c.lanesReq, c.status, c.grant, c.masks, c.keeps, fun hne n => ?_, fun hleg => ?_,
      c.illegal, c.regs⟩
    · simp [c.clears hne]
    · obtain ⟨hvill, hvl⟩ := c.legal hleg
      have hw : sewBits sew.toNat ≠ 0 := sewBits_ne_zero hleg.1
      refine ⟨hvill, ?_⟩
      rw [hvl, wholeBlocks_eq, vlmaxOf, if_neg hw]
  have wideReq : (BitVec.ofNat 5 (min n 16)).toNat = min n 16 := Nat.mod_eq_of_lt (by omega)
  refine ⟨fun hr hb => met (isM := false) rfl rfl rfl hr hb, fun hg hr => ?_,
    fun hr hb => met (isM := true) rfl rfl (by rw [wideReq]) (hr.imp_right ?_) hb, fun hg hr => ?_⟩
  · show setvlOp st d a vt false s = _
    rw [setvlOp_eq_body h ho, setvlBody_unmet (u := s.asking a false) d vt _ _ hg hr]
    rfl
  · intro hn
    rw [hn]
    rfl
  · have hreq : (s.asking a true).me.hart.lanesReq ≠ 0 := fun h => by
      have := congrArg BitVec.toNat h
      rw [show (s.asking a true).me.hart.lanesReq.toNat = min n 16 from wideReq] at this
      simp at this
      omega
    have hgroups : (s.asking a true).newGroups (s.asking a true).me.hart.lanesReq.toNat = [] := by
      rw [State.newGroups_asking]
      rw [show (s.asking a true).me.hart.lanesReq.toNat = min n 16 from wideReq]
      exact hg
    have tval : (BitVec.ofNat 5 (min n 16)).setWidth 64 = BitVec.ofNat 64 (min n 16) := by
      apply BitVec.eq_of_toNat_eq
      rw [BitVec.toNat_setWidth, wideReq]
      rfl
    show setvlOp st d a vt true s = _
    rw [setvlOp_eq_body h ho, setvlBody_unmet d vt _ _ hgroups hreq, ← tval]
    rfl

end Sys2Proof.Proofs
end

section
/-! Events of one slot: the ends of waits, the half-rate window and asynchronous traps (R20, R68, R157, R178, R193, R214, R215, R283). -/

namespace Sys2Proof.Machine
open Sys2Proof.Cert

/-! ### Slots -/

/-- The slot that a focus puts in front is that of the core and index. -/
theorem State.focus_key (s : State) (core idx : Nat) : (s.focus core idx).me.core = core ∧ (s.focus core idx).me.idx = idx := by
  unfold State.focus
  split
  case isTrue h => exact h
  case isFalse h =>
    show ((s.others.find? fun o => o.core == core && o.idx == idx).getD (Slot.empty core idx)).core = core ∧
      ((s.others.find? fun o => o.core == core && o.idx == idx).getD (Slot.empty core idx)).idx = idx
    rcases hf : s.others.find? (fun o => o.core == core && o.idx == idx) with _ | o
    · rw [hf]
      exact ⟨rfl, rfl⟩
    · rw [hf]
      have := List.find?_some hf
      rw [Bool.and_eq_true, beq_iff_eq, beq_iff_eq] at this
      exact this

/-- A focus moves slots only. -/
theorem State.focus_frame (s : State) (core idx : Nat) : ∃ me others, s.focus core idx = { s with me := me, others := others } := by
  unfold State.focus
  split
  · exact ⟨s.me, s.others, rfl⟩
  · exact ⟨_, _, rfl⟩

/-- The slot in focus after every slot has changed. -/
theorem State.focus_mapSlots_me {f : Slot → Slot} (hf : ∀ o, (f o).core = o.core ∧ (f o).idx = o.idx) (core idx : Nat)
    (he : f (Slot.empty core idx) = Slot.empty core idx) (s : State) :
    ((s.mapSlots f).focus core idx).me = f (s.focus core idx).me := by
  have key : ∀ o, ((f o).core == core && (f o).idx == idx) = (o.core == core && o.idx == idx) := fun o => by rw [(hf o).1, (hf o).2]
  unfold State.focus
  show (if (f s.me).core = core ∧ (f s.me).idx = idx then _ else _ : State).me = _
  rw [(hf s.me).1, (hf s.me).2]
  split
  · rfl
  · show (((s.others.map f).find? fun o => o.core == core && o.idx == idx).getD (Slot.empty core idx)) = _
    rw [List.find?_map]
    rcases hfind : s.others.find? (fun o => o.core == core && o.idx == idx) with _ | o
    · simp [key, hfind, he]
    · simp [key, hfind]

/-- What an acquire changes: the table, the registers freed and what streams have read ahead. -/
theorem State.acquire_frame (s : State) : ∃ f r b, s.acquire = { s with
    fife := f
    me := { s.me with vec := { s.me.vec with pregs := r, streams := b } } } := by
  obtain ⟨f, c, h, -⟩ : s.frees (s.dropLoads fun l => !l.isPrivate) := by
    unfold State.dropLoads
    split
    · exact State.dropEntries_frees _ s
    · exact .refl s
  unfold State.acquire State.keepAhead
  rw [h]
  split
  · exact ⟨_, _, _, rfl⟩
  · exact ⟨_, _, _, rfl⟩

/-! ### The half-rate window -/

theorem State.coreSt_id (s : State) (core : Nat) : (s.coreSt core).id = core := by
  unfold State.coreSt
  rcases h : s.cores.find? (fun k => k.id == core) with _ | k
  · rw [h]
    rfl
  · rw [h]
    exact beq_iff_eq.mp (List.find?_some (p := fun k : CoreSt => k.id == core) h)

theorem State.coreSt_setCore (k : CoreSt) (s : State) : (s.setCore k).coreSt k.id = k := by
  unfold State.coreSt State.setCore
  have gone : (s.cores.filter fun o => o.id != k.id).find? (fun o => o.id == k.id) = none := by
    simp [List.find?_eq_none]
  simp [List.find?_append, gone]

end Sys2Proof.Machine

namespace Sys2Proof.Proofs
open Sys2Proof.Machine Sys2Proof.Cert

theorem waitmExpiry_releases (s : State) (core slot : Nat) : slotsBecome s (.waitmExpiry core slot) (fun o =>
    match o.hart.wait with
    | some (.meridian t) => if (o.core == core && o.idx == slot) = true ∧ o.live ∧ t.toNat ≤ s.cycle then o.wake s.cycle else o
    | _ => o) := by
  show Host.Outcome.next (s.mapSlots _) = _
  congr 2
  funext o
  rcases hw : o.hart.wait with _ | w
  · simp
  · cases w <;> simp [and_assoc]

/-- Whether a wait at a watermark is over (R214). -/
def covered (s : State) (w : Wait) : Bool :=
  match w with
  | .watermark n c => decide (c ≤ (s.watermark n).count.toNat)
  | _ => false

theorem watermarkWaitEnd_releases (s : State) (core slot b c : Nat) (hl : (s.focus core slot).me.live = true)
    (hw : (s.focus core slot).me.hart.wait = some (.watermark b c)) (hc : c ≤ (s.watermark b).count.toNat)
    (hm : (s.focus core slot).me ∈ s.slots) :
    ∃ t, exec (.watermarkWaitEnd core slot) s = .next t ∧ t.me.hart = ((s.focus core slot).me.wake s.cycle).hart ∧ t.mem = s.mem ∧
      t.tags = s.tags := by
  obtain ⟨hcore, hidx⟩ := s.focus_key core slot
  have ended : (s.focus core slot).me.hart.wait.any (covered s) = true := by simp [hw, covered, hc]
  have due : s.slots.any (fun o => o.core == core && o.idx == slot && o.live && o.hart.wait.any (covered s)) = true :=
    List.any_eq_true.mpr ⟨_, hm, by simp [hcore, hidx, hl, ended]⟩
  have run : exec (.watermarkWaitEnd core slot) s = .next ((s.wakeSlot core slot (covered s)).focus core slot).acquire := if_pos due
  obtain ⟨f, r, st, hacq⟩ := State.acquire_frame ((s.wakeSlot core slot (covered s)).focus core slot)
  obtain ⟨me, others, hfoc⟩ := State.focus_frame (s.wakeSlot core slot (covered s)) core slot
  refine ⟨_, run, ?_, ?_, ?_⟩
  · rw [hacq]
    show ((s.wakeSlot core slot (covered s)).focus core slot).me.hart = _
    unfold State.wakeSlot
    rw [State.focus_mapSlots_me (fun o => by split <;> exact ⟨rfl, rfl⟩) core slot (by simp [Slot.empty])]
    simp [hcore, hidx, hl, ended]
  · rw [hacq, hfoc]; rfl
  · rw [hacq, hfoc]; rfl

theorem meridianAlarm_ends (s : State) (core slot : Nat) (hl : (s.slotAt core slot).live = true)
    (hr : s.runs (s.slotAt core slot).hart.pid = true) (hw : (s.slotAt core slot).hart.wait = some .wfi)
    (ha : s.alarmDue (s.slotAt core slot).hart = true) :
    exec (.meridianAlarm core slot) s = .next (((s.focus core slot).modHart fun r => { r with wait := none }).complete
      ((s.focus core slot).me.hart.word.extractLsb' 23 3) 0 ((s.focus core slot).me.hart.pc + 4)) :=
  if_pos (by simp [State.alarmWakes, hl, hr, hw, ha])

theorem lockPlaced_completes (s : State) (core slot id : Nat) (g : X) (l : LockEntry) (hl : (s.focus core slot).me.live = true)
    (hw : (s.focus core slot).me.hart.wait = some (.plock id g))
    (hf : (s.focus core slot).locks.find? (fun q => q.id == id && !q.placed &&
      q.heldBy (s.focus core slot).me.hart.pid (s.focus core slot).me.hart.hid) = some l)
    (hb : (s.focus core slot).lockHeldBack (s.focus core slot).me.hart.pid (s.focus core slot).me.hart.hid l.handle = false) :
    exec (.lockPlaced core slot) s = .next (({ ((s.focus core slot).modHart fun r => { r with wait := none }).dropPlocker
        (s.focus core slot).me.hart.pid (s.focus core slot).me.hart.hid with
      locks := (s.focus core slot).locks.map fun q => if q.id = id then { q with placed := true } else q } : State).acquire.complete
        ((s.focus core slot).me.hart.word.extractLsb' 23 3) 0 ((s.focus core slot).me.hart.pc + 4)) := by
  show execLockPlaced core slot s = _
  unfold execLockPlaced
  simp only [hl, hw, hf, hb, Bool.false_eq_true, if_false]
  rfl

theorem raceEnd_ends (s : State) (core slot c : Nat) (hc : (s.focus core slot).me.vec.raceEnd = some c)
    (hd : c ≤ (s.focus core slot).cycle) : exec (.raceEnd core slot) s =
      .next (((s.focus core slot).modVec fun v => { v with raceEnd := none }).modHart (Hart.count 9 1)) := by
  show execRaceEnd core slot s = _
  unfold execRaceEnd
  simp only [hc, hd, if_true]

theorem halfRateWindow_ends (s : State) (core : Nat) (h0 : (s.coreSt core).halfUntil ≠ 0) (hd : (s.coreSt core).halfUntil ≤ s.cycle) :
    ∃ t, exec (.halfRateWindow core) s = .next t ∧ t = { s with cores := t.cores } ∧
      t.coreSt core = { s.coreSt core with halfUntil := 0 } := by
  refine ⟨_, if_pos ⟨h0, hd⟩, rfl, ?_⟩
  have := State.coreSt_setCore { s.coreSt core with halfUntil := 0 } s
  rw [show ({ s.coreSt core with halfUntil := 0 } : CoreSt).id = core from s.coreSt_id core] at this
  exact this

/-- An asynchronous trap gives up the hart's reserved locks and its places (R178, R217, R287; log entry 64). -/
theorem asynchronousTrap_taken (s : State) (core slot : Nat) (hd : s.asyncDue (s.slotAt core slot) = true) :
    let u := s.focus core slot
    let h := u.me.hart
    let x := ((u.dropReserved u.pid h.hid).dropPlocker u.pid h.hid).dropPortWait u.pid h.hid
    (∀ a, firstAsync h.async = some a →
      exec (.asynchronousTrap core slot) s = .next ((x.modHart fun r => { r with async := r.async.erase a }).enterTrap true h.pc
        { code := a.code, tval := a.tval, info0 := a.info0, info1 := a.info1 })) ∧
    (h.async = [] → ∃ v, exec (.asynchronousTrap core slot) s =
      .next (({ x with fresh := x.fresh + 1 } : State).enterTrap true h.pc { code := 0x382, tval := v })) := by
  intro u h x
  have run : exec (.asynchronousTrap core slot) s = match firstAsync h.async with
      | some a => .next ((x.modHart fun r => { r with async := r.async.erase a }).enterTrap true h.pc
          { code := a.code, tval := a.tval, info0 := a.info0, info1 := a.info1 })
      | none => .next (({ x with fresh := x.fresh + 1 } : State).enterTrap true h.pc
          { code := 0x382, tval := Config.freeWord x.fresh }) := if_pos hd
  refine ⟨fun a ha => ?_, fun ha => ⟨Config.freeWord x.fresh, ?_⟩⟩
  · rw [run, ha]
  · rw [run, ha]
    rfl

theorem illegalInstruction_traps (s : State) (w : BitVec 32) (hl : s.me.live = true) :
    exec (.illegalInstruction w) s = .next (s.enterTrap false s.pc
      { code := if w = 0#32 ∨ w = 0xFFFFFFFF#32 then 0x001 else 0x000, tval := w.setWidth 64 }) :=
  runM_trap _ _ _ s s hl rfl

end Sys2Proof.Proofs
end

section
/-! The release of a barrier phase (R210, R224). -/

namespace Sys2Proof.Machine
open Sys2Proof.Cert

/-- The core and index of a slot. -/
def Slot.key (o : Slot) : Nat × Nat := (o.core, o.idx)

/-- The keys of the slots. -/
def State.keys (s : State) : List (Nat × Nat) := s.slots.map Slot.key

theorem eq_of_key {l : List Slot} (hn : (l.map Slot.key).Nodup) {o q : Slot} (ho : o ∈ l) (hq : q ∈ l) (h : o.key = q.key) : o = q :=
  List.inj_on_of_nodup_map hn ho hq h

/-- The focus on a listed slot: that slot, with every other one listed behind it. -/
theorem State.focus_listed {s : State} (hn : s.keys.Nodup) {o : Slot} (ho : o ∈ s.slots) :
    ∃ l, s.focus o.core o.idx = { s with me := o, others := l } ∧ ((o :: l).map Slot.key).Nodup ∧ ∀ q ∈ s.slots, q ∈ o :: l := by
  obtain ⟨hme, hothers⟩ := List.nodup_cons.mp (show (s.me.key :: s.others.map Slot.key).Nodup from hn)
  unfold State.focus
  split
  case isTrue h =>
    have : s.me = o := eq_of_key hn (List.mem_cons_self ..) ho (Prod.ext h.1 h.2)
    exact ⟨s.others, this ▸ rfl, this ▸ hn, fun q hq => this ▸ hq⟩
  case isFalse h =>
    have ho' : o ∈ s.others := (List.mem_cons.mp ho).resolve_left fun he => h (he ▸ ⟨rfl, rfl⟩)
    have here : ∀ q : Slot, (q.core == o.core && q.idx == o.idx) = true ↔ q.key = o.key := fun q => by
      simp [Slot.key, Prod.ext_iff]
    obtain ⟨q, hq⟩ : ∃ q, s.others.find? (fun q => q.core == o.core && q.idx == o.idx) = some q :=
      Option.isSome_iff_exists.mp (List.find?_isSome.mpr ⟨o, ho', (here o).mpr rfl⟩)
    have hqo : q = o := eq_of_key hothers (List.mem_of_find?_eq_some hq) ho' ((here q).mp (by
      simpa using List.find?_some (p := fun q : Slot => q.core == o.core && q.idx == o.idx) hq))
    refine ⟨s.me :: s.others.filter fun q => !(q.core == o.core && q.idx == o.idx), by simp only [hq, hqo]; rfl, ?_, fun q hq => ?_⟩
    · refine List.nodup_cons.mpr ⟨?_, List.nodup_cons.mpr ⟨?_, hothers.sublist (List.filter_sublist.map _)⟩⟩
      · rw [List.map_cons, List.mem_cons, not_or]
        refine ⟨fun he => h ?_, ?_⟩
        · exact ⟨congrArg Prod.fst he.symm, congrArg Prod.snd he.symm⟩
        · rintro hm
          obtain ⟨r, hr, hk⟩ := List.mem_map.mp hm
          have := (List.mem_filter.mp hr).2
          rw [Bool.not_eq_true', ← Bool.not_eq_true, here] at this
          exact this hk
      · rintro hm
        obtain ⟨r, hr, hk⟩ := List.mem_map.mp hm
        exact hme (List.mem_map.mpr ⟨r, (List.mem_filter.mp hr).1, hk⟩)
    · rcases List.mem_cons.mp hq with rfl | hq
      · simp
      · by_cases hk : q.key = o.key
        · exact eq_of_key hothers hq ho' hk ▸ List.mem_cons_self ..
        · refine List.mem_cons_of_mem _ (List.mem_cons_of_mem _ (List.mem_filter.mpr ⟨hq, ?_⟩))
          rwa [Bool.not_eq_true', ← Bool.not_eq_true, here]

/-- The hart of a slot whose wait ends with the completion of its instruction in a cycle (R7, R54). -/
def Slot.completed (o : Slot) (s : State) : Hart :=
  (({ s with me := { o with hart := { o.hart with wait := none } } } : State).after (o.hart.word.extractLsb' 23 3) 0 (o.hart.pc + 4)).me.hart

/-- The completion of one waiting hart, with its acquire. -/
theorem completeWait_listed {s : State} (hn : s.keys.Nodup) {o : Slot} (ho : o ∈ s.slots) (hs : (o.hart.ss && !o.hart.prv) = false) :
    let t := (s.focus o.core o.idx).acquire.completeWait
    t.mem = s.mem ∧ t.barriers = s.barriers ∧ t.cycle = s.cycle ∧ t.keys.Nodup ∧ (∀ q ∈ s.slots, q.key ≠ o.key → q ∈ t.slots) ∧
      ∃ q ∈ t.slots, q.key = o.key ∧ q.hart = o.completed s := by
  obtain ⟨l, hf, hk, hm⟩ := State.focus_listed hn ho
  obtain ⟨f, r, b, ha⟩ := State.acquire_frame (s.focus o.core o.idx)
  rw [ha, hf]
  unfold State.completeWait
  rw [complete_eq_after _ _ _ _ (by exact hs)]
  exact ⟨rfl, rfl, rfl, hk, fun q hq hne => List.mem_cons_of_mem _ ((List.mem_cons.mp (hm q hq)).resolve_left fun he => hne (he ▸ rfl)),
    _, List.mem_cons_self .., rfl, rfl⟩

/-- The completion of several waiting harts, each with its acquire. -/
theorem completeWaits_listed (l : List Slot) {s : State} (hn : s.keys.Nodup) (hl : ∀ o ∈ l, o ∈ s.slots) (hd : (l.map Slot.key).Nodup)
    (hs : ∀ o ∈ l, (o.hart.ss && !o.hart.prv) = false) :
    let t := l.foldl (fun t o => (t.focus o.core o.idx).acquire.completeWait) s
    t.mem = s.mem ∧ t.barriers = s.barriers ∧ t.cycle = s.cycle ∧ (∀ q ∈ s.slots, q.key ∉ l.map Slot.key → q ∈ t.slots) ∧
      ∀ o ∈ l, ∃ q ∈ t.slots, q.key = o.key ∧ q.hart = o.completed s := by
  induction l generalizing s with
  | nil => exact ⟨rfl, rfl, rfl, fun q hq _ => hq, by simp⟩
  | cons o rest ih =>
    obtain ⟨hfresh, hd⟩ := List.nodup_cons.mp hd
    obtain ⟨m1, b1, c1, n1, keep1, p, hp, hpk, hph⟩ := completeWait_listed hn (hl o (by simp)) (hs o (by simp))
    have apart : ∀ q ∈ rest, q.key ≠ o.key := fun q hq he => hfresh (he ▸ List.mem_map_of_mem hq)
    obtain ⟨m2, b2, c2, keep2, done2⟩ := ih n1 (fun q hq => keep1 q (hl q (by simp [hq])) (apart q hq)) hd
      (fun q hq => hs q (by simp [hq]))
    have completed : ∀ q : Slot, q.completed (s.focus o.core o.idx).acquire.completeWait = q.completed s := fun q => by
      unfold Slot.completed State.after
      simp only [c1]
    refine ⟨m2.trans m1, b2.trans b1, c2.trans c1, fun q hq hk => ?_, fun q hq => ?_⟩
    · rw [List.map_cons, List.mem_cons, not_or] at hk
      exact keep2 q (keep1 q hq hk.1) hk.2
    · rcases List.mem_cons.mp hq with rfl | hq
      · exact ⟨p, keep2 p hp (hpk ▸ hfresh), hpk, hph⟩
      · obtain ⟨r, hr, hrk, hrh⟩ := done2 q hq
        exact ⟨r, hr, hrk, hrh.trans (completed q)⟩

end Sys2Proof.Machine

namespace Sys2Proof.Proofs
open Sys2Proof.Machine Sys2Proof.Cert

theorem barrierPhaseRelease_completes (s : State) (n : Nat) (hn : s.keys.Nodup)
    (hs : ∀ o ∈ s.slots, s.passes n o = true → (o.hart.ss && !o.hart.prv) = false) :
    ∃ t, exec (.barrierPhaseRelease n) s = .next t ∧ t.mem = s.mem ∧ t.barriers = s.barriers ∧ t.cycle = s.cycle ∧
      ∀ o ∈ s.slots, (s.passes n o = false → o ∈ t.slots) ∧
        (s.passes n o = true → ∃ q ∈ t.slots, q.core = o.core ∧ q.idx = o.idx ∧ q.hart = o.completed s) := by
  obtain ⟨hm, hb, hc, keep, ends⟩ := completeWaits_listed (s.slots.filter (s.passes n)) hn (fun o ho => (List.mem_filter.mp ho).1)
    (hn.sublist (List.filter_sublist.map _)) (fun o ho => hs o (List.mem_filter.mp ho).1 (List.mem_filter.mp ho).2)
  refine ⟨_, rfl, hm, hb, hc, fun o ho => ⟨fun hp => keep o ho fun hk => ?_, fun hp => ?_⟩⟩
  · obtain ⟨q, hq, hqk⟩ := List.mem_map.mp hk
    obtain ⟨hq, hqp⟩ := List.mem_filter.mp hq
    rw [eq_of_key hn hq ho hqk, hp] at hqp
    cases hqp
  · obtain ⟨q, hq, hqk, hqh⟩ := ends o (List.mem_filter.mpr ⟨ho, hp⟩)
    exact ⟨q, hq, congrArg Prod.fst hqk, congrArg Prod.snd hqk, hqh⟩

end Sys2Proof.Proofs
end

section
/-! The race of a waiting dwlaunch.at (R192 to R194). -/

namespace Sys2Proof.Machine
open Sys2Proof.Cert

/-- A Dawn instruction of a ready hart that finds the array free: its body, the holding of the array and its completion (R188, R189). -/
theorem runDawn_runs {s t : State} (h : s.vectorReady) (hd : s.dawnFree) (q : DawnReq) (body : M Unit)
    (hw : q.width = 0 ∨ s.me.vec.width = q.width) (hb : body s = (.ok (), t)) :
    runDawn q body s = .next ((t.modVec fun v => { v with dawnHeld := true, dawnAt := s.cycle + q.ready }).clearKf.complete q.st 0 (s.pc + 4)) := by
  obtain ⟨hpv, -, -, -⟩ := h.plain
  have hr := h.runs
  obtain ⟨helse, hrace, hat⟩ := hd
  have gate : gate
      { st := q.st, srcs := q.vs.map .v ++ q.srcs, pfxOk := false, first := true, grant := q.vec, cfg := q.vec, scalar := false,
        shape := (q.width == 0 || s.me.vec.width == q.width) && q.vs.all (fun n => (s.me.vec.stream? n).isNone) } s = (.ok true, s) := by
    have hg : ¬s.me.vec.grant = 0 := by have := hr.grant_pos; omega
    have hwidth : (q.width == 0 || s.me.vec.width == q.width) = true := by simpa using hw
    rw [gate_plain _ s hr.pend hpv]
    simp [hr.allowed, hr.legal, hg, hwidth, Vec.stream?, hr.streams]
  unfold runDawn runM
  rw [if_pos hr.live]
  simp only [hrace, Option.getD_none, Nat.not_lt_zero, decide_false, Bool.and_false, Bool.false_eq_true, if_false, Nat.not_lt.mpr hat]
  rw [M.bind_of_ok gate, M.bind_get]
  have free : s.dawnElsewhere = none := helse
  simp only [free]
  rw [M.bind_of_ok (checkBound_of_streams hr.streams _), M.bind_of_ok hb, M.bind_modify, M.bind_modify]
  simp only [done, M.run_modify]

/-- The ticks of the lanes of a ready hart (R186, R192). -/
theorem laneTicks_eq {s : State} (h : s.vectorReady) (hw : s.me.vec.width = 16) (delays : Bool) (a b : BitVec 5) (k : BitVec 3) :
    s.laneTicks delays a b k = (List.range 1024).map (tick s delays a b k) := by
  obtain ⟨hpv, hfm, -, -⟩ := h.plain
  have ho := h.runs.overrides
  unfold State.laneTicks
  refine List.map_congr_left fun l _ => ?_
  have on : (decide (l < s.me.vec.vl.toNat) && s.masked k l && s.kfOk l) =
      decide (l < s.me.vec.vl.toNat ∧ (s.rK k).getLsbD l = true) := by
    simp [State.masked, State.pred, State.kfOk, hpv, hfm]
  have hx : getElem s.me.vec.grant 16 (s.rV a) l = s.elem a l := by rw [rV_of_overrides ho, State.elem, hw]
  have hy : getElem s.me.vec.grant 16 (s.rV b) l = s.elem b l := by rw [rV_of_overrides ho, State.elem, hw]
  rw [on, hx, hy]
  unfold tick dawnSum
  cases delays <;> grind

/-- A launch of a ready hart is a race of the array (R192, R193). -/
theorem launch_raced {s : State} (h : s.vectorReady) (hd : s.dawnFree) (hw : s.me.vec.width = 16) (hr : s.me.vec.dawn.rdy = true)
    (st : BitVec 3) (e : BitVec 1) (delays : Bool) (a b : BitVec 5) (k : BitVec 3) :
    ∃ v, runDawn (launchReq st e a b k false) (launch delays a b k) s = .next v ∧ raced s v delays a b k st := by
  obtain ⟨-, hfm, -, -⟩ := h.plain
  obtain ⟨t, ht⟩ : ∃ t, t = s.modVec fun v =>
      { v with
        dawn := Dawn.race (s.laneTicks delays a b k) v.dawn, vdirty := v.vdirty ||| xOf (2 ^ 44)
        raceEnd := some (s.cycle + raceCycles s.me.vec.dwin.toNat) } := ⟨_, rfl⟩
  have body : launch delays a b k s = (.ok (), t) := by
    unfold launch
    rw [M.bind_get, M.bind_require, if_pos hr]
    rw [ht]
    rfl
  refine ⟨_, runDawn_runs h hd _ _ (.inr hw) body, ?_⟩
  have hs := h.runs.noStep
  subst ht
  rw [clearKf_of_off (by exact hfm), complete_eq_after _ _ _ _ (by exact hs)]
  refine ⟨?_, fun n _ => rfl, rfl, rfl, rfl, fun j => ?_, fun j => ?_⟩
  · unfold dawnFrame State.after
    rw [Nat.max_zero]
    rfl
  · show (Dawn.race (s.laneTicks delays a b k) s.me.vec.dawn).r[j] = _
    rw [laneTicks_eq h hw]
    simp [Dawn.race, vecGen]
  · show (Dawn.race (s.laneTicks delays a b k) s.me.vec.dawn).c[j] = _
    rw [laneTicks_eq h hw]
    simp [Dawn.race, vecGen]

end Sys2Proof.Machine
end

section
/-! What an access does to the copies of lines where no word of SRAM is in error (R312, R316 to R318, R331, R334). -/

namespace Sys2Proof.Machine

/-! ### Words of SRAM without flips -/

theorem eq_of_sram {s : State} (h : s.sram = []) : ({ s with sram := [] } : State) = s := by rw [← h]

theorem readSram_of_clean {s : State} (h : s.sram = []) (kind pa : Nat) (site : ErrorSite) (a : Agent) :
    s.readSram kind pa site a = (false, s) := by
  simp [State.readSram, h]

theorem decodeLine_of_clean {s : State} (h : s.sram = []) (pa : Nat) (site : ErrorSite) (a : Agent) : s.decodeLine pa site a = s := by
  simp [State.decodeLine, h]

theorem dropSram_of_clean {s : State} (h : s.sram = []) (pa : Nat) (site : ErrorSite) : s.dropSram pa site = s := by
  simp [State.dropSram, h, eq_of_sram h]

theorem newCopy_of_clean {s : State} (h : s.sram = []) (pa : Nat) (site : ErrorSite) : s.newCopy pa site = s := by
  simp [State.newCopy, h, eq_of_sram h]

theorem decodeLines_of_clean {s : State} (h : s.sram = []) (pa : Nat) (a : Agent) (l : List Nat) :
    l.foldl (fun t c => t.decodeLine pa (.l1 c) a) s = s := by
  induction l with
  | nil => rfl
  | cons c rest ih => rw [List.foldl_cons, decodeLine_of_clean h, ih]

theorem meetRemote_of_clean {s : State} (h : s.sram = []) (l1 : Option Nat) (pa : Nat) (a : Agent) : s.meetRemote l1 pa a = s := by
  unfold State.meetRemote
  split
  · exact decodeLines_of_clean h ..
  · rfl

/-! ### Codewords without flips -/

theorem flipsAt_filter {f : List (Nat × List Nat)} {g : Nat} (h : flipsAt f g = []) (p : Nat → Bool) :
    flipsAt (f.filter fun c => p c.1) g = [] := by
  unfold flipsAt
  rw [List.find?_filter]
  cases hp : p g
  · have : f.find? (fun c => decide (p c.1 = true ∧ (c.1 == g) = true)) = none := by
      refine List.find?_eq_none.mpr fun c _ => ?_
      by_cases hc : c.1 = g <;> simp [hc, hp]
    rw [this]
  · have : (fun c : Nat × List Nat => decide (p c.1 = true ∧ (c.1 == g) = true)) = fun c => c.1 == g := by
      funext c
      by_cases hc : c.1 = g <;> simp [hc, hp]
    rw [this]
    exact h

/-- A codeword without flips is found good or poisoned, and stays (R331). -/
theorem decodeGranule_of_clean {s : State} {pa : Nat} (h : flipsAt s.flips (pa / 16) = []) (kind : Nat) (a : Agent) :
    s.decodeGranule kind pa a = (if s.poisonedAt false pa then .poisoned else .good, s) := by
  unfold State.decodeGranule
  rw [h]
  split <;> rfl

theorem meetEach_decode_of_clean {s : State} (kind : Nat) (a : Agent) (l : List Nat) (h : ∀ g ∈ l, flipsAt s.flips (g / 16) = []) :
    (meetEach (fun g t => t.decodeGranule kind g a) l s).2 = s := by
  induction l with
  | nil => rfl
  | cons g rest ih =>
    unfold meetEach
    simp only [decodeGranule_of_clean (h g (by simp))]
    exact ih fun g hg => h g (by simp [hg])

/-- No codeword of the line at an address is in error. -/
def State.lineClean (s : State) (pa : Nat) : Prop := ∀ g, g / 8 = pa / 128 → flipsAt s.flips g = []

theorem fillLine_of_clean {s : State} {pa : Nat} (h : s.lineClean pa) (a : Agent) : s.fillLine pa a = s := by
  unfold State.fillLine
  split
  · refine meetEach_decode_of_clean _ _ _ fun g hg => h _ ?_
    obtain ⟨j, hj, rfl⟩ := List.mem_map.mp hg
    have := List.mem_range.mp hj
    omega
  · rfl

/-! ### Copies of lines -/

/-- t is s but for the copies of lines, and no codeword of it is in error that was not (R312, R315 to R317, R333). -/
structure State.copied (s t : State) : Prop where
  frame : s.copiesFrame t
  clean : ∀ g, flipsAt s.flips g = [] → flipsAt t.flips g = []

theorem State.copied.refl (s : State) : s.copied s := ⟨rfl, fun _ h => h⟩

theorem State.copied.trans {s t u : State} (h : s.copied t) (h' : t.copied u) : s.copied u := by
  refine ⟨?_, fun g hg => h'.clean g (h.clean g hg)⟩
  have h1 := h.frame
  have h2 := h'.frame
  unfold State.copiesFrame at *
  rw [h1] at h2
  exact h2

theorem State.copied.sram {s t : State} (h : s.copied t) (hs : s.sram = []) : t.sram = [] := by
  have := h.frame
  unfold State.copiesFrame at this
  rw [this]
  exact hs

theorem State.copied.lineClean {s t : State} (h : s.copied t) {pa : Nat} (hc : s.lineClean pa) : t.lineClean pa :=
  fun g hg => h.clean g (hc g hg)

/-- A change of the lines, the directory and what the host holds. -/
theorem State.copied.of_lines (s : State) (lines : List Line) (dir : List DirEntry) (held owned : List Nat) (under : List UnderLine) :
    s.copied { s with lines := lines, dir := dir, under := under, hostHeld := held, hostOwned := owned } := ⟨rfl, fun _ h => h⟩

/-- The codewords of some lines written anew. -/
theorem State.copied.of_flips (s : State) (p : Nat → Bool) (under : List UnderLine) :
    s.copied { s with flips := s.flips.filter (fun g => p g.1), under := under } := ⟨rfl, fun _ h => flipsAt_filter h p⟩

theorem State.writeBack_copied (k : Line) (s : State) : s.copied (s.writeBack k) := by
  unfold State.writeBack
  split
  · exact .of_flips s (fun g => g / 8 != k.pa / 128) s.under
  · exact .refl s

theorem State.recall_copied {s : State} (h : s.sram = []) (e : DirEntry) : s.copied (s.recall e) := by
  unfold State.recall
  rw [decodeLines_of_clean h]
  dsimp only
  split
  · split
    · exact .of_lines s _ _ _ _ _
    · exact .of_flips s (fun g => g / 8 != e.pa / 128) _
  · exact .refl s

theorem State.putDir_copied {s : State} (h : s.sram = []) (e : DirEntry) : s.copied (s.putDir e) := by
  unfold State.putDir
  dsimp only
  split
  · exact .of_lines s _ _ _ _ _
  · split
    · exact .of_lines s _ _ _ _ _
    · split
      · exact (State.copied.of_lines s s.lines _ s.hostHeld s.hostOwned s.under).trans (State.recall_copied (by exact h) _)
      · exact .of_lines s _ _ _ _ _

theorem State.probe_copied {s : State} (h : s.sram = []) (pa : Nat) (write : Bool) : s.copied (s.probe pa write) := by
  have r := State.recall_copied h (s.dirAt pa)
  unfold State.probe
  dsimp only
  split
  · exact r.trans (State.putDir_copied (r.sram h) _)
  · split
    · exact r.trans (State.putDir_copied (r.sram h) _)
    · exact r

theorem State.evictLine_copied {s : State} (h : s.sram = []) (k : Line) : s.copied (s.evictLine k) := by
  have drop : ∀ u : State, s.copied u → s.copied
      { u.writeBack ((u.lineAt k.pa).getD k) with lines := u.lines.filter fun l => l.pa != k.pa } := fun u hu =>
    (hu.trans (State.writeBack_copied _ u)).trans (.of_lines _ _ _ _ _ _)
  have probed : s.copied (if inT3 k.pa then s.probe k.pa true else s) := by
    split
    · exact State.probe_copied h ..
    · exact .refl s
  unfold State.evictLine
  dsimp only
  rw [decodeLine_of_clean (probed.sram h), ite_self]
  exact drop _ probed

theorem State.placeLine_copied {s : State} (h : s.sram = []) {pa : Nat} (hc : s.lineClean pa) (n : Nat) (whole write cold : Bool)
    (a : Agent) : s.copied (s.placeLine pa n whole write cold a) := by
  have placed : ∀ u : State, s.copied u → ∀ l, s.copied { (u.fillLine pa a).newCopy pa .bank with lines := l } := fun u hu l => by
    rw [fillLine_of_clean (hu.lineClean hc), newCopy_of_clean (hu.sram h)]
    exact hu.trans (.of_lines _ _ _ _ _ _)
  unfold State.placeLine
  dsimp only
  split
  · exact .of_lines s _ _ _ _ _
  · split
    · exact .refl s
    · refine placed _ ?_ _
      split
      · exact .refl s
      · exact State.evictLine_copied h _
      · exact .refl s

theorem State.unhold_copied (pa n : Nat) (write : Bool) (s : State) : s.copied (s.unhold pa n write) := .of_lines s _ _ _ _ _

/-- An access served at its home changes the copies of lines alone (R101, R102, R312, R316). -/
theorem State.touchHome_copied {s : State} (h : s.sram = []) (p : Phys) (hc : s.lineClean p.pa) (n : Nat) (write : Bool) (hint : Nat)
    (a : Agent) : s.copied (s.touchHome p n write hint a) := by
  obtain ⟨t, ht⟩ : ∃ t, t = (s.unhold p.pa n write).probe p.pa write := ⟨_, rfl⟩
  have probed : s.copied t := by
    rw [ht]
    exact (State.unhold_copied p.pa n write s).trans (State.probe_copied ((State.unhold_copied p.pa n write s).sram h) ..)
  have place := fun whole => probed.trans (State.placeLine_copied (probed.sram h) (probed.lineClean hc) n whole write false a)
  unfold State.touchHome
  rw [← ht]
  dsimp only
  split
  · exact probed
  · split
    · split
      · exact probed.trans (.of_lines _ _ _ _ _ _)
      · split
        · exact (place false).trans (State.evictLine_copied ((place false).sram h) _)
        · exact place false
    · split
      · exact place _
      · exact probed

end Sys2Proof.Machine
end

section
/-! Addresses that the hart in focus reaches, and the reads and writes of data there (R81, R169 to R171, R301 to R304, R330 to R333). -/

namespace Sys2Proof.Machine
open Sys2Proof.Cert

/-! ### What the module's banks answer -/

/-- t answers the accesses of the hart in focus as s does: who asks, what is held, and what stands in the way are the same. -/
structure State.servesAs (s t : State) : Prop where
  core : t.me.core = s.me.core
  pid : t.me.hart.pid = s.me.hart.pid
  hid : t.me.hart.hid = s.me.hart.hid
  prv : t.me.hart.prv = s.me.hart.prv
  tlb : t.tlb = s.tlb
  seq : t.seq = s.seq
  locks : t.locks = s.locks
  rows : t.rows = s.rows
  wparts : t.wparts = s.wparts
  fw : t.fw = s.fw
  cycle : t.cycle = s.cycle
  late : t.lateRefreshes = s.lateRefreshes
  waits : ∀ w, t.stillWaits w = s.stillWaits w
  sram : s.sram = [] → t.sram = []
  clean : ∀ g, flipsAt s.flips g = [] → flipsAt t.flips g = []
  tags : ∀ w, tagAt s.tags w ≠ 3 → tagAt t.tags w ≠ 3

theorem State.servesAs.admits {s t : State} (h : s.servesAs t) (who : Option (Nat × BitVec 32)) (item : Nat × Nat) (l : List Waiter) :
    t.admits who item l = s.admits who item l := by
  induction l with
  | nil => rfl
  | cons w rest ih => simp only [State.admits, h.waits, ih]

theorem State.servesAs.windowServes {s t : State} (h : s.servesAs t) (o : SeqOp) (who : Option (Nat × BitVec 32)) (pa : Nat) :
    t.windowServes o who pa = s.windowServes o who pa := by
  unfold State.windowServes
  rw [h.cycle, h.admits]

theorem State.servesAs.holdsBanks {s t : State} (h : s.servesAs t) (o : SeqOp) (who : Option (Nat × BitVec 32)) (pa : Nat) :
    t.holdsBanks o who pa = s.holdsBanks o who pa := by
  unfold State.holdsBanks State.seqFrozen
  rw [h.windowServes, h.seq]

theorem State.servesAs.refreshAt {s t : State} (h : s.servesAs t) (pa : Nat) : t.refreshAt pa = s.refreshAt pa := by
  unfold State.refreshAt
  rw [h.cycle, h.late, h.seq]

/-- No window, microprogram or refresh holds the bank of a DRAM address against the hart in focus, and no window serves it (R169, R170). -/
def State.bankOpen (s : State) (pa : Nat) : Prop :=
  isDram pa = true → s.refreshAt pa = false ∧ ∀ o ∈ s.seq, inBanks o.geo pa = true →
    s.holdsBanks o (some (s.me.hart.pid, s.me.hart.hid)) pa = false ∧ s.windowServes o (some (s.me.hart.pid, s.me.hart.hid)) pa = false

theorem State.servesAs.bankOpen {s t : State} (h : s.servesAs t) {pa : Nat} (hb : s.bankOpen pa) : t.bankOpen pa := fun hd => by
  obtain ⟨h1, h2⟩ := hb hd
  refine ⟨(h.refreshAt pa).trans h1, fun o ho hi => ?_⟩
  rw [h.holdsBanks, h.windowServes, h.pid, h.hid]
  exact h2 o (h.seq ▸ ho) hi

theorem bankBusy_of_open {s : State} {pa : Nat} (h : s.bankOpen pa) : s.bankBusy pa (some (s.me.hart.pid, s.me.hart.hid)) = false := by
  unfold State.bankBusy
  rcases hd : isDram pa
  · rfl
  · obtain ⟨h1, h2⟩ := h hd
    have : (s.seq.any fun o => s.holdsBanks o (some (s.me.hart.pid, s.me.hart.hid)) pa && inBanks o.geo pa) = false := by
      rw [List.any_eq_false]
      intro o ho
      cases hi : inBanks o.geo pa
      · simp
      · simp [(h2 o ho hi).1]
    simp [h1, this]

theorem chargeRow_of_open {s : State} {pa : Nat} (h : s.bankOpen pa) : s.chargeRow pa (some (s.me.hart.pid, s.me.hart.hid)) = s := by
  unfold State.chargeRow
  split
  case isFalse => rfl
  case isTrue hd =>
    have same : (s.seq.map fun o =>
        if o.running && inBanks o.geo pa && s.windowServes o (some (s.me.hart.pid, s.me.hart.hid)) pa then
          { o with admitted := o.admitted.map (Waiter.serve (some (s.me.hart.pid, s.me.hart.hid)) (rowItem pa)) }
        else o) = s.seq := by
      refine (List.map_congr_left fun o ho => if_neg ?_).trans (List.map_id s.seq)
      cases hi : inBanks o.geo pa
      · simp
      · simp [((h hd.1).2 o ho hi).2]
    rw [same]

theorem State.servesAs.unitOf {s t : State} (h : s.servesAs t) {pa : Nat} (hb : s.bankOpen pa)
    (hu : s.unitOf pa s.me.hart.hid s.me.hart.pid = .serve) : t.unitOf pa t.me.hart.hid t.me.hart.pid = .serve := by
  have busy : t.dramWaits pa (some (t.me.hart.pid, t.me.hart.hid)) = s.dramWaits pa (some (s.me.hart.pid, s.me.hart.hid)) := by
    unfold State.dramWaits
    rw [bankBusy_of_open hb, bankBusy_of_open (h.bankOpen hb)]
    unfold State.rowLocked
    rw [h.locks, h.pid, h.hid]
  unfold State.unitOf at *
  rw [busy]
  unfold State.scratchMarked State.scratchLost State.bankLost State.wpart at *
  rw [h.rows, h.fw, h.wparts]
  exact hu

/-! ### Addresses that are reached -/

/-- A translation that leaves the held translations as they are is a hit, and leaves the state: every other one installs an entry (R304). -/
theorem translate_state_of_tlb {s t : State} {unit pid : Nat} {prv : Bool} {k : Access} {va : X} {a : Agent} {p : Phys}
    (h : s.translate unit pid prv k va a = (.ok p, t)) (ht : t.tlb = s.tlb) : t = s := by
  unfold State.translate at h
  by_cases hc : canonical va = true
  case neg => simp [hc] at h
  simp only [hc, Bool.not_true, Bool.false_eq_true, if_false] at h
  rcases he : s.tlb.find? (fun e => e.covers unit (firstTlb unit k) pid va.toNat) with _ | e
  case some =>
    cases hp : ptePermits e.pte k prv <;> simp [he, hp] at h
    exact h.2.symm
  have held : ∀ (e : TlbEntry) (u : State), e.covers unit (firstTlb unit k) pid va.toNat = true → u.holdTlb e ≠ t := by
    intro e u hv hu
    obtain ⟨l, hl⟩ := holdTlb_newest e u
    rw [← ht, ← hu, hl] at he
    exact find_newest (p := fun e => e.covers unit (firstTlb unit k) pid va.toNat) hv he
  simp only [he] at h
  rcases hs : s.tlb.find? (fun e => e.covers unit 2 pid va.toNat) with _ | e
  case some =>
    have hv := List.find?_some hs
    simp only [TlbEntry.covers, Bool.and_eq_true, beq_iff_eq] at hv
    cases hp : ptePermits e.pte k prv <;> simp [hs, hp] at h
    exact absurd h.2 (held _ _ (by simp [TlbEntry.covers, hv]))
  rcases hq : s.part? pid with _ | q
  · simp [hs, hq] at h
  rcases hw : s.walk pid k.cls va a 3 0 q.cfg.root with ⟨_ | ⟨e, level, at_⟩, u⟩
  · simp [hs, hq, hw] at h
  · cases hp : ptePermits e k prv <;> simp [hs, hq, hw, hp] at h
    exact absurd h.2 (held _ _ (by simp [TlbEntry.covers]))

theorem State.chargeRow_tlb (pa : Nat) (who : Option (Nat × BitVec 32)) (s : State) : (s.chargeRow pa who).tlb = s.tlb := by
  unfold State.chargeRow
  split <;> rfl

/-- The translation of an address that is reached without a change of the state is held (R304). -/
theorem translate_of_locateBy {s : State} {unit : Nat} {k : Access} {va : X} {p : Phys} (h : s.locateBy unit k va = (.ok p, s)) :
    s.translate unit s.me.hart.pid s.me.hart.prv k va s.hartAgent = (.ok p, s) := by
  unfold State.locateBy at h
  split at h
  case h_1 => simp at h
  case h_2 q t ht =>
    suffices q = p ∧ t.tlb = s.tlb by
      obtain ⟨rfl, hl⟩ := this
      rw [ht, translate_state_of_tlb ht hl]
    split at h
    case h_1 => simp at h
    case h_2 =>
      split at h
      · simp only [Prod.mk.injEq, Except.ok.injEq] at h
        exact ⟨h.1, h.2 ▸ rfl⟩
      · simp at h
    case h_3 =>
      simp only [Prod.mk.injEq, Except.ok.injEq] at h
      exact ⟨h.1, (State.chargeRow_tlb ..).symm.trans (congrArg State.tlb h.2)⟩

/-- What stands at an address is served, whatever copies of its line there are: the parts of `State.reachesBy` that stay as accesses are made. -/
theorem State.servesAs.reachesBy {s t : State} (h : s.servesAs t) {unit : Nat} {k : Access} {va : X} {p : Phys}
    (hr : s.reachesBy unit k va p) : t.reachesBy unit k va p := by
  obtain ⟨hl, hu, htag, hb, hsram, hflips⟩ := hr
  have open_ : t.bankOpen p.pa := h.bankOpen hb
  have hunit := h.unitOf hb hu
  have held : t.translate unit t.me.hart.pid t.me.hart.prv k va t.hartAgent = (.ok p, t) := by
    have agent : t.hartAgent = s.hartAgent := by
      unfold State.hartAgent State.hid
      rw [h.hid]
    rw [h.pid, h.prv, agent]
    exact translate_held (translate_of_locateBy hl) h.tlb
  refine ⟨?_, hunit, h.tags _ htag, open_, h.sram hsram, fun g hg => h.clean g (hflips g hg)⟩
  unfold State.locateBy
  simp only [held, hunit, chargeRow_of_open open_]

theorem State.servesAs.reaches {s t : State} (h : s.servesAs t) {k : Access} {va : X} {p : Phys} (hr : s.reaches k va p) :
    t.reaches k va p := by
  unfold State.reaches at *
  rw [h.core]
  exact h.reachesBy hr

/-- The access of the hart in focus to an address that it reaches. -/
theorem access_of_reaches {s : State} {k : Access} {va : X} {p : Phys} (h : s.reaches k va p) (stride : X) (remaining : Nat) :
    Machine.access k va stride remaining s = (.ok p, s) := by
  unfold Machine.access accessBy
  rw [M.bind_get, M.bind_get, h.1]
  rfl

/-! ### Data -/

theorem poisonedAt_of_tag {s : State} {pa : Nat} (h : tagAt s.tags (pa / 8) ≠ 3) (managed : Bool) : s.poisonedAt managed pa = false := by
  have word : (tagAt s.tags (pa / 8) == 3) = false := beq_eq_false_iff_ne.mpr h
  simp only [State.poisonedAt, word, Bool.false_and]

/-- The granule of an address that is reached is good, whatever serves it (R331, R333, R334). -/
theorem meetGranule_of_clean {s : State} {p : Phys} (hs : s.sram = []) (ht : tagAt s.tags (p.pa / 8) ≠ 3) (hc : s.lineClean p.pa)
    (kind : Nat) (a : Agent) : s.meetGranule kind p a = (.good, s) := by
  have granule : flipsAt s.flips (p.pa / 16) = [] := hc _ (by omega)
  unfold State.meetGranule
  simp only [meetRemote_of_clean hs, readSram_of_clean hs, poisonedAt_of_tag ht, decodeGranule_of_clean granule, Bool.false_eq_true, if_false,
    ite_self]

theorem readRaw_of_clean {s : State} {p : Phys} (hs : s.sram = []) (ht : tagAt s.tags (p.pa / 8) ≠ 3) (hc : s.lineClean p.pa)
    (va : X) (n : Nat) (a : Agent) :
    s.readRaw p va n a = (.ok (leNat (memBytes s.mem p.pa n), if p.managed then tagAt s.tags (p.pa / 8) else 0), s) := by
  unfold State.readRaw
  rw [meetGranule_of_clean hs ht hc]

/-- s with n bytes written at a translated address, and the tag of their word (R81). -/
def State.put (p : Phys) (n v : Nat) (tag : BitVec 2) (s : State) : State :=
  { s with mem := memWrite s.mem p.pa (leBytes n v), tags := tagSet s.tags (p.pa / 8) 1 (if p.managed then tag else 0) }

theorem writeRaw_of_clean {s : State} {p : Phys} (hs : s.sram = []) (ht : tagAt s.tags (p.pa / 8) ≠ 3) (hc : s.lineClean p.pa)
    (va : X) (n v : Nat) (tag : BitVec 2) (a : Agent) : s.writeRaw p va n v tag a = (.ok (), s.put p n v tag) := by
  unfold State.writeRaw
  simp only [meetRemote_of_clean hs, poisonedAt_of_tag ht, dropSram_of_clean hs, ite_self, meetGranule_of_clean hs ht hc,
    Bool.false_eq_true, if_false]
  rfl

/-- The value of bytes in a canonical memory (R50). -/
theorem leNat_memBytes {s : State} (h : s.memOk) (pa n : Nat) : leNat (memBytes s.mem pa n) = bytesAt s pa n := by
  rw [memBytes_eq s.mem pa n h]
  rfl

/-- The bytes of a value that bytes give are those bytes. -/
theorem leBytes_leNat (l : List Byte) : leBytes l.length (leNat l) = l := by
  induction l with
  | nil => rfl
  | cons b rest ih =>
    have hd : (b.toNat + 256 * leNat rest) / 256 = leNat rest := by have := b.isLt; omega
    have hb : BitVec.ofNat 8 (b.toNat + 256 * leNat rest) = b := BitVec.eq_of_toNat_eq (by
      have := b.isLt
      simp only [BitVec.toNat_ofNat]
      omega)
    simp only [List.length_cons, leNat, leBytes, hd, hb, ih]

end Sys2Proof.Machine
end

section
/-! What streams read ahead (R117), and the events of harts as a whole. -/

namespace Sys2Proof.Machine

/-- The bytes of a value read from memory, with their addresses. -/
theorem zipIdx_leBytes_memBytes {s : State} (h : s.memOk) (pa n : Nat) (f : Byte × Nat → Host.Cell) :
    (leBytes n (leNat (memBytes s.mem pa n))).zipIdx.map f = (List.range n).map fun j => f (memRead s.mem (pa + j), j) := by
  rw [memBytes_eq s.mem pa n h]
  have bytes := leBytes_leNat ((List.range n).map fun j => memRead s.mem (pa + j))
  rw [List.length_map, List.length_range] at bytes
  rw [bytes, List.zipIdx_map, List.map_map]
  refine List.ext_getElem (by simp) fun i h1 h2 => ?_
  simp

end Sys2Proof.Machine

namespace Sys2Proof.Proofs
open Sys2Proof.Machine Sys2Proof.Cert

theorem raceBegin_races (s : State) (core slot : Nat) (at_ : X)
    (hl : (s.focus core slot).me.live = true) (hw : (s.focus core slot).me.hart.wait = some (.race at_))
    (hd : at_.toNat ≤ (s.focus core slot).cycle) (hf : (s.focus core slot).frozen = false)
    (hv : ((s.focus core slot).modHart fun r => { r with wait := none }).vectorReady)
    (hfree : ((s.focus core slot).modHart fun r => { r with wait := none }).dawnFree)
    (h16 : (s.focus core slot).me.vec.width = 16) (hr : (s.focus core slot).me.vec.dawn.rdy = true) :
    let w := (s.focus core slot).me.hart.word
    ∃ v, exec (.raceBegin core slot) s = .next v ∧ raced ((s.focus core slot).modHart fun r => { r with wait := none }) v (w.getLsbD 18)
      (w.extractLsb' 13 5) (w.extractLsb' 8 5) (w.extractLsb' 5 3) (w.extractLsb' 23 3) := by
  intro w
  obtain ⟨v, hv, hraced⟩ := launch_raced hv hfree h16 hr (w.extractLsb' 23 3) (w.extractLsb' 18 1) (w.getLsbD 18)
    (w.extractLsb' 13 5) (w.extractLsb' 8 5) (w.extractLsb' 5 3)
  refine ⟨v, ?_, hraced⟩
  have idle : (s.focus core slot).me.vec.raceEnd = none := hfree.2.1
  show execRaceBegin core slot s = _
  unfold execRaceBegin
  simp only [hl, hw]
  rw [if_pos ⟨hd, by simp [idle], hf⟩]
  exact hv

theorem readAhead_reads (s : State) (core slot : Nat) (r : BitVec 5) (b : Stream) (p : Phys)
    (hm : (s.focus core slot).me ∈ s.slots) (hl : (s.focus core slot).me.live = true) (ho : (s.focus core slot).owns = true)
    (hb : (s.focus core slot).me.vec.stream? r = some b)
    (hd : (b.nextAhead - b.data).toNat + b.bytes ≤ fieldOf b.ctl 10 4 * ((s.focus core slot).me.vec.vl.toNat * b.width / 8))
    (hk : (s.focus core slot).marksOn b.nextAhead b.bytes = []) (hmem : (s.focus core slot).memOk)
    (hr : (s.focus core slot).reaches .vload b.nextAhead p) :
    ∃ t, exec (.readAhead core slot r) s = .next t ∧ t.mem = s.mem ∧ t.me.hart = (s.focus core slot).me.hart ∧
      t.me.vec.v = (s.focus core slot).me.vec.v ∧
      t.me.vec.streams = (s.focus core slot).me.vec.streams.map fun o => if o.reg = r then { o with
        ahead := o.ahead ++ (List.range b.bytes).map fun j =>
          ((b.nextAhead + BitVec.ofNat 64 j).toNat, memRead (s.focus core slot).mem (p.pa + j)) } else o := by
  obtain ⟨hcore, hidx⟩ := s.focus_key core slot
  obtain ⟨me, others, hfocus⟩ := s.focus_frame core slot
  have due : s.slots.any (fun o => o.core == core && o.idx == slot && o.live && o.vec.owner == o.hart.hid &&
      o.vec.ownerPid == o.hart.pid) = true := by
    obtain ⟨h1, h2⟩ := Bool.and_eq_true_iff.mp ho
    exact List.any_eq_true.mpr ⟨_, hm, by simp only [hcore, hidx, hl, h1, h2, beq_self_eq_true, Bool.and_self]⟩
  have hmem' : (s.focus core slot).mem = s.mem := by rw [hfocus]
  obtain ⟨hloc, -, htag, -, hsram, hflips⟩ := hr
  have frame := (State.touchHome_copied hsram p hflips b.bytes false (fieldOf b.ctl 8 2) (s.focus core slot).hartAgent).frame
  have run : exec (.readAhead core slot r) s = .next (((s.focus core slot).touchHome p b.bytes false (fieldOf b.ctl 8 2)
      (s.focus core slot).hartAgent).modVec fun w => { w with streams := w.streams.map fun o => if o.reg = r then { o with
        ahead := o.ahead ++ (leBytes b.bytes (leNat (memBytes (s.focus core slot).mem p.pa b.bytes))).zipIdx.map fun c =>
          ((b.nextAhead + xOf c.2).toNat, c.1) } else o }) := by
    show execReadAhead core slot r s = _
    unfold execReadAhead
    rw [if_pos due]
    simp only [hb]
    rw [if_pos (by rw [hk, decide_eq_true hd]; rfl)]
    simp only [State.locate, hloc, readRaw_of_clean hsram htag hflips]
  unfold State.copiesFrame at frame
  refine ⟨_, run, ?_, ?_, ?_, ?_⟩ <;> rw [frame]
  · exact hmem'
  · rfl
  · rfl
  · rw [zipIdx_leBytes_memBytes hmem]
    rfl

/-- Settles O55: each event by its own lemma; the release of a barrier phase by induction on the harts that wait for it. -/
theorem hartEvents : Obligations.HartEvents := by
  intro s core slot n w here o u h released awake passes
  refine ⟨fun hn hs => ?_, waitmExpiry_releases s core slot, ?_, ?_, ?_, ?_, ?_, halfRateWindow_ends s core, asynchronousTrap_taken s core slot,
    fun hl => illegalInstruction_traps s w hl, ?_⟩
  · have passing : passes = s.passes n := by
      funext q
      refine congrArg ((q.live && s.runs q.hart.pid) && ·) ?_
      rcases q.hart.wait with _ | x
      · rfl
      · cases x
        case barrier b token short =>
          by_cases hb : b = n
          · subst hb
            exact Bool.and_assoc ..
          · have other : (b == n) = false := beq_false_of_ne hb
            show (b == n && _ && _) = (b == n && _)
            rw [other]
            rfl
        all_goals rfl
    rw [passing] at hs ⊢
    exact barrierPhaseRelease_completes s n hn hs
  · exact fun b c hl hw hc hm => watermarkWaitEnd_releases s core slot b c hl hw hc hm
  · exact meridianAlarm_ends s core slot
  · exact fun id g l hl hw hf hb => lockPlaced_completes s core slot id g l hl hw hf hb
  · exact fun c hc hd => raceEnd_ends s core slot c hc hd
  · exact fun t hl hw hd hf hv hfree h16 hr => raceBegin_races s core slot t hl hw hd hf hv hfree h16 hr
  · exact fun r b p hm hl ho hb hd hk hmem hr => readAhead_reads s core slot r b p hm hl ho hb hd hk hmem hr

end Sys2Proof.Proofs
end

section
/-! Runs of vector accesses over elements that the hart reaches, or whose access is denied (R101, R105, R108, R301). -/

namespace Sys2Proof.Machine
open Sys2Proof.Cert

/-! ### Meanings that end well -/

/-- m ends well in s, with an answer and a state of which Q holds. -/
def M.gives {α : Type} (m : M α) (s : State) (Q : α → State → Prop) : Prop := ∃ a t, m s = (.ok a, t) ∧ Q a t

/-- m stops in s for the given reason, in a state of which Q holds. -/
def M.stops {α : Type} (m : M α) (s : State) (e : Stop) (Q : State → Prop) : Prop := ∃ t, m s = (.error e, t) ∧ Q t

theorem M.gives_bind {α β : Type} {x : M α} {f : α → M β} {s : State} {Q : β → State → Prop}
    (h : x.gives s fun a t => (f a).gives t Q) : (x >>= f).gives s Q := by
  obtain ⟨a, t, hx, b, u, hf, hq⟩ := h
  exact ⟨b, u, (M.bind_of_ok hx).trans hf, hq⟩

theorem M.stops_bind {α β : Type} {x : M α} {f : α → M β} {s : State} {e : Stop} {Q : State → Prop}
    (h : x.gives s fun a t => (f a).stops t e Q) : (x >>= f).stops s e Q := by
  obtain ⟨a, t, hx, u, hf, hq⟩ := h
  exact ⟨u, (M.bind_of_ok hx).trans hf, hq⟩

theorem M.stops_bind_left {α β : Type} {x : M α} {f : α → M β} {s : State} {e : Stop} {Q : State → Prop} (h : x.stops s e Q) :
    (x >>= f).stops s e Q := by
  obtain ⟨t, hx, hq⟩ := h
  exact ⟨t, M.bind_of_error hx, hq⟩

/-! ### Trap points -/

/-- Where nothing could interrupt an instruction, a trap point does nothing (R287). -/
theorem trapPoint_of_calm {s : State} (h : s.interruptAhead = none) (i : Nat) : trapPoint i s = (.ok (), s) := by
  unfold trapPoint
  rw [M.bind_get, h]
  rfl

/-! ### Accesses that are denied -/

theorem State.servesAs.denial {s t : State} (h : s.servesAs t) (k : Access) (va : X) : Cert.denial t k va = Cert.denial s k va := by
  unfold Cert.denial
  rw [h.tlb, h.core, h.pid, h.prv]

theorem denial_class {s : State} {k : Access} {va : X} {c : Nat × Nat} (h : denial s k va = some c) :
    c.1 / 64 = 2 ∧ c.1 ≠ 0x086 ∧ c.2 ≤ 3 := by
  have hk : k.cls ≤ 2 := by cases k <;> decide
  unfold denial at h
  split at h
  · cases h
    dsimp only
    omega
  · split at h
    · split at h
      · cases h
      · cases h
        dsimp only
        omega
    · cases h

theorem locate_of_denial {s : State} {k : Access} {va : X} {c : Nat × Nat} (h : denial s k va = some c) :
    s.locate k va = (.error (.fault { code := c.1, level := c.2, entry := 0 }), s) := by
  unfold denial at h
  unfold State.locate State.locateBy State.translate
  by_cases hc : canonical va = false
  · rw [if_pos hc] at h
    cases h
    simp [hc]
  · rw [if_neg hc] at h
    simp only [Bool.not_eq_false] at hc
    rcases hf : s.tlb.find? (fun e => e.covers s.me.core (firstTlb s.me.core k) s.me.hart.pid va.toNat) with _ | e
    · simp [hf] at h
    · cases hp : ptePermits e.pte k s.me.hart.prv <;> simp [hf, hp] at h
      subst h
      simp [hc, hf, hp]

theorem trap_of_denial {c : Nat × Nat} (h : c.1 / 64 = 2) (k : Access) (va stride : X) (remaining : Nat) :
    (XFault.mk c.1 c.2 0 0).trap k va stride remaining 1 = denialTrap k va c stride remaining 1 := by
  have info : ∀ n : Nat, xOf (remaining % 2 ^ 32 * 2 ^ 32 + n) = BitVec.ofNat 64 (remaining * 2 ^ 32 + n) := fun n => by
    apply BitVec.eq_of_toNat_eq
    simp only [xOf, BitVec.toNat_ofNat]
    omega
  unfold XFault.trap denialTrap
  rw [if_pos h]
  simp only [Nat.add_assoc, info]
  rfl

/-- The trap of an access that is denied (R105, R108, R284). -/
theorem access_of_denial {s : State} {k : Access} {va : X} {c : Nat × Nat} (h : denial s k va = some c) (stride : X) (remaining : Nat) :
    Machine.access k va stride remaining s = (.error (.trap (denialTrap k va c stride remaining 1)), s) := by
  have loc := locate_of_denial h
  unfold Machine.access accessBy
  rw [M.bind_get, M.bind_get, show s.locateBy s.me.core k va = _ from loc]
  dsimp only
  rw [M.bind_set]
  rw [trap_of_denial (denial_class h).1]
  rfl

/-! ### Elements -/

/-- The value of an element in the bytes of its access (R101). -/
def VAccess.value (a : VAccess) (v : Nat) : Nat := if a.width < 8 then v / 2 ^ (a.idx * a.width % 8) % 2 ^ a.width else v

/-- No watermark holds an access to n bytes back (R214). -/
def State.unmarked (s : State) (va : X) (n : Nat) : Prop := ∀ m ∈ s.marksOn va n, m.need va n ≤ m.count.toNat

theorem awaitMarks_of_unmarked {s : State} {va : X} {n : Nat} (h : s.unmarked va n) : awaitMarks va n s = (.ok (), s) := by
  have none_ : (s.marksOn va n).find? (fun k => decide (k.count.toNat < k.need va n)) = none := by
    rw [List.find?_eq_none]
    intro m hm
    have := h m hm
    simp only [decide_eq_true_eq]
    omega
  unfold awaitMarks
  rw [M.bind_get, none_]
  rfl

theorem liftRead_of_ok {α : Type} {f : State → Except Trap α × State} {a : α} {s t : State} (h : f s = (.ok a, t)) :
    liftRead f s = (.ok a, t) := by
  unfold liftRead
  rw [M.bind_get, h]
  rfl

/-- The load of an element that the hart reaches (R101, R214). -/
theorem loadElem_of_reaches {s : State} {a : VAccess} {p : Phys} (h : s.reaches a.kind a.va p) (hm : s.memOk) (hw : s.unmarked a.va a.n) :
    loadElem a s = (.ok (a.value (bytesAt s p.pa a.n), p), s.touchHome p a.n false a.hint s.hartAgent) := by
  obtain ⟨-, -, htag, -, hsram, hflips⟩ := id h
  have read : readVec p a.va a.n a.hint s = (.ok (bytesAt s p.pa a.n), s.touchHome p a.n false a.hint s.hartAgent) := by
    have raw := readRaw_of_clean hsram htag hflips a.va a.n s.hartAgent
    rw [leNat_memBytes hm] at raw
    have touched : onOk (fun u => u.touchHome p a.n false a.hint u.hartAgent) (s.readRaw p a.va a.n s.hartAgent) =
        (.ok (bytesAt s p.pa a.n, if p.managed then tagAt s.tags (p.pa / 8) else 0), s.touchHome p a.n false a.hint s.hartAgent) := by
      rw [raw]
      rfl
    exact M.bind_of_ok (liftRead_of_ok
      (f := fun t => onOk (fun u => u.touchHome p a.n false a.hint u.hartAgent) (t.readRaw p a.va a.n t.hartAgent)) touched)
  unfold loadElem
  rw [M.bind_of_ok (access_of_reaches h ..), M.bind_of_ok (awaitMarks_of_unmarked hw), M.bind_of_ok read]
  rfl

/-- A meaning that observes one whose first access is denied. -/
theorem loadElem_of_denial {s : State} {a : VAccess} {c : Nat × Nat} (h : denial s a.kind a.va = some c) :
    loadElem a s = (.error (.trap (denialTrap a.kind a.va c a.stride a.remaining 1)), s) := by
  unfold loadElem
  rw [M.bind_of_error (access_of_denial h ..)]

/-! ### Runs -/

section
variable {els : List Nat} {good : Nat → Bool} {P : List Nat → State → Prop}

/-- A run over loads stops at the first one that does not end well (R105). -/
theorem loadRun_takeWhile {f : Nat → VAccess} {v : Nat → Nat × Phys} {stop : Nat → Stop}
    (hgood : ∀ done u, P done u → ∀ i ∈ els, good i = true → ∃ t, (do trapPoint i; loadElem (f i) : M (Nat × Phys)) u = (.ok (v i), t) ∧
      ∃ r, drawTicket (f i).hint t = (.ok (), r) ∧ P (done ++ [i]) r)
    (hbad : ∀ done u, P done u → ∀ i ∈ (els.dropWhile good).head?,
      (do trapPoint i; loadElem (f i) : M (Nat × Phys)) u = (.error (stop i), u))
    {done : List Nat} {u : State} (hu : P done u) :
    ∃ t, loadRun f els u = (.ok ((els.takeWhile good).map (fun i => (i, (v i).1, (f i).va, (v i).2)),
      (els.dropWhile good).head?.map fun i => (i, stop i)), t) ∧ P (done ++ els.takeWhile good) t := by
  induction els generalizing done u with
  | nil => exact ⟨u, rfl, by simpa using hu⟩
  | cons i rest ih =>
    unfold loadRun
    cases hg : good i
    · have one := hbad done u hu i (by simp [hg])
      rw [M.bind_of_ok ((M.run_observe ..).trans (by rw [one]))]
      refine ⟨u, ?_, by simpa [hg] using hu⟩
      simp [hg]
    · obtain ⟨t, one, r, ticket, hr⟩ := hgood done u hu i (by simp) hg
      obtain ⟨t', ht', hp⟩ := ih (fun d u hu j hj => hgood d u hu j (by simp [hj])) (fun d u hu j hj => hbad d u hu j (by simpa [hg] using hj)) hr
      rw [M.bind_of_ok ((M.run_observe ..).trans (by rw [one]))]
      dsimp only
      refine ⟨t', ?_, by simpa [hg] using hp⟩
      rw [M.bind_of_ok ticket, M.bind_of_ok ht']
      simp [hg]

end

end Sys2Proof.Machine
end

section
/-! What a vector load leaves (R101 to R105). -/

namespace Sys2Proof.Machine
open Sys2Proof.Cert

/-! ### The elements read -/

/-- t is s but for the copies of lines and the ticket counter, and no codeword of it is in error that was not (R103, R312). -/
structure State.loaded (s t : State) : Prop where
  frame : t = { s with
    lines := t.lines, dir := t.dir, flips := t.flips, under := t.under, hostHeld := t.hostHeld, hostOwned := t.hostOwned,
    tickets := t.tickets }
  clean : ∀ g, flipsAt s.flips g = [] → flipsAt t.flips g = []

theorem State.loaded.refl (s : State) : s.loaded s := ⟨rfl, fun _ h => h⟩

theorem State.loaded.trans {s t u : State} (h : s.loaded t) (h' : t.loaded u) : s.loaded u := by
  refine ⟨?_, fun g hg => h'.clean g (h.clean g hg)⟩
  have h2 := h'.frame
  rw [h.frame] at h2
  exact h2

theorem State.copied.loaded {s t : State} (h : s.copied t) : s.loaded t := by
  refine ⟨?_, h.clean⟩
  have := h.frame
  unfold State.copiesFrame at this
  rw [this]

theorem State.loaded.ticket {s t : State} (h : s.loaded t) (n : Nat) : s.loaded { t with tickets := n } :=
  h.trans ⟨rfl, fun _ h => h⟩

theorem State.loaded.me {s t : State} (h : s.loaded t) : t.me = s.me := by rw [h.frame]

theorem State.loaded.mem {s t : State} (h : s.loaded t) : t.mem = s.mem := by rw [h.frame]

theorem State.loaded.servesAs {s t : State} (h : s.loaded t) : s.servesAs t := by
  have clean := h.clean
  have frame := h.frame
  obtain ⟨flips, hf⟩ : ∃ f, f = t.flips := ⟨_, rfl⟩
  rw [← hf] at clean
  refine ⟨?_, ?_, ?_, ?_, ?_, ?_, ?_, ?_, ?_, ?_, ?_, ?_, ?_, ?_, hf ▸ clean, ?_⟩ <;> rw [frame]
  · exact fun _ => rfl
  · exact fun h => h
  · exact fun _ h => h

theorem State.loaded.interruptAhead {s t : State} (h : s.loaded t) : t.interruptAhead = s.interruptAhead := by rw [h.frame]; rfl

theorem State.loaded.unmarked {s t : State} (h : s.loaded t) {va : X} {n : Nat} (hm : s.unmarked va n) : t.unmarked va n := by
  have same : t.marksOn va n = s.marksOn va n := by rw [h.frame]; rfl
  unfold State.unmarked
  rw [same]
  exact hm

theorem drawTicket_loaded (hint : Nat) (s : State) : ∃ t, drawTicket hint s = (.ok (), t) ∧ s.loaded t := by
  unfold drawTicket
  split
  · exact ⟨_, rfl, (State.loaded.refl s).ticket _⟩
  · exact ⟨s, rfl, .refl s⟩

/-- What a load of s finds at its address in a state that reads have left (R101, R214). -/
theorem State.loaded.loadElem {s u : State} (h : s.loaded u) {a : VAccess} {p : Phys} (hr : s.reaches a.kind a.va p) (hm : s.memOk)
    (hw : s.unmarked a.va a.n) : ∃ t, Machine.loadElem a u = (.ok (a.value (bytesAt s p.pa a.n), p), t) ∧ s.loaded t := by
  have same : bytesAt u p.pa a.n = bytesAt s p.pa a.n := by
    unfold bytesAt
    rw [h.mem]
  have hm' : u.memOk := by
    unfold State.memOk
    rw [h.mem]
    exact hm
  have hr' := h.servesAs.reaches hr
  have read := loadElem_of_reaches hr' hm' (h.unmarked hw)
  rw [same] at read
  obtain ⟨-, -, -, -, hsram, hflips⟩ := hr'
  exact ⟨_, read, h.trans (State.touchHome_copied hsram p hflips a.n false a.hint u.hartAgent).loaded⟩

/-- The elements of a load in order, each reached up to the first that is not, whose access is denied (R101, R105). -/
theorem loadRun_of_reaches {s : State} {f : Nat → VAccess} {ps : Nat → Phys} {els : List Nat} {good : Nat → Bool} {tr : Nat → Trap}
    (hc : s.interruptAhead = none) (hm : s.memOk)
    (hr : ∀ i ∈ els, good i = true → s.reaches (f i).kind (f i).va (ps i) ∧ s.unmarked (f i).va (f i).n)
    (hd : ∀ i ∈ (els.dropWhile good).head?, ∃ c ∈ denial s (f i).kind (f i).va,
      tr i = denialTrap (f i).kind (f i).va c (f i).stride (f i).remaining 1) :
    ∃ t, loadRun f els s = (.ok ((els.takeWhile good).map (fun i => (i, (f i).value (bytesAt s (ps i).pa (f i).n), (f i).va, ps i)),
      (els.dropWhile good).head?.map fun i => (i, .trap (tr i))), t) ∧ s.loaded t := by
  refine loadRun_takeWhile (good := good) (P := fun _ u => s.loaded u) (v := fun i => ((f i).value (bytesAt s (ps i).pa (f i).n), ps i))
    (stop := fun i => .trap (tr i)) (fun _ u hu i hi hg => ?_) (fun _ u hu i hi => ?_) (done := []) (.refl s)
  · obtain ⟨reached, unmarked⟩ := hr i hi hg
    obtain ⟨t, ht, loaded⟩ := hu.loadElem reached hm unmarked
    obtain ⟨r, hr, ticketed⟩ := drawTicket_loaded (f i).hint t
    exact ⟨t, (M.bind_of_ok (trapPoint_of_calm (hu.interruptAhead.trans hc) i)).trans ht, r, hr, loaded.trans ticketed⟩
  · obtain ⟨c, hden, htr⟩ := hd i hi
    rw [M.bind_of_ok (trapPoint_of_calm (hu.interruptAhead.trans hc) i), loadElem_of_denial ((hu.servesAs.denial ..).trans hden), htr]

/-- An address that is reached is not denied. -/
theorem denial_of_reaches {s : State} {k : Access} {va : X} {p : Phys} (h : s.reaches k va p) : denial s k va = none := by
  obtain ⟨hc, e, he, hp, -⟩ := translate_hit (translate_of_locateBy h.1)
  unfold denial
  rw [if_neg (by simp [hc]), he]
  exact if_pos hp

/-- The elements of a load that are all reached (R101). -/
theorem loadRun_of_all {s : State} {f : Nat → VAccess} {ps : Nat → Phys} {els : List Nat} (hc : s.interruptAhead = none) (hm : s.memOk)
    (hr : ∀ i ∈ els, s.reaches (f i).kind (f i).va (ps i) ∧ s.unmarked (f i).va (f i).n) :
    ∃ t, loadRun f els s =
      (.ok (els.map (fun i => (i, (f i).value (bytesAt s (ps i).pa (f i).n), (f i).va, ps i)), none), t) ∧ s.loaded t := by
  have end_ : els.dropWhile (fun _ => true) = [] := List.dropWhile_eq_nil_iff.mpr fun _ _ => rfl
  obtain ⟨t, ht, loaded⟩ := loadRun_of_reaches (f := f) (ps := ps) (els := els) (good := fun _ => true)
    (tr := fun _ => { code := 0, tval := 0 }) hc hm (fun i hi _ => hr i hi) (by simp [end_])
  refine ⟨t, ?_, loaded⟩
  rw [ht, end_, List.takeWhile_eq_self_iff.mpr fun _ _ => rfl]
  rfl

/-! ### The whole change -/

/-- t is s but for what a vector load changes: as `State.vecChange`, with the copies of lines and the ticket counter. -/
def State.loadChange (s t : State) : Prop :=
  ∃ f lines dir flips under held owned tickets pend cnt v phys r dirty, t = { s with
    fife := f, lines := lines, dir := dir, flips := flips, under := under, hostHeld := held, hostOwned := owned, tickets := tickets
    me := { s.me with
      hart := { s.me.hart with pend := pend, cnt := cnt }
      vec := { s.me.vec with v := v, phys := phys, pregs := r, vdirty := dirty } } }

theorem State.loadChange.trans {s t u : State} (h : s.loadChange t) (h' : t.loadChange u) : s.loadChange u := by
  obtain ⟨_, _, _, _, _, _, _, _, _, _, _, _, _, _, rfl⟩ := h
  obtain ⟨_, _, _, _, _, _, _, _, _, _, _, _, _, _, rfl⟩ := h'
  exact ⟨_, _, _, _, _, _, _, _, _, _, _, _, _, _, rfl⟩

theorem State.loaded.loadChange {s t : State} (h : s.loaded t) : s.loadChange t := by
  rw [h.frame]
  exact ⟨_, _, _, _, _, _, _, _, _, _, _, _, _, _, rfl⟩

theorem State.vecChange.loadChange {s t : State} (h : s.vecChange t) : s.loadChange t := by
  obtain ⟨_, _, _, _, _, _, _, rfl⟩ := h
  exact ⟨_, _, _, _, _, _, _, _, _, _, _, _, _, _, rfl⟩

theorem State.loadChange.streams {s t : State} (h : s.loadChange t) : t.me.vec.streams = s.me.vec.streams := by
  obtain ⟨_, _, _, _, _, _, _, _, _, _, _, _, _, _, rfl⟩ := h; rfl

theorem State.loadChange.others {s t : State} (h : s.loadChange t) : t.others = s.others := by
  obtain ⟨_, _, _, _, _, _, _, _, _, _, _, _, _, _, rfl⟩ := h; rfl

/-- The completion of a vector load. -/
theorem State.loadChange.completes {s t : State} (h : s.loadChange t) (hs : (s.me.hart.ss && !s.me.hart.prv) = false)
    (hf : s.me.hart.fm = false) (st : BitVec 3) :
    s.loadFrame (t.clearKf.complete st 0 (s.pc + 4)) st ∧ (t.clearKf.complete st 0 (s.pc + 4)).me.vec.v = t.me.vec.v := by
  obtain ⟨_, _, _, _, _, _, _, _, _, _, _, _, _, _, rfl⟩ := h
  rw [clearKf_of_off (by exact hf), complete_eq_after _ _ _ _ (by exact hs)]
  refine ⟨?_, rfl⟩
  unfold State.loadFrame State.after
  rw [Nat.max_zero]

theorem keepAhead_of_streams {s : State} (h : s.me.vec.streams = []) (ok : Host.Cell → Bool) : s.keepAhead ok = s := by
  have same : ∀ v : Vec, v.streams = [] → { v with streams := v.streams.map (Stream.keep ok) } = v := by
    rintro ⟨⟩ rfl
    rfl
  unfold State.keepAhead
  split
  · exact congrArg (fun v => ({ s with me := { s.me with vec := v } } : State)) (same s.me.vec h)
  · rfl

/-- What an acquire frees (R103, R260). -/
theorem State.acquire_frees {s : State} (h : s.me.vec.streams = []) : s.frees s.acquire := by
  have drop : s.frees (s.dropLoads fun l => !l.isPrivate) := by
    unfold State.dropLoads
    split
    · exact State.dropEntries_frees _ s
    · exact .refl s
  unfold State.acquire
  rw [keepAhead_of_streams (drop.vecChange.streams.trans h)]
  exact drop

theorem State.loadAcquire_frees {s : State} (h : s.me.vec.streams = []) (n hint : Nat) (l : List (Nat × Nat × X × Phys)) :
    s.frees (s.loadAcquire n hint l) := by
  unfold State.loadAcquire
  split
  · exact State.acquire_frees h
  · exact .refl s

/-- The header of the object that may contain a word, read where it holds no poison and none of its codewords is in error (R204, R259). -/
theorem seeHeader_copied {s : State} (hs : s.sram = []) {pa : Nat}
    (hc : ∀ h, s.headerBelow (pa / 8) = some h → flipsAt s.flips (h / 2) = []) (a : Agent) : s.copied (s.seeHeader pa a).2 := by
  unfold State.seeHeader
  split
  case h_2 => exact .refl s
  case h_1 h hh =>
    obtain ⟨u, hu⟩ : ∃ u, u = s.unhold (8 * h / 16 * 16) 16 false := ⟨_, rfl⟩
    have held : s.copied u := hu ▸ State.unhold_copied ..
    have granule : flipsAt u.flips (8 * h / 16) = [] := by
      rw [show 8 * h / 16 = h / 2 by omega]
      exact held.clean _ (hc h hh)
    unfold State.meetPlain State.meetHome
    rw [← hu]
    simp only [meetRemote_of_clean (held.sram hs), readSram_of_clean (held.sram hs), ite_self, Bool.or_self, Bool.false_eq_true, if_false,
      decodeGranule_of_clean granule]
    split <;> exact held

end Sys2Proof.Machine
end

section
/-! Unit-stride, strided and lane-local loads (R104, R105, R107). -/

namespace Sys2Proof.Machine
open Sys2Proof.Cert

/-! ### The frame -/

/-- A vector instruction that runs undisturbed and whose body ends well. -/
theorem runVector_gives {s : State} (h : s.vectorRuns) (q : VReq) (body : M Unit)
    (hp : s.me.hart.pairs { st := q.st, dst := q.dst, noPred := q.noPred } = true) (hn : s.me.hart.nullified = false)
    (hsh : q.shape = true) (hq : q.anyEs = false) {Q : State → Prop} (hb : s.es < s.me.vec.vl.toNat → body.gives s fun _ t => Q t)
    (hb' : ¬s.es < s.me.vec.vl.toNat → Q s) (hs : ∀ t, Q t → t.me.vec.streams = []) :
    ∃ t, runVector q body s = .next ((if q.kf then t.clearKf else t).complete q.st 0 (s.pc + 4)) ∧ Q t := by
  by_cases hbusy : s.es < s.me.vec.vl.toNat
  · obtain ⟨_, t, ht, hQ⟩ := hb hbusy
    exact ⟨t, runVector_runs h q body hp hn hsh (fun _ => ht) (fun hb' => absurd (.inr hbusy) hb') (hs t hQ), hQ⟩
  · exact ⟨s, runVector_runs h q body hp hn hsh (fun hb' => by simp [hq, hbusy] at hb') (fun _ => rfl) h.streams, hb' hbusy⟩

/-- A vector instruction that runs undisturbed and whose body traps. -/
theorem runVector_stops {s : State} (h : s.vectorRuns) (q : VReq) (body : M Unit)
    (hp : s.me.hart.pairs { st := q.st, dst := q.dst, noPred := q.noPred } = true) (hn : s.me.hart.nullified = false)
    (hsh : q.shape = true) (hb : s.es < s.me.vec.vl.toNat) {tr : Trap} {Q : State → Prop} (hs : body.stops s (.trap tr) Q) :
    ∃ t, runVector q body s = .next (t.enterTrap false t.pc tr) ∧ Q t := by
  obtain ⟨t, ht, hQ⟩ := hs
  refine ⟨t, ?_, hQ⟩
  unfold runVector runM
  rw [if_pos h.live, M.bind_of_ok (gate_runVector h q hp hsh), hn]
  simp only [Bool.not_false, if_true, M.bind_get, M.bind_of_ok (checkBound_of_streams h.streams _)]
  rw [if_pos (by simp [hb]), M.bind_of_error ht]
  rfl

theorem fifeHit_of_idle {s : State} (h : s.reuseIdle) (q : ReuseReq) : s.fifeHit q = none := by
  unfold State.fifeHit
  rcases h with h | ⟨h, -⟩
  · simp [fifeKey_of_off q h]
  · simp [h]

/-- A load, which h = 11 keeps out of reuse, runs where nothing could be reused (R103, R257). -/
theorem hinted_gives {s : State} (hi : s.reuseIdle) {hint lat : Nat} {fixed : Bool} {q : ReuseReq}
    {run : M (Option (Flags × Option LoadRecord))} {Q : State → Prop}
    (h : run.gives s fun _ t => t.others = s.others ∧ ∀ u, t.frees u → Q u) :
    (if hint = 3 then (do let _ ← run; pure ()) else reusable q lat fixed run).gives s fun _ t => Q t := by
  obtain ⟨r, t, hr, ho, hQ⟩ := h
  split
  · exact ⟨(), t, M.bind_of_ok hr, hQ t (.refl t)⟩
  · obtain ⟨u, hu, hf⟩ := reusable_of_idle (q := q) (lat := lat) (fixed := fixed) hi ho hr
    exact ⟨(), u, hu, hQ u hf⟩

theorem hinted_stops {s : State} (hi : s.reuseIdle) {hint lat : Nat} {fixed : Bool} {q : ReuseReq}
    {run : M (Option (Flags × Option LoadRecord))} {e : Stop} {Q : State → Prop} (h : run.stops s e Q) :
    (if hint = 3 then (do let _ ← run; pure ()) else reusable q lat fixed run).stops s e Q := by
  split
  · exact M.stops_bind_left h
  · obtain ⟨t, hr, hQ⟩ := h
    have hm : (if s.copyFits q = true then s.fifeHit q else none) = none := by simp [fifeHit_of_idle hi q]
    refine ⟨t, ?_, hQ⟩
    unfold reusable
    rw [M.bind_get]
    simp only [hm, M.bind_of_error hr]

/-! ### The checks of a form -/

/-- The column check of a lane-local access to addresses that are reached (R107). -/
theorem columnCheck_of_reaches {s : State} {k : Access} {addr : Nat → X} {groups : List Nat} {ps : Nat → Phys} {els : List Nat}
    (hr : ∀ i ∈ els, s.reaches k (addr i) (ps i))
    (hc : ∀ i ∈ els, inColumn s.me.core (groups.getD (i % groups.length) 0) (ps i).pa = true) :
    columnCheck k addr groups els s = (.ok (), s) := by
  induction els with
  | nil => rfl
  | cons i rest ih =>
    have held : s.translate s.me.core s.pid s.me.hart.prv k (addr i) s.hartAgent = (.ok (ps i), s) :=
      translate_of_locateBy (hr i (by simp)).1
    unfold columnCheck
    rw [M.bind_get, held]
    dsimp only
    rw [M.bind_set, M.bind_require, hc i (by simp), if_pos rfl]
    exact ih (fun j hj => hr j (by simp [hj])) (fun j hj => hc j (by simp [hj]))

/-- t is s after a load that wrote elements to v[d]. -/
structure State.elemsLoaded (s t : State) (d : BitVec 5) (l : List (Nat × Nat)) : Prop where
  change : s.loadChange t
  regs : ∀ n : BitVec 5, t.me.vec.v[n.toNat] =
    if n = d then setElems s.me.vec.grant s.me.vec.width l s.me.vec.v[n.toNat] else s.me.vec.v[n.toNat]
  clean : ∀ g, flipsAt s.flips g = [] → flipsAt t.flips g = []

theorem State.elemsLoaded.of_loadChange {s t u : State} {d : BitVec 5} {l : List (Nat × Nat)} (h : s.elemsLoaded t d l)
    (hu : t.loadChange u) (hv : u.me.vec.v = t.me.vec.v) (hc : ∀ g, flipsAt t.flips g = [] → flipsAt u.flips g = []) :
    s.elemsLoaded u d l :=
  ⟨h.change.trans hu, fun n => by rw [hv]; exact h.regs n, fun g hg => hc g (h.clean g hg)⟩

theorem State.elemsLoaded.of_frees {s t u : State} {d : BitVec 5} {l : List (Nat × Nat)} (h : s.elemsLoaded t d l) (hu : t.frees u) :
    s.elemsLoaded u d l := by
  have change := hu.vecChange.loadChange
  obtain ⟨_, _, rfl, -⟩ := hu
  exact h.of_loadChange change rfl fun _ hg => hg

theorem State.elemsLoaded.of_loaded {s t u : State} {d : BitVec 5} {l : List (Nat × Nat)} (h : s.elemsLoaded t d l) (hu : t.loaded u) :
    s.elemsLoaded u d l := h.of_loadChange hu.loadChange (by rw [hu.me]) hu.clean

/-- What a load ends and counts (R103, R244). -/
def State.endLoads (n hint : Nat) (got : List (Nat × Nat × X × Phys)) (c : Nat) (s : State) : State :=
  (s.loadAcquire n hint got).modHart (Hart.count 6 c)

theorem State.elemsLoaded.ended {s t : State} {d : BitVec 5} {l : List (Nat × Nat)} (h : s.elemsLoaded t d l) (hs : s.me.vec.streams = [])
    (n hint : Nat) (got : List (Nat × Nat × X × Phys)) (c : Nat) : s.elemsLoaded (t.endLoads n hint got c) d l := by
  have acquired := h.of_frees (State.loadAcquire_frees (h.change.streams.trans hs) n hint got)
  exact acquired.of_loadChange ((State.vecChange.refl _).count 6 c).loadChange rfl fun _ hg => hg

/-- The elements that were read written. -/
theorem State.loaded.put {s u : State} (hu : s.loaded u) (hpv : s.me.hart.pv = false) (d : BitVec 5) (l : List (Nat × Nat)) (lat : Nat) :
    s.elemsLoaded (u.putV d s.me.vec.width l lat false) d l := by
  obtain ⟨change, regs⟩ := State.putV_spec d s.me.vec.width l lat false u
  have copy : u.copyV d = none := copyV_of_noPfx (hu.me ▸ hpv) d
  refine ⟨hu.loadChange.trans change.loadChange, fun n => ?_, fun g hg => ?_⟩
  · rw [regs, copy, hu.me]
    simp
  · obtain ⟨_, _, _, _, _, _, _, hput⟩ := change
    rw [hput]
    exact hu.clean g hg

/-- No element written. -/
theorem State.loaded.skip {s u : State} (hu : s.loaded u) (d : BitVec 5) : s.elemsLoaded u d [] :=
  ⟨hu.loadChange, fun n => by rw [hu.me]; simp [setElems], hu.clean⟩

/-- The elements that were read written, and what the load ends and counts (R103, R244). -/
theorem putLoaded_gives {α : Type} {s u : State} (hu : s.loaded u) (hs : s.me.vec.streams = []) (hpv : s.me.hart.pv = false)
    (d : BitVec 5) (l : List (Nat × Nat)) (lat n hint c : Nat) (got : List (Nat × Nat × X × Phys)) {K : M α} {Q : α → State → Prop}
    (hK : ∀ t, s.elemsLoaded t d l → K.gives t Q) :
    (do
      putElems d s.me.vec.width l lat false
      modify fun x => (x.loadAcquire n hint got).modHart (Hart.count 6 c)
      K : M α).gives u Q :=
  M.gives_bind ⟨(), _, putElems_eq .., M.gives_bind ⟨(), _, rfl, hK _ ((hu.put hpv d l lat).ended hs n hint got c)⟩⟩

/-- The header read of a load that makes an entry (R259). -/
theorem State.elemsLoaded.seeClass {s t : State} {d : BitVec 5} {l : List (Nat × Nat)} (h : s.elemsLoaded t d l) (entered : Bool)
    {got : List (Nat × Nat × X × Phys)} (hs : got ≠ [] → s.sram = [])
    (hc : ∀ e ∈ got, e.2.2.2.managed = true → headerClear s e.2.2.2.pa) : s.elemsLoaded (t.seeClass entered got) d l := by
  obtain ⟨htags, hsram⟩ : t.tags = s.tags ∧ t.sram = s.sram := by
    obtain ⟨_, _, _, _, _, _, _, _, _, _, _, _, _, _, rfl⟩ := h.change
    exact ⟨rfl, rfl⟩
  refine h.of_loaded ?_
  unfold State.seeClass
  split
  case h_2 => exact .refl t
  case h_1 i v va p rest =>
    split
    case isFalse => exact .refl t
    case isTrue hm =>
      rw [Bool.and_eq_true] at hm
      refine (seeHeader_copied (hsram ▸ hs (by simp)) (fun w hw => h.clean _ ?_) t.hartAgent).loaded
      unfold State.headerBelow at hw
      rw [htags] at hw
      exact (hc _ (List.mem_cons_self ..) hm.2 w hw).1

/-! ### Loads of which every element is reached -/

theorem VForm.aligned_ok {s : State} (f : VForm) (ha : (s.rX f.a).toNat % elemBytes s.me.vec.width = 0)
    (hs : (f.strideOf s).toNat % elemBytes s.me.vec.width = 0) (u : State) : f.aligned s u = (.ok (), u) := by
  unfold VForm.aligned
  simp [ha, hs]

/-- What a load of R104 or R107 puts into its key (R256). -/
def VForm.request (f : VForm) (s : State) : ReuseReq :=
  { op := f.op * 4 + f.hint, srcs := [], dst := f.d, readsDst := false, xs := s.rX f.a :: f.stride.toList.map s.rX, k := f.k
    barred := (s.actives f.k s.es).any fun i => !(s.marksOn (f.access s .vload i).va (elemBytes s.me.vec.width)).isEmpty }

/-- The end of a load in s that has read some elements and stopped at e, if it stopped (R105). -/
def VForm.endLoad (f : VForm) (base : Nat) (s : State) (l : List (Nat × Nat × X × Phys)) (e : ElemStop) :
    M (Option (Flags × Option LoadRecord)) := do
  let held := e.filter (fun x => x.2.keepsLoad)
  let kept ← (match e with
    | none => pure s.me.vec.vl.toNat
    | some (i, .trap tr) => faultFirst s f.d i tr
    | some (i, r) => if r.keepsLoad then pure i else throw r)
  let got := l.filter (fun x => decide (x.1 < kept))
  let lat := s.vloadLatency (base + (if f.lane then 0 else s.me.vec.grant)) f.hint (got.map (fun x => x.2.2.2))
  if !got.isEmpty || held.isNone then putElems f.d s.me.vec.width (got.map (fun x => (x.1, x.2.1))) lat false
  modify fun x => (x.loadAcquire (elemBytes s.me.vec.width) f.hint got).modHart (Hart.count 6 got.length)
  match held with
  | some (i, r) => do
    modify (State.beginLoad f.d s)
    setEs i
    throw r
  | none => pure ()
  if e.isSome || s.me.hart.begun.isSome then pure none
  else
    modify (State.seeClass (f.hint != 3 && (s.fifeKey (f.request s)).isSome) got)
    pure (s.loadRecordOf (elemBytes s.me.vec.width) false got)

/-- A load in s: its checks, its elements, and its end (R104, R105, R107). -/
def VForm.load (f : VForm) (base : Nat) (s : State) : M (Option (Flags × Option LoadRecord)) := do
  f.aligned s
  if f.lane then columnCheck .vload (fun i => (f.access s .vload i).va) s.me.vec.groups (s.actives f.k s.es)
  let (l, e) ← loadRun (f.access s .vload) (s.actives f.k s.es)
  f.endLoad base s l e

theorem vloadOp_eq (f : VForm) (base : Nat) (s : State) : vloadOp f base s =
    runVector { st := f.st, k := f.k, rs := f.regs, dst := .v f.d, writes := [f.d], shape := f.widthOk s } (do
      let t ← get
      if f.hint = 3 then
        let _ ← f.load base t
        pure ()
      else reusable (f.request t) 2 false (f.load base t)) s := rfl

/-- The elements of a load in order, its checks passed. -/
theorem VForm.load_eq {s u : State} {f : VForm} {l : List (Nat × Nat × X × Phys)} {e : ElemStop} (base : Nat)
    (ha : (s.rX f.a).toNat % elemBytes s.me.vec.width = 0) (hs : (f.strideOf s).toNat % elemBytes s.me.vec.width = 0)
    (hc : f.lane = true → columnCheck .vload (fun i => (f.access s .vload i).va) s.me.vec.groups (s.actives f.k s.es) s = (.ok (), s))
    (hu : loadRun (f.access s .vload) (s.actives f.k s.es) s = (.ok (l, e), u)) : f.load base s s = f.endLoad base s l e u := by
  unfold VForm.load
  rw [M.bind_of_ok (f.aligned_ok ha hs s)]
  split
  · exact (M.bind_of_ok (hc ‹_›)).trans (M.bind_of_ok hu)
  · exact M.bind_of_ok hu

/-- The end of a load that read all its elements. -/
theorem VForm.endLoad_gives {s u : State} (h : s.vectorReady) (hu : s.loaded u) (f : VForm) (base : Nat)
    {got : List (Nat × Nat × X × Phys)} (hb : ∀ e ∈ got, e.1 < s.me.vec.vl.toNat) (hs : got ≠ [] → s.sram = [])
    (hc : ∀ e ∈ got, e.2.2.2.managed = true → headerClear s e.2.2.2.pa) :
    (f.endLoad base s got none).gives u fun _ t => s.elemsLoaded t f.d (got.map fun x => (x.1, x.2.1)) := by
  have all : got.filter (fun x => decide (x.1 < s.me.vec.vl.toNat)) = got :=
    List.filter_eq_self.mpr fun e he => by simpa using hb e he
  unfold VForm.endLoad
  refine M.gives_bind ⟨_, u, rfl, ?_⟩
  simp only [all, Option.filter_none, Option.isNone_none, Bool.or_true, if_true]
  refine putLoaded_gives hu h.runs.streams h.plain.1 _ _ _ _ _ _ _ fun t ht => ?_
  split
  · exact ⟨_, t, rfl, ht⟩
  · exact ⟨_, _, rfl, ht.seeClass _ hs hc⟩

/-- A load of which no element is denied: every active element is reached (R101, R104, R107). -/
theorem vloadOp_gives {s : State} (h : s.vectorReady) (hm : s.memOk) (f : VForm) (base : Nat) (hw : f.widthOk s = true)
    (ha : (s.rX f.a).toNat % elemBytes s.me.vec.width = 0) (hs : (f.strideOf s).toNat % elemBytes s.me.vec.width = 0) {ps : Nat → Phys}
    (hr : ∀ i, s.active f.k i → s.reaches .vload (f.access s .vload i).va (ps i) ∧
      ((ps i).managed = true → headerClear s (ps i).pa) ∧ s.unmarked (f.access s .vload i).va (elemBytes s.me.vec.width))
    (hc : f.lane = true → inColumns s (s.active f.k) ps) :
    ∃ t, vloadOp f base s = .next (t.clearKf.complete f.st 0 (s.pc + 4)) ∧ s.elemsLoaded t f.d ((s.actives f.k s.es).map fun i =>
      (i, (f.access s .vload i).value (bytesAt s (ps i).pa (elemBytes s.me.vec.width)))) := by
  obtain ⟨hpv, hfm, hi, hcalm⟩ := h.plain
  have hst := h.runs.streams
  have act : ∀ i ∈ s.actives f.k s.es, s.active f.k i := fun i hi => (mem_actives_iff_active hfm hpv).mp hi
  rw [vloadOp_eq]
  refine runVector_gives h.runs _ _ (pairs_of_noPfx hpv _) (nullified_of_noPfx hpv) hw rfl (fun hb => ?_) (fun hb => ?_)
    (fun t ht => ht.change.streams.trans hst)
  · have columns : f.lane = true →
        columnCheck .vload (fun i => (f.access s .vload i).va) s.me.vec.groups (s.actives f.k s.es) s = (.ok (), s) := fun hl =>
      columnCheck_of_reaches (fun i hi => (hr i (act i hi)).1) (fun i hi => hc hl i (act i hi))
    obtain ⟨u, hu, loaded⟩ := loadRun_of_all (f := f.access s .vload) (ps := ps) hcalm hm fun i hi =>
      ⟨(hr i (act i hi)).1, (hr i (act i hi)).2.2⟩
    obtain ⟨r, t, ht, done⟩ := f.endLoad_gives h loaded base (got := (s.actives f.k s.es).map fun i =>
      (i, (f.access s .vload i).value (bytesAt s (ps i).pa (f.access s .vload i).n), (f.access s .vload i).va, ps i))
      (fun e he => by
        obtain ⟨i, hi, rfl⟩ := List.mem_map.mp he
        exact (act i hi).2.1)
      (fun hne => by
        obtain ⟨e, he⟩ := List.exists_mem_of_ne_nil _ hne
        obtain ⟨i, hi, -⟩ := List.mem_map.mp he
        exact (hr i (act i hi)).1.2.2.2.2.1)
      (fun e he => by
        obtain ⟨i, hi, rfl⟩ := List.mem_map.mp he
        exact (hr i (act i hi)).2.1)
    rw [List.map_map] at done
    refine M.gives_bind ⟨s, s, rfl, hinted_gives hi ⟨r, t, (VForm.load_eq base ha hs columns hu).trans ht, done.change.others, fun v hv => ?_⟩⟩
    exact done.of_frees hv
  · rw [actives_nil f.k hb]
    exact (State.loaded.refl s).skip f.d

end Sys2Proof.Machine
end

section
/-! The forms of unit-stride, strided and lane-local loads, and loads of which an element faults (R104, R105, R107). -/

namespace Sys2Proof.Machine
open Sys2Proof.Cert

/-! ### Addresses and values -/

theorem elemBytes_pos (w : Nat) : 0 < elemBytes w := by unfold elemBytes; omega

/-- The bytes of an element of whole bytes. -/
theorem elemBytes_of_le {w : Nat} (h : 8 ≤ w) : elemBytes w = w / 8 := by unfold elemBytes; omega

theorem ElemWidth.mul_div {w : Nat} (hw : ElemWidth w) (h : 8 ≤ w) (i : Nat) : i * w / 8 = i * (w / 8) := by
  rcases hw with rfl | rfl | rfl | rfl | rfl | rfl <;> omega

theorem ElemWidth.bytes_le {w : Nat} (hw : ElemWidth w) : elemBytes w ≤ 8 := by
  unfold elemBytes
  rcases hw with rfl | rfl | rfl | rfl | rfl | rfl <;> decide

/-- The unit-stride address of an element (R104). -/
theorem stridedAddr_unit {w : Nat} (hw : ElemWidth w) (base : X) (i : Nat) :
    stridedAddr base (xOf (elemBytes w)) w i = base + BitVec.ofNat 64 (i * w / 8) := by
  unfold stridedAddr
  split
  · rfl
  · rw [elemBytes_of_le (by omega), hw.mul_div (by omega)]
    unfold xOf
    rw [← BitVec.ofNat_mul]

theorem unitStride_aligned {w : Nat} (hw : ElemWidth w) : (xOf (elemBytes w)).toNat % elemBytes w = 0 := by
  have h1 := hw.bytes_le
  rw [show (xOf (elemBytes w)).toNat = elemBytes w from Nat.mod_eq_of_lt (by omega), Nat.mod_self]

/-- The value of an element, within its width (R101). -/
theorem VAccess.value_mod (a : VAccess) (v : Nat) :
    a.value v % 2 ^ a.width = v / 2 ^ (if a.width < 8 then a.idx * a.width % 8 else 0) % 2 ^ a.width := by
  unfold VAccess.value
  split
  · rw [Nat.mod_mod]
  · simp

/-! ### What a load leaves -/

/-- The registers after a load of elements of v[d]. -/
theorem State.elemsLoaded.becomes {s t : State} (h : s.vectorRuns) {d : BitVec 5} {els : List Nat} {f g : Nat → Nat} {p : Nat → Prop}
    (hl : s.elemsLoaded t d (els.map fun i => (i, f i))) (hp : ∀ i, i ∈ els ↔ p i) (hb : ∀ i, p i → i < s.me.vec.vl.toNat)
    (hfg : ∀ i, p i → f i % 2 ^ s.me.vec.width = g i % 2 ^ s.me.vec.width) : s.elemsBecome t d s.me.vec.width p g :=
  elemsBecome_congr (elemsBecome_of_setElems h ((hl.regs d).trans (if_pos rfl)) hp hb) hfg

theorem State.elemsLoaded.keepsV {s t : State} {d : BitVec 5} {l : List (Nat × Nat)} (h : s.elemsLoaded t d l) : s.keepsV t [d] := by
  intro n hn
  rw [h.regs n, if_neg (by simpa using hn)]

/-- A form of load gives what the statements say of its addresses (R101, R104, R107). -/
theorem loadsElems_of_form {s : State} (h : s.vectorReady) (f : VForm) (base : Nat) {i : Instr} (hi : exec i s = vloadOp f base s)
    (hw : f.widthOk s = true) (ha : (s.rX f.a).toNat % elemBytes s.me.vec.width = 0)
    (hs : (f.strideOf s).toNat % elemBytes s.me.vec.width = 0) {va : Nat → X} {sh : Nat → Nat} {ok : (Nat → Phys) → Prop}
    (hva : ∀ n, (f.access s .vload n).va = va n)
    (hsh : ∀ n, (if s.me.vec.width < 8 then (f.access s .vload n).idx * s.me.vec.width % 8 else 0) = sh n)
    (hok : ∀ ps, ok ps → f.lane = true → inColumns s (s.active f.k) ps) :
    loadsElems s i f.st f.d (s.active f.k) .vload va sh ok := by
  intro ps hm hr hps
  obtain ⟨hpv, hfm, -, -⟩ := h.plain
  obtain ⟨t, ht, loaded⟩ := vloadOp_gives h hm f base hw ha hs (ps := ps) (fun n hn => by rw [hva]; exact hr n hn) (hok ps hps)
  obtain ⟨frame, hv⟩ := loaded.change.completes h.runs.noStep hfm f.st
  refine ⟨_, hi.trans ht, ?_, keepsV_of_v_eq loaded.keepsV hv, frame⟩
  refine elemsBecome_of_v_eq (loaded.becomes h.runs (fun _ => mem_actives_iff_active hfm hpv) (fun _ hp => hp.2.1) fun n _ => ?_) hv
  have value := (f.access s .vload n).value_mod (bytesAt s (ps n).pa (elemBytes s.me.vec.width))
  rw [show (f.access s .vload n).width = s.me.vec.width from rfl, hsh] at value
  exact value

/-! ### Sorted elements -/

/-- In a rising list, the elements before the first that fails a test are those below it. -/
theorem takeWhile_below {l : List Nat} (hl : l.Pairwise (· < ·)) {i : Nat} (hi : i ∈ l) {good : Nat → Bool}
    (hlow : ∀ n ∈ l, n < i → good n = true) (hbad : good i = false) :
    l.takeWhile good = l.filter (fun n => decide (n < i)) ∧ l.dropWhile good = i :: l.filter (fun n => decide (i < n)) := by
  induction l with
  | nil => cases hi
  | cons n rest ih =>
    obtain ⟨hn, hr⟩ := List.pairwise_cons.mp hl
    rcases List.mem_cons.mp hi with rfl | hi'
    · have none_ : rest.filter (fun n => decide (n < i)) = [] := List.filter_eq_nil_iff.mpr fun m hm => by
        have := hn m hm
        simp only [decide_eq_true_eq]
        omega
      have all : rest.filter (fun n => decide (i < n)) = rest := List.filter_eq_self.mpr fun m hm => by simpa using hn m hm
      simp [none_, all, hbad]
    · have := hn i hi'
      obtain ⟨h1, h2⟩ := ih hr hi' fun m hm => hlow m (by simp [hm])
      simp [this, show ¬i < n by omega, h1, h2, hlow n (by simp) this]

theorem actives_pairwise (s : State) (k : BitVec 3) (lo : Nat) : (s.actives k lo).Pairwise (· < ·) :=
  (List.pairwise_lt_range.sublist (List.drop_sublist ..)).sublist List.filter_sublist

/-! ### Loads of which an element is denied -/

theorem firstEs_of_begun {s : State} (h : s.me.hart.begun = none) : s.firstEs = s.es := by simp [State.firstEs, h]

/-- Where no load has begun, there is nothing to take back (R105). -/
theorem unload_of_begun {s : State} (h : s.me.hart.begun = none) (d : BitVec 5) (w lo : Nat) : s.unload d w lo = s := by
  simp [State.unload, h]

/-- The number of elements that a load keeps whose element i faults (R105). -/
def Vec.keptOf (v : Vec) (i : Nat) : Nat := if v.block = 0 then i else i - i % v.block

theorem Vec.keptOf_le (v : Vec) (i : Nat) : v.keptOf i ≤ i := by unfold Vec.keptOf; split <;> omega

theorem setEs_same (s : State) : setEs s.es s = (.ok (), s) := by
  have same : ∀ h : Hart, { h with es := BitVec.ofNat 18 h.es.toNat } = h := by
    rintro ⟨⟩
    simp
  exact congrArg (fun h => (Except.ok (), ({ s with me := { s.me with hart := h } } : State))) (same s.me.hart)

theorem faultFirst_traps {s u : State} (hu : s.loaded u) (hb : s.me.hart.begun = none) (d : BitVec 5) {i : Nat} (tr : Trap)
    (hk : s.me.vec.keptOf i ≤ s.es) : faultFirst s d i tr u = (.error (.trap tr), u) := by
  have stay := setEs_same u
  rw [show u.es = s.es by unfold State.es; rw [hu.me]] at stay
  unfold faultFirst
  rw [firstEs_of_begun hb, if_pos (.inr hk), M.bind_modify, unload_of_begun (by rw [hu.me]; exact hb), M.bind_of_ok stay]
  rfl

theorem faultFirst_trims {s u : State} (hu : s.loaded u) (hb : s.me.hart.begun = none) (d : BitVec 5) {i : Nat} (tr : Trap)
    (hk : s.es < s.me.vec.keptOf i) :
    faultFirst s d i tr u = (.ok (s.me.vec.keptOf i), u.trimVl (s.me.vec.keptOf i)) := by
  have le := s.me.vec.keptOf_le i
  have stays : ¬(i = s.es ∨ s.me.vec.keptOf i ≤ s.es) := by omega
  unfold faultFirst
  rw [firstEs_of_begun hb, show (if s.me.vec.block = 0 then i else i - i % s.me.vec.block) = s.me.vec.keptOf i from rfl, if_neg stays,
    M.bind_modify, unload_of_begun (by rw [hu.me]; exact hb)]
  rfl

theorem VForm.endLoad_stops {s u : State} (hu : s.loaded u) (hb : s.me.hart.begun = none) (f : VForm) (base : Nat)
    (l : List (Nat × Nat × X × Phys)) {i : Nat} (tr : Trap) (hk : s.me.vec.keptOf i ≤ s.es) :
    (f.endLoad base s l (some (i, .trap tr))).stops u (.trap tr) fun t => t = u := by
  unfold VForm.endLoad
  exact M.stops_bind_left ⟨u, faultFirst_traps hu hb f.d tr hk, rfl⟩

/-- The end of a load that vl is trimmed for (R105). -/
theorem VForm.endLoad_trims {s u : State} (h : s.vectorReady) (hu : s.loaded u) (hb : s.me.hart.begun = none) (f : VForm) (base : Nat)
    (l : List (Nat × Nat × X × Phys)) {i : Nat} (tr : Trap) (hk : s.es < s.me.vec.keptOf i) :
    (f.endLoad base s l (some (i, .trap tr))).gives u fun _ t => (s.trimVl (s.me.vec.keptOf i)).elemsLoaded t f.d
      ((l.filter fun x => decide (x.1 < s.me.vec.keptOf i)).map fun x => (x.1, x.2.1)) := by
  have trimmed : (s.trimVl (s.me.vec.keptOf i)).loaded (u.trimVl (s.me.vec.keptOf i)) := by
    refine ⟨?_, hu.clean⟩
    rw [hu.frame]
    rfl
  unfold VForm.endLoad
  refine M.gives_bind ⟨_, _, faultFirst_trims hu hb f.d tr hk, ?_⟩
  simp only [Option.filter, Stop.keepsLoad, Bool.false_eq_true, if_false, Option.isNone_none, Bool.or_true, if_true, Option.isSome_some,
    Bool.true_or]
  exact putLoaded_gives trimmed h.runs.streams h.plain.1 _ _ _ _ _ _ _ fun t ht => ⟨_, t, rfl, ht⟩

/-- Fault-only-first (R105): element i is the lowest that is denied; what a form of load does. -/
theorem vloadOp_faultFirst {s : State} (h : s.vectorReady) (hm : s.memOk) (hbeg : s.me.hart.begun = none) (f : VForm) (base : Nat)
    (hlane : f.lane = false) (hw : f.widthOk s = true) (ha : (s.rX f.a).toNat % elemBytes s.me.vec.width = 0)
    (hs : (f.strideOf s).toNat % elemBytes s.me.vec.width = 0) {ps : Nat → Phys} {i : Nat} {c : Nat × Nat} (hi : s.active f.k i)
    (hd : denial s .vload (f.access s .vload i).va = some c)
    (hr : ∀ n < i, s.active f.k n → s.reaches .vload (f.access s .vload n).va (ps n) ∧
      s.unmarked (f.access s .vload n).va (elemBytes s.me.vec.width)) :
    (s.me.vec.keptOf i ≤ s.es → ∃ t, vloadOp f base s = .next (t.enterTrap false t.pc
        (denialTrap .vload (f.access s .vload i).va c (f.strideOf s) (s.me.vec.vl.toNat - s.es) 1)) ∧ s.loaded t) ∧
    (s.es < s.me.vec.keptOf i → ∃ t, vloadOp f base s = .next (t.clearKf.complete f.st 0 (s.pc + 4)) ∧
      (s.trimVl (s.me.vec.keptOf i)).elemsLoaded t f.d (((s.actives f.k s.es).filter fun n => decide (n < s.me.vec.keptOf i)).map fun n =>
        (n, (f.access s .vload n).value (bytesAt s (ps n).pa (elemBytes s.me.vec.width))))) := by
  obtain ⟨hpv, hfm, hidle, hcalm⟩ := h.plain
  have act : ∀ n ∈ s.actives f.k s.es, s.active f.k n := fun n hn => (mem_actives_iff_active hfm hpv).mp hn
  have mem : i ∈ s.actives f.k s.es := (mem_actives_iff_active hfm hpv).mpr hi
  have busy : s.es < s.me.vec.vl.toNat := lt_of_le_of_lt hi.1 hi.2.1
  obtain ⟨before, from_⟩ := takeWhile_below (actives_pairwise s f.k s.es) mem
    (good := fun n => decide (n < i)) (by simp) (by simp)
  have left : (f.access s .vload i).remaining = s.me.vec.vl.toNat - s.es := by
    show s.me.vec.vl.toNat - s.firstEs = _
    rw [firstEs_of_begun hbeg]
  obtain ⟨tr, htr⟩ : ∃ tr, tr = denialTrap .vload (f.access s .vload i).va c (f.strideOf s) (s.me.vec.vl.toNat - s.es) 1 := ⟨_, rfl⟩
  obtain ⟨u, hu, loaded⟩ := loadRun_of_reaches (f := f.access s .vload) (ps := ps) (els := s.actives f.k s.es)
    (good := fun n => decide (n < i)) (tr := fun _ => tr) hcalm hm
    (fun n hn hlt => hr n (by simpa using hlt) (act n hn))
    (fun n hn => by
      rw [from_] at hn
      cases hn
      exact ⟨c, hd, by rw [htr, left]; rfl⟩)
  rw [before, from_] at hu
  have start := VForm.load_eq base ha hs (fun hl => by rw [hlane] at hl; cases hl) hu
  rw [vloadOp_eq, ← htr]
  refine ⟨fun hk => ?_, fun hk => ?_⟩
  · obtain ⟨t, ht, rfl⟩ := VForm.endLoad_stops loaded hbeg f base _ tr hk
    exact runVector_stops h.runs _ _ (pairs_of_noPfx hpv _) (nullified_of_noPfx hpv) hw busy
      (M.stops_bind ⟨s, s, rfl, hinted_stops hidle ⟨t, start.trans ht, loaded⟩⟩)
  · obtain ⟨r, t, ht, done⟩ := VForm.endLoad_trims h loaded hbeg f base _ tr hk
    have le := s.me.vec.keptOf_le i
    have kept : ∀ l : List Nat, (l.filter fun n => decide (n < i)).filter (fun n => decide (n < s.me.vec.keptOf i)) =
        l.filter fun n => decide (n < s.me.vec.keptOf i) := fun l => by
      rw [List.filter_filter]
      refine List.filter_congr fun n _ => ?_
      by_cases hn : n < s.me.vec.keptOf i
      · simp [hn, show n < i by omega]
      · simp [hn]
    rw [List.filter_map, List.map_map, show ((fun x : Nat × Nat × X × Phys => decide (x.1 < s.me.vec.keptOf i)) ∘ fun n =>
      (n, (f.access s .vload n).value (bytesAt s (ps n).pa (f.access s .vload n).n), (f.access s .vload n).va, ps n)) =
        fun n => decide (n < s.me.vec.keptOf i) from rfl, kept] at done
    refine runVector_gives h.runs _ _ (pairs_of_noPfx hpv _) (nullified_of_noPfx hpv) hw rfl (fun _ => ?_) (fun hb => absurd busy hb)
      (fun t ht => ht.change.streams.trans h.runs.streams)
    exact M.gives_bind ⟨s, s, rfl, hinted_gives hidle ⟨r, t, start.trans ht, done.change.others, fun v hv => done.of_frees hv⟩⟩

end Sys2Proof.Machine

namespace Sys2Proof.Proofs
open Sys2Proof.Machine Sys2Proof.Cert

/-- What the statement on fault-only-first loads says of one form (R105). -/
theorem faultOnlyFirst_of_form {s : State} (h : s.vectorReady) (hbeg : s.me.hart.begun = none) (f : VForm) (base : Nat) {j : Instr}
    (hj : exec j s = vloadOp f base s) (hlane : f.lane = false) (hw : f.widthOk s = true)
    (ha : (s.rX f.a).toNat % elemBytes s.me.vec.width = 0) (hs : (f.strideOf s).toNat % elemBytes s.me.vec.width = 0)
    {va : Nat → X} {sh : Nat → Nat} (hva : ∀ n, (f.access s .vload n).va = va n)
    (hsh : ∀ n, (if s.me.vec.width < 8 then (f.access s .vload n).idx * s.me.vec.width % 8 else 0) = sh n)
    {ps : Nat → Phys} {i : Nat} {c : Nat × Nat} (hm : s.memOk) (hi : s.active f.k i) (hd : denial s .vload (va i) = some c)
    (hr : ∀ n < i, s.active f.k n → s.reaches .vload (va n) (ps n) ∧
      ∀ m ∈ s.marksOn (va n) (elemBytes s.me.vec.width), m.need (va n) (elemBytes s.me.vec.width) ≤ m.count.toNat) :
    let kept := if s.me.vec.block = 0 then i else i - i % s.me.vec.block
    (kept ≤ s.es → ∃ t, exec j s = .next (t.enterTrap false s.pc
        (denialTrap .vload (va i) c (f.strideOf s) (s.me.vec.vl.toNat - s.es) 1)) ∧
      t.es = s.es ∧ t.me.vec.vl = s.me.vec.vl ∧ s.keepsV t [] ∧ t.mem = s.mem ∧ t.me.hart.x = s.me.hart.x) ∧
    (s.es < kept → ∃ t, exec j s = .next t ∧ t.pc = s.pc + 4 ∧ t.es = 0 ∧ t.me.vec.vl = BitVec.ofNat 64 kept ∧ s.keepsV t [f.d] ∧
      s.elemsBecome t f.d s.me.vec.width (fun n => s.active f.k n ∧ n < kept)
        (fun n => bytesAt s (ps n).pa (elemBytes s.me.vec.width) / 2 ^ sh n) ∧
      t.mem = s.mem ∧ t.me.hart.x = s.me.hart.x) := by
  intro kept
  obtain ⟨hpv, hfm, -, -⟩ := h.plain
  obtain ⟨traps, trims⟩ := vloadOp_faultFirst h hm hbeg f base hlane hw ha hs (ps := ps) hi (by rw [hva]; exact hd)
    (fun n hn hact => by rw [hva]; exact hr n hn hact)
  rw [hva] at traps
  refine ⟨fun hk => ?_, fun hk => ?_⟩
  · obtain ⟨t, ht, loaded⟩ := traps hk
    have pc : t.pc = s.pc := by unfold State.pc; rw [loaded.me]
    refine ⟨t, hj.trans (pc ▸ ht), ?_, ?_, fun n _ => ?_, loaded.mem, ?_⟩
    · unfold State.es
      rw [loaded.me]
    all_goals rw [loaded.me]
  · obtain ⟨t, ht, loaded⟩ := trims hk
    obtain ⟨frame, hv⟩ := loaded.change.completes h.runs.noStep hfm f.st
    have becomes : s.elemsBecome t f.d s.me.vec.width (fun n => s.active f.k n ∧ n < kept)
        (fun n => bytesAt s (ps n).pa (elemBytes s.me.vec.width) / 2 ^ sh n) := by
      refine elemsBecome_congr (elemsBecome_of_setElems h.runs ((loaded.regs f.d).trans (if_pos rfl)) (fun n => ?_) fun n hp => hp.1.2.1)
        fun n _ => ?_
      · rw [List.mem_filter, mem_actives_iff_active hfm hpv, decide_eq_true_eq]
        exact Iff.rfl
      · have value := (f.access s .vload n).value_mod (bytesAt s (ps n).pa (elemBytes s.me.vec.width))
        rw [show (f.access s .vload n).width = s.me.vec.width from rfl, hsh] at value
        exact value
    refine ⟨_, hj.trans ht, ?_, ?_, ?_, keepsV_of_v_eq loaded.keepsV hv, elemsBecome_of_v_eq becomes hv, ?_, ?_⟩
    all_goals
      rw [show s.pc + 4 = (s.trimVl (s.me.vec.keptOf i)).pc + 4 from rfl, frame]
      rfl

end Sys2Proof.Proofs
end

section
/-! Gathers and scatters: their elements in order, and the fault mask in which those that have not completed are left (R108, R109). -/

namespace Sys2Proof.Machine
open Sys2Proof.Cert

/-! ### The elements in order -/

section
variable {α : Type} {pre : Nat → M α} {one : Nat → α → M (Nat × X × Phys)} {els : List Nat} {good : Nat → Bool}
  {P : List Nat → State → Prop} {x : Nat → α} {r : Nat → Nat × X × Phys} {tr : Nat → Trap}

/-- Without h = 11, every element is tried (R108). -/
theorem faultRun_unordered
    (hpre : ∀ done u, P done u → ∀ i ∈ els, (do trapPoint i; pre i : M α) u = (.ok (x i), u))
    (hgood : ∀ done u, P done u → ∀ i ∈ els, good i = true → ∃ t, one i (x i) u = (.ok (r i), t) ∧ P (done ++ [i]) t)
    (hbad : ∀ done u, P done u → ∀ i ∈ els, good i = false → one i (x i) u = (.error (.trap (tr i)), u))
    {done : List Nat} {u : State} (hu : P done u) :
    ∃ t, faultRun false pre one els u =
      (.ok ((els.filter good).map (fun i => (i, r i)), (els.filter fun i => !good i).map (fun i => (i, tr i)), none), t) ∧
      P (done ++ els.filter good) t := by
  induction els generalizing done u with
  | nil => exact ⟨u, rfl, by simpa using hu⟩
  | cons i rest ih =>
    have next := fun {d : List Nat} {v : State} (hv : P d v) => ih (fun d u hu j hj => hpre d u hu j (by simp [hj]))
      (fun d u hu j hj => hgood d u hu j (by simp [hj])) (fun d u hu j hj => hbad d u hu j (by simp [hj])) hv
    unfold faultRun
    rw [M.bind_of_ok ((M.run_observe ..).trans (by rw [hpre done u hu i (by simp)]))]
    dsimp only
    cases hg : good i
    · rw [M.bind_of_ok ((M.run_observe ..).trans (by rw [hbad done u hu i (by simp) hg]))]
      obtain ⟨t, ht, hp⟩ := next hu
      refine ⟨t, ?_, by simpa [hg] using hp⟩
      simp [M.bind_of_ok ht, hg]
    · obtain ⟨v, hv, hpv⟩ := hgood done u hu i (by simp) hg
      rw [M.bind_of_ok ((M.run_observe ..).trans (by rw [hv]))]
      obtain ⟨t, ht, hp⟩ := next hpv
      refine ⟨t, ?_, by simpa [hg] using hp⟩
      simp [M.bind_of_ok ht, hg]

/-- With h = 11, the first access that faults ends the run (R103). -/
theorem faultRun_ordered
    (hpre : ∀ done u, P done u → ∀ i ∈ els, (do trapPoint i; pre i : M α) u = (.ok (x i), u))
    (hgood : ∀ done u, P done u → ∀ i ∈ els, good i = true → ∃ t, one i (x i) u = (.ok (r i), t) ∧ P (done ++ [i]) t)
    (hbad : ∀ done u, P done u → ∀ i ∈ els, good i = false → one i (x i) u = (.error (.trap (tr i)), u))
    {done : List Nat} {u : State} (hu : P done u) :
    ∃ t, faultRun true pre one els u = (.ok ((els.takeWhile good).map (fun i => (i, r i)),
      (match els.dropWhile good with
        | [] => ([], none)
        | e :: rest => ([(e, tr e)], some (.trap (tr e), rest)))), t) ∧
      P (done ++ els.takeWhile good) t := by
  induction els generalizing done u with
  | nil => exact ⟨u, rfl, by simpa using hu⟩
  | cons i rest ih =>
    unfold faultRun
    rw [M.bind_of_ok ((M.run_observe ..).trans (by rw [hpre done u hu i (by simp)]))]
    dsimp only
    cases hg : good i
    · rw [M.bind_of_ok ((M.run_observe ..).trans (by rw [hbad done u hu i (by simp) hg]))]
      refine ⟨u, ?_, by simpa [hg] using hu⟩
      simp [hg]
    · obtain ⟨v, hv, hpv⟩ := hgood done u hu i (by simp) hg
      rw [M.bind_of_ok ((M.run_observe ..).trans (by rw [hv]))]
      obtain ⟨t, ht, hp⟩ := ih (fun d u hu j hj => hpre d u hu j (by simp [hj]))
        (fun d u hu j hj => hgood d u hu j (by simp [hj])) (fun d u hu j hj => hbad d u hu j (by simp [hj])) hpv
      refine ⟨t, ?_, by simpa [hg] using hp⟩
      simp [M.bind_of_ok ht, hg]

end

/-! ### Their sources and addresses -/

theorem indexReads_of_unbound {s : State} (hs : s.me.vec.streams = []) (ho : s.me.hart.overrides = []) (w i : Nat) (ns : List (BitVec 5)) :
    indexElems.reads w i ns s = (.ok (ns.map fun n => (getElem s.me.vec.grant w s.me.vec.v[n.toNat] i, 0)), s) := by
  induction ns with
  | nil => rfl
  | cons n rest ih => exact (M.bind_of_ok (srcElem_of_unbound hs ho n w i)).trans (M.bind_of_ok ih)

/-- No flags raise nothing. -/
theorem raiseFlags_zero (s : State) (v : X) : raiseFlags 0 v s = (.ok (), s) := by
  have same : s.modHart (Hart.raise 0) = s := by
    unfold State.modHart
    rw [Hart.raise_zero]
  have none_ : (0 : Flags) &&& s.me.hart.fen = 0 := BitVec.zero_and
  unfold raiseFlags
  rw [M.bind_modify, same, M.bind_get, none_]
  rfl

/-- Elements of sources that are not bound (R38, R116). -/
theorem indexElems_of_unbound {s : State} (hs : s.me.vec.streams = []) (ho : s.me.hart.overrides = []) (w i : Nat) (ns : List (BitVec 5)) :
    indexElems w i ns s = (.ok (ns.map fun n => getElem s.me.vec.grant w s.me.vec.v[n.toNat] i), s) := by
  have flags : ∀ l : List (Nat × Flags), (∀ e ∈ l, e.2 = 0) → l.foldl (fun f e => f ||| e.2) 0 = 0 := by
    intro l hl
    induction l with
    | nil => rfl
    | cons e rest ih =>
      rw [List.foldl_cons, hl e (by simp), show (0 : Flags) ||| 0 = 0 from BitVec.zero_or]
      exact ih fun e he => hl e (by simp [he])
  unfold indexElems
  rw [M.bind_of_ok (indexReads_of_unbound hs ho w i ns), flags _ (by simp), M.bind_of_ok (raiseFlags_zero s _), List.map_map]
  rfl

/-- The address of an element of a gather or scatter (R108). -/
theorem indexAccess_va {s : State} (hw : 0 < s.me.vec.width) (kind : Access) (a b : BitVec 5) (hint i : Nat) :
    (indexAccess s kind a hint i (s.elem b i)).va = indexVa s a b i := by
  have index : BitVec.ofInt 64 (sextNat s.me.vec.width (s.elem b i)) = (BitVec.ofNat s.me.vec.width (s.elem b i)).signExtend 64 := by
    rw [← toNat_elem s b i, sextNat_toNat hw]
    simp only [BitVec.ofNat_toNat, BitVec.setWidth_eq]
    rfl
  show s.rX a + BitVec.ofInt 64 (_ * ((s.me.vec.width / 8 : Nat) : Int)) = _
  rw [BitVec.ofInt_mul, index, BitVec.ofInt_natCast]
  rfl

/-! ### The fault mask -/

theorem getLsbD_faultMask (els : List Nat) {n : Nat} (h : n < 4096) :
    (setBits (els.map fun i => (i, 1)) (0 : Mask)).getLsbD n = decide (n ∈ els) := by
  have := getLsbD_setBits (fun _ => true) els (0 : Mask) h
  rw [show (b2n true) = 1 from rfl] at this
  rw [this]
  by_cases hn : n ∈ els <;> simp [hn]

/-- s with the elements of a list in the fault mask: what stays (R19, R108). -/
theorem State.setFaultMask_spec (els : List Nat) (s : State) :
    let t := s.setFaultMask els
    t.me.hart.fm = true ∧ t.es = 0 ∧ (∀ n < 4096, t.me.vec.kf.getLsbD n = decide (n ∈ els)) ∧ t.me.hart.x = s.me.hart.x ∧
      t.me.vec.k = s.me.vec.k ∧ t.me.vec.v = s.me.vec.v ∧ t.mem = s.mem ∧ t.tags = s.tags ∧ t.pc = s.pc := by
  refine ⟨?_, rfl, fun n hn => getLsbD_faultMask els hn, rfl, rfl, rfl, rfl, rfl, rfl⟩
  show (setField s.me.hart.status 24 1 1).getLsbD 24 = true
  rw [getLsbD_setField]
  rfl

/-- The trap of the fault set of a gather or scatter, of which the accesses in a list were denied (R108). -/
theorem faultTrap_of_denied {kind : Access} {va : Nat → X} {c : Nat → Nat × Nat} {e : Nat} {rest : List Nat}
    (hc : ∀ i ∈ e :: rest, (c i).1 / 64 = 2 ∧ (c i).1 ≠ 0x086 ∧ (c i).2 ≤ 3) (n : Nat) :
    faultTrap n ((e :: rest).map fun i => (i, denialTrap kind (va i) (c i) 0 1 1)) =
      some (denialTrap kind (va e) (c e) 0 n (((e :: rest).map fun i => (va i).toNat / 2 ^ 19).dedup.length)) := by
  obtain ⟨h2, h86, hlevel⟩ := hc e (by simp)
  have all : ((e :: rest).map fun i => (i, denialTrap kind (va i) (c i) 0 1 1)).filter (fun f => f.2.code / 64 == 2) =
      (e :: rest).map fun i => (i, denialTrap kind (va i) (c i) 0 1 1) := by
    refine List.filter_eq_self.mpr fun f hf => ?_
    obtain ⟨i, hi, rfl⟩ := List.mem_map.mp hf
    exact beq_iff_eq.mpr (hc i hi).1
  have hk : kind.code ≤ 8 := by cases kind <;> decide
  have info : ∀ pages : Nat, xOf (n % 2 ^ 32 * 2 ^ 32 + (denialTrap kind (va e) (c e) 0 1 1).info1.toNat % 2 ^ 32 / 2 ^ 24 * 2 ^ 24 +
      min 15 pages * 2 ^ 20) = (denialTrap kind (va e) (c e) 0 n pages).info1 := fun pages => by
    apply BitVec.eq_of_toNat_eq
    simp only [denialTrap, xOf, BitVec.toNat_ofNat]
    omega
  have h2' : (denialTrap kind (va e) (c e) 0 1 1).code / 64 = 2 := h2
  have h86' : (denialTrap kind (va e) (c e) 0 1 1).code ≠ 0x086 := h86
  unfold faultTrap
  rw [all]
  simp only [List.map_cons]
  rw [if_pos h2', if_neg h86', info, List.map_map]
  rfl

end Sys2Proof.Machine
end

section
/-! Gathers (R108, R109). -/

namespace Sys2Proof.Machine
open Sys2Proof.Cert

/-! ### The chosen elements -/

theorem drop_range (m n : Nat) : (List.range n).drop m = (List.range n).filter fun i => decide (m ≤ i) := by
  induction n with
  | zero => simp
  | succ n ih =>
    rw [List.range_succ, List.filter_append, ← ih, List.drop_append]
    by_cases h : m ≤ n
    · simp [h, show m - n = 0 by omega]
    · simp [h, show 1 ≤ m - n by omega]

theorem mem_actives_iff_chosen {s : State} (hv : s.me.hart.pv = false) {k : BitVec 3} {i : Nat} :
    i ∈ s.actives k s.es ↔ chosenElem s k i := by
  simp [mem_actives, chosenElem, State.active, State.masked, State.kfOk, State.pred, hv]
  cases s.me.hart.fm <;> simp [and_assoc]

/-- The elements whose access is denied, of those that are to be performed. -/
theorem deniedElems_eq {s : State} (hv : s.me.hart.pv = false) (k : BitVec 3) (kind : Access) (va : Nat → X) :
    deniedElems s k kind va = (s.actives k s.es).filter fun i => !(denial s kind (va i)).isNone := by
  unfold deniedElems State.actives
  rw [drop_range, List.filter_filter, List.filter_filter]
  refine List.filter_congr fun i _ => ?_
  simp only [State.masked, State.kfOk, State.pred, hv, Bool.not_false, Bool.true_or, Bool.and_true]
  cases denial s kind (va i) <;> cases s.me.hart.fm <;> simp [Bool.and_comm, Bool.and_left_comm]

/-! ### The parts of a gather -/

/-- What a gather puts into its key (R256). -/
def gatherRequest (s : State) (d a b : BitVec 5) (k : BitVec 3) (hint : Nat) : ReuseReq :=
  { op := 0x2300 * 4 + hint, srcs := [b], dst := d, readsDst := false, xs := [s.rX a], k := k
    barred := (s.actives k s.es).any fun i =>
      !(s.marksOn (indexAccess s .gather a hint i (getElem s.me.vec.grant s.me.vec.width (s.rV b) i)).va (s.me.vec.width / 8)).isEmpty }

/-- One element of a gather, of a given index (R108). -/
def gatherElem (s : State) (a : BitVec 5) (hint i : Nat) (ix : List Nat) : M (Nat × X × Phys) := do
  let (v, p) ← loadElem (indexAccess s .gather a hint i (ix.headD 0))
  drawTicket hint
  pure (v, (indexAccess s .gather a hint i (ix.headD 0)).va, p)

/-- The end of a gather in s that has read some elements, with those that faulted and where it stopped (R108). -/
def endGather (s : State) (d a b : BitVec 5) (k : BitVec 3) (hint : Nat)
    (x : List (Nat × Nat × X × Phys) × List (Nat × Trap) × Option (Stop × List Nat)) : M (Option (Flags × Option LoadRecord)) := do
  let (l, fs, r) := x
  match r with
  | some (.wait (.watermark n c), _) => throw (.wait (.watermark n c))
  | _ => pure ()
  if !l.isEmpty || (fs.isEmpty && r.isNone) then
    putElems d s.me.vec.width (l.map (fun x => (x.1, x.2.1)))
      (s.vloadLatency (40 + (l.map (fun x => x.2.2.2.pa / 128)).dedup.length) hint (l.map (fun x => x.2.2.2))) false
  modify fun x => (x.loadAcquire (s.me.vec.width / 8) hint l).modHart (Hart.count 6 l.length)
  faultEnd fs r
  modify (State.seeClass (hint != 3 && (s.fifeKey (gatherRequest s d a b k hint)).isSome) l)
  pure (s.loadRecordOf (s.me.vec.width / 8) true l)

/-- A gather in s: its check, its elements, and its end (R108). -/
def gather (s : State) (d a b : BitVec 5) (k : BitVec 3) (hint : Nat) : M (Option (Flags × Option LoadRecord)) := do
  require ((s.rX a).toNat % (s.me.vec.width / 8) == 0) 0x0C0 (s.rX a)
  let x ← faultRun (hint == 3) (fun i => indexElems s.me.vec.width i [b]) (gatherElem s a hint) (s.actives k s.es)
  endGather s d a b k hint x

theorem execVldx_eq (st : BitVec 3) (d a b : BitVec 5) (k : BitVec 3) (h : BitVec 2) (s : State) : execVldx st d a b k h s =
    runVector { st := st, k := k, vs := [b], rs := [.x a], dst := .v d, writes := [d], shape := decide (8 ≤ s.me.vec.width) } (do
      let t ← get
      if h.toNat = 3 then
        let _ ← gather t d a b k h.toNat
        pure ()
      else reusable (gatherRequest t d a b k h.toNat) 2 false (gather t d a b k h.toNat)) s := rfl

/-! ### The end of a gather or scatter -/

theorem faultEnd_of_none (s : State) : faultEnd [] none s = (.ok (), s) := rfl

/-- Elements that faulted stay in the fault mask (R108). -/
theorem faultEnd_of_denied {fs : List (Nat × Trap)} {tr : Trap} (h : faultTrap fs.length fs = some tr) (s : State) :
    faultEnd fs none s = (.error (.trap tr), s.setFaultMask (fs.map fun f => f.1)) := by
  unfold faultEnd
  simp only [List.length_map, Nat.add_zero, h]
  rfl

/-- With h = 11, the elements above the one that faulted stay in the fault mask as well (R103). -/
theorem faultEnd_of_ordered {e : Nat} {t tr : Trap} {rest : List Nat} (h : faultTrap (rest.length + 1) [(e, t)] = some tr) (s : State) :
    faultEnd [(e, t)] (some (.trap t, rest)) s = (.error (.trap tr), s.setFaultMask (e :: rest)) := by
  unfold faultEnd
  simp only [List.map_cons, List.map_nil, List.length_cons, List.length_nil, Nat.zero_add, Nat.add_comm 1, h]
  rfl

/-! ### Runs with and without denied elements -/

section
variable {α : Type} {pre : Nat → M α} {one : Nat → α → M (Nat × X × Phys)} {els : List Nat} {good : Nat → Bool}
  {P : List Nat → State → Prop} {x : Nat → α} {r : Nat → Nat × X × Phys} {tr : Nat → Trap}

/-- Without a denied element, all are performed (R108). -/
theorem faultRun_completes (ordered : Bool)
    (hpre : ∀ done u, P done u → ∀ i ∈ els, (do trapPoint i; pre i : M α) u = (.ok (x i), u))
    (hgood : ∀ done u, P done u → ∀ i ∈ els, ∃ t, one i (x i) u = (.ok (r i), t) ∧ P (done ++ [i]) t) {u : State} (hu : P [] u) :
    ∃ t, faultRun ordered pre one els u = (.ok (els.map (fun i => (i, r i)), [], none), t) ∧ P els t := by
  have good' := fun done u hp i hi (_ : true = true) => hgood done u hp i hi
  have bad' : ∀ done u, P done u → ∀ i ∈ els, true = false → one i (x i) u = (.error (.trap { code := 0, tval := 0 }), u) := by simp
  cases ordered
  · obtain ⟨t, ht, hp⟩ := faultRun_unordered (good := fun _ => true) hpre good' bad' hu
    refine ⟨t, ht.trans ?_, by simpa using hp⟩
    simp
  · obtain ⟨t, ht, hp⟩ := faultRun_ordered (good := fun _ => true) hpre good' bad' hu
    rw [List.takeWhile_eq_self_iff.mpr fun _ _ => rfl, List.dropWhile_eq_nil_iff.mpr fun _ _ => rfl] at ht
    rw [List.takeWhile_eq_self_iff.mpr fun _ _ => rfl] at hp
    exact ⟨t, ht, by simpa using hp⟩

/-- With denied elements, of which e is the lowest: what has completed, what is left, and the trap (R103, R108). -/
theorem faultRun_faults (ordered : Bool) {kind : Access} {va : Nat → X} {c : Nat → Nat × Nat} {e : Nat}
    (hpre : ∀ done u, P done u → ∀ i ∈ els, (do trapPoint i; pre i : M α) u = (.ok (x i), u))
    (hgood : ∀ done u, P done u → ∀ i ∈ els, good i = true → ∃ t, one i (x i) u = (.ok (r i), t) ∧ P (done ++ [i]) t)
    (hbad : ∀ done u, P done u → ∀ i ∈ els, good i = false → one i (x i) u = (.error (.trap (denialTrap kind (va i) (c i) 0 1 1)), u))
    (hc : ∀ i ∈ els, good i = false → (c i).1 / 64 = 2 ∧ (c i).1 ≠ 0x086 ∧ (c i).2 ≤ 3) (hs : els.Pairwise (· < ·)) {bad : List Nat}
    (hb : bad = els.filter fun i => !good i) (he : e ∈ bad.head?) {u : State} (hu : P [] u) :
    let rest := fun n => n ∈ els ∧ (if ordered then e ≤ n else n ∈ bad)
    let pages := ((if ordered then [e] else bad).map fun n => (va n).toNat / 2 ^ 19).dedup.length
    ∃ did left fs end_ t, (∀ n, n ∈ left ↔ rest n) ∧ left.Nodup ∧ (∀ n, n ∈ did ↔ n ∈ els ∧ ¬rest n) ∧
      faultRun ordered pre one els u = (.ok (did.map (fun i => (i, r i)), fs, end_), t) ∧ P did t ∧
      (∀ w q, end_ ≠ some (.wait w, q)) ∧
      ∀ v, faultEnd fs end_ v = (.error (.trap (denialTrap kind (va e) (c e) 0 left.length pages)), v.setFaultMask left) := by
  obtain ⟨more, hmore⟩ : ∃ l, bad = e :: l := by
    cases bad with
    | nil => simp at he
    | cons n l => exact ⟨l, by rw [List.head?_cons, Option.mem_some_iff] at he; rw [he]⟩
  have inBad : ∀ i, i ∈ bad ↔ i ∈ els ∧ good i = false := fun i => by rw [hb, List.mem_filter, Bool.not_eq_true']
  have class_ : ∀ i ∈ bad, (c i).1 / 64 = 2 ∧ (c i).1 ≠ 0x086 ∧ (c i).2 ≤ 3 := fun i hi => hc i ((inBad i).mp hi).1 ((inBad i).mp hi).2
  obtain ⟨hmem, hgoode⟩ := (inBad e).mp (by rw [hmore]; simp)
  have nodup : els.Nodup := hs.imp fun h => Nat.ne_of_lt h
  have lowest : ∀ n ∈ els, n < e → good n = true := fun n hn hlt => by
    by_contra hg
    have sorted : bad.Pairwise (· < ·) := hb ▸ hs.sublist List.filter_sublist
    have mem := (inBad n).mpr ⟨hn, by simpa using hg⟩
    rw [hmore] at sorted mem
    rcases List.mem_cons.mp mem with rfl | h
    · omega
    · have := (List.pairwise_cons.mp sorted).1 n h
      omega
  cases ordered
  · obtain ⟨t, ht, hp⟩ := faultRun_unordered hpre hgood hbad hu
    refine ⟨els.filter good, bad, _, _, t, fun n => ?_, hb ▸ nodup.filter _, fun n => ?_, ht, by simpa using hp, by simp, fun v => ?_⟩
    · simp only [Bool.false_eq_true, if_false]
      exact ⟨fun h => ⟨((inBad n).mp h).1, h⟩, fun h => h.2⟩
    · simp only [List.mem_filter, Bool.false_eq_true, if_false, inBad]
      cases good n <;> simp
    · rw [← hb, hmore]
      rw [hmore] at class_
      have trap := faultTrap_of_denied (kind := kind) (va := va) class_ (e :: more).length
      refine (faultEnd_of_denied (by rw [List.length_map]; exact trap) v).trans ?_
      rw [List.map_map, show (fun f : Nat × Trap => f.1) ∘ (fun i => (i, denialTrap kind (va i) (c i) 0 1 1)) = id from rfl, List.map_id]
      rfl
  · obtain ⟨t, ht, hp⟩ := faultRun_ordered hpre hgood hbad hu
    obtain ⟨before, from_⟩ := takeWhile_below hs hmem lowest hgoode
    rw [before, from_] at ht
    rw [before] at hp
    refine ⟨_, e :: els.filter (fun n => decide (e < n)), _, _, t, fun n => ?_, ?_, fun n => ?_, ht, by simpa using hp, by simp,
      fun v => ?_⟩
    · simp only [List.mem_cons, List.mem_filter, decide_eq_true_eq, if_true]
      constructor
      · rintro (rfl | h)
        · exact ⟨hmem, le_refl _⟩
        · exact ⟨h.1, h.2.le⟩
      · rintro ⟨h1, h2⟩
        rcases Nat.eq_or_lt_of_le h2 with rfl | h
        · exact .inl rfl
        · exact .inr ⟨h1, h⟩
    · exact List.nodup_cons.mpr ⟨by simp, nodup.filter _⟩
    · simp only [List.mem_filter, decide_eq_true_eq, if_true, not_and, not_le]
      exact ⟨fun h => ⟨h.1, fun _ => h.2⟩, fun h => ⟨h.1, h.2 h.1⟩⟩
    · have trap := faultTrap_of_denied (kind := kind) (va := va) (c := c) (e := e) (rest := [])
        (fun i hi => by rw [List.mem_singleton.mp hi]; exact hc e hmem hgoode) ((els.filter fun n => decide (e < n)).length + 1)
      exact faultEnd_of_ordered trap v

end

/-! ### The run of a gather -/

theorem gather_eq {s u : State} {a : BitVec 5} (ha : (s.rX a).toNat % (s.me.vec.width / 8) = 0) (d b : BitVec 5) (k : BitVec 3)
    {hint : Nat} {x : List (Nat × Nat × X × Phys) × List (Nat × Trap) × Option (Stop × List Nat)}
    (hx : faultRun (hint == 3) (fun i => indexElems s.me.vec.width i [b]) (gatherElem s a hint) (s.actives k s.es) s = (.ok x, u)) :
    gather s d a b k hint s = endGather s d a b k hint x u := by
  unfold gather
  rw [M.bind_require, ha]
  exact M.bind_of_ok hx

theorem endGather_gives {s u : State} (h : s.vectorRuns) (hpv : s.me.hart.pv = false) (hu : s.loaded u) (d a b : BitVec 5) (k : BitVec 3)
    (hint : Nat) {l : List (Nat × Nat × X × Phys)} (hs : l ≠ [] → s.sram = [])
    (hc : ∀ e ∈ l, e.2.2.2.managed = true → headerClear s e.2.2.2.pa) :
    (endGather s d a b k hint (l, [], none)).gives u fun _ t => s.elemsLoaded t d (l.map fun x => (x.1, x.2.1)) := by
  unfold endGather
  simp only [List.isEmpty_nil, Option.isNone_none, Bool.and_self, Bool.or_true, if_true]
  refine putLoaded_gives hu h.streams hpv _ _ _ _ _ _ _ fun t ht => ?_
  exact M.gives_bind ⟨(), t, faultEnd_of_none t, _, _, rfl, ht.seeClass _ hs hc⟩

theorem endGather_stops {s u : State} (h : s.vectorRuns) (hpv : s.me.hart.pv = false) (hu : s.loaded u) (d a b : BitVec 5) (k : BitVec 3)
    (hint : Nat) (l : List (Nat × Nat × X × Phys)) {fs : List (Nat × Trap)} {r : Option (Stop × List Nat)} {tr : Trap} {left : List Nat}
    (hr : ∀ w rest, r ≠ some (.wait w, rest)) (hf : ∀ t, faultEnd fs r t = (.error (.trap tr), t.setFaultMask left)) :
    (endGather s d a b k hint (l, fs, r)).stops u (.trap tr) fun t =>
      ∃ v, s.elemsLoaded v d (l.map fun x => (x.1, x.2.1)) ∧ t = v.setFaultMask left := by
  have ends : ∀ v, s.elemsLoaded v d (l.map fun x => (x.1, x.2.1)) → ((do
      modify fun x => (x.loadAcquire (s.me.vec.width / 8) hint l).modHart (Hart.count 6 l.length)
      faultEnd fs r
      modify (State.seeClass (hint != 3 && (s.fifeKey (gatherRequest s d a b k hint)).isSome) l)
      pure (s.loadRecordOf (s.me.vec.width / 8) true l) : M (Option (Flags × Option LoadRecord))).stops v (.trap tr) fun t =>
        ∃ v, s.elemsLoaded v d (l.map fun x => (x.1, x.2.1)) ∧ t = v.setFaultMask left) := fun v hv =>
    M.stops_bind ⟨(), _, rfl, M.stops_bind_left ⟨_, hf _, _, hv.ended h.streams _ _ _ _, rfl⟩⟩
  unfold endGather
  dsimp only
  split
  case h_1 w _ _ => exact absurd rfl (hr _ _)
  case h_2 =>
    split
    · exact M.stops_bind ⟨(), _, putElems_eq .., ends _ (hu.put hpv d _ _)⟩
    case isFalse hl =>
      rw [Bool.or_eq_true, not_or, Bool.not_eq_true', Bool.not_eq_false, List.isEmpty_iff] at hl
      exact ends u (by rw [hl.1]; exact hu.skip d)

/-! ### The elements of a gather -/

/-- The sources of an element in a state that reads have left, where none is bound (R116). -/
theorem State.loaded.sources {s u : State} (hu : s.loaded u) (h : s.vectorRuns) (hcalm : s.interruptAhead = none) (i : Nat)
    (ns : List (BitVec 5)) :
    (do trapPoint i; indexElems s.me.vec.width i ns : M (List Nat)) u = (.ok (ns.map fun n => s.elem n i), u) := by
  rw [M.bind_of_ok (trapPoint_of_calm (hu.interruptAhead.trans hcalm) i),
    indexElems_of_unbound (by rw [hu.me]; exact h.streams) (by rw [hu.me]; exact h.overrides), hu.me]
  rfl

theorem gatherElem_of_reaches {s u : State} (hu : s.loaded u) (h8 : 8 ≤ s.me.vec.width) (hm : s.memOk) {a b : BitVec 5} {i : Nat}
    {p : Phys} (hr : s.reaches .gather (indexVa s a b i) p) (hw : s.unmarked (indexVa s a b i) (s.me.vec.width / 8)) (hint : Nat) :
    ∃ t, gatherElem s a hint i [s.elem b i] u = (.ok (bytesAt s p.pa (s.me.vec.width / 8), indexVa s a b i, p), t) ∧ s.loaded t := by
  have hva := indexAccess_va (s := s) (by omega) .gather a b hint i
  obtain ⟨t, ht, loaded⟩ := hu.loadElem (a := indexAccess s .gather a hint i (s.elem b i)) (p := p) (hva ▸ hr) hm (hva ▸ hw)
  obtain ⟨v, hv, ticketed⟩ := drawTicket_loaded hint t
  refine ⟨v, ?_, loaded.trans ticketed⟩
  unfold gatherElem
  rw [List.headD_cons, M.bind_of_ok ht]
  refine (M.bind_of_ok hv).trans ?_
  rw [hva]
  have value : (indexAccess s .gather a hint i (s.elem b i)).value (bytesAt s p.pa (s.me.vec.width / 8)) =
      bytesAt s p.pa (s.me.vec.width / 8) := if_neg (show ¬s.me.vec.width < 8 by omega)
  exact congrArg (fun v => (Except.ok (v, indexVa s a b i, p), _)) value

theorem gatherElem_of_denial {s u : State} (hu : s.loaded u) (h8 : 8 ≤ s.me.vec.width) {a b : BitVec 5} {i : Nat} {c : Nat × Nat}
    (hd : denial s .gather (indexVa s a b i) = some c) (hint : Nat) :
    gatherElem s a hint i [s.elem b i] u = (.error (.trap (denialTrap .gather (indexVa s a b i) c 0 1 1)), u) := by
  have hva := indexAccess_va (s := s) (by omega) .gather a b hint i
  have denied := loadElem_of_denial (a := indexAccess s .gather a hint i (s.elem b i)) ((hu.servesAs.denial ..).trans (hva ▸ hd))
  unfold gatherElem
  rw [List.headD_cons, M.bind_of_error denied, hva]
  rfl

/-- What the gathered elements of a list ask of the module, those that are denied aside (R101, R108, R214). -/
def gatherable (s : State) (a b : BitVec 5) (ps : Nat → Phys) (els : List Nat) : Prop :=
  ∀ i ∈ els, denial s .gather (indexVa s a b i) = none → s.reaches .gather (indexVa s a b i) (ps i) ∧
    ((ps i).managed = true → headerClear s (ps i).pa) ∧ s.unmarked (indexVa s a b i) (s.me.vec.width / 8)

/-- A gather of which no element is denied (R108). -/
theorem gather_gives {s : State} (h : s.vectorRuns) (hpv : s.me.hart.pv = false) (hcalm : s.interruptAhead = none) (hm : s.memOk)
    (h8 : 8 ≤ s.me.vec.width) {a b : BitVec 5} (ha : (s.rX a).toNat % (s.me.vec.width / 8) = 0) (d : BitVec 5) {k : BitVec 3} (hint : Nat)
    {ps : Nat → Phys} (hr : gatherable s a b ps (s.actives k s.es))
    (hn : ∀ i ∈ s.actives k s.es, denial s .gather (indexVa s a b i) = none) :
    (gather s d a b k hint).gives s fun _ t =>
      s.elemsLoaded t d ((s.actives k s.es).map fun i => (i, bytesAt s (ps i).pa (s.me.vec.width / 8))) := by
  obtain ⟨u, hu, loaded⟩ := faultRun_completes (P := fun _ u => s.loaded u) (els := s.actives k s.es) (x := fun i => [s.elem b i])
    (r := fun i => (bytesAt s (ps i).pa (s.me.vec.width / 8), indexVa s a b i, ps i)) (hint == 3)
    (pre := fun i => indexElems s.me.vec.width i [b]) (one := gatherElem s a hint)
    (fun _ u hu i _ => hu.sources h hcalm i [b])
    (fun _ u hu i hi => by
      obtain ⟨reached, -, unmarked⟩ := hr i hi (hn i hi)
      exact gatherElem_of_reaches hu h8 hm reached unmarked hint) (.refl s)
  obtain ⟨v, t, ht, done⟩ := endGather_gives h hpv loaded d a b k hint (l := (s.actives k s.es).map fun i =>
    (i, bytesAt s (ps i).pa (s.me.vec.width / 8), indexVa s a b i, ps i))
    (fun hne => by
      obtain ⟨e, he⟩ := List.exists_mem_of_ne_nil _ hne
      obtain ⟨i, hi, -⟩ := List.mem_map.mp he
      exact (hr i hi (hn i hi)).1.2.2.2.2.1)
    (fun e he => by
      obtain ⟨i, hi, rfl⟩ := List.mem_map.mp he
      exact (hr i hi (hn i hi)).2.1)
  rw [List.map_map] at done
  exact ⟨v, t, (gather_eq ha d b k hu).trans ht, done⟩

/-- A gather of which some elements are denied, e the lowest (R103, R108). -/
theorem gather_stops {s : State} (h : s.vectorRuns) (hpv : s.me.hart.pv = false) (hcalm : s.interruptAhead = none) (hm : s.memOk)
    (h8 : 8 ≤ s.me.vec.width) {a b : BitVec 5} (ha : (s.rX a).toNat % (s.me.vec.width / 8) = 0) (d : BitVec 5) {k : BitVec 3} (hint : Nat)
    {ps : Nat → Phys} (hr : gatherable s a b ps (s.actives k s.es)) {e : Nat} {c : Nat × Nat}
    (he : e ∈ (deniedElems s k .gather (indexVa s a b)).head?) (hd : denial s .gather (indexVa s a b e) = some c) :
    let bad := deniedElems s k .gather (indexVa s a b)
    let rest := fun n => n ∈ s.actives k s.es ∧ (if hint == 3 then e ≤ n else n ∈ bad)
    let pages := ((if hint == 3 then [e] else bad).map fun n => (indexVa s a b n).toNat / 2 ^ 19).dedup.length
    ∃ did left : List Nat, (∀ n, n ∈ left ↔ rest n) ∧ left.Nodup ∧ (∀ n, n ∈ did ↔ n ∈ s.actives k s.es ∧ ¬rest n) ∧
      (gather s d a b k hint).stops s (.trap (denialTrap .gather (indexVa s a b e) c 0 left.length pages)) fun t =>
        ∃ v, s.elemsLoaded v d (did.map fun i => (i, bytesAt s (ps i).pa (s.me.vec.width / 8))) ∧ t = v.setFaultMask left := by
  intro bad rest pages
  obtain ⟨cause, hcause⟩ : ∃ f : Nat → Nat × Nat, f = fun i => (denial s .gather (indexVa s a b i)).getD (0, 0) := ⟨_, rfl⟩
  have causes : ∀ i, (denial s .gather (indexVa s a b i)).isNone = false → denial s .gather (indexVa s a b i) = some (cause i) :=
    fun i hi => by
      obtain ⟨c, hc⟩ := Option.isSome_iff_exists.mp (by simpa using hi)
      simp [hcause, hc]
  have hce : cause e = c := by rw [hcause]; simp [hd]
  obtain ⟨did, left, fs, end_, u, hleft, nodup, hdid, hu, loaded, hwait, hend⟩ := faultRun_faults (P := fun _ u => s.loaded u)
    (els := s.actives k s.es) (x := fun i => [s.elem b i]) (good := fun i => (denial s .gather (indexVa s a b i)).isNone)
    (r := fun i => (bytesAt s (ps i).pa (s.me.vec.width / 8), indexVa s a b i, ps i)) (hint == 3) (kind := .gather)
    (va := indexVa s a b) (c := cause) (pre := fun i => indexElems s.me.vec.width i [b]) (one := gatherElem s a hint)
    (fun _ u hu i _ => hu.sources h hcalm i [b])
    (fun _ u hu i hi hg => by
      obtain ⟨reached, -, unmarked⟩ := hr i hi (Option.isNone_iff_eq_none.mp hg)
      exact gatherElem_of_reaches hu h8 hm reached unmarked hint)
    (fun _ u hu i _ hg => gatherElem_of_denial hu h8 (causes i hg) hint)
    (fun i _ hg => denial_class (causes i hg)) (actives_pairwise s k s.es) (deniedElems_eq hpv k .gather (indexVa s a b)) he (.refl s)
  refine ⟨did, left, hleft, nodup, hdid, ?_⟩
  obtain ⟨t, ht, v, done, hv⟩ := endGather_stops h hpv loaded d a b k hint (did.map fun i =>
    (i, bytesAt s (ps i).pa (s.me.vec.width / 8), indexVa s a b i, ps i)) hwait hend
  rw [List.map_map] at done
  rw [← hce]
  exact ⟨t, (gather_eq ha d b k hu).trans ht, v, done, hv⟩

end Sys2Proof.Machine

namespace Sys2Proof.Proofs
open Sys2Proof.Machine Sys2Proof.Cert

/-- vldx of which no element is denied, before its completion (R108). -/
theorem vldx_gives {s : State} (h : s.vectorRuns) (hi : s.reuseIdle) (hpv : s.me.hart.pv = false) (hcalm : s.interruptAhead = none)
    (hm : s.memOk) (h8 : 8 ≤ s.me.vec.width) (st : BitVec 3) (d : BitVec 5) {a b : BitVec 5}
    (ha : (s.rX a).toNat % (s.me.vec.width / 8) = 0) {k : BitVec 3} (hint : BitVec 2) {ps : Nat → Phys}
    (hr : gatherable s a b ps (s.actives k s.es)) (hn : ∀ i ∈ s.actives k s.es, denial s .gather (indexVa s a b i) = none) :
    ∃ t, exec (.vldx st d a b k hint) s = .next (t.clearKf.complete st 0 (s.pc + 4)) ∧
      s.elemsLoaded t d ((s.actives k s.es).map fun i => (i, bytesAt s (ps i).pa (s.me.vec.width / 8))) := by
  show ∃ t, execVldx st d a b k hint s = _ ∧ _
  rw [execVldx_eq]
  refine runVector_gives h _ _ (pairs_of_noPfx hpv _) (nullified_of_noPfx hpv) (decide_eq_true h8) rfl (fun _ => ?_) (fun hb => ?_)
    (fun t ht => ht.change.streams.trans h.streams)
  · obtain ⟨r, t, ht, done⟩ := gather_gives h hpv hcalm hm h8 ha d hint.toNat hr hn
    exact M.gives_bind ⟨s, s, rfl, hinted_gives hi ⟨r, t, ht, done.change.others, fun v hv => done.of_frees hv⟩⟩
  · rw [actives_nil k hb]
    exact (State.loaded.refl s).skip d

/-- vldx of which the run stops at denied elements (R108). -/
theorem vldx_stops {s : State} (h : s.vectorRuns) (hi : s.reuseIdle) (hpv : s.me.hart.pv = false) (h8 : 8 ≤ s.me.vec.width) (st : BitVec 3)
    {d a b : BitVec 5} {k : BitVec 3} {hint : BitVec 2} (hb : s.es < s.me.vec.vl.toNat) {tr : Trap} {Q : State → Prop}
    (hs : (gather s d a b k hint.toNat).stops s (.trap tr) Q) :
    ∃ t, exec (.vldx st d a b k hint) s = .next (t.enterTrap false t.pc tr) ∧ Q t := by
  show ∃ t, execVldx st d a b k hint s = _ ∧ _
  rw [execVldx_eq]
  exact runVector_stops h _ _ (pairs_of_noPfx hpv _) (nullified_of_noPfx hpv) (decide_eq_true h8) hb
    (M.stops_bind ⟨s, s, rfl, hinted_stops hi hs⟩)

theorem vectorLoads_gather : ∀ (s : State) (st : BitVec 3) (d a b : BitVec 5) (k : BitVec 3) (h : BitVec 2), s.vectorReady →
    (s.rX a).toNat % elemBytes s.me.vec.width = 0 → 8 ≤ s.me.vec.width →
    loadsElems s (.vldx st d a b k h) st d (s.active k) .gather (indexVa s a b) (fun _ => 0) (fun _ => True) := by
  intro s st d a b k h hv ha h8 ps hm hr _
  obtain ⟨hpv, hfm, hi, hcalm⟩ := hv.plain
  rw [elemBytes_of_le h8] at *
  have act : ∀ i ∈ s.actives k s.es, s.active k i := fun i hi => (mem_actives_iff_active hfm hpv).mp hi
  obtain ⟨t, ht, loaded⟩ := vldx_gives hv.runs hi hpv hcalm hm h8 st d ha h (fun i hi _ => hr i (act i hi))
    (fun i hi => denial_of_reaches (hr i (act i hi)).1)
  obtain ⟨frame, hvec⟩ := loaded.change.completes hv.runs.noStep hfm st
  refine ⟨_, ht, ?_, keepsV_of_v_eq loaded.keepsV hvec, frame⟩
  exact elemsBecome_of_v_eq (loaded.becomes hv.runs (fun _ => mem_actives_iff_active hfm hpv) (fun _ hp => hp.2.1) fun n _ => by simp) hvec

end Sys2Proof.Proofs
end

section
/-! Gathers under a fault mask (R19, R108), and the vector loads as a whole. -/

namespace Sys2Proof.Machine
open Sys2Proof.Cert

/-- The completion of an instruction of R19's kinds, which ends a fault mask (R7, R19). -/
theorem complete_clearKf_spec {t : State} (hs : (t.me.hart.ss && !t.me.hart.prv) = false) (st : BitVec 3) (npc : X) :
    let u := t.clearKf.complete st 0 npc
    u.pc = npc ∧ u.es = 0 ∧ u.me.hart.x = t.me.hart.x ∧ u.me.vec.k = t.me.vec.k ∧ u.me.hart.fm = false ∧
      u.me.vec.kf = (if t.me.hart.fm then 0 else t.me.vec.kf) ∧ u.me.vec.v = t.me.vec.v ∧ u.mem = t.mem ∧ u.tags = t.tags := by
  have bit : ∀ i, i ≠ 24 → (setField t.me.hart.status 24 1 0).getLsbD i = t.me.hart.status.getLsbD i := fun i hi => by
    rw [getLsbD_setField, if_neg (by omega)]
  cases hf : t.me.hart.fm
  · rw [clearKf_of_off hf, complete_eq_after _ _ _ _ hs]
    exact ⟨rfl, rfl, rfl, rfl, hf, rfl, rfl, rfl, rfl⟩
  · unfold State.clearKf
    rw [if_pos hf, complete_eq_after]
    · refine ⟨rfl, rfl, rfl, rfl, ?_, rfl, rfl, rfl, rfl⟩
      show (setField t.me.hart.status 24 1 0).getLsbD 24 = false
      rw [getLsbD_setField]
      rfl
    · show ((setField t.me.hart.status 24 1 0).getLsbD 19 && !(setField t.me.hart.status 24 1 0).getLsbD 15) = false
      rw [bit 19 (by omega), bit 15 (by omega)]
      exact hs

/-- What a vector load leaves of the hart and of memory. -/
theorem State.loadChange.kept {s t : State} (h : s.loadChange t) :
    t.me.hart.status = s.me.hart.status ∧ t.pc = s.pc ∧ t.me.hart.x = s.me.hart.x ∧ t.me.vec.k = s.me.vec.k ∧
      t.me.vec.kf = s.me.vec.kf ∧ t.mem = s.mem ∧ t.tags = s.tags := by
  obtain ⟨_, _, _, _, _, _, _, _, _, _, _, _, _, _, rfl⟩ := h
  exact ⟨rfl, rfl, rfl, rfl, rfl, rfl, rfl⟩

theorem hint_eq_three (h : BitVec 2) : (h.toNat == 3) = decide (h = 3) := by
  revert h
  decide

end Sys2Proof.Machine

namespace Sys2Proof.Proofs
open Sys2Proof.Machine Sys2Proof.Cert

theorem gatherFaults : Cert.gatherFaults := by
  intro s st d a b k h ps hv w va h8 ha hm hr
  obtain ⟨runs, hi, hpv, hcalm⟩ := State.vectorRuns_of_unmasked hv
  have chosen : ∀ {i}, i ∈ s.actives k s.es ↔ chosenElem s k i := mem_actives_iff_chosen hpv
  have able : gatherable s a b ps (s.actives k s.es) := fun i hi hd => hr i (chosen.mp hi) hd
  have within : ∀ i, chosenElem s k i → i < s.me.vec.vl.toNat := fun i hi => hi.1.2.1
  refine ⟨fun hbad => ?_, fun e he c hc => ?_⟩
  · have none_ : ∀ i ∈ s.actives k s.es, denial s .gather (indexVa s a b i) = none := fun i hi => by
      rw [deniedElems_eq hpv, List.filter_eq_nil_iff] at hbad
      simpa using hbad i hi
    obtain ⟨t, ht, loaded⟩ := vldx_gives runs hi hpv hcalm hm h8 st d ha h able none_
    have becomes := loaded.becomes runs (g := fun n => bytesAt s (ps n).pa (w / 8)) (fun _ => chosen) within fun _ _ => rfl
    have keeps := loaded.keepsV
    obtain ⟨kstatus, -, kx, kk, kkf, kmem, ktags⟩ := loaded.change.kept
    obtain ⟨hpc, hes, hx, hk, hfm, hkf, hvec, hmem, htags⟩ := complete_clearKf_spec (t := t)
      (by unfold Hart.ss Hart.prv; rw [kstatus]; exact runs.noStep) st (s.pc + 4)
    have mask : t.me.hart.fm = s.me.hart.fm := by
      unfold Hart.fm
      rw [kstatus]
    rw [mask, kkf] at hkf
    exact ⟨_, ht, hpc, hes, hx.trans kx, hk.trans kk, hfm, hkf, elemsBecome_of_v_eq becomes hvec, keepsV_of_v_eq keeps hvec,
      hmem.trans kmem, htags.trans ktags⟩
  · obtain ⟨did, left, hleft, nodup, hdid, stops⟩ := gather_stops runs hpv hcalm hm h8 ha d h.toNat able he hc
    rw [hint_eq_three] at hleft hdid stops
    simp only [decide_eq_true_eq, chosen] at hleft hdid stops
    intro rest pages
    have busy : s.es < s.me.vec.vl.toNat := by
      have mem : e ∈ s.actives k s.es := by
        rw [deniedElems_eq hpv] at he
        exact (List.mem_filter.mp (List.mem_of_mem_head? he)).1
      exact lt_of_le_of_lt (chosen.mp mem).1.1 (within e (chosen.mp mem))
    obtain ⟨t, ht, v, loaded, rfl⟩ := vldx_stops runs hi hpv h8 st busy stops
    have becomes := loaded.becomes runs (g := fun n => bytesAt s (ps n).pa (w / 8)) hdid (fun i hi => within i hi.1) fun _ _ => rfl
    have keeps := loaded.keepsV
    obtain ⟨hfm, hes, hkf, hx, hkr, hvec, hmem, htags, hpc⟩ := State.setFaultMask_spec left v
    obtain ⟨-, kpc, kx, kk, -, kmem, ktags⟩ := loaded.change.kept
    rw [hpc, kpc] at ht
    exact ⟨_, left, hleft, nodup, ht, hfm, hes, hkf, hx.trans kx, hkr.trans kk, elemsBecome_of_v_eq becomes hvec,
      keepsV_of_v_eq keeps hvec, hmem.trans kmem, htags.trans ktags⟩

theorem vectorLoads_of_reaches : Cert.vectorLoads := by
  intro s st d a b k h hv w g base none_
  have width := hv.runs.width
  refine ⟨fun hb => ?_, fun hb h8 hs => ?_, fun hb => ?_, fun hb h8 => vectorLoads_gather s st d a b k h hv hb h8⟩
  · exact loadsElems_of_form hv { op := 0x2100, st := st, d := d, a := a, k := k, hint := h.toNat, stride := none, lane := false } 40 rfl rfl
      hb (unitStride_aligned width) (stridedAddr_unit width _) (fun _ => rfl) (fun _ _ hl => by cases hl)
  · refine loadsElems_of_form hv { op := 0x2101, st := st, d := d, a := a, k := k, hint := h.toNat, stride := some b, lane := false } 40 rfl
      (by simpa [VForm.widthOk] using h8) hb (elemBytes_of_le h8 ▸ hs) (fun n => ?_) (fun _ => if_neg (by omega)) (fun _ _ hl => by cases hl)
    exact if_neg (by omega)
  · exact loadsElems_of_form hv { op := 0x2102, st := st, d := d, a := a, k := k, hint := h.toNat, stride := none, lane := true } 20 rfl rfl
      hb (unitStride_aligned width) (fun _ => rfl) (fun _ => rfl) (fun _ hok _ => hok)

theorem faultOnlyFirst : Cert.faultOnlyFirst := by
  intro s st d a b k h ps i c hv hbeg w kept ends hb
  have width := hv.runs.width
  refine ⟨fun hm hi hd hr => ?_, fun h8 hs hm hi hd hr => ?_⟩
  · exact faultOnlyFirst_of_form hv hbeg
      { op := 0x2100, st := st, d := d, a := a, k := k, hint := h.toNat, stride := none, lane := false } 40 rfl rfl rfl hb
      (unitStride_aligned width) (stridedAddr_unit width _) (fun _ => rfl) hm hi hd hr
  · exact faultOnlyFirst_of_form hv hbeg
      { op := 0x2101, st := st, d := d, a := a, k := k, hint := h.toNat, stride := some b, lane := false } 40 rfl rfl
      (by simpa [VForm.widthOk] using h8) hb (elemBytes_of_le h8 ▸ hs) (fun n => if_neg (by omega)) (fun _ => if_neg (by omega)) hm hi hd hr

/-- Settles O46: each form over the elements that are reached, up to the first that is denied; gathers under their fault mask. -/
theorem vectorLoads : Obligations.VectorLoads := ⟨vectorLoads_of_reaches, faultOnlyFirst, gatherFaults⟩

end Sys2Proof.Proofs
end

section
/-! Bits and tags that stores leave in memory (R32, R81, R101). -/

namespace Sys2Proof.Machine

/-! ### Tags -/

/-- The tags after a word has been given tag 00 (R81). -/
theorem tagAt_tagSet_zero (t : List (Nat × BitVec 2)) (w j : Nat) : tagAt (tagSet t w 1 0) j = if j = w then 0 else tagAt t j := by
  have low : ∀ p : Nat → Bool, p j = false → (t.filter fun c => p c.1).find? (fun c => c.1 == j) = none := fun p hp => by
    refine List.find?_eq_none.mpr fun c hc => ?_
    have := (List.mem_filter.mp hc).2
    by_cases hj : c.1 = j
    · rw [hj, hp] at this
      cases this
    · simpa using hj
  have keep : ∀ p : Nat → Bool, p j = true → (t.filter fun c => p c.1).find? (fun c => c.1 == j) = t.find? fun c => c.1 == j := fun p hp => by
    rw [List.find?_filter]
    congr 1
    funext c
    by_cases hc : c.1 = j <;> simp [hc, hp]
  unfold tagAt tagSet
  rw [if_pos rfl, List.append_nil, List.find?_append]
  rcases Nat.lt_trichotomy j w with h | h | h
  · rw [keep (fun i => decide (i < w)) (by simpa using h), low (fun i => decide (w + 1 ≤ i)) (by simp; omega), Option.or_none,
      if_neg (by omega)]
  · rw [low (fun i => decide (i < w)) (by simp; omega), low (fun i => decide (w + 1 ≤ i)) (by simp; omega), if_pos h]
    rfl
  · rw [low (fun i => decide (i < w)) (by simp; omega), keep (fun i => decide (w + 1 ≤ i)) (by simp; omega), Option.none_or,
      if_neg (by omega)]

/-! ### Bits -/

theorem getD_leBytes (n v j : Nat) (h : j < n) : (leBytes n v).getD j 0 = BitVec.ofNat 8 (v / 256 ^ j) := by
  induction n generalizing v j with
  | zero => omega
  | succ n ih =>
    cases j with
    | zero => simp [leBytes]
    | succ j =>
      have := ih (v / 256) j (by omega)
      rw [leBytes, List.getD_cons_succ, this, Nat.div_div_eq_div_mul, Nat.pow_succ']

/-- Bit b of the bytes of a value. -/
theorem getLsbD_byte (v b : Nat) : (BitVec.ofNat 8 (v / 256 ^ (b / 8))).getLsbD (b % 8) = v.testBit b := by
  rw [BitVec.getLsbD_ofNat, show (256 : Nat) = 2 ^ 8 by rfl, ← Nat.pow_mul, Nat.testBit_div_two_pow, Nat.mod_add_div]
  simp [Nat.mod_lt]

/-- What stores of some elements and then of others leave, where no two share a bit. -/
theorem State.bitsStored.trans {s t u : State} {w : Nat} {p q : Nat → Prop} {pa sh f : Nat → Nat} (h : s.bitsStored t w p pa sh f)
    (h' : t.bitsStored u w q pa sh f) (hd : ∀ m n, p m → q n → m ≠ n → ∀ b < w, ∀ c < w,
      ¬(pa m + (sh m + b) / 8 = pa n + (sh n + c) / 8 ∧ (sh m + b) % 8 = (sh n + c) % 8)) :
    s.bitsStored u w (fun n => p n ∨ q n) pa sh f := by
  obtain ⟨hbits, hrest, htag, htags⟩ := h
  obtain ⟨hbits', hrest', htag', htags'⟩ := h'
  refine ⟨fun n hn b hb => ?_, fun a b hb hout => ?_, fun n hn => ?_, fun j hj => ?_⟩
  · by_cases hq : q n
    · exact hbits' n hq b hb
    · have hp : p n := hn.resolve_right hq
      rw [hrest' _ _ (Nat.mod_lt _ (by omega)) fun m hm c hc => hd n m hp hm (fun he => hq (he ▸ hm)) b hb c hc]
      exact hbits n hp b hb
  · rw [hrest' a b hb fun n hn => hout n (.inr hn), hrest a b hb fun n hn => hout n (.inl hn)]
  · by_cases hq : ∃ m, q m ∧ pa n / 8 = pa m / 8
    · obtain ⟨m, hm, he⟩ := hq
      rw [he]
      exact htag' m hm
    · rw [htags' _ fun m hm he => hq ⟨m, hm, he⟩]
      exact htag n (hn.resolve_right fun h => hq ⟨n, h, rfl⟩)
  · rw [htags' j fun n hn => hj n (.inr hn), htags j fun n hn => hj n (.inl hn)]

theorem State.bitsStored.congr {s t : State} {w : Nat} {p q : Nat → Prop} {pa sh f : Nat → Nat} (h : s.bitsStored t w p pa sh f)
    (hpq : ∀ n, p n ↔ q n) : s.bitsStored t w q pa sh f := by
  rwa [show q = p from funext fun n => (propext (hpq n)).symm]

theorem State.bitsStored.of_eq {s t u : State} {w : Nat} {p : Nat → Prop} {pa sh f : Nat → Nat} (h : s.bitsStored t w p pa sh f)
    (hm : u.mem = t.mem) (ht : u.tags = t.tags) : s.bitsStored u w p pa sh f := by
  unfold State.bitsStored
  rw [hm, ht]
  exact h

theorem State.bitsStored.none (s : State) (w : Nat) (pa sh f : Nat → Nat) : s.bitsStored s w (fun _ => False) pa sh f :=
  ⟨by simp, by simp, by simp, by simp⟩

/-- A whole-byte element written (R81). -/
theorem put_bitsStored_bytes {s : State} {w : Nat} (hw : w % 8 = 0) (p : Phys) (i : Nat) {pa sh f : Nat → Nat} (hpa : pa i = p.pa)
    (hsh : sh i = 0) : s.bitsStored (s.put p (w / 8) (f i) 0) w (fun n => n = i) pa sh f := by
  have len := leBytes_length (w / 8) (f i)
  refine ⟨fun n hn b hb => ?_, fun a b _ hout => ?_, fun n hn => ?_, fun j hj => ?_⟩
  · subst hn
    have inside := memRead_memWrite_inside s.mem p.pa (p.pa + b / 8) (leBytes (w / 8) (f n)) (by omega) (by omega)
    rw [hpa, hsh, Nat.zero_add]
    show (memRead (memWrite s.mem p.pa (leBytes (w / 8) (f n))) (p.pa + b / 8)).getLsbD (b % 8) = _
    rw [inside, Nat.add_sub_cancel_left, getD_leBytes _ _ _ (by omega), getLsbD_byte]
  · have outside := memRead_memWrite_outside s.mem p.pa a (leBytes (w / 8) (f i))
    by_cases hin : a < p.pa ∨ p.pa + (leBytes (w / 8) (f i)).length ≤ a
    · exact congrArg (fun y : Byte => y.getLsbD b) (outside hin)
    · exfalso
      refine hout i rfl (8 * (a - p.pa) + b) (by omega) ?_
      rw [hpa, hsh]
      omega
  · subst hn
    rw [hpa]
    show tagAt (tagSet s.tags (p.pa / 8) 1 (if p.managed then 0 else 0)) (p.pa / 8) = 0
    rw [ite_self, tagAt_tagSet_zero, if_pos rfl]
  · show tagAt (tagSet s.tags (p.pa / 8) 1 (if p.managed then 0 else 0)) j = _
    rw [ite_self, tagAt_tagSet_zero, if_neg (hpa ▸ hj i rfl)]

/-- A packed element merged into its byte (R32, R101). -/
theorem put_bitsStored_packed {s : State} {w : Nat} (p : Phys) (i : Nat) {pa sh f : Nat → Nat} (hpa : pa i = p.pa)
    (hsh : sh i + w ≤ 8) : s.bitsStored (s.put p 1 (setField (memRead s.mem p.pa) (sh i) w (f i)).toNat 0) w (fun n => n = i) pa sh f := by
  obtain ⟨y, hy⟩ : ∃ y, y = setField (memRead s.mem p.pa) (sh i) w (f i) := ⟨_, rfl⟩
  have byte : leBytes 1 y.toNat = [y] := by simp [leBytes]
  have inside : memRead (memWrite s.mem p.pa [y]) p.pa = y := by
    rw [memRead_memWrite_inside s.mem p.pa p.pa [y] (by omega) (by simp), Nat.sub_self]
    rfl
  have read : ∀ a, memRead (s.put p 1 y.toNat 0).mem a = memRead (memWrite s.mem p.pa [y]) a := fun a => by
    show memRead (memWrite s.mem p.pa (leBytes 1 y.toNat)) a = _
    rw [byte]
  rw [← hy]
  refine ⟨fun n hn b hb => ?_, fun a b hb hout => ?_, fun n hn => ?_, fun j hj => ?_⟩
  · subst hn
    rw [hpa, show (sh n + b) / 8 = 0 by omega, show (sh n + b) % 8 = sh n + b by omega, Nat.add_zero, read, inside, hy, getLsbD_setField,
      if_pos (by omega), decide_eq_true (by omega), Nat.add_sub_cancel_left, Bool.true_and]
  · rw [read]
    by_cases ha : a = p.pa
    · subst ha
      rw [inside, hy, getLsbD_setField, if_neg]
      rintro ⟨h1, h2⟩
      refine hout i rfl (b - sh i) (by omega) ?_
      rw [hpa]
      omega
    · rw [memRead_memWrite_outside s.mem p.pa a [y] (by simp only [List.length_singleton]; omega)]
  · subst hn
    rw [hpa]
    show tagAt (tagSet s.tags (p.pa / 8) 1 (if p.managed then 0 else 0)) (p.pa / 8) = 0
    rw [ite_self, tagAt_tagSet_zero, if_pos rfl]
  · show tagAt (tagSet s.tags (p.pa / 8) 1 (if p.managed then 0 else 0)) j = _
    rw [ite_self, tagAt_tagSet_zero, if_neg (hpa ▸ hj i rfl)]

end Sys2Proof.Machine
end

section
/-! Vector stores of one element, and what a run of them leaves (R101, R105, R247). -/

namespace Sys2Proof.Machine
open Sys2Proof.Cert

/-! ### What stores leave -/

/-- t is s but for memory, its tags, the copies of lines, what stores end, es, and the counters of events, of tickets and of free values; no
codeword or word of it is in error that was not (R81, R103, R117, R260, R312). -/
structure State.storing (s t : State) : Prop where
  frame : t = { s with
    mem := t.mem, tags := t.tags, lines := t.lines, dir := t.dir, flips := t.flips, under := t.under, hostHeld := t.hostHeld,
    hostOwned := t.hostOwned, fife := t.fife, fresh := t.fresh, tickets := t.tickets
    me := { s.me with
      hart := { s.me.hart with es := t.me.hart.es, cnt := t.me.hart.cnt }
      vec := { s.me.vec with pregs := t.me.vec.pregs } } }
  clean : ∀ g, flipsAt s.flips g = [] → flipsAt t.flips g = []
  tags : ∀ w, tagAt s.tags w ≠ 3 → tagAt t.tags w ≠ 3

theorem State.storing.refl (s : State) : s.storing s := ⟨rfl, fun _ h => h, fun _ h => h⟩

theorem State.storing.trans {s t u : State} (h : s.storing t) (h' : t.storing u) : s.storing u := by
  refine ⟨?_, fun g hg => h'.clean g (h.clean g hg), fun w hw => h'.tags w (h.tags w hw)⟩
  have h2 := h'.frame
  rw [h.frame] at h2
  exact h2

theorem State.loaded.storing {s t : State} (h : s.loaded t) : s.storing t := by
  refine ⟨?_, h.clean, fun w hw => ?_⟩ <;> rw [h.frame]
  exact hw

theorem State.frees.storing {s t : State} (h : s.frees t) : s.storing t := by
  obtain ⟨_, _, rfl, -⟩ := h
  exact ⟨rfl, fun _ h => h, fun _ h => h⟩

/-- A change of the counters of tickets and of free values. -/
theorem State.storing.of_counters (s : State) (m n : Nat) : s.storing { s with fresh := m, tickets := n } :=
  ⟨rfl, fun _ h => h, fun _ h => h⟩

/-- A change of es and of the event counters. -/
theorem State.storing.of_hart (s : State) {h : Hart} (hh : h = { s.me.hart with es := h.es, cnt := h.cnt }) :
    s.storing { s with me := { s.me with hart := h } } := by
  refine ⟨?_, fun _ h => h, fun _ h => h⟩
  rw [hh]

/-- Bytes written with tag 00. -/
theorem State.put_storing (p : Phys) (n v : Nat) (s : State) : s.storing (s.put p n v 0) := by
  refine ⟨rfl, fun _ h => h, fun w hw => ?_⟩
  show tagAt (tagSet s.tags (p.pa / 8) 1 (if p.managed then 0 else 0)) w ≠ 3
  rw [ite_self, tagAt_tagSet_zero]
  split
  · decide
  · exact hw

theorem State.storing.overrides {s t : State} (h : s.storing t) : t.me.hart.overrides = s.me.hart.overrides := by rw [h.frame]

theorem State.storing.streams {s t : State} (h : s.storing t) : t.me.vec.streams = s.me.vec.streams := by rw [h.frame]

theorem State.storing.elem {s t : State} (h : s.storing t) (n : BitVec 5) (i : Nat) : t.elem n i = s.elem n i := by rw [h.frame]; rfl

theorem State.storing.interruptAhead {s t : State} (h : s.storing t) : t.interruptAhead = s.interruptAhead := by rw [h.frame]; rfl

theorem State.storing.servesAs {s t : State} (h : s.storing t) : s.servesAs t := by
  have clean := h.clean
  have tags := h.tags
  have frame := h.frame
  obtain ⟨flips, hf⟩ : ∃ f, f = t.flips := ⟨_, rfl⟩
  obtain ⟨words, hw⟩ : ∃ f, f = t.tags := ⟨_, rfl⟩
  rw [← hf] at clean
  rw [← hw] at tags
  refine ⟨?_, ?_, ?_, ?_, ?_, ?_, ?_, ?_, ?_, ?_, ?_, ?_, ?_, ?_, hf ▸ clean, hw ▸ tags⟩ <;> rw [frame]
  · rfl
  · exact fun _ => rfl
  · exact fun h => h

/-- What a store ends (R117, R260). -/
theorem State.noteStoreAt_frees {s : State} (h : s.me.vec.streams = []) (va : X) (pa n : Nat) : s.frees (s.noteStoreAt va pa n) := by
  have drop : ∀ (dead : LoadRecord → Bool) (u : State), u.frees (u.dropLoads dead) := fun dead u => by
    unfold State.dropLoads
    split
    · exact State.dropEntries_frees _ u
    · exact .refl u
  have dropped := (drop (fun l => l.overlaps va n) s).trans (drop (fun l => l.meets pa n) _)
  unfold State.noteStoreAt State.noteStore
  rw [keepAhead_of_streams (dropped.vecChange.streams.trans h)]
  exact dropped

theorem State.frees.memory {s t : State} (h : s.frees t) : t.mem = s.mem ∧ t.tags = s.tags ∧ t.me.hart = s.me.hart := by
  obtain ⟨_, _, rfl, -⟩ := h
  exact ⟨rfl, rfl, rfl⟩

theorem State.copied.memory {s t : State} (h : s.copied t) : t.mem = s.mem ∧ t.tags = s.tags ∧ t.me.hart = s.me.hart := by
  have frame := h.frame
  unfold State.copiesFrame at frame
  rw [frame]
  exact ⟨rfl, rfl, rfl⟩

/-! ### One element -/

/-- The bytes that the store of an element writes: packed elements are merged into their byte (R101). -/
def VAccess.bytesFor (a : VAccess) (s : State) (pa v : Nat) : Nat :=
  if a.width < 8 then (setField (memRead s.mem pa) (a.idx * a.width % 8) a.width v).toNat else v

/-- A store of an element that is not lost, to an address that is reached (R101). -/
theorem storeElem_of_reaches {s : State} {a : VAccess} {p : Phys} (hs : s.me.vec.streams = []) (hr : s.reaches a.kind a.va p)
    (hl : a.lost = false) (v : Nat) : ∃ t, storeElem a v s = (.ok (), t) ∧ s.storing t ∧
      t.mem = (s.put p a.n (a.bytesFor s p.pa v) 0).mem ∧ t.tags = (s.put p a.n (a.bytesFor s p.pa v) 0).tags ∧
      t.me.hart = s.me.hart := by
  obtain ⟨-, -, htag, -, hsram, hflips⟩ := id hr
  obtain ⟨u, hu⟩ : ∃ u, u = s.put p a.n (a.bytesFor s p.pa v) 0 := ⟨_, rfl⟩
  have put : s.storing u := hu ▸ State.put_storing ..
  obtain ⟨t, ht⟩ : ∃ t, t = u.touchHome p a.n true a.hint u.hartAgent := ⟨_, rfl⟩
  have touched : u.copied t := ht ▸ State.touchHome_copied (hu ▸ hsram) p (hu ▸ hflips) a.n true a.hint _
  have written := put.trans touched.loaded.storing
  have ended := State.noteStoreAt_frees (written.streams.trans hs) a.va p.pa a.n
  obtain ⟨mem, words, hart⟩ := ended.memory
  obtain ⟨mem', words', hart'⟩ := touched.memory
  have raw : (fun t => onOk (fun u => u.touchHome p a.n true a.hint u.hartAgent)
      (t.writeRaw p a.va a.n (a.bytesFor s p.pa v) 0 t.hartAgent)) s = (.ok (), t) := by
    dsimp only
    rw [writeRaw_of_clean hsram htag hflips, ← hu, ht]
    rfl
  refine ⟨t.noteStoreAt a.va p.pa a.n, ?_, written.trans ended.storing, ?_, ?_, ?_⟩
  · unfold storeElem
    rw [M.bind_of_ok (access_of_reaches hr ..), M.bind_get, hl]
    exact M.bind_of_ok (liftRead_of_ok raw)
  · rw [mem, mem', hu]
  · rw [words, words', hu]
  · rw [hart, hart', hu]
    rfl

theorem storeElem_of_denial {s : State} {a : VAccess} {c : Nat × Nat} (h : denial s a.kind a.va = some c) (v : Nat) :
    storeElem a v s = (.error (.trap (denialTrap a.kind a.va c a.stride a.remaining 1)), s) := by
  unfold storeElem
  rw [M.bind_of_error (access_of_denial h ..)]

/-- The bits that the store of an element leaves (R32, R101). -/
theorem VAccess.bitsStored_put {a : VAccess} (hw : ElemWidth a.width) (hn : a.n = elemBytes a.width) {s t : State} (p : Phys) (i : Nat)
    {pa sh f : Nat → Nat} (hpa : pa i = p.pa) (hsh : (if a.width < 8 then a.idx * a.width % 8 else 0) = sh i)
    (hm : t.mem = (s.put p a.n (a.bytesFor s p.pa (f i)) 0).mem) (ht : t.tags = (s.put p a.n (a.bytesFor s p.pa (f i)) 0).tags) :
    s.bitsStored t a.width (fun n => n = i) pa sh f := by
  refine State.bitsStored.of_eq ?_ hm ht
  unfold VAccess.bytesFor
  by_cases h8 : a.width < 8
  · rw [if_pos h8] at hsh ⊢
    have one : a.n = 1 := by rw [hn]; unfold elemBytes; omega
    rw [one, hsh]
    refine put_bitsStored_packed p i hpa ?_
    rw [← hsh]
    rcases hw with h | h | h | h | h | h <;> rw [h] <;> omega
  · rw [if_neg h8] at hsh ⊢
    rw [hn, elemBytes_of_le (by omega)]
    refine put_bitsStored_bytes ?_ p i hpa hsh.symm
    rcases hw with h | h | h | h | h | h <;> rw [h] at h8 ⊢ <;> omega

/-! ### Some elements -/

/-- Whether an element of a list has an access that is not denied. -/
def State.spared (s : State) (els : List Nat) (f : Nat → VAccess) (i : Nat) : Prop :=
  i ∈ els ∧ denial s (f i).kind (f i).va = none

/-- The accesses f of the elements of a list, whose bits begin at bit sh: those that are not denied are reached at ps, are not lost, and share
no bit (R101). -/
structure State.canStore (s : State) (els : List Nat) (f : Nat → VAccess) (sh : Nat → Nat) (ps : Nat → Phys) : Prop where
  runs : s.vectorRuns
  calm : s.interruptAhead = none
  width : ∀ i, (f i).width = s.me.vec.width
  bytes : ∀ i, (f i).n = elemBytes s.me.vec.width
  bit : ∀ i, (if s.me.vec.width < 8 then (f i).idx * s.me.vec.width % 8 else 0) = sh i
  reached : ∀ i, s.spared els f i → s.reaches (f i).kind (f i).va (ps i)
  kept : ∀ i, s.spared els f i → (f i).lost = false
  apart : bitsApart s.me.vec.width (s.spared els f) (fun n => (ps n).pa) sh

/-- t is what stores in s of the values g that p names leave (R101). -/
structure State.wrote (s t : State) (p : Nat → Prop) (ps : Nat → Phys) (sh g : Nat → Nat) : Prop where
  storing : s.storing t
  bits : s.bitsStored t s.me.vec.width p (fun n => (ps n).pa) sh g

section
variable {s u : State} {els : List Nat} {f : Nat → VAccess} {p : Nat → Prop} {ps : Nat → Phys} {sh g : Nat → Nat}

theorem State.wrote.refl (s : State) : s.wrote s (fun _ => False) ps sh g := ⟨.refl s, .none ..⟩

theorem State.wrote.congr {t : State} {q : Nat → Prop} (h : s.wrote t p ps sh g) (hpq : ∀ n, p n ↔ q n) : s.wrote t q ps sh g :=
  ⟨h.storing, h.bits.congr hpq⟩

theorem State.wrote.counters (h : s.wrote u p ps sh g) (m n : Nat) : s.wrote { u with fresh := m, tickets := n } p ps sh g :=
  ⟨h.storing.trans (.of_counters u m n), h.bits.of_eq rfl rfl⟩

theorem drawTicket_wrote (hint : Nat) (h : s.wrote u p ps sh g) : ∃ t, drawTicket hint u = (.ok (), t) ∧ s.wrote t p ps sh g := by
  unfold drawTicket
  split
  · exact ⟨_, rfl, h.counters u.fresh (u.tickets + 1)⟩
  · exact ⟨u, rfl, h⟩

/-- One more element stored (R101). -/
theorem State.wrote.element (h : s.wrote u p ps sh g) (ha : s.canStore els f sh ps) (hp : ∀ n, p n → s.spared els f n) {i : Nat}
    (hi : s.spared els f i) :
    ∃ t, storeElem (f i) (g i) u = (.ok (), t) ∧ s.wrote t (fun n => p n ∨ n = i) ps sh g ∧ t.me.hart = u.me.hart := by
  obtain ⟨t, ht, storing, hm, htags, hart⟩ := storeElem_of_reaches (h.storing.streams.trans ha.runs.streams)
    (h.storing.servesAs.reaches (ha.reached i hi)) (ha.kept i hi) (g i)
  have stored := VAccess.bitsStored_put (a := f i) (by rw [ha.width]; exact ha.runs.width) (by rw [ha.bytes, ha.width]) (ps i) i
    (pa := fun n => (ps n).pa) (sh := sh) (f := g) rfl (by rw [ha.width]; exact ha.bit i) hm htags
  rw [ha.width] at stored
  refine ⟨t, ht, ⟨h.storing.trans storing, h.bits.trans stored ?_⟩, hart⟩
  rintro m n hpm rfl
  exact ha.apart m n (hp m hpm) hi

end

/-! ### Runs -/

/-- One element of a store (R38, R105, R116). -/
def storeOne (f : Nat → VAccess) (src : BitVec 5) (i : Nat) : M Unit := do
  trapPoint i
  let (v, fl) ← srcElem src (f i).width i
  raiseFlags fl (xOf i)
  storeElem (f i) v

section
variable {els : List Nat} {good : Nat → Bool} {P : List Nat → State → Prop} {f : Nat → VAccess} {src : BitVec 5} {stop : Nat → Stop}

/-- A run over stores stops at the first one that does not end well (R105). -/
theorem storeRun_takeWhile
    (hgood : ∀ done u, P done u → ∀ i ∈ els, good i = true → ∃ t, storeOne f src i u = (.ok (), t) ∧
      ∃ r, drawTicket (f i).hint t = (.ok (), r) ∧ P (done ++ [i]) r)
    (hbad : ∀ done u, P done u → ∀ i ∈ (els.dropWhile good).head?, storeOne f src i u = (.error (stop i), u))
    {done : List Nat} {u : State} (hu : P done u) :
    ∃ t, storeRun f src els u = (.ok ((els.dropWhile good).head?.map fun i => (i, stop i)), t) ∧ P (done ++ els.takeWhile good) t := by
  induction els generalizing done u with
  | nil => exact ⟨u, rfl, by simpa using hu⟩
  | cons i rest ih =>
    unfold storeRun
    cases hg : good i
    · have one := hbad done u hu i (by simp [hg])
      refine ⟨u, (M.bind_of_ok ((M.run_observe (storeOne f src i) u).trans (by rw [one]))).trans ?_, by simpa [hg] using hu⟩
      simp [hg]
    · obtain ⟨t, one, r, ticket, hr⟩ := hgood done u hu i (by simp) hg
      obtain ⟨t', ht', hp⟩ := ih (fun d u hu j hj => hgood d u hu j (by simp [hj])) (fun d u hu j hj => hbad d u hu j (by simpa [hg] using hj)) hr
      refine ⟨t', (M.bind_of_ok ((M.run_observe (storeOne f src i) u).trans (by rw [one]))).trans ?_, by simpa [hg] using hp⟩
      dsimp only
      rw [M.bind_of_ok ticket, ht']
      simp [hg]

end

/-- An element of a source that is not bound, which stores leave (R116). -/
theorem srcElem_storing {s u : State} (hu : s.storing u) (h : s.vectorRuns) (src : BitVec 5) {i w : Nat} (hw : w = s.me.vec.width) :
    srcElem src w i u = (.ok (s.elem src i, 0), u) := by
  have source := srcElem_of_unbound (hu.streams.trans h.streams) (hu.overrides.trans h.overrides) src w i
  have value : getElem u.me.vec.grant w u.me.vec.v[src.toNat] i = s.elem src i := by
    rw [hw, hu.frame]
    rfl
  rwa [value] at source

/-- An element of a store whose source is not bound, where nothing could interrupt it (R116, R287). -/
theorem storeOne_eq {s u : State} (hu : s.storing u) (h : s.vectorRuns) (hc : s.interruptAhead = none) (f : Nat → VAccess) (src : BitVec 5)
    {i : Nat} (hw : (f i).width = s.me.vec.width) : storeOne f src i u = storeElem (f i) (s.elem src i) u := by
  unfold storeOne
  rw [M.bind_of_ok (trapPoint_of_calm (hu.interruptAhead.trans hc) i), M.bind_of_ok (srcElem_storing hu h src hw)]
  exact M.bind_of_ok (raiseFlags_zero u _)

end Sys2Proof.Machine
end

section
/-! Runs of vector stores, and the elements of a store whose location another element stores to as well (R101, R105, R108, R247). -/

namespace Sys2Proof.Machine
open Sys2Proof.Cert

/-! ### Runs -/

/-- Why the access a is denied, where it is. -/
def State.causeOf (s : State) (a : VAccess) : Nat × Nat := (denial s a.kind a.va).getD (0, 0)

theorem State.denial_causeOf {s : State} {a : VAccess} (h : (denial s a.kind a.va).isNone = false) :
    denial s a.kind a.va = some (s.causeOf a) := by
  obtain ⟨c, hc⟩ := Option.isSome_iff_exists.mp (by simpa using h)
  simp [State.causeOf, hc]

/-- The trap of the access a, which is denied (R284). -/
def State.trapOf (s : State) (a : VAccess) : Trap := denialTrap a.kind a.va (s.causeOf a) a.stride a.remaining 1

/-- An element of a store above the one at which it stopped (R247). -/
def storeAgain (f : Nat → VAccess) (src : BitVec 5) (i : Nat) : M Unit := do
  let (v, _) ← srcElem src (f i).width i
  storeElem (f i) v

theorem storeAgain_eq {s u : State} (hu : s.storing u) (h : s.vectorRuns) (f : Nat → VAccess) (src : BitVec 5) {i : Nat}
    (hw : (f i).width = s.me.vec.width) : storeAgain f src i u = storeElem (f i) (s.elem src i) u := by
  unfold storeAgain
  rw [M.bind_of_ok (srcElem_storing hu h src hw)]

section
variable {s u : State} {els : List Nat} {f : Nat → VAccess} {p : Nat → Prop} {ps : Nat → Phys} {sh : Nat → Nat} {src : BitVec 5}

/-- The elements of a store in order, up to the first whose access is denied (R105). -/
theorem storeRun_wrote (ha : s.canStore els f sh ps) (hu : s.wrote u (fun _ => False) ps sh (s.elem src)) :
    let good := fun i => (denial s (f i).kind (f i).va).isNone
    ∃ t, storeRun f src els u = (.ok ((els.dropWhile good).head?.map fun i => (i, .trap (s.trapOf (f i)))), t) ∧
      s.wrote t (· ∈ els.takeWhile good) ps sh (s.elem src) := by
  intro good
  obtain ⟨t, ht, -, wrote⟩ := storeRun_takeWhile (els := els) (good := good) (f := f) (src := src)
    (stop := fun i => .trap (s.trapOf (f i)))
    (P := fun done u => (∀ n ∈ done, s.spared els f n) ∧ s.wrote u (· ∈ done) ps sh (s.elem src))
    (fun done u hu i hi hg => by
      obtain ⟨hdone, hu⟩ := hu
      have spared : s.spared els f i := ⟨hi, Option.isNone_iff_eq_none.mp hg⟩
      obtain ⟨t, ht, wrote, -⟩ := hu.element ha hdone spared
      obtain ⟨r, hr, ticketed⟩ := drawTicket_wrote (f i).hint wrote
      refine ⟨t, (storeOne_eq hu.storing ha.runs ha.calm f src (ha.width i)).trans ht, r, hr, fun n hn => ?_,
        ticketed.congr fun n => by simp⟩
      rcases List.mem_append.mp hn with hn | hn
      · exact hdone n hn
      · exact List.mem_singleton.mp hn ▸ spared)
    (fun done u hu i hi => by
      have hg : good i = false := by
        have := List.head?_dropWhile_not good els
        rw [Option.mem_def.mp hi] at this
        simpa using this
      refine (storeOne_eq hu.2.storing ha.runs ha.calm f src (ha.width i)).trans ?_
      exact storeElem_of_denial ((hu.2.storing.servesAs.denial ..).trans (State.denial_causeOf hg)) _)
    (done := []) (u := u) ⟨by simp, hu.congr fun n => by simp⟩
  exact ⟨t, ht, wrote.congr fun n => by simp⟩

/-- Elements of which each is stored or not (R247). -/
theorem storeMaybe_wrote (ha : s.canStore els f sh ps) (use : Nat) {l : List Nat} (hl : ∀ i ∈ l, i ∈ els)
    (hp : ∀ n, p n → s.spared els f n) (hu : s.wrote u p ps sh (s.elem src)) :
    ∃ t, ∃ q : Nat → Prop, storeMaybe use f src l u = (.ok (), t) ∧ (∀ n, q n → n ∈ l ∧ s.spared els f n) ∧
      s.wrote t (fun n => p n ∨ q n) ps sh (s.elem src) ∧ t.me.hart = u.me.hart := by
  induction l generalizing u p with
  | nil => exact ⟨u, fun _ => False, rfl, by simp, hu.congr fun n => by simp, rfl⟩
  | cons i rest ih =>
    have mem : ∀ j ∈ rest, j ∈ els := fun j hj => hl j (List.mem_cons_of_mem _ hj)
    have skip : ∃ t, ∃ q : Nat → Prop, storeMaybe use f src rest u = (.ok (), t) ∧ (∀ n, q n → n ∈ i :: rest ∧ s.spared els f n) ∧
        s.wrote t (fun n => p n ∨ q n) ps sh (s.elem src) ∧ t.me.hart = u.me.hart := by
      obtain ⟨t, q, ht, hq, wrote, hart⟩ := ih mem hp hu
      exact ⟨t, q, ht, fun n hn => ⟨List.mem_cons_of_mem _ (hq n hn).1, (hq n hn).2⟩, wrote, hart⟩
    have source := storeAgain_eq hu.storing ha.runs f src (ha.width i)
    unfold storeMaybe
    by_cases hc : Config.freeChoice use i % 2 = 1
    case neg =>
      rw [if_neg hc]
      exact skip
    rw [if_pos hc]
    by_cases hg : (denial s (f i).kind (f i).va).isNone = true
    · have spared : s.spared els f i := ⟨hl i (List.mem_cons_self ..), Option.isNone_iff_eq_none.mp hg⟩
      obtain ⟨t, ht, wrote, hart⟩ := hu.element ha hp spared
      obtain ⟨r, q, hr, hq, wrote', hart'⟩ := ih mem (p := fun n => p n ∨ n = i)
        (fun n hn => hn.elim (hp n) fun h => h ▸ spared) wrote
      refine ⟨r, fun n => n = i ∨ q n, ?_, fun n hn => ?_, wrote'.congr fun n => or_assoc, hart'.trans hart⟩
      · have seen : observe (storeAgain f src i) u = (.ok (.ok ()), t) := (M.run_observe _ u).trans (by rw [source, ht])
        rw [M.bind_get]
        exact (M.bind_of_ok seen).trans hr
      · rcases hn with rfl | hn
        · exact ⟨List.mem_cons_self .., spared⟩
        · exact ⟨List.mem_cons_of_mem _ (hq n hn).1, (hq n hn).2⟩
    · have cause := State.denial_causeOf (Bool.eq_false_iff.mpr hg)
      have stop := storeElem_of_denial ((hu.storing.servesAs.denial ..).trans cause) (s.elem src i)
      obtain ⟨t, q, ht, hq⟩ := skip
      have seen : observe (storeAgain f src i) u = (.ok (.error (.trap (s.trapOf (f i)))), u) :=
        (M.run_observe _ u).trans (by rw [source, stop]; rfl)
      refine ⟨t, q, ?_, hq⟩
      rw [M.bind_get]
      exact (M.bind_of_ok seen).trans ht

end

/-! ### Elements that share a location -/

/-- The element whose location a lost one shares (R105, R108). -/
theorem exists_of_mem_lostElems (use : Nat) (addr : Nat → X) {els : List Nat} (hs : els.Nodup) {i : Nat} (hi : i ∈ lostElems use addr els) :
    ∃ j ∈ els, j ≠ i ∧ addr j = addr i := by
  obtain ⟨step, hstep⟩ : ∃ g, g = fun (acc : List X × List Nat) i =>
    if addr i ∈ acc.1 then (acc.1, if Config.freeChoice use i % 2 = 1 then i :: acc.2 else acc.2) else (addr i :: acc.1, acc.2) := ⟨_, rfl⟩
  have fold : ∀ l : List Nat, l.Nodup → (∀ x ∈ (l.foldl step ([], [])).1, ∃ j ∈ l, addr j = x) ∧
      ∀ i ∈ (l.foldl step ([], [])).2, ∃ j ∈ l, j ≠ i ∧ addr j = addr i := by
    intro l hl
    induction l using List.reverseRecOn with
    | nil => simp
    | append_singleton l n ih =>
      obtain ⟨hl, -, hn⟩ := List.nodup_append.mp hl
      obtain ⟨seen, lost⟩ := ih hl
      obtain ⟨acc, hacc⟩ : ∃ acc, acc = l.foldl step ([], []) := ⟨_, rfl⟩
      rw [← hacc] at seen lost
      have new : ∀ j ∈ l, j ≠ n := fun j hj => hn j hj n (by simp)
      have seen' : ∀ x ∈ acc.1, ∃ j ∈ l ++ [n], addr j = x := fun x hx => by
        obtain ⟨j, hj, h⟩ := seen x hx
        exact ⟨j, by simp [hj], h⟩
      have lost' : ∀ i ∈ acc.2, ∃ j ∈ l ++ [n], j ≠ i ∧ addr j = addr i := fun i hi => by
        obtain ⟨j, hj, h⟩ := lost i hi
        exact ⟨j, by simp [hj], h⟩
      rw [List.foldl_append, ← hacc, List.foldl_cons, List.foldl_nil, hstep]
      dsimp only
      split
      case isTrue hmem =>
        refine ⟨seen', fun i hi => ?_⟩
        split at hi
        · rcases List.mem_cons.mp hi with rfl | hi
          · obtain ⟨j, hj, h⟩ := seen _ hmem
            exact ⟨j, by simp [hj], new j hj, h⟩
          · exact lost' i hi
        · exact lost' i hi
      case isFalse =>
        refine ⟨fun x hx => ?_, lost'⟩
        rcases List.mem_cons.mp hx with rfl | hx
        · exact ⟨n, by simp, rfl⟩
        · exact seen' x hx
  refine (fold els hs).2 i ?_
  rw [hstep]
  exact hi

theorem reaches_unique {s : State} {k : Access} {va : X} {p q : Phys} (hp : s.reaches k va p) (hq : s.reaches k va q) : p = q := by
  have h := hp.1.symm.trans hq.1
  simpa using h

/-- Of elements that begin at bit 0 of their bytes and share no bit, none is lost (R105, R108). -/
theorem not_mem_lostElems {s : State} {els : List Nat} (hs : els.Nodup) {kind : Access} {va : Nat → X} {ps : Nat → Phys}
    {good : Nat → Prop} (hgood : ∀ n, good n ↔ n ∈ els ∧ denial s kind (va n) = none)
    (hr : ∀ n, good n → s.reaches kind (va n) (ps n)) (hw : 0 < s.me.vec.width) {sh : Nat → Nat} (h0 : ∀ n, sh n = 0)
    (hd : bitsApart s.me.vec.width good (fun n => (ps n).pa) sh) (use : Nat) {i : Nat} (hi : good i) : i ∉ lostElems use va els := by
  intro hl
  obtain ⟨j, hj, hne, hva⟩ := exists_of_mem_lostElems use va hs hl
  have good_j : good j := (hgood j).mpr ⟨hj, hva ▸ ((hgood i).mp hi).2⟩
  have same : ps j = ps i := reaches_unique (hva ▸ hr j good_j) (hr i hi)
  exact hd j i good_j hi hne 0 hw 0 hw (by simp [same, h0])

end Sys2Proof.Machine
end

section
/-! Unit-stride, strided and lane-local stores (R104, R105, R107, R247). -/

namespace Sys2Proof.Machine
open Sys2Proof.Cert

/-! ### What follows a run -/

section
variable {s u : State} {p : Nat → Prop} {ps : Nat → Phys} {sh g : Nat → Nat}

theorem State.wrote.of_hart (h : s.wrote u p ps sh g) {r : Hart} (hr : r = { u.me.hart with es := r.es, cnt := r.cnt }) :
    s.wrote { u with me := { u.me with hart := r } } p ps sh g := ⟨h.storing.trans (.of_hart u hr), h.bits.of_eq rfl rfl⟩

/-- The completion of a vector store that restricted nothing to a fault mask. -/
theorem State.wrote.completes (h : s.wrote u p ps sh g) (hs : (s.me.hart.ss && !s.me.hart.prv) = false) (hf : s.me.hart.fm = false)
    (st : BitVec 3) : let t := u.clearKf.complete st 0 (s.pc + 4)
    s.storeFrame t st ∧ t.me.hart.x = s.me.hart.x ∧ t.me.hart.xtag = s.me.hart.xtag ∧
      s.bitsStored t s.me.vec.width p (fun n => (ps n).pa) sh g := by
  have status : u.me.hart.status = s.me.hart.status := by rw [h.storing.frame]
  have plain : u.clearKf = u := clearKf_of_off (by unfold Hart.fm; rw [status]; exact hf)
  have after : u.complete st 0 (s.pc + 4) = u.after st 0 (s.pc + 4) :=
    complete_eq_after _ _ _ _ (by unfold Hart.ss Hart.prv; rw [status]; exact hs)
  rw [plain, after]
  refine ⟨?_, ?_, ?_, h.bits.of_eq rfl rfl⟩
  · unfold State.storeFrame State.after
    rw [Nat.max_zero, h.storing.frame]
  all_goals
    rw [h.storing.frame]
    rfl

end

/-! ### The parts of a store -/

/-- The elements of a store that are lost (R105). -/
def VForm.lost (f : VForm) (s : State) : List Nat :=
  if f.hint = 3 ∨ (f.strideOf s).toNat % 2 ^ 52 ≠ 0 then []
  else lostElems s.fresh (fun i => (f.access s .vstore i).va) (s.actives f.k s.es)

/-- The accesses of a store, by element. -/
def VForm.storeAccess (f : VForm) (s : State) (i : Nat) : VAccess :=
  { f.access s .vstore i with remaining := s.me.vec.vl.toNat - i, lost := decide (i ∈ f.lost s) }

/-- The end of a store in s that stopped at e, if it stopped (R105, R247). -/
def VForm.endStore (f : VForm) (s : State) (e : ElemStop) : M Unit :=
  match e with
  | none => modify (State.modHart (Hart.count 6 (s.actives f.k s.es).length))
  | some (i, r) => do
    modify (State.modHart (Hart.count 6 ((s.actives f.k s.es).filter (fun j => decide (j < i))).length))
    setEs i
    if f.hint ≠ 3 && r.isFault then
      let u ← get
      set { u with fresh := u.fresh + 1 }
      storeMaybe u.fresh (f.storeAccess s) f.d ((s.actives f.k s.es).filter (fun j => decide (i < j)))
    throw (r.left (s.me.vec.vl.toNat - i))

/-- A store in s: its checks, its elements, and its end (R104, R105, R107). -/
def VForm.store (f : VForm) (s : State) : M Unit := do
  f.aligned s
  if f.lane then columnCheck .vstore (fun i => (f.access s .vstore i).va) s.me.vec.groups (s.actives f.k s.es)
  modify fun u => { u with fresh := u.fresh + 1 }
  let e ← storeRun (f.storeAccess s) f.d (s.actives f.k s.es)
  f.endStore s e

theorem vstoreOp_eq (f : VForm) (s : State) : vstoreOp f s =
    runVector { st := f.st, k := f.k, vs := [f.d], rs := f.regs, shape := f.widthOk s } (do
      let t ← get
      f.store t) s := rfl

/-- The elements of a store in order, its checks passed. -/
theorem VForm.store_eq {s u : State} {f : VForm} {e : ElemStop} (ha : (s.rX f.a).toNat % elemBytes s.me.vec.width = 0)
    (hs : (f.strideOf s).toNat % elemBytes s.me.vec.width = 0)
    (hc : f.lane = true → columnCheck .vstore (fun i => (f.access s .vstore i).va) s.me.vec.groups (s.actives f.k s.es) s = (.ok (), s))
    (hu : storeRun (f.storeAccess s) f.d (s.actives f.k s.es) { s with fresh := s.fresh + 1 } = (.ok e, u)) :
    f.store s s = f.endStore s e u := by
  unfold VForm.store
  rw [M.bind_of_ok (f.aligned_ok ha hs s)]
  split
  · exact (M.bind_of_ok (hc ‹_›)).trans (M.bind_of_ok hu)
  · exact M.bind_of_ok hu

/-- A denied access names the elements left already (R284). -/
theorem denialTrap_left {c : Nat × Nat} (hc : c.1 / 64 = 2 ∧ c.2 ≤ 3) (k : Access) (va stride : X) (n pages : Nat) :
    (denialTrap k va c stride n pages).left n = denialTrap k va c stride n pages := by
  have hk : k.code ≤ 8 := by cases k <;> decide
  have info : xOf (n % 2 ^ 32 * 2 ^ 32 + (denialTrap k va c stride n pages).info1.toNat % 2 ^ 32) =
      (denialTrap k va c stride n pages).info1 := by
    apply BitVec.eq_of_toNat_eq
    simp only [denialTrap, xOf, BitVec.toNat_ofNat]
    omega
  unfold Trap.left
  rw [if_pos (show (denialTrap k va c stride n pages).code / 64 = 2 from hc.1), info]

section
variable {s u : State} {f : VForm} {p : Nat → Prop} {ps : Nat → Phys} {sh : Nat → Nat}

theorem VForm.endStore_gives (f : VForm) (hu : s.wrote u p ps sh (s.elem f.d)) :
    (f.endStore s none).gives u fun _ t => s.wrote t p ps sh (s.elem f.d) := ⟨(), _, rfl, hu.of_hart rfl⟩

/-- The end of a store that element i stopped: some of the elements above it are stored (R105, R247). -/
theorem VForm.endStore_stops (ha : s.canStore (s.actives f.k s.es) (f.storeAccess s) sh ps) (hu : s.wrote u p ps sh (s.elem f.d))
    (hp : ∀ n, p n → s.spared (s.actives f.k s.es) (f.storeAccess s) n) {i : Nat} (hi : i < 2 ^ 18) (tr : Trap) :
    (f.endStore s (some (i, .trap tr))).stops u (.trap (tr.left (s.me.vec.vl.toNat - i))) fun t => ∃ q : Nat → Prop,
      (∀ n, q n → i < n ∧ s.spared (s.actives f.k s.es) (f.storeAccess s) n) ∧ (f.hint = 3 → ∀ n, ¬q n) ∧
      s.wrote t (fun n => p n ∨ q n) ps sh (s.elem f.d) ∧ t.es = i := by
  obtain ⟨c, hc⟩ : ∃ c, c = ((s.actives f.k s.es).filter fun j => decide (j < i)).length := ⟨_, rfl⟩
  obtain ⟨v, hv⟩ : ∃ v, v = (u.modHart (Hart.count 6 c)).modHart fun h => { h with es := BitVec.ofNat 18 i } := ⟨_, rfl⟩
  have counted : s.wrote v p ps sh (s.elem f.d) := hv ▸ hu.of_hart rfl
  have es : v.es = i := by
    rw [hv]
    exact Nat.mod_eq_of_lt hi
  unfold VForm.endStore
  refine M.stops_bind ⟨(), _, rfl, M.stops_bind ⟨(), v, by rw [hv, hc]; rfl, ?_⟩⟩
  split
  case isTrue hh =>
    obtain ⟨t, q, ht, hq, wrote, hart⟩ := storeMaybe_wrote ha v.fresh
      (l := (s.actives f.k s.es).filter fun j => decide (i < j)) (fun j hj => (List.mem_filter.mp hj).1) hp
      (counted.counters (v.fresh + 1) v.tickets)
    refine M.stops_bind ⟨v, v, rfl, M.stops_bind ⟨(), _, rfl, M.stops_bind ⟨(), t, ht, t, rfl, q, fun n hn => ?_, fun h3 => ?_, wrote, ?_⟩⟩⟩
    · exact ⟨by simpa using (List.mem_filter.mp (hq n hn).1).2, (hq n hn).2⟩
    · simp [h3] at hh
    · exact (congrArg (fun h => h.es.toNat) hart).trans es
  case isFalse =>
    exact ⟨v, rfl, fun _ => False, by simp, by simp, counted.congr fun n => by simp, es⟩

/-- A store of which no element is denied (R101, R104, R107). -/
theorem vstoreOp_gives (ha : s.canStore (s.actives f.k s.es) (f.storeAccess s) sh ps) (hpv : s.me.hart.pv = false)
    (hw : f.widthOk s = true) (hb : (s.rX f.a).toNat % elemBytes s.me.vec.width = 0)
    (hs : (f.strideOf s).toNat % elemBytes s.me.vec.width = 0)
    (hc : f.lane = true → columnCheck .vstore (fun i => (f.access s .vstore i).va) s.me.vec.groups (s.actives f.k s.es) s = (.ok (), s))
    (hn : ∀ i ∈ s.actives f.k s.es, denial s .vstore (f.access s .vstore i).va = none) :
    ∃ t, vstoreOp f s = .next (t.clearKf.complete f.st 0 (s.pc + 4)) ∧
      s.wrote t (· ∈ s.actives f.k s.es) ps sh (s.elem f.d) := by
  rw [vstoreOp_eq]
  refine runVector_gives ha.runs _ _ (pairs_of_noPfx hpv _) (nullified_of_noPfx hpv) hw rfl (fun _ => ?_) (fun hbusy => ?_)
    (fun t ht => ht.storing.streams.trans ha.runs.streams)
  · obtain ⟨u, hu, wrote⟩ := storeRun_wrote (src := f.d) ha ((State.wrote.refl s).counters (s.fresh + 1) s.tickets)
    have all : ∀ i ∈ s.actives f.k s.es,
        (denial s (f.storeAccess s i).kind (f.storeAccess s i).va).isNone = true := fun i hi => Option.isNone_iff_eq_none.mpr (hn i hi)
    rw [List.dropWhile_eq_nil_iff.mpr all] at hu
    rw [List.takeWhile_eq_self_iff.mpr all] at wrote
    obtain ⟨_, t, ht, done⟩ := f.endStore_gives wrote
    exact M.gives_bind ⟨s, s, rfl, (), t, (VForm.store_eq hb hs hc hu).trans ht, done⟩
  · rw [actives_nil f.k hbusy]
    exact (State.wrote.refl s).congr fun n => by simp

/-- A store of which element i is the lowest that is denied (R105, R247). -/
theorem vstoreOp_stops (ha : s.canStore (s.actives f.k s.es) (f.storeAccess s) sh ps) (hpv : s.me.hart.pv = false)
    (hw : f.widthOk s = true) (hb : (s.rX f.a).toNat % elemBytes s.me.vec.width = 0)
    (hs : (f.strideOf s).toNat % elemBytes s.me.vec.width = 0) (hc : f.lane = false) {i : Nat} (hi : i ∈ s.actives f.k s.es)
    {c : Nat × Nat} (hd : denial s .vstore (f.access s .vstore i).va = some c)
    (hlow : ∀ n ∈ s.actives f.k s.es, n < i → denial s .vstore (f.access s .vstore n).va = none) :
    ∃ t, vstoreOp f s = .next (t.enterTrap false t.pc
        (denialTrap .vstore (f.access s .vstore i).va c (f.strideOf s) (s.me.vec.vl.toNat - i) 1)) ∧ ∃ q : Nat → Prop,
      (∀ n, q n → i < n ∧ s.spared (s.actives f.k s.es) (f.storeAccess s) n) ∧ (f.hint = 3 → ∀ n, ¬q n) ∧
      s.wrote t (fun n => (n ∈ s.actives f.k s.es ∧ n < i) ∨ q n) ps sh (s.elem f.d) ∧ t.es = i := by
  obtain ⟨good, hgood⟩ : ∃ g, g = fun i => (denial s (f.storeAccess s i).kind (f.storeAccess s i).va).isNone := ⟨_, rfl⟩
  have hd' : denial s (f.storeAccess s i).kind (f.storeAccess s i).va = some c := hd
  have within : s.es ≤ i ∧ i < s.me.vec.vl.toNat := by
    have := mem_actives.mp hi
    omega
  have small : s.me.vec.vl.toNat ≤ 4096 := ha.runs.vl_le.2
  obtain ⟨u, hu, wrote⟩ := storeRun_wrote (src := f.d) ha ((State.wrote.refl s).counters (s.fresh + 1) s.tickets)
  obtain ⟨before, from_⟩ := takeWhile_below (actives_pairwise s f.k s.es) hi (good := good)
    (fun n hn hlt => by rw [hgood]; exact Option.isNone_iff_eq_none.mpr (hlow n hn hlt)) (by rw [hgood]; simp [hd'])
  rw [← hgood, from_] at hu
  rw [← hgood, before] at wrote
  have cause : s.causeOf (f.storeAccess s i) = c := by simp [State.causeOf, hd']
  have trap : (s.trapOf (f.storeAccess s i)).left (s.me.vec.vl.toNat - i) =
      denialTrap .vstore (f.access s .vstore i).va c (f.strideOf s) (s.me.vec.vl.toNat - i) 1 := by
    obtain ⟨h2, -, hlevel⟩ := denial_class hd
    unfold State.trapOf
    rw [cause]
    exact denialTrap_left ⟨h2, hlevel⟩ ..
  rw [vstoreOp_eq, ← trap]
  obtain ⟨t, ht, q, hq, hq3, done, es⟩ := VForm.endStore_stops ha wrote
    (fun n hn => ⟨(List.mem_filter.mp hn).1, hlow n (List.mem_filter.mp hn).1 (by simpa using (List.mem_filter.mp hn).2)⟩)
    (show i < 2 ^ 18 by omega) (s.trapOf (f.storeAccess s i))
  refine runVector_stops ha.runs _ _ (pairs_of_noPfx hpv _) (nullified_of_noPfx hpv) hw (by omega)
    (M.stops_bind ⟨s, s, rfl, t, (VForm.store_eq hb hs (fun hl => by rw [hc] at hl; cases hl) hu).trans ht, q, hq, hq3, ?_, es⟩)
  exact done.congr fun n => by simp

end

end Sys2Proof.Machine
end

section
/-! Scatters (R108, R109). -/

namespace Sys2Proof.Machine
open Sys2Proof.Cert

/-! ### The parts of a scatter -/

/-- The index values of the elements of a scatter, as the reads of its index register find them. -/
def scatterIndex (els : List Nat) (l : List (Except Trap (Nat × Flags))) : List (Nat × Nat) :=
  els.zip (l.map (fun r => match r with | .ok (v, _) => v | .error _ => 0))

/-- The elements of a scatter that are lost (R108). -/
def scatterLost (s : State) (a : BitVec 5) (k : BitVec 3) (hint : Nat) (ix : List (Nat × Nat)) : List Nat :=
  if hint = 3 then []
  else lostElems s.fresh (fun i => (indexAccess s .scatter a hint i ((ix.lookup i).getD 0)).va) (s.actives k s.es)

/-- The access of an element of a scatter, of a given index (R108). -/
def scatterAccess (s : State) (a : BitVec 5) (hint : Nat) (lost : List Nat) (i ix : Nat) : VAccess :=
  { indexAccess s .scatter a hint i ix with lost := decide (i ∈ lost) }

/-- One element of a scatter, of a given value and index (R108). -/
def scatterElem (s : State) (a : BitVec 5) (hint : Nat) (lost : List Nat) (i : Nat) (x : List Nat) : M (Nat × X × Phys) := do
  storeElem (scatterAccess s a hint lost i (x.getD 1 0)) (x.headD 0)
  drawTicket hint
  pure (0, (scatterAccess s a hint lost i (x.getD 1 0)).va, { pa := 0, managed := false, plane := false, cached := false })

/-- The end of a scatter that has stored some elements, with those that faulted and where it stopped (R108). -/
def endScatter (x : List (Nat × Nat × X × Phys) × List (Nat × Trap) × Option (Stop × List Nat)) : M Unit := do
  modify (State.modHart (Hart.count 6 x.1.length))
  faultEnd x.2.1 x.2.2

/-- A scatter in s: its check, its elements, and its end (R108). -/
def scatter (s : State) (d a b : BitVec 5) (k : BitVec 3) (hint : Nat) : M Unit := do
  require ((s.rX a).toNat % (s.me.vec.width / 8) == 0) 0x0C0 (s.rX a)
  let l ← srcAll b s.me.vec.width (s.actives k s.es)
  modify fun u => { u with fresh := u.fresh + 1 }
  let x ← faultRun (hint == 3) (fun i => indexElems s.me.vec.width i [d, b])
    (scatterElem s a hint (scatterLost s a k hint (scatterIndex (s.actives k s.es) l))) (s.actives k s.es)
  endScatter x

theorem execVstx_eq (st : BitVec 3) (d a b : BitVec 5) (k : BitVec 3) (h : BitVec 2) (s : State) : execVstx st d a b k h s =
    runVector { st := st, k := k, vs := [d, b], rs := [.x a], shape := decide (8 ≤ s.me.vec.width) } (do
      let t ← get
      scatter t d a b k h.toNat) s := rfl

/-! ### Its index values -/

/-- The elements of a source that is not bound, read whatever the mask (R37). -/
theorem srcAll_of_unbound {s : State} (h : s.vectorRuns) (b : BitVec 5) (els : List Nat) :
    srcAll b s.me.vec.width els s = (.ok (els.map fun i => .ok (s.elem b i, 0)), s) := by
  induction els with
  | nil => rfl
  | cons i rest ih =>
    have seen : observe (srcElem b s.me.vec.width i) s = (.ok (.ok (s.elem b i, 0)), s) :=
      (M.run_observe _ s).trans (by rw [srcElem_storing (.refl s) h b rfl])
    unfold srcAll
    refine (M.bind_of_ok (a := .ok (s.elem b i, 0)) (t := s) ?_).trans ((M.bind_of_ok ih).trans rfl)
    exact (M.bind_of_ok seen).trans rfl

/-- The index values of a scatter whose index register is not bound. -/
theorem lookup_scatterIndex (s : State) (b : BitVec 5) {els : List Nat} {i : Nat} (hi : i ∈ els) :
    (scatterIndex els (els.map fun i => .ok (s.elem b i, 0))).lookup i = some (s.elem b i) := by
  unfold scatterIndex
  rw [List.map_map, ← List.map_prod_left_eq_zip]
  exact List.lookup_graph (fun i => s.elem b i) hi

/-- The elements that are lost of a scatter whose index register is not bound. -/
def lostOf (s : State) (a b : BitVec 5) (k : BitVec 3) (hint : Nat) : List Nat :=
  scatterLost s a k hint (scatterIndex (s.actives k s.es) ((s.actives k s.es).map fun i => .ok (s.elem b i, 0)))

/-- The accesses of a scatter whose index register is not bound, by element. -/
def scatterOf (s : State) (a b : BitVec 5) (k : BitVec 3) (hint i : Nat) : VAccess :=
  scatterAccess s a hint (lostOf s a b k hint) i (s.elem b i)

section
variable {s u : State} {a b d : BitVec 5} {k : BitVec 3} {ps : Nat → Phys}

theorem scatter_eq (h : s.vectorRuns) (ha : (s.rX a).toNat % (s.me.vec.width / 8) = 0) (d b : BitVec 5) (k : BitVec 3) (hint : Nat)
    {x : List (Nat × Nat × X × Phys) × List (Nat × Trap) × Option (Stop × List Nat)}
    (hx : faultRun (hint == 3) (fun i => indexElems s.me.vec.width i [d, b]) (scatterElem s a hint (lostOf s a b k hint))
      (s.actives k s.es) { s with fresh := s.fresh + 1 } = (.ok x, u)) :
    scatter s d a b k hint s = endScatter x u := by
  unfold scatter
  rw [M.bind_require, ha]
  exact (M.bind_of_ok (srcAll_of_unbound h b _)).trans (M.bind_of_ok hx)

/-! ### Its elements -/

theorem scatterOf_va (h8 : 8 ≤ s.me.vec.width) (a b : BitVec 5) (k : BitVec 3) (hint i : Nat) :
    (scatterOf s a b k hint i).va = indexVa s a b i := indexAccess_va (by omega) .scatter a b hint i

theorem spared_scatter (h8 : 8 ≤ s.me.vec.width) (hint i : Nat) : s.spared (s.actives k s.es) (scatterOf s a b k hint) i ↔
    i ∈ s.actives k s.es ∧ denial s .scatter (indexVa s a b i) = none := by
  unfold State.spared
  rw [scatterOf_va h8]
  rfl

/-- What a scatter asks of the module: its elements that are not denied are reached, and share no bit (R101, R108). -/
structure State.scatters (s : State) (a b : BitVec 5) (k : BitVec 3) (ps : Nat → Phys) : Prop where
  runs : s.vectorRuns
  noPfx : s.me.hart.pv = false
  calm : s.interruptAhead = none
  wide : 8 ≤ s.me.vec.width
  aligned : (s.rX a).toNat % (s.me.vec.width / 8) = 0
  reached : ∀ i, i ∈ s.actives k s.es ∧ denial s .scatter (indexVa s a b i) = none → s.reaches .scatter (indexVa s a b i) (ps i)
  apart : bitsApart s.me.vec.width (fun i => i ∈ s.actives k s.es ∧ denial s .scatter (indexVa s a b i) = none) (fun n => (ps n).pa)
    fun _ => 0

theorem State.scatters.canStore (h : s.scatters a b k ps) (hint : Nat) :
    s.canStore (s.actives k s.es) (scatterOf s a b k hint) (fun _ => 0) ps := by
  have wide := h.wide
  refine ⟨h.runs, h.calm, fun _ => rfl, fun _ => (elemBytes_of_le wide).symm, fun _ => if_neg (by omega), fun i hi => ?_, fun i hi => ?_, ?_⟩
  · rw [scatterOf_va wide]
    exact h.reached i ((spared_scatter wide hint i).mp hi)
  · refine decide_eq_false ?_
    unfold lostOf scatterLost
    split
    · simp
    · have nodup : (s.actives k s.es).Nodup := (actives_pairwise s k s.es).imp fun h => Nat.ne_of_lt h
      have addr : ∀ n ∈ s.actives k s.es, (indexAccess s .scatter a hint n (((scatterIndex (s.actives k s.es)
          ((s.actives k s.es).map fun i => .ok (s.elem b i, 0))).lookup n).getD 0)).va = indexVa s a b n := fun n hn => by
        rw [lookup_scatterIndex s b hn]
        exact indexAccess_va (by omega) ..
      refine not_mem_lostElems nodup (kind := .scatter) (good := fun i => i ∈ s.actives k s.es ∧ denial s .scatter (indexVa s a b i) = none)
        (fun n => and_congr_right fun hn => by rw [addr n hn]) (fun n hn => ?_) (by omega) (fun _ => rfl) h.apart s.fresh
        ((spared_scatter wide hint i).mp hi)
      rw [addr n hn.1]
      exact h.reached n hn
  · rw [show s.spared (s.actives k s.es) (scatterOf s a b k hint) = _ from funext fun i => propext (spared_scatter wide hint i)]
    exact h.apart

/-- The sources of an element in a state that stores have left, where none is bound (R116). -/
theorem State.storing.sources (hu : s.storing u) (h : s.vectorRuns) (hcalm : s.interruptAhead = none) (i : Nat) (ns : List (BitVec 5)) :
    (do trapPoint i; indexElems s.me.vec.width i ns : M (List Nat)) u = (.ok (ns.map fun n => s.elem n i), u) := by
  have same : (ns.map fun n => getElem u.me.vec.grant s.me.vec.width u.me.vec.v[n.toNat] i) = ns.map fun n => s.elem n i := by
    rw [hu.frame]
    rfl
  rw [M.bind_of_ok (trapPoint_of_calm (hu.interruptAhead.trans hcalm) i),
    indexElems_of_unbound (hu.streams.trans h.streams) (hu.overrides.trans h.overrides), same]

/-- What has been stored as a scatter goes on. -/
def State.scattered (s : State) (d a b : BitVec 5) (k : BitVec 3) (hint : Nat) (ps : Nat → Phys) (done : List Nat) (u : State) : Prop :=
  (∀ n ∈ done, s.spared (s.actives k s.es) (scatterOf s a b k hint) n) ∧ s.wrote u (· ∈ done) ps (fun _ => 0) (s.elem d)

/-- What an element of a scatter answers. -/
def scatterResult (s : State) (a b : BitVec 5) (i : Nat) : Nat × X × Phys :=
  (0, indexVa s a b i, { pa := 0, managed := false, plane := false, cached := false })

theorem scatterElem_of_reaches (h : s.scatters a b k ps) {hint : Nat} {done : List Nat} (hu : s.scattered d a b k hint ps done u) {i : Nat}
    (hi : i ∈ s.actives k s.es) (hn : denial s .scatter (indexVa s a b i) = none) :
    ∃ t, scatterElem s a hint (lostOf s a b k hint) i [s.elem d i, s.elem b i] u = (.ok (scatterResult s a b i), t) ∧
      s.scattered d a b k hint ps (done ++ [i]) t := by
  obtain ⟨hdone, wrote⟩ := hu
  have spared := (spared_scatter h.wide hint i).mpr ⟨hi, hn⟩
  obtain ⟨t, ht, stored, -⟩ := wrote.element (h.canStore hint) hdone spared
  obtain ⟨v, hv, ticketed⟩ := drawTicket_wrote hint stored
  refine ⟨v, ?_, fun n hn => ?_, ticketed.congr fun n => by simp⟩
  · have va := scatterOf_va h.wide a b k hint i
    unfold scatterElem scatterResult
    rw [← va]
    exact (M.bind_of_ok ht).trans ((M.bind_of_ok hv).trans rfl)
  · rcases List.mem_append.mp hn with hn | hn
    · exact hdone n hn
    · exact List.mem_singleton.mp hn ▸ spared

theorem scatterElem_of_denial (h8 : 8 ≤ s.me.vec.width) {hint : Nat} (hu : s.storing u) {i : Nat} {c : Nat × Nat}
    (hd : denial s .scatter (indexVa s a b i) = some c) :
    scatterElem s a hint (lostOf s a b k hint) i [s.elem d i, s.elem b i] u =
      (.error (.trap (denialTrap .scatter (indexVa s a b i) c 0 1 1)), u) := by
  have va := scatterOf_va h8 a b k hint i
  have denied := storeElem_of_denial (a := scatterOf s a b k hint i) ((hu.servesAs.denial ..).trans (va ▸ hd)) (s.elem d i)
  rw [va] at denied
  unfold scatterElem
  exact M.bind_of_error denied

/-! ### Its run -/

/-- A scatter of which no element is denied (R108). -/
theorem scatter_gives (h : s.scatters a b k ps) (d : BitVec 5) (hint : Nat)
    (hn : ∀ i ∈ s.actives k s.es, denial s .scatter (indexVa s a b i) = none) :
    (scatter s d a b k hint).gives s fun _ t => s.wrote t (· ∈ s.actives k s.es) ps (fun _ => 0) (s.elem d) := by
  have start : s.scattered d a b k hint ps [] { s with fresh := s.fresh + 1 } :=
    ⟨by simp, ((State.wrote.refl s).counters (s.fresh + 1) s.tickets).congr fun n => by simp⟩
  obtain ⟨u, hu, -, wrote⟩ := faultRun_completes (P := s.scattered d a b k hint ps) (els := s.actives k s.es)
    (x := fun i => [s.elem d i, s.elem b i]) (r := scatterResult s a b) (hint == 3)
    (pre := fun i => indexElems s.me.vec.width i [d, b]) (one := scatterElem s a hint (lostOf s a b k hint))
    (fun _ u hu i _ => hu.2.storing.sources h.runs h.calm i [d, b])
    (fun _ u hu i hi => scatterElem_of_reaches h hu hi (hn i hi)) start
  exact ⟨(), _, (scatter_eq h.runs h.aligned d b k hint hu).trans rfl, wrote.of_hart rfl⟩

/-- A scatter of which some elements are denied, e the lowest (R103, R108). -/
theorem scatter_stops (h : s.scatters a b k ps) (d : BitVec 5) (hint : Nat) {e : Nat} {c : Nat × Nat}
    (he : e ∈ (deniedElems s k .scatter (indexVa s a b)).head?) (hd : denial s .scatter (indexVa s a b e) = some c) :
    let bad := deniedElems s k .scatter (indexVa s a b)
    let rest := fun n => n ∈ s.actives k s.es ∧ (if hint == 3 then e ≤ n else n ∈ bad)
    let pages := ((if hint == 3 then [e] else bad).map fun n => (indexVa s a b n).toNat / 2 ^ 19).dedup.length
    ∃ did left : List Nat, (∀ n, n ∈ left ↔ rest n) ∧ left.Nodup ∧ (∀ n, n ∈ did ↔ n ∈ s.actives k s.es ∧ ¬rest n) ∧
      (scatter s d a b k hint).stops s (.trap (denialTrap .scatter (indexVa s a b e) c 0 left.length pages)) fun t =>
        ∃ v, s.wrote v (· ∈ did) ps (fun _ => 0) (s.elem d) ∧ t = v.setFaultMask left := by
  intro bad rest pages
  obtain ⟨cause, hcause⟩ : ∃ f : Nat → Nat × Nat, f = fun i => s.causeOf (scatterOf s a b k hint i) := ⟨_, rfl⟩
  have causes : ∀ i, (denial s .scatter (indexVa s a b i)).isNone = false → denial s .scatter (indexVa s a b i) = some (cause i) :=
    fun i hi => by
      have := State.denial_causeOf (s := s) (a := scatterOf s a b k hint i) (by rw [scatterOf_va h.wide]; exact hi)
      rw [scatterOf_va h.wide] at this
      rw [hcause]
      exact this
  have hce : cause e = c := Option.some_injective _ ((causes e (by simp [hd])).symm.trans hd)
  have start : s.scattered d a b k hint ps [] { s with fresh := s.fresh + 1 } :=
    ⟨by simp, ((State.wrote.refl s).counters (s.fresh + 1) s.tickets).congr fun n => by simp⟩
  obtain ⟨did, left, fs, end_, u, hleft, nodup, hdid, hu, ⟨-, wrote⟩, -, hend⟩ := faultRun_faults (P := s.scattered d a b k hint ps)
    (els := s.actives k s.es) (x := fun i => [s.elem d i, s.elem b i]) (good := fun i => (denial s .scatter (indexVa s a b i)).isNone)
    (r := scatterResult s a b) (hint == 3) (kind := .scatter) (va := indexVa s a b) (c := cause)
    (pre := fun i => indexElems s.me.vec.width i [d, b]) (one := scatterElem s a hint (lostOf s a b k hint))
    (fun _ u hu i _ => hu.2.storing.sources h.runs h.calm i [d, b])
    (fun _ u hu i hi hg => scatterElem_of_reaches h hu hi (Option.isNone_iff_eq_none.mp hg))
    (fun _ u hu i _ hg => scatterElem_of_denial h.wide hu.2.storing (causes i hg))
    (fun i _ hg => denial_class (causes i hg)) (actives_pairwise s k s.es) (deniedElems_eq h.noPfx k .scatter (indexVa s a b)) he start
  refine ⟨did, left, hleft, nodup, hdid, ?_⟩
  rw [← hce]
  obtain ⟨v, hv⟩ : ∃ v, v = u.modHart (Hart.count 6 (did.map fun i => (i, scatterResult s a b i)).length) := ⟨_, rfl⟩
  refine ⟨v.setFaultMask left, (scatter_eq h.runs h.aligned d b k hint hu).trans ?_, v, hv ▸ wrote.of_hart rfl, rfl⟩
  rw [hv]
  exact hend _

end

end Sys2Proof.Machine

namespace Sys2Proof.Proofs
open Sys2Proof.Machine Sys2Proof.Cert

section
variable {s : State} {a b : BitVec 5} {k : BitVec 3} {ps : Nat → Phys}

/-- vstx of which no element is denied, before its completion (R108). -/
theorem vstx_gives (h : s.scatters a b k ps) (st : BitVec 3) (d : BitVec 5) (hint : BitVec 2)
    (hn : ∀ i ∈ s.actives k s.es, denial s .scatter (indexVa s a b i) = none) :
    ∃ t, exec (.vstx st d a b k hint) s = .next (t.clearKf.complete st 0 (s.pc + 4)) ∧
      s.wrote t (· ∈ s.actives k s.es) ps (fun _ => 0) (s.elem d) := by
  show ∃ t, execVstx st d a b k hint s = _ ∧ _
  rw [execVstx_eq]
  refine runVector_gives h.runs _ _ (pairs_of_noPfx h.noPfx _) (nullified_of_noPfx h.noPfx) (decide_eq_true h.wide) rfl (fun _ => ?_)
    (fun hb => ?_) (fun t ht => ht.storing.streams.trans h.runs.streams)
  · exact M.gives_bind ⟨s, s, rfl, scatter_gives h d hint.toNat hn⟩
  · rw [actives_nil k hb]
    exact (State.wrote.refl s).congr fun n => by simp

/-- vstx of which the run stops at denied elements (R108). -/
theorem vstx_stops (h : s.scatters a b k ps) (st : BitVec 3) {d : BitVec 5} {hint : BitVec 2} (hb : s.es < s.me.vec.vl.toNat) {tr : Trap}
    {Q : State → Prop} (hs : (scatter s d a b k hint.toNat).stops s (.trap tr) Q) :
    ∃ t, exec (.vstx st d a b k hint) s = .next (t.enterTrap false t.pc tr) ∧ Q t := by
  show ∃ t, execVstx st d a b k hint s = _ ∧ _
  rw [execVstx_eq]
  exact runVector_stops h.runs _ _ (pairs_of_noPfx h.noPfx _) (nullified_of_noPfx h.noPfx) (decide_eq_true h.wide) hb
    (M.stops_bind ⟨s, s, rfl, hs⟩)

end

end Sys2Proof.Proofs
end

section
/-! The forms of unit-stride, strided and lane-local stores, scatters under a fault mask, and the vector stores as a whole (R19, R101, R104, R105,
R107, R108, R247). -/

namespace Sys2Proof.Machine
open Sys2Proof.Cert

section
variable {s : State} {f : VForm} {va : Nat → X} {sh : Nat → Nat} {ps : Nat → Phys}

/-- A store without a register of strides has no elements that share a location (R104). -/
theorem VForm.lost_of_unit (h : ElemWidth s.me.vec.width) (hf : f.stride = none) : f.lost s = [] := by
  have small := h.bytes_le
  have pos := elemBytes_pos s.me.vec.width
  have stride : (f.strideOf s).toNat = elemBytes s.me.vec.width := by
    unfold VForm.strideOf
    rw [hf]
    exact Nat.mod_eq_of_lt (by omega)
  unfold VForm.lost
  rw [stride, if_pos (.inr (by omega))]

theorem spared_store (h : s.vectorReady) (hva : ∀ n, (f.access s .vstore n).va = va n) (n : Nat) :
    s.spared (s.actives f.k s.es) (f.storeAccess s) n ↔ s.active f.k n ∧ denial s .vstore (va n) = none := by
  obtain ⟨hpv, hfm, -, -⟩ := h.plain
  unfold State.spared
  rw [mem_actives_iff_active hfm hpv, ← hva]
  rfl

/-- A form of store whose elements that are not denied are reached and share no bit (R101). -/
theorem VForm.canStore (h : s.vectorReady) (hva : ∀ n, (f.access s .vstore n).va = va n)
    (hsh : ∀ n, (if s.me.vec.width < 8 then (f.access s .vstore n).idx * s.me.vec.width % 8 else 0) = sh n)
    (hz : f.stride ≠ none → ∀ n, sh n = 0)
    (hr : ∀ n, s.active f.k n ∧ denial s .vstore (va n) = none → s.reaches .vstore (va n) (ps n))
    (hd : bitsApart s.me.vec.width (fun n => s.active f.k n ∧ denial s .vstore (va n) = none) (fun n => (ps n).pa) sh) :
    s.canStore (s.actives f.k s.es) (f.storeAccess s) sh ps := by
  obtain ⟨hpv, hfm, -, hcalm⟩ := h.plain
  have width := h.runs.width
  refine ⟨h.runs, hcalm, fun _ => rfl, fun _ => rfl, hsh, fun n hn => ?_, fun n hn => decide_eq_false ?_, ?_⟩
  · exact hva n ▸ hr n ((spared_store h hva n).mp hn)
  · by_cases hf : f.stride = none
    · simp [VForm.lost_of_unit width hf]
    unfold VForm.lost
    split
    · simp
    have nodup : (s.actives f.k s.es).Nodup := (actives_pairwise s f.k s.es).imp fun h => Nat.ne_of_lt h
    refine not_mem_lostElems nodup (kind := .vstore) (fun m => ?_) (fun m hm => hva m ▸ hr m hm) width.pos (hz hf) hd s.fresh
      ((spared_store h hva n).mp hn)
    rw [mem_actives_iff_active hfm hpv, hva]
  · rw [show s.spared (s.actives f.k s.es) (f.storeAccess s) = _ from funext fun n => propext (spared_store h hva n)]
    exact hd

end

/-- What a vector store leaves of the hart. -/
theorem State.storing.kept {s t : State} (h : s.storing t) : t.me.hart.status = s.me.hart.status ∧ t.pc = s.pc ∧
    t.me.hart.x = s.me.hart.x ∧ t.me.vec.k = s.me.vec.k ∧ t.me.vec.kf = s.me.vec.kf ∧ t.me.vec.v = s.me.vec.v := by
  rw [h.frame]
  exact ⟨rfl, rfl, rfl, rfl, rfl, rfl⟩

/-- Some of the values that share no bit share none. -/
theorem bitsApart_of_imp {w : Nat} {p q : Nat → Prop} {pa sh : Nat → Nat} (h : bitsApart w p pa sh) (hq : ∀ n, q n → p n) :
    bitsApart w q pa sh := fun m n hm hn => h m n (hq m hm) (hq n hn)

end Sys2Proof.Machine

namespace Sys2Proof.Proofs
open Sys2Proof.Machine Sys2Proof.Cert

section
variable {s : State} {f : VForm} {va : Nat → X} {sh : Nat → Nat}

/-- A form of store gives what the statements say of its addresses (R101, R104, R107). -/
theorem storesElems_of_form (h : s.vectorReady) (f : VForm) {i : Instr} (hi : exec i s = vstoreOp f s) (hw : f.widthOk s = true)
    (ha : (s.rX f.a).toNat % elemBytes s.me.vec.width = 0) (hs : (f.strideOf s).toNat % elemBytes s.me.vec.width = 0)
    {ok : (Nat → Phys) → Prop} (hva : ∀ n, (f.access s .vstore n).va = va n)
    (hsh : ∀ n, (if s.me.vec.width < 8 then (f.access s .vstore n).idx * s.me.vec.width % 8 else 0) = sh n)
    (hz : f.stride ≠ none → ∀ n, sh n = 0) (hok : ∀ ps, ok ps → f.lane = true → inColumns s (s.active f.k) ps) :
    storesElems s i f.st s.me.vec.width (s.active f.k) .vstore va sh (s.elem f.d) ok := by
  intro ps hr hd hps
  obtain ⟨hpv, hfm, -, -⟩ := h.plain
  have act : ∀ {n}, n ∈ s.actives f.k s.es ↔ s.active f.k n := mem_actives_iff_active hfm hpv
  have able := VForm.canStore h hva hsh hz (fun n hn => hr n hn.1) (bitsApart_of_imp hd fun n hn => hn.1)
  have columns : f.lane = true →
      columnCheck .vstore (fun i => (f.access s .vstore i).va) s.me.vec.groups (s.actives f.k s.es) s = (.ok (), s) := fun hl =>
    columnCheck_of_reaches (fun n hn => hva n ▸ hr n (act.mp hn)) fun n hn => hok ps hps hl n (act.mp hn)
  obtain ⟨t, ht, wrote⟩ := vstoreOp_gives able hpv hw ha hs columns fun n hn => hva n ▸ denial_of_reaches (hr n (act.mp hn))
  obtain ⟨frame, hx, hxtag, bits⟩ := wrote.completes h.runs.noStep hfm f.st
  exact ⟨_, hi.trans ht, frame, hx, hxtag, bits.congr fun _ => act⟩

/-- What the statement on stores of which an element faults says of one form (R105, R247). -/
theorem storeFaults_of_form (h : s.vectorReady) (f : VForm) {j : Instr} (hj : exec j s = vstoreOp f s) (hlane : f.lane = false)
    (hw : f.widthOk s = true) (ha : (s.rX f.a).toNat % elemBytes s.me.vec.width = 0)
    (hs : (f.strideOf s).toNat % elemBytes s.me.vec.width = 0) (hva : ∀ n, (f.access s .vstore n).va = va n)
    (hsh : ∀ n, (if s.me.vec.width < 8 then (f.access s .vstore n).idx * s.me.vec.width % 8 else 0) = sh n)
    (hz : f.stride ≠ none → ∀ n, sh n = 0) {ps : Nat → Phys} {i : Nat} {c : Nat × Nat} (hi : s.active f.k i)
    (hc : denial s .vstore (va i) = some c) :
    let fine := fun n => s.active f.k n ∧ denial s .vstore (va n) = none
    (∀ n < i, s.active f.k n → fine n) → (∀ n, fine n → s.reaches .vstore (va n) (ps n)) →
    bitsApart s.me.vec.width fine (fun n => (ps n).pa) sh →
    ∃ t, ∃ q : Nat → Prop, (∀ n, q n → i < n ∧ fine n) ∧ (f.hint = 3 → ∀ n, ¬q n) ∧
      exec j s = .next (t.enterTrap false s.pc (denialTrap .vstore (va i) c (f.strideOf s) (s.me.vec.vl.toNat - i) 1)) ∧ t.es = i ∧
      t.me.hart.x = s.me.hart.x ∧ s.keepsV t [] ∧
      s.bitsStored t s.me.vec.width (fun n => (fine n ∧ n < i) ∨ q n) (fun n => (ps n).pa) sh (s.elem f.d) := by
  intro fine hlow hr hd
  obtain ⟨hpv, hfm, -, -⟩ := h.plain
  have act : ∀ {n}, n ∈ s.actives f.k s.es ↔ s.active f.k n := mem_actives_iff_active hfm hpv
  obtain ⟨t, ht, q, hq, hq3, wrote, es⟩ := vstoreOp_stops (VForm.canStore h hva hsh hz hr hd) hpv hw ha hs hlane (act.mpr hi) (hva i ▸ hc)
    fun n hn hlt => hva n ▸ (hlow n hlt (act.mp hn)).2
  have pc : t.pc = s.pc := by
    rw [wrote.storing.frame]
    rfl
  rw [pc, hva] at ht
  refine ⟨t, q, fun n hn => ⟨(hq n hn).1, (spared_store h hva n).mp (hq n hn).2⟩, hq3, hj.trans ht, es, ?_, fun n _ => ?_,
    wrote.bits.congr fun n => or_congr_left (and_congr_left fun hlt => act.trans ⟨hlow n hlt, And.left⟩)⟩
  all_goals rw [wrote.storing.frame]

end

/-- The scatter of a state whose elements that are not denied are reached and share no bit (R108). -/
theorem scatters_of_chosen {s : State} (h : (unmasked s).vectorReady) {a b : BitVec 5} {k : BitVec 3} {ps : Nat → Phys}
    (h8 : 8 ≤ s.me.vec.width) (ha : (s.rX a).toNat % (s.me.vec.width / 8) = 0) {fine : Nat → Prop}
    (hf : ∀ n, chosenElem s k n ∧ denial s .scatter (indexVa s a b n) = none → fine n)
    (hr : ∀ n, fine n → s.reaches .scatter (indexVa s a b n) (ps n))
    (hd : bitsApart s.me.vec.width fine (fun n => (ps n).pa) fun _ => 0) : s.scatters a b k ps := by
  obtain ⟨runs, -, hpv, hcalm⟩ := State.vectorRuns_of_unmasked h
  have able : ∀ n, n ∈ s.actives k s.es ∧ denial s .scatter (indexVa s a b n) = none → fine n := fun n hn =>
    hf n ⟨(mem_actives_iff_chosen hpv).mp hn.1, hn.2⟩
  exact ⟨runs, hpv, hcalm, h8, ha, fun n hn => hr n (able n hn), bitsApart_of_imp hd able⟩

theorem scatterFaults : Cert.scatterFaults := by
  intro s st d a b k h ps hv w va fine h8 ha hr hd
  have scatters := scatters_of_chosen hv h8 ha (fun n hn => hn) hr hd
  have runs := scatters.runs
  have chosen : ∀ {i}, i ∈ s.actives k s.es ↔ chosenElem s k i := mem_actives_iff_chosen scatters.noPfx
  refine ⟨fun hbad => ?_, fun e he c hc => ?_⟩
  · have none_ : ∀ i ∈ s.actives k s.es, denial s .scatter (indexVa s a b i) = none := fun i hi => by
      rw [deniedElems_eq scatters.noPfx, List.filter_eq_nil_iff] at hbad
      simpa using hbad i hi
    obtain ⟨t, ht, wrote⟩ := vstx_gives scatters st d h none_
    obtain ⟨kstatus, -, kx, kk, kkf, kv⟩ := wrote.storing.kept
    obtain ⟨hpc, hes, hx, hk, hfm, hkf, hvec, hmem, htags⟩ := complete_clearKf_spec (t := t)
      (by unfold Hart.ss Hart.prv; rw [kstatus]; exact runs.noStep) st (s.pc + 4)
    have mask : t.me.hart.fm = s.me.hart.fm := by
      unfold Hart.fm
      rw [kstatus]
    rw [mask, kkf] at hkf
    exact ⟨_, ht, hpc, hes, hx.trans kx, hk.trans kk, hfm, hkf, (wrote.bits.congr fun _ => chosen).of_eq hmem htags,
      fun n _ => by rw [hvec, kv]⟩
  · obtain ⟨did, left, hleft, nodup, hdid, stops⟩ := scatter_stops scatters d h.toNat he hc
    rw [hint_eq_three] at hleft hdid stops
    simp only [decide_eq_true_eq, chosen] at hleft hdid stops
    intro rest pages
    have busy : s.es < s.me.vec.vl.toNat := by
      have mem : e ∈ s.actives k s.es := by
        rw [deniedElems_eq scatters.noPfx] at he
        exact (List.mem_filter.mp (List.mem_of_mem_head? he)).1
      exact lt_of_le_of_lt (chosen.mp mem).1.1 (chosen.mp mem).1.2.1
    obtain ⟨t, ht, v, wrote, rfl⟩ := vstx_stops scatters st busy stops
    obtain ⟨hfm, hes, hkf, hx, hkr, hvec, hmem, htags, hpc⟩ := State.setFaultMask_spec left v
    obtain ⟨-, kpc, kx, kk, -, kv⟩ := wrote.storing.kept
    rw [hpc, kpc] at ht
    exact ⟨_, left, hleft, nodup, ht, hfm, hes, hkf, hx.trans kx, hkr.trans kk, (wrote.bits.congr hdid).of_eq hmem htags,
      fun n _ => by rw [hvec, kv]⟩

theorem vectorStores_scatter {s : State} (hv : s.vectorReady) (st : BitVec 3) (d a b : BitVec 5) (k : BitVec 3) (h : BitVec 2)
    (ha : (s.rX a).toNat % elemBytes s.me.vec.width = 0) (h8 : 8 ≤ s.me.vec.width) :
    storesElems s (.vstx st d a b k h) st s.me.vec.width (s.active k) .scatter (indexVa s a b) (fun _ => 0) (s.elem d) fun _ => True := by
  intro ps hr hd _
  obtain ⟨hpv, hfm, -, hcalm⟩ := hv.plain
  have act : ∀ {n}, n ∈ s.actives k s.es ↔ s.active k n := mem_actives_iff_active hfm hpv
  have able : ∀ n, n ∈ s.actives k s.es ∧ denial s .scatter (indexVa s a b n) = none → s.active k n := fun n hn => act.mp hn.1
  obtain ⟨t, ht, wrote⟩ := vstx_gives ⟨hv.runs, hpv, hcalm, h8, elemBytes_of_le h8 ▸ ha, fun n hn => hr n (able n hn),
    bitsApart_of_imp hd able⟩ st d h fun n hn => denial_of_reaches (hr n (act.mp hn))
  obtain ⟨frame, hx, hxtag, bits⟩ := wrote.completes hv.runs.noStep hfm st
  exact ⟨_, ht, frame, hx, hxtag, bits.congr fun _ => act⟩

theorem vectorStores_of_reaches : Cert.vectorStores := by
  intro s st d a b k h hv w g base none_
  have width := hv.runs.width
  refine ⟨fun hb => ?_, fun hb h8 hs => ?_, fun hb => ?_, fun hb h8 => vectorStores_scatter hv st d a b k h hb h8⟩
  · exact storesElems_of_form hv { op := 0x2200, st := st, d := d, a := a, k := k, hint := h.toNat, stride := none, lane := false } rfl rfl
      hb (unitStride_aligned width) (stridedAddr_unit width _) (fun _ => rfl) (fun hf => absurd rfl hf) (fun _ _ hl => by cases hl)
  · exact storesElems_of_form hv { op := 0x2201, st := st, d := d, a := a, k := k, hint := h.toNat, stride := some b, lane := false } rfl
      (by simpa [VForm.widthOk] using h8) hb (elemBytes_of_le h8 ▸ hs) (fun n => if_neg (by omega)) (fun _ => if_neg (by omega))
      (fun _ _ => rfl) (fun _ _ hl => by cases hl)
  · exact storesElems_of_form hv { op := 0x2202, st := st, d := d, a := a, k := k, hint := h.toNat, stride := none, lane := true } rfl rfl
      hb (unitStride_aligned width) (fun _ => rfl) (fun _ => rfl) (fun hf => absurd rfl hf) (fun _ hok _ => hok)

theorem storeFaults : Cert.storeFaults := by
  intro s st d a b k h ps i c hv w stops hb
  have width := hv.runs.width
  have hint : h = 3 → h.toNat = 3 := by
    rintro rfl
    rfl
  refine ⟨fun hi hc hlow hr hd => ?_, fun h8 hs hi hc hlow hr hd => ?_⟩
  · obtain ⟨t, q, hq, hq3, rest⟩ := storeFaults_of_form hv
      { op := 0x2200, st := st, d := d, a := a, k := k, hint := h.toNat, stride := none, lane := false } (j := .vst st d a k h) rfl rfl rfl hb
      (unitStride_aligned width) (stridedAddr_unit width _) (fun _ => rfl) (fun hf => absurd rfl hf) hi hc hlow hr hd
    exact ⟨t, q, hq, fun h3 => hq3 (hint h3), rest⟩
  · obtain ⟨t, q, hq, hq3, rest⟩ := storeFaults_of_form hv
      { op := 0x2201, st := st, d := d, a := a, k := k, hint := h.toNat, stride := some b, lane := false } (j := .vsts st d a b k h) rfl rfl
      (by simpa [VForm.widthOk] using h8) hb (elemBytes_of_le h8 ▸ hs) (va := fun n => s.rX a + BitVec.ofNat 64 n * s.rX b)
      (fun n => if_neg (by omega)) (sh := fun _ => 0) (fun _ => if_neg (by omega)) (fun _ _ => rfl) hi hc hlow hr hd
    exact ⟨t, q, hq, fun h3 => hq3 (hint h3), rest⟩

/-- Settles O47: each form over its elements that are not denied, up to the first that is and with some above it; scatters under their fault
mask. -/
theorem vectorStores : Obligations.VectorStores := ⟨vectorStores_of_reaches, scatterFaults, storeFaults⟩

end Sys2Proof.Proofs
end

section
/-! Scalar floating-point instructions of a settled hart (R38, R79, R80). -/

namespace Sys2Proof.Machine

/-! ### The raising of flags -/

theorem flags_zero_or (fl : Flags) : 0 ||| fl = fl := BitVec.zero_or

theorem Hart.raise_fen (fl : Flags) (h : Hart) : (h.raise fl).fen = h.fen := by
  apply BitVec.eq_of_getLsbD_eq
  intro i hi
  unfold Hart.fen
  rw [BitVec.getLsbD_extractLsb', BitVec.getLsbD_extractLsb', Hart.raise_status, getLsbD_setField, if_neg (by omega)]

/-- The status bits outside ff stay where flags are raised (R13). -/
theorem Hart.raise_getLsbD_status (fl : Flags) (h : Hart) {i : Nat} (hi : i < 5 ∨ 10 ≤ i) :
    (h.raise fl).status.getLsbD i = h.status.getLsbD i := by
  rw [Hart.raise_status, getLsbD_setField, if_neg (by omega)]

/-- Flags raised by a scalar or whole-destination operation: they are kept, and an enabled one traps (R38). -/
theorem raiseFlags_eq (fl : Flags) (v : X) (s : State) :
    raiseFlags fl v s = if fl &&& s.me.hart.fen = 0 then (.ok (), s.modHart (Hart.raise fl))
      else (.error (.trap { code := flagCause (fl &&& s.me.hart.fen), tval := v }), s.modHart (Hart.raise fl)) := by
  have fen : (s.modHart (Hart.raise fl)).me.hart.fen = s.me.hart.fen := Hart.raise_fen fl s.me.hart
  unfold raiseFlags
  rw [M.bind_modify, M.bind_get, M.run_require, fen]
  simp only [beq_iff_eq]

/-! ### The frame -/

/-- A scalar floating-point instruction, whose latency may depend on its result, gives its function of the state and the rounding mode. -/
theorem fpGives_of_runScalar {s : State} (h : s.settled) {i : Instr} {st : BitVec 3} {d : BitVec 5} {srcs : List Reg} (o : BitVec 1)
    (m : BitVec 3) (lat : X → Nat) (fixed : Bool) (f : State → Nat → Nat × Flags)
    (hx : exec i s = runScalar { st := st, srcs := srcs, dst := .x d } (do
      let t ← get
      let (r, fl) := f t (t.mode o m)
      raiseFlags fl 0
      putX d (xOf r) false (lat (xOf r)) fixed
      pure (t.pc + 4)) s) : Cert.fpGives s i st d (f s (s.mode o m)) := by
  obtain ⟨hl, hp, -, hv, hs⟩ := h
  rcases hr : f s (s.mode o m) with ⟨r, fl⟩
  obtain ⟨t, ht⟩ : ∃ t, t = s.modHart (Hart.raise fl) := ⟨_, rfl⟩
  have pv : t.me.hart.pv = false := ht ▸ hv
  have pend : t.me.hart.pend = [] := ht ▸ hp
  have step : (t.me.hart.ss && !t.me.hart.prv) = false := by
    rw [← hs, ht]
    exact congrArg₂ (fun x y => x && !y) (Hart.raise_getLsbD_status _ _ (by omega)) (Hart.raise_getLsbD_status _ _ (by omega))
  have run := hx.trans (runScalar_plain _ _ s hl hp hv (by simp) (by simp) rfl)
  simp only [M.bind_get, hr] at run
  rw [M.run_bind, raiseFlags_eq] at run
  refine ⟨fun hfl => ⟨lat (xOf r), fixed, ?_⟩, fun hfl => ?_⟩
  · rw [if_pos hfl, ← ht] at run
    dsimp only at run
    rw [M.bind_of_ok (putX_plain _ _ _ _ _ t pv)] at run
    have completed := complete_wXat d (xOf r) false (lat (xOf r)) fixed st 0 (t.pc + 4) t pend step
    rw [ht] at run completed
    exact run.trans (congrArg (fun u => (.next u : Res)) completed)
  · rw [if_neg hfl] at run
    exact run

end Sys2Proof.Machine

namespace Sys2Proof.Proofs
open Sys2Proof.Machine Sys2Proof.Cert

/-- Settles O10: each instruction is the same run with its own function, latency and sources. -/
theorem scalarFloatResults : Obligations.ScalarFloatResults := by
  intro s st d a b c o m h md x y z
  refine ⟨?_, ?_, ?_, ?_, ?_, ?_, ?_, ?_, ?_, ?_, ?_, ?_, ?_, ?_⟩
  · exact fpGives_of_runScalar h o m (fun _ => 4) true (fun t r => Fmt.f64.add r (t.fX a) (t.fX b)) rfl
  · exact fpGives_of_runScalar h o m (fun _ => 4) true (fun t r => Fmt.f64.add r (t.fX a) (t.fX b).negate) rfl
  · exact fpGives_of_runScalar h o m (fun _ => 4) true (fun t r => Fmt.f64.mulTo r (t.fX a) (t.fX b)) rfl
  · exact fpGives_of_runScalar h o m fdivLatency false (fun t r => Fmt.f64.div r (t.fX a) (t.fX b)) rfl
  · exact fpGives_of_runScalar h o m fdivLatency false (fun t r => Fmt.f64.sqrt r (t.fX a)) rfl
  · exact fpGives_of_runScalar h o m (fun _ => 4) true (fun t r => Fmt.f64.fma r (t.fX a) (t.fX b) (t.fX d)) rfl
  · exact fpGives_of_runScalar h o m (fun _ => 4) true (fun t _ => Fmt.f64.minMax false (t.rX a).toNat (t.rX b).toNat) rfl
  · exact fpGives_of_runScalar h o m (fun _ => 4) true (fun t _ => Fmt.f64.minMax true (t.rX a).toNat (t.rX b).toNat) rfl
  · exact fpGives_of_runScalar h o m (fun _ => 4) true
      (fun t _ => (b2n ((t.fX a).compare 0 (t.fX b)).1, ((t.fX a).compare 0 (t.fX b)).2)) rfl
  · exact fpGives_of_runScalar h o m (fun _ => 4) true
      (fun t _ => (b2n ((t.fX a).compare 1 (t.fX b)).1, ((t.fX a).compare 1 (t.fX b)).2)) rfl
  · exact fpGives_of_runScalar h o m (fun _ => 4) true
      (fun t _ => (b2n ((t.fX a).compare 2 (t.fX b)).1, ((t.fX a).compare 2 (t.fX b)).2)) rfl
  · exact fpGives_of_runScalar h o m (fun _ => 4) true (fun t _ => (Fmt.f64.kind (t.rX a).toNat, 0)) rfl
  · exact fpGives_of_runScalar h o m (fun _ => 4) true (fun t r => fcvtTo c.toNat r (t.rX a)) rfl
  · exact fpGives_of_runScalar h o m (fun _ => 4) true (fun t r => fcvtFrom c.toNat r (t.rX a)) rfl

end Sys2Proof.Proofs
end

section
/-! The finite numbers of a format as encodings (R28): their magnitudes grow with the encoding, by one unit in the last place at a time. -/

namespace Sys2Proof.Machine

/-- The magnitude that encoding b stands for, in units of 2^qmin; beyond the encodings of the format, what an unbounded exponent would give. -/
def Fmt.units (f : Fmt) (b : Nat) : Nat := if b < 2 ^ f.fbits then b else (2 ^ f.fbits + b % 2 ^ f.fbits) * 2 ^ (b / 2 ^ f.fbits - 1)

/-- The magnitude that encoding b stands for. -/
noncomputable def Fmt.mag (f : Fmt) (b : Nat) : ℝ := f.units b * (2 : ℝ) ^ f.qmin

theorem Fmt.two_le_pow_fbits (f : Fmt) : 2 ∣ 2 ^ f.fbits := by cases f <;> decide

/-- n units of 2^j, n with fbits + 1 bits or subnormal, stand at encoding j × 2^fbits + n. -/
theorem Fmt.units_eq (f : Fmt) {j n : Nat} (hn : 2 ^ f.fbits ≤ n ∨ j = 0) (hn' : n ≤ 2 ^ (f.fbits + 1)) :
    f.units (j * 2 ^ f.fbits + n) = n * 2 ^ j := by
  unfold Fmt.units
  rw [pow_succ] at hn'
  obtain ⟨p, hp⟩ : ∃ p, p = 2 ^ f.fbits := ⟨_, rfl⟩
  have pos : 0 < p := hp ▸ Nat.two_pow_pos _
  rw [← hp] at hn hn' ⊢
  rcases Nat.lt_or_ge n p with h | h
  · obtain rfl : j = 0 := hn.resolve_left (by omega)
    simp [h]
  have big : ¬j * p + n < p := by omega
  rw [if_neg big]
  rcases Nat.lt_or_ge n (2 * p) with h2 | h2
  · obtain ⟨c, rfl⟩ : ∃ c, n = p + c := ⟨n - p, by omega⟩
    have hc : c < p := by omega
    have e : j * p + (p + c) = c + p * (j + 1) := by ring
    rw [e, Nat.add_mul_mod_self_left, Nat.add_mul_div_left _ _ pos, Nat.mod_eq_of_lt hc, Nat.div_eq_of_lt hc]
    simp
  · obtain rfl : n = 2 * p := by omega
    have e : j * p + 2 * p = p * (j + 2) := by ring
    rw [e, Nat.mul_mod_right, Nat.mul_div_cancel_left _ pos]
    simp only [Nat.add_zero, show j + 2 - 1 = j + 1 by omega, pow_succ]
    ring

/-- Every encoding is one of units of some 2^j, and the next is the next multiple. -/
theorem Fmt.exists_ulp (f : Fmt) (b : Nat) : ∃ j n, b = j * 2 ^ f.fbits + n ∧ (2 ^ f.fbits ≤ n ∨ j = 0) ∧ n < 2 ^ (f.fbits + 1) := by
  rw [pow_succ]
  have pos : 0 < 2 ^ f.fbits := Nat.two_pow_pos _
  have hdiv := Nat.div_add_mod' b (2 ^ f.fbits)
  have hmod := Nat.mod_lt b pos
  rcases Nat.eq_zero_or_pos (b / 2 ^ f.fbits) with h | h
  · rw [h] at hdiv
    exact ⟨0, b, by simp, .inr rfl, by omega⟩
  · obtain ⟨j, hj⟩ : ∃ j, b / 2 ^ f.fbits = j + 1 := ⟨_, (Nat.succ_pred_eq_of_pos h).symm⟩
    rw [hj, Nat.add_mul, Nat.one_mul] at hdiv
    exact ⟨j, 2 ^ f.fbits + b % 2 ^ f.fbits, by omega, .inl (by omega), by omega⟩

theorem Fmt.units_strictMono (f : Fmt) : StrictMono f.units := by
  refine strictMono_nat_of_lt_succ fun b => ?_
  obtain ⟨j, n, rfl, hn, hn'⟩ := f.exists_ulp b
  rw [f.units_eq hn hn'.le, Nat.add_assoc, f.units_eq (hn.imp_left (by omega)) hn']
  exact Nat.mul_lt_mul_of_pos_right (Nat.lt_succ_self n) (Nat.two_pow_pos j)

theorem Fmt.mag_strictMono (f : Fmt) : StrictMono f.mag := fun a b h => by
  have : (f.units a : ℝ) < f.units b := by exact_mod_cast f.units_strictMono h
  exact mul_lt_mul_of_pos_right this (by positivity)

theorem Fmt.mag_zero (f : Fmt) : f.mag 0 = 0 := by
  have : f.units 0 = 0 := by simp [Fmt.units]
  simp [Fmt.mag, this]

/-- n × 2^q, where n has fbits + 1 bits or q is that of subnormal numbers. -/
theorem Fmt.mag_eq (f : Fmt) {j n : Nat} (hn : 2 ^ f.fbits ≤ n ∨ j = 0) (hn' : n ≤ 2 ^ (f.fbits + 1)) :
    f.mag (j * 2 ^ f.fbits + n) = n * (2 : ℝ) ^ (f.qmin + j) := by
  unfold Fmt.mag
  rw [f.units_eq hn hn', zpow_add₀ (by norm_num), zpow_natCast]
  push_cast
  ring

/-! ### Decoding -/

/-- The exponent field of a finite encoding without its sign is not the one kept for infinities and NaNs. -/
theorem Fmt.exponent_of_le_maxBits {f : Fmt} {b : Nat} (h : b ≤ f.maxBits) : b / 2 ^ f.fbits < 2 ^ f.ebits ∧
    (f.hasInf = true → b / 2 ^ f.fbits ≠ 2 ^ f.ebits - 1) ∧ (f = .e4m3 → ¬(b / 8 = 15 ∧ b % 8 = 7)) := by
  refine ⟨?_, ?_, ?_⟩
  · cases f <;> norm_num [Fmt.maxBits, Fmt.ebits, Fmt.fbits] at h ⊢ <;> omega
  · cases f <;> norm_num [Fmt.maxBits, Fmt.ebits, Fmt.fbits, Fmt.hasInf] at h ⊢ <;> omega
  · rintro rfl
    simp only [Fmt.maxBits] at h
    omega

/-- A finite encoding decodes to its magnitude. -/
theorem Fmt.decode_of_le_maxBits {f : Fmt} {b : Nat} (h : b ≤ f.maxBits) :
    ∃ n m e, f.decode b = .fin n m e ∧ (m : ℝ) * (2 : ℝ) ^ e = f.mag b := by
  obtain ⟨lt, inf, nan⟩ := Fmt.exponent_of_le_maxBits h
  unfold Fmt.decode
  simp only [Nat.mod_eq_of_lt lt]
  rw [if_neg ?notNan, if_neg ?notInf]
  case notNan =>
    simp only [Bool.and_eq_true, beq_iff_eq, not_and]
    rintro ⟨rfl, he⟩ hf
    exact nan rfl ⟨he, hf⟩
  case notInf =>
    simp only [Bool.and_eq_true, beq_iff_eq, not_and]
    exact inf
  have pos : 0 < 2 ^ f.fbits := Nat.two_pow_pos _
  split
  case isTrue h0 =>
    have hb : b < 2 ^ f.fbits := (Nat.div_eq_zero_iff.mp h0).resolve_left pos.ne'
    refine ⟨_, _, _, rfl, ?_⟩
    rw [Nat.mod_eq_of_lt hb]
    unfold Fmt.mag Fmt.units
    rw [if_pos hb]
  case isFalse h0 =>
    have hb : ¬b < 2 ^ f.fbits := fun hb => h0 (Nat.div_eq_of_lt hb)
    refine ⟨_, _, _, rfl, ?_⟩
    unfold Fmt.mag Fmt.units
    rw [if_neg hb, show ((b / 2 ^ f.fbits : Nat) : Int) - 1 = ((b / 2 ^ f.fbits - 1 : Nat) : Int) from
        (Int.natCast_pred_of_pos (Nat.pos_of_ne_zero h0)).symm,
      zpow_add₀ (by norm_num), zpow_natCast]
    push_cast
    ring

/-- The largest finite magnitude lies within the numbers of its exponent, so that the steps on both its sides are equal. -/
theorem Fmt.maxBits_ulp (f : Fmt) : ∃ j n, f.maxBits = j * 2 ^ f.fbits + (n + 1) ∧ 2 ^ f.fbits ≤ n ∧ n + 2 ≤ 2 ^ (f.fbits + 1) := by
  cases f
  case f64 => exact ⟨2045, 2 ^ 53 - 2, by decide⟩
  case f32 => exact ⟨253, 2 ^ 24 - 2, by decide⟩
  case f16 => exact ⟨29, 2 ^ 11 - 2, by decide⟩
  case bf16 => exact ⟨253, 2 ^ 8 - 2, by decide⟩
  case e4m3 => exact ⟨14, 13, by decide⟩
  case e5m2 => exact ⟨29, 2 ^ 3 - 2, by decide⟩
  case e2m1 => exact ⟨2, 2, by decide⟩

theorem Fmt.mag_maxBits_succ (f : Fmt) : f.mag (f.maxBits + 1) = f.mag f.maxBits + (f.mag f.maxBits - f.mag (f.maxBits - 1)) := by
  obtain ⟨j, n, h, hn, hn'⟩ := f.maxBits_ulp
  rw [h, Nat.add_assoc, f.mag_eq (.inl (by omega)) hn', f.mag_eq (.inl (by omega)) (by omega),
    show j * 2 ^ f.fbits + (n + 1) - 1 = j * 2 ^ f.fbits + n by omega, f.mag_eq (.inl hn) (by omega)]
  push_cast
  ring

end Sys2Proof.Machine
end

section
/-! The rounding to a multiple of a power of two (R34, R35). -/

namespace Sys2Proof.Machine

/-- x lies from lo to below hi, and r compares x with lo and with the middle, as `roundsUp` takes it: 0 at lo, 1 below the middle, 2 there, 3
above. -/
structure Halfway (lo hi x : ℝ) (r : Nat) : Prop where
  le : lo ≤ x
  lt : x < hi
  low : r = 0 ↔ x = lo
  below : r ≤ 1 ↔ x < (lo + hi) / 2
  upTo : r ≤ 2 ↔ x ≤ (lo + hi) / 2
  last : r ≤ 3

theorem Halfway.scale {lo hi x u : ℝ} {r : Nat} (h : Halfway lo hi x r) (hu : 0 < u) : Halfway (lo * u) (hi * u) (x * u) r := by
  obtain ⟨le, lt, low, below, upTo, last⟩ := h
  have mid : (lo * u + hi * u) / 2 = (lo + hi) / 2 * u := by ring
  refine ⟨mul_le_mul_of_nonneg_right le hu.le, mul_lt_mul_of_pos_right lt hu, low.trans ?_, below.trans ?_, upTo.trans ?_, last⟩
  · rw [mul_left_inj' hu.ne']
  · rw [mid, mul_lt_mul_iff_left₀ hu]
  · rw [mid, mul_le_mul_iff_left₀ hu]

theorem Halfway.of_eq {lo hi : ℝ} (h : lo < hi) : Halfway lo hi lo 0 := by
  refine ⟨le_rfl, h, by simp, ?_, ?_, by omega⟩
  · simp only [Nat.zero_le, true_iff]
    linarith
  · simp only [Nat.zero_le, true_iff]
    linarith

/-- A remainder of a division by 2H, something below 1 above it where `sticky`, compared with H. -/
theorem halfway_remainder (n : Nat) {H rem : Nat} {δ : ℝ} {sticky : Bool} (hrem : rem < 2 * H) (h0 : 0 ≤ δ) (h1 : δ < 1)
    (hs : sticky = true ↔ 0 < δ) :
    Halfway (n * (2 * H)) ((n + 1) * (2 * H)) (n * (2 * H) + (rem + δ))
      (if rem = 0 then b2n sticky else if rem < H then 1 else if rem = H && !sticky then 2 else 3) := by
  have cast : ∀ {a b : Nat}, a < b → (a : ℝ) + 1 ≤ b := fun h => by exact_mod_cast h
  have hr : (rem : ℝ) + 1 ≤ 2 * H := by exact_mod_cast hrem
  have hr0 : (0 : ℝ) ≤ rem := Nat.cast_nonneg rem
  have hH : (0 : ℝ) + 1 ≤ H := by exact_mod_cast (show 0 < H by omega)
  suffices h : ∀ r : Nat, r ≤ 3 → (r = 0 ↔ (rem : ℝ) + δ = 0) → (r ≤ 1 ↔ (rem : ℝ) + δ < H) → (r ≤ 2 ↔ (rem : ℝ) + δ ≤ H) →
      Halfway (n * (2 * H)) ((n + 1) * (2 * H)) (n * (2 * H) + (rem + δ)) r by
    have zero : sticky = false → δ = 0 := fun hf => le_antisymm (not_lt.mp fun hd => by simp [hs.mpr hd] at hf) h0
    split_ifs with c1 c2 c3
    · subst c1
      rw [Nat.cast_zero, zero_add] at h ⊢
      cases hst : sticky
      · have := zero hst
        exact h 0 (by decide) (iff_of_true rfl this) (iff_of_true (by decide) (by linarith)) (iff_of_true (by decide) (by linarith))
      · exact h 1 (by decide) (iff_of_false (by decide) (hs.mp hst).ne') (iff_of_true (by decide) (by linarith)) (iff_of_true (by decide) (by linarith))
    · have hlt := cast c2
      have pos : (0 : ℝ) < rem := Nat.cast_pos.mpr (by omega)
      exact h 1 (by decide) (iff_of_false (by decide) (by linarith : (0 : ℝ) < rem + δ).ne') (iff_of_true (by decide) (by linarith))
        (iff_of_true (by decide) (by linarith))
    · simp only [Bool.and_eq_true, decide_eq_true_eq, Bool.not_eq_true'] at c3
      obtain ⟨rfl, hf⟩ := c3
      rw [zero hf, add_zero] at h ⊢
      exact h 2 (by decide) (iff_of_false (by decide) (by linarith : (0 : ℝ) < rem).ne') (iff_of_false (by decide) (lt_irrefl _))
        (iff_of_true (by decide) le_rfl)
    · have above : (H : ℝ) < rem + δ := by
        rcases Nat.lt_or_ge H rem with hlt | hge
        · linarith [cast hlt]
        · obtain rfl : rem = H := by omega
          have : 0 < δ := hs.mp (by simpa using c3)
          linarith
      exact h 3 (by decide) (iff_of_false (by decide) (by linarith : (0 : ℝ) < rem + δ).ne') (iff_of_false (by decide) above.le.not_gt)
        (iff_of_false (by decide) above.not_ge)
  intro r last low below upTo
  have mid : ((n : ℝ) * (2 * H) + (n + 1) * (2 * H)) / 2 = n * (2 * H) + H := by ring
  refine ⟨by linarith, by linarith, low.trans add_eq_left.symm, below.trans ?_, upTo.trans ?_, last⟩
  · rw [mid, add_lt_add_iff_left]
  · rw [mid, add_le_add_iff_left]

theorem roundsUp_zero (mode : Nat) (neg odd : Bool) : roundsUp mode neg odd 0 = false := by
  unfold roundsUp
  split <;> simp

/-- What `roundAt` makes of (m + δ) × 2^e, 0 ≤ δ < 1: the multiple n of 2^q below it, or the next, and whether it lies between. -/
theorem roundAt_halfway (mode : Nat) (neg : Bool) (m : Nat) {e q : Int} {sticky : Bool} {δ : ℝ} (h0 : 0 ≤ δ) (h1 : δ < 1)
    (hs : sticky = true ↔ 0 < δ) (hq : sticky = true → e < q) :
    ∃ n r, roundAt mode neg m e sticky q = (n + b2n (roundsUp mode neg (n % 2 == 1) r), r != 0) ∧
      Halfway (n * (2 : ℝ) ^ q) ((n + 1) * (2 : ℝ) ^ q) ((m + δ) * (2 : ℝ) ^ e) r := by
  unfold roundAt
  by_cases hqe : q ≤ e
  · have hf : sticky = false := Bool.eq_false_iff.mpr fun ht => by have := hq ht; omega
    have hd : δ = 0 := le_antisymm (not_lt.mp fun hd => by simp [hs.mpr hd] at hf) h0
    refine ⟨m * 2 ^ (e - q).toNat, 0, by simp [hqe, hf, roundsUp_zero, b2n], ?_⟩
    have eq : ((m : ℝ) + δ) * (2 : ℝ) ^ e = (m * 2 ^ (e - q).toNat : Nat) * (2 : ℝ) ^ q := by
      rw [hd, add_zero]
      push_cast
      rw [mul_assoc, ← zpow_natCast, ← zpow_add₀ (by norm_num), show ((e - q).toNat : Int) + q = e by omega]
    rw [eq]
    exact .of_eq (mul_lt_mul_of_pos_right (lt_add_one _) (by positivity))
  · rw [if_neg hqe]
    obtain ⟨k, hk⟩ : ∃ k, (q - e).toNat = k + 1 := ⟨(q - e).toNat - 1, by omega⟩
    simp only [hk, Nat.add_sub_cancel, pow_succ']
    have two : (2 : ℝ) ^ q = (2 * (2 ^ k : Nat)) * (2 : ℝ) ^ e := by
      push_cast
      rw [← pow_succ', ← zpow_natCast, ← zpow_add₀ (by norm_num)]
      congr 1
      omega
    refine ⟨m / (2 * 2 ^ k), _, rfl, ?_⟩
    have half := (halfway_remainder (H := 2 ^ k) (m / (2 * 2 ^ k)) (Nat.mod_lt m (by positivity)) h0 h1 hs).scale
      (show (0 : ℝ) < (2 : ℝ) ^ e by positivity)
    have parts : ((m / (2 * 2 ^ k) : Nat) : ℝ) * (2 * (2 ^ k : Nat)) + ((m % (2 * 2 ^ k) : Nat) + δ) = m + δ := by
      rw [← add_assoc]
      congr 1
      exact_mod_cast Nat.div_add_mod' m (2 * 2 ^ k)
    rw [parts] at half
    rw [two]
    simpa only [mul_assoc] using half

/-! ### Which way a rounding goes (Table 4 of 02_number_formats) -/

section
variable {lo hi x : ℝ} {r md : Nat} {neg odd : Bool}

theorem roundsUp_near (h : Halfway lo hi x r) (hm : md = 0 ∨ md = 4) :
    roundsUp md neg odd r = true ↔ (lo + hi) / 2 < x ∨ (x = (lo + hi) / 2 ∧ (md = 4 ∨ odd = true)) := by
  have above : (lo + hi) / 2 < x ↔ r = 3 := by
    rw [← not_le, ← h.upTo]
    have := h.last
    omega
  have middle : x = (lo + hi) / 2 ↔ r = 2 := by
    rw [eq_iff_le_not_lt, ← h.upTo, ← h.below]
    omega
  rw [above, middle]
  have := h.last
  rcases hm with rfl | rfl
  · simp [roundsUp]
  · simp only [roundsUp, decide_eq_true_eq, true_or, and_true]
    omega

theorem roundsUp_away (h : Halfway lo hi x r) (hm : (md = 3 ∧ neg = false) ∨ (md = 2 ∧ neg = true)) :
    roundsUp md neg odd r = true ↔ lo < x := by
  have above : lo < x ↔ r ≠ 0 := by
    rw [ne_eq, h.low]
    exact ⟨fun hx => hx.ne', fun hx => lt_of_le_of_ne h.le (Ne.symm hx)⟩
  rw [above]
  rcases hm with ⟨rfl, rfl⟩ | ⟨rfl, rfl⟩ <;> simp [roundsUp]

theorem roundsUp_toZero (hm : md ≤ 4) (hn : ¬(md = 0 ∨ md = 4)) (ha : ¬((md = 3 ∧ neg = false) ∨ (md = 2 ∧ neg = true))) :
    roundsUp md neg odd r = false := by
  obtain rfl | rfl | rfl : md = 1 ∨ md = 2 ∨ md = 3 := by omega
  · rfl
  · simp [roundsUp, show neg = false by simpa using ha]
  · simp [roundsUp, show neg = true by simpa using ha]

end

end Sys2Proof.Machine
end

section
/-! The encoding that a rounding chooses among those of a format (R34, R35). -/

namespace Sys2Proof.Machine

section
variable {f : Fmt} {md b r : Nat} {neg : Bool} {x : ℝ}

/-- The encoding that a rounding takes, where x lies from the magnitude of b to below that of the next. -/
def roundedBits (md : Nat) (neg : Bool) (b r : Nat) : Nat := b + b2n (roundsUp md neg (b % 2 == 1) r)

theorem roundedBits_eq (md : Nat) (neg : Bool) (b r : Nat) :
    (roundsUp md neg (b % 2 == 1) r = false ∧ roundedBits md neg b r = b) ∨
      (roundsUp md neg (b % 2 == 1) r = true ∧ roundedBits md neg b r = b + 1) := by
  unfold roundedBits
  cases roundsUp md neg (b % 2 == 1) r <;> simp [b2n]

/-- A rounding is exact where x is a number of the format. -/
theorem mag_roundedBits_eq_iff (h : Halfway (f.mag b) (f.mag (b + 1)) x r) : f.mag (roundedBits md neg b r) = x ↔ r = 0 := by
  rw [h.low]
  rcases roundedBits_eq md neg b r with ⟨-, hb⟩ | ⟨up, hb⟩
  · rw [hb, eq_comm]
  · rw [hb]
    refine iff_of_false h.lt.ne' fun hx => ?_
    rw [h.low.mpr hx, roundsUp_zero] at up
    cases up

/-- To nearest (Table 4 of 02_number_formats): no number of the format is closer, and of two that are as close the mode names one. -/
theorem roundedBits_near (h : Halfway (f.mag b) (f.mag (b + 1)) x r) (hm : md = 0 ∨ md = 4) (c : Nat) :
    |f.mag (roundedBits md neg b r) - x| ≤ |f.mag c - x| ∧ (c ≠ roundedBits md neg b r →
      |f.mag (roundedBits md neg b r) - x| = |f.mag c - x| →
        (md = 0 → roundedBits md neg b r % 2 = 0) ∧ (md = 4 → f.mag c < f.mag (roundedBits md neg b r))) := by
  have hle := h.le
  have hlt := h.lt
  have up := roundsUp_near (neg := neg) (odd := b % 2 == 1) h hm
  have side : (c ≤ b ∧ |f.mag c - x| = x - f.mag c ∧ f.mag c ≤ f.mag b) ∨
      (b + 1 ≤ c ∧ |f.mag c - x| = f.mag c - x ∧ f.mag (b + 1) ≤ f.mag c) := by
    rcases Nat.lt_or_ge b c with hc | hc
    · have := f.mag_strictMono.monotone (show b + 1 ≤ c from hc)
      exact .inr ⟨hc, abs_of_nonneg (by linarith), this⟩
    · have := f.mag_strictMono.monotone hc
      exact .inl ⟨hc, (abs_sub_comm _ _).trans (abs_of_nonneg (by linarith)), this⟩
  rcases roundedBits_eq md neg b r with ⟨u, hb⟩ | ⟨u, hb⟩
  · rw [u] at up
    simp only [Bool.false_eq_true, false_iff, not_or, not_lt, not_and] at up
    obtain ⟨below, tie⟩ := up
    have own : |f.mag b - x| = x - f.mag b := (abs_sub_comm _ _).trans (abs_of_nonneg (by linarith))
    rw [hb, own]
    rcases side with ⟨hc, habs, hmag⟩ | ⟨hc, habs, hmag⟩
    · refine ⟨by linarith, fun hne heq => absurd ?_ hne⟩
      exact f.mag_strictMono.injective (by linarith)
    · refine ⟨by linarith, fun hne heq => ?_⟩
      obtain ⟨h4, hodd⟩ := tie (by linarith)
      exact ⟨fun _ => by simpa using hodd, fun h => absurd h h4⟩
  · have own : |f.mag (b + 1) - x| = f.mag (b + 1) - x := abs_of_nonneg (by linarith)
    have above : (f.mag b + f.mag (b + 1)) / 2 ≤ x := (up.mp u).elim le_of_lt fun h => h.1.ge
    rw [hb, own]
    rcases side with ⟨hc, habs, hmag⟩ | ⟨hc, habs, hmag⟩
    · refine ⟨by linarith, fun hne heq => ⟨fun h0 => ?_, fun _ => by linarith⟩⟩
      have hodd : b % 2 = 1 := by
        rcases up.mp u with hx | ⟨-, h4 | hodd⟩
        · linarith
        · omega
        · simpa using hodd
      omega
    · refine ⟨by linarith, fun hne heq => absurd ?_ hne⟩
      exact f.mag_strictMono.injective (by linarith)

/-- Away from zero (Table 4 of 02_number_formats): the least number of the format that is not below x. -/
theorem roundedBits_away (h : Halfway (f.mag b) (f.mag (b + 1)) x r) (hm : (md = 3 ∧ neg = false) ∨ (md = 2 ∧ neg = true)) :
    x ≤ f.mag (roundedBits md neg b r) ∧ ∀ c, x ≤ f.mag c → f.mag (roundedBits md neg b r) ≤ f.mag c := by
  have up := roundsUp_away (odd := b % 2 == 1) h hm
  rcases roundedBits_eq md neg b r with ⟨u, hb⟩ | ⟨u, hb⟩
  · rw [u] at up
    have hx : x = f.mag b := le_antisymm (not_lt.mp fun hx => by simpa using up.mpr hx) h.le
    rw [hb, ← hx]
    exact ⟨le_rfl, fun c hc => hc⟩
  · rw [hb]
    exact ⟨h.lt.le, fun c hc => f.mag_strictMono.monotone (f.mag_strictMono.lt_iff_lt.mp ((up.mp u).trans_le hc))⟩

/-- Toward zero (Table 4 of 02_number_formats): the greatest number of the format that is not above x. -/
theorem roundedBits_toZero (h : Halfway (f.mag b) (f.mag (b + 1)) x r) (hm : md ≤ 4) (hn : ¬(md = 0 ∨ md = 4))
    (ha : ¬((md = 3 ∧ neg = false) ∨ (md = 2 ∧ neg = true))) :
    f.mag (roundedBits md neg b r) ≤ x ∧ ∀ c, f.mag c ≤ x → f.mag c ≤ f.mag (roundedBits md neg b r) := by
  rcases roundedBits_eq md neg b r with ⟨-, hb⟩ | ⟨u, -⟩
  · rw [hb]
    exact ⟨h.le, fun c hc => f.mag_strictMono.monotone (Nat.lt_succ_iff.mp (f.mag_strictMono.lt_iff_lt.mp (hc.trans_lt h.lt)))⟩
  · rw [roundsUp_toZero hm hn ha] at u
    cases u

/-- A rounding passes the largest finite number where x rounded with an unbounded exponent does (R35). -/
theorem maxBits_lt_roundedBits_iff (h : Halfway (f.mag b) (f.mag (b + 1)) x r) (hm : md ≤ 4) :
    f.maxBits < roundedBits md neg b r ↔
      ((md = 0 ∨ md = 4) ∧ ((f.mag f.maxBits + f.mag (f.maxBits + 1)) / 2 < x ∨
        (x = (f.mag f.maxBits + f.mag (f.maxBits + 1)) / 2 ∧ (md = 4 ∨ f.maxBits % 2 = 1)))) ∨
      (((md = 3 ∧ neg = false) ∨ (md = 2 ∧ neg = true)) ∧ f.mag f.maxBits < x) ∨
      (¬(md = 0 ∨ md = 4) ∧ ¬((md = 3 ∧ neg = false) ∨ (md = 2 ∧ neg = true)) ∧ f.mag (f.maxBits + 1) ≤ x) := by
  have hle := h.le
  have hlt := h.lt
  have step := f.mag_strictMono (Nat.lt_succ_self f.maxBits)
  rw [Nat.succ_eq_add_one] at step
  have bits := roundedBits_eq md neg b r
  have modes : (md = 0 ∨ md = 4) → ¬((md = 3 ∧ neg = false) ∨ (md = 2 ∧ neg = true)) := by omega
  rcases Nat.lt_trichotomy b f.maxBits with hb | rfl | hb
  · have top := f.mag_strictMono.monotone (show b + 1 ≤ f.maxBits from hb)
    refine iff_of_false (by omega) ?_
    rintro (⟨-, hx | ⟨hx, -⟩⟩ | ⟨-, hx⟩ | ⟨-, -, hx⟩) <;> linarith
  · have up : f.maxBits < roundedBits md neg f.maxBits r ↔ roundsUp md neg (f.maxBits % 2 == 1) r = true := by
      rcases bits with ⟨u, h⟩ | ⟨u, h⟩ <;> simp [u, h]
    rw [up]
    by_cases hn : md = 0 ∨ md = 4
    · rw [roundsUp_near h hn]
      simp [hn, modes hn]
    by_cases ha : (md = 3 ∧ neg = false) ∨ (md = 2 ∧ neg = true)
    · rw [roundsUp_away h ha]
      simp [hn, ha]
    · rw [roundsUp_toZero hm hn ha]
      simp [hn, ha, hlt]
  · have top := f.mag_strictMono.monotone (show f.maxBits + 1 ≤ b from hb)
    refine iff_of_true (by omega) ?_
    by_cases hn : md = 0 ∨ md = 4
    · exact .inl ⟨hn, .inl (by linarith)⟩
    by_cases ha : (md = 3 ∧ neg = false) ∨ (md = 2 ∧ neg = true)
    · exact .inr (.inl ⟨ha, by linarith⟩)
    · exact .inr (.inr ⟨hn, ha, by linarith⟩)

end

end Sys2Proof.Machine
end

section
/-! round_to (R35): tininess, overflow and the flags. -/

namespace Sys2Proof.Machine
open Sys2Proof.Cert

/-- Tininess after rounding (R35), as the statements put it: x, rounded as if the exponent were unbounded, is below the least normal number. -/
def Fmt.tinyAt (f : Fmt) (md : Nat) (neg : Bool) (x : ℝ) : Prop :=
  let away := (md = 3 ∧ neg = false) ∨ (md = 2 ∧ neg = true)
  let near := md = 0 ∨ md = 4
  let small : ℝ := (2 : ℝ) ^ (f.qmin + (f.fbits : Int))
  (near ∧ x < small - (2 : ℝ) ^ (f.qmin - 2)) ∨ (away ∧ x ≤ small - (2 : ℝ) ^ (f.qmin - 1)) ∨ (¬near ∧ ¬away ∧ x < small)

/-- The result and flags of a rounding to encoding b of a format (R35). -/
def Fmt.encoded (f : Fmt) (md : Nat) (sat neg : Bool) (b : Nat) (inexact tiny : Bool) : Nat × Flags :=
  if f.maxBits < b then (f.overflow md sat neg, flagOF ||| flagNX)
  else (f.signed neg b, (if inexact then flagNX else 0) ||| (if inexact && tiny then flagUF else 0))

/-- An overflow gives the largest finite number where the mode rounds toward zero, and otherwise infinity or what R30 has for it. -/
theorem Fmt.overflow_eq (f : Fmt) {md : Nat} (sat neg : Bool) (hm : md ≤ 4) :
    (¬(md = 0 ∨ md = 4) ∧ ¬((md = 3 ∧ neg = false) ∨ (md = 2 ∧ neg = true)) → f.overflow md sat neg = f.signed neg f.maxBits) ∧
    ((md = 0 ∨ md = 4) ∨ ((md = 3 ∧ neg = false) ∨ (md = 2 ∧ neg = true)) → f.overflow md sat neg =
      if f = .e4m3 then (if sat then f.signed neg f.maxBits else 0x7F) else if f = .e2m1 then f.signed neg f.maxBits
      else f.signed neg f.infBits) := by
  unfold Fmt.overflow
  obtain rfl | rfl | rfl | rfl | rfl : md = 0 ∨ md = 1 ∨ md = 2 ∨ md = 3 ∨ md = 4 := by omega
  all_goals cases neg <;> cases f <;> simp [Fmt.nanBits]

theorem roundsTo_encoded {f : Fmt} {md : Nat} (sat : Bool) {neg : Bool} {x : ℝ} {b r : Nat} {tiny : Bool} (hm : md ≤ 4)
    (h : Halfway (f.mag b) (f.mag (b + 1)) x r) (ht : r ≠ 0 → (tiny = true ↔ f.tinyAt md neg x)) :
    roundsTo f md sat neg x (f.encoded md sat neg (roundedBits md neg b r) (r != 0) tiny) := by
  unfold roundsTo
  intro v away near top ulp small exceeds tinyAt
  have hv : ∀ c ≤ f.maxBits, v c = f.mag c := fun c hc => by
    obtain ⟨n, m, e, hd, he⟩ := Fmt.decode_of_le_maxBits hc
    simp only [v, hd]
    exact he
  have htop : top = f.mag f.maxBits := hv _ le_rfl
  have hulp : top + ulp = f.mag (f.maxBits + 1) := by
    rw [f.mag_maxBits_succ, ← hv _ le_rfl, ← hv (f.maxBits - 1) (by omega)]
  have hex : f.maxBits < roundedBits md neg b r ↔ exceeds := by
    rw [maxBits_lt_roundedBits_iff h hm, ← hulp, ← htop, show (top + (top + ulp)) / 2 = top + ulp / 2 by ring]
  have exactly : f.mag (roundedBits md neg b r) = x ↔ r = 0 := mag_roundedBits_eq_iff h
  clear_value v
  refine ⟨fun he => ?_, fun he => ?_⟩
  · unfold Fmt.encoded
    rw [if_pos (hex.mpr he)]
    obtain ⟨toZero, toInf⟩ := f.overflow_eq sat neg hm
    refine ⟨rfl, toZero, fun hn => (toInf hn).trans ?_⟩
    cases f <;> rfl
  · have hb : roundedBits md neg b r ≤ f.maxBits := not_lt.mp fun hb => he (hex.mp hb)
    unfold Fmt.encoded
    rw [if_neg (not_lt.mpr hb)]
    refine ⟨roundedBits md neg b r, hb, rfl, ?_⟩
    rw [hv _ hb]
    simp only [ne_eq, exactly]
    refine ⟨fun hn c hc => ?_, fun ha => ?_, fun ⟨hn, ha⟩ => ?_, fun h0 => ?_, fun h0 hy => ?_, fun h0 hy => ?_⟩
    · rw [hv c hc]
      exact roundedBits_near h hn c
    · obtain ⟨above, least⟩ := roundedBits_away h ha
      exact ⟨above, fun c hc hx => by rw [hv c hc] at hx ⊢; exact least c hx⟩
    · obtain ⟨below, greatest⟩ := roundedBits_toZero h hm hn ha
      exact ⟨below, fun c hc hx => by rw [hv c hc] at hx ⊢; exact greatest c hx⟩
    · simp [h0]
    · have : tiny = true := (ht h0).mpr hy
      simp only [this, bne_iff_ne.mpr h0, Bool.and_true, if_true, BitVec.or_comm]
    · have : tiny = false := Bool.eq_false_iff.mpr fun ht' => hy ((ht h0).mp ht')
      simp [h0, this]

/-! ### Leading bits -/

section
variable {m : Nat} {e : Int} {δ : ℝ}

/-- The power of two at or below a number. -/
theorem zpow_log2_le (hm : m ≠ 0) (h0 : 0 ≤ δ) : (2 : ℝ) ^ (e + (Nat.log2 m : Int)) ≤ (m + δ) * (2 : ℝ) ^ e := by
  have low : (2 : ℝ) ^ Nat.log2 m ≤ m := by exact_mod_cast Nat.log2_self_le hm
  rw [zpow_add₀ (by norm_num), zpow_natCast, mul_comm]
  exact mul_le_mul_of_nonneg_right (by linarith) (by positivity)

theorem lt_zpow_log2 (h1 : δ < 1) : (m + δ) * (2 : ℝ) ^ e < (2 : ℝ) ^ (e + (Nat.log2 m : Int) + 1) := by
  have high : (m : ℝ) + 1 ≤ 2 ^ (Nat.log2 m + 1) := by exact_mod_cast (Nat.lt_log2_self : m < 2 ^ (Nat.log2 m + 1))
  rw [add_assoc, zpow_add₀ (by norm_num), mul_comm]
  refine mul_lt_mul_of_pos_left ?_ (by positivity)
  rw [show (Nat.log2 m : Int) + 1 = ((Nat.log2 m + 1 : Nat) : Int) by push_cast; rfl, zpow_natCast]
  linarith

end

/-- The multiple of 2^q below a number has at most k + 1 bits where 2^(q + k) is at least its leading bit, and exactly those where it is that. -/
theorem significand_bounds {n r k : Nat} {q top : Int} {x : ℝ} (h : Halfway (n * (2 : ℝ) ^ q) ((n + 1) * (2 : ℝ) ^ q) x r)
    (hl : (2 : ℝ) ^ top ≤ x) (hh : x < (2 : ℝ) ^ (top + 1)) (hq : top - k ≤ q) :
    n < 2 ^ (k + 1) ∧ (q = top - k → 2 ^ k ≤ n) := by
  have pos : (0 : ℝ) < (2 : ℝ) ^ q := by positivity
  have cast : ∀ j : Nat, ((2 ^ j : Nat) : ℝ) * (2 : ℝ) ^ q = (2 : ℝ) ^ (q + j) := fun j => by
    rw [zpow_add₀ (by norm_num), zpow_natCast]
    push_cast
    ring
  refine ⟨?_, fun he => ?_⟩
  · have below : (n : ℝ) * (2 : ℝ) ^ q < ((2 ^ (k + 1) : Nat) : ℝ) * (2 : ℝ) ^ q := by
      rw [cast]
      exact h.le.trans_lt (hh.trans_le (zpow_le_zpow_right₀ (by norm_num) (by push_cast; omega)))
    exact_mod_cast lt_of_mul_lt_mul_right below pos.le
  · have above : ((2 ^ k : Nat) : ℝ) * (2 : ℝ) ^ q < ((n + 1 : Nat) : ℝ) * (2 : ℝ) ^ q := by
      rw [cast, show q + (k : Int) = top by omega]
      push_cast
      exact hl.trans_lt h.lt
    exact Nat.lt_succ_iff.mp (by exact_mod_cast lt_of_mul_lt_mul_right above pos.le)

/-! ### Tininess -/

section
variable {f : Fmt} {md r : Nat} {neg : Bool} {x : ℝ}

theorem Fmt.zpow_qmin_pred (f : Fmt) : (2 : ℝ) ^ (f.qmin - 1) = 2 * (2 : ℝ) ^ (f.qmin - 2) := by
  rw [← zpow_one_add₀ (by norm_num)]
  congr 1
  ring

/-- A number that is below the least normal one by more than half a unit of subnormal numbers is tiny in every mode. -/
theorem Fmt.tinyAt_of_lt (h : x < (2 : ℝ) ^ (f.qmin + (f.fbits : Int)) - (2 : ℝ) ^ (f.qmin - 1)) : f.tinyAt md neg x := by
  have half := f.zpow_qmin_pred
  have pos : (0 : ℝ) < (2 : ℝ) ^ (f.qmin - 2) := by positivity
  by_cases hnear : md = 0 ∨ md = 4
  · exact .inl ⟨hnear, by linarith⟩
  by_cases haway : (md = 3 ∧ neg = false) ∨ (md = 2 ∧ neg = true)
  · exact .inr (.inl ⟨haway, by linarith⟩)
  · exact .inr (.inr ⟨hnear, haway, by linarith⟩)

/-- A normal number is not tiny. -/
theorem Fmt.not_tinyAt_of_le (h : (2 : ℝ) ^ (f.qmin + (f.fbits : Int)) ≤ x) : ¬f.tinyAt md neg x := by
  have pos₁ : (0 : ℝ) < (2 : ℝ) ^ (f.qmin - 1) := by positivity
  have pos₂ : (0 : ℝ) < (2 : ℝ) ^ (f.qmin - 2) := by positivity
  rintro (⟨-, hx⟩ | ⟨-, hx⟩ | ⟨-, -, hx⟩) <;> linarith

/-- A number within half a unit of subnormal numbers below the least normal one is tiny where it is not rounded up to that. -/
theorem Fmt.tinyAt_iff_roundsUp (hm : md ≤ 4)
    (h : Halfway ((2 : ℝ) ^ (f.qmin + (f.fbits : Int)) - (2 : ℝ) ^ (f.qmin - 1)) ((2 : ℝ) ^ (f.qmin + (f.fbits : Int))) x r) :
    f.tinyAt md neg x ↔ roundsUp md neg true r = false := by
  have half := f.zpow_qmin_pred
  have modes : (md = 0 ∨ md = 4) → ¬((md = 3 ∧ neg = false) ∨ (md = 2 ∧ neg = true)) := by omega
  have lt := h.lt
  rw [← Bool.not_eq_true (roundsUp md neg true r)]
  unfold Fmt.tinyAt
  by_cases hnear : md = 0 ∨ md = 4
  · rw [roundsUp_near h hnear]
    simp only [hnear, modes hnear, or_true, and_true, ← le_iff_lt_or_eq', not_le, true_and, false_and, not_true, or_false]
    constructor <;> intro <;> linarith
  by_cases haway : (md = 3 ∧ neg = false) ∨ (md = 2 ∧ neg = true)
  · rw [roundsUp_away h haway]
    simp only [hnear, haway, not_lt, true_and, false_and, not_true, and_false, or_false, false_or]
  · rw [roundsUp_toZero hm hnear haway]
    simp only [hnear, haway, not_false_iff, true_and, false_and, false_or, Bool.false_eq_true, lt]

/-- The tininess that `round` finds from the rounding to fbits + 1 bits, at 2^q0, is that of R35. -/
theorem Fmt.tinyAt_iff {n : Nat} {q0 : Int} (hm : md ≤ 4) (h : Halfway (n * (2 : ℝ) ^ q0) ((n + 1) * (2 : ℝ) ^ q0) x r)
    (hn : 2 ^ f.fbits ≤ n) (hn' : n < 2 ^ (f.fbits + 1)) : f.tinyAt md neg x ↔
      (decide (q0 < f.qmin) && !(q0 == f.qmin - 1 && n + b2n (roundsUp md neg (n % 2 == 1) r) == 2 ^ (f.fbits + 1))) = true := by
  obtain ⟨P, hP⟩ : ∃ P, P = 2 ^ (f.fbits + 1) := ⟨_, rfl⟩
  have small : (2 : ℝ) ^ (f.qmin + (f.fbits : Int)) = P * (2 : ℝ) ^ (f.qmin - 1) := by
    rw [hP]
    push_cast
    rw [← zpow_natCast, ← zpow_add₀ (by norm_num)]
    congr 1
    push_cast
    ring
  have pos : (0 : ℝ) < (2 : ℝ) ^ (f.qmin - 2) := by positivity
  have half := f.zpow_qmin_pred
  rw [← hP] at hn' ⊢
  rcases Int.lt_trichotomy q0 (f.qmin - 1) with hq | rfl | hq
  · -- two binades or more below the least normal number
    refine iff_of_true (Fmt.tinyAt_of_lt (h.lt.trans_le ?_)) (by simp; omega)
    have nP : (n : ℝ) + 1 ≤ P := by exact_mod_cast hn'
    have P2 : (2 : ℝ) ≤ P := by exact_mod_cast (show 2 ≤ P by have := Nat.two_pow_pos f.fbits; rw [hP, pow_succ]; omega)
    calc ((n : ℝ) + 1) * (2 : ℝ) ^ q0 ≤ P * (2 : ℝ) ^ (f.qmin - 2) :=
          mul_le_mul nP (zpow_le_zpow_right₀ (by norm_num) (by omega)) (by positivity) (by positivity)
      _ ≤ _ := by rw [small, half]; linarith [mul_le_mul_of_nonneg_right P2 pos.le]
  · -- the binade below it
    by_cases hn1 : n + 1 = P
    · have odd : (n % 2 == 1) = true := by
        have : P = 2 * 2 ^ f.fbits := hP.trans (by rw [pow_succ]; ring)
        simp only [beq_iff_eq]
        omega
      have cast : ((n : ℝ) + 1) * (2 : ℝ) ^ (f.qmin - 1) = (2 : ℝ) ^ (f.qmin + (f.fbits : Int)) := by
        rw [small, ← hn1]
        push_cast
        rfl
      rw [cast, show (n : ℝ) * (2 : ℝ) ^ (f.qmin - 1) = (2 : ℝ) ^ (f.qmin + (f.fbits : Int)) - (2 : ℝ) ^ (f.qmin - 1) by
        rw [← cast]; ring] at h
      rw [Fmt.tinyAt_iff_roundsUp hm h, odd]
      cases roundsUp md neg true r <;> simp [b2n] <;> omega
    · refine iff_of_true (Fmt.tinyAt_of_lt (h.lt.trans_le ?_)) ?_
      · have nP : (n : ℝ) + 1 + 1 ≤ P := by exact_mod_cast (show n + 1 + 1 ≤ P by omega)
        rw [small]
        linarith [mul_le_mul_of_nonneg_right nP (show (0 : ℝ) ≤ (2 : ℝ) ^ (f.qmin - 1) by positivity)]
      · cases roundsUp md neg (n % 2 == 1) r <;> simp [b2n] <;> omega
  · -- a normal number
    refine iff_of_false (Fmt.not_tinyAt_of_le (le_trans ?_ h.le)) (by simp; omega)
    rw [add_comm, zpow_add₀ (by norm_num), zpow_natCast]
    exact mul_le_mul (by exact_mod_cast hn) (zpow_le_zpow_right₀ (by norm_num) (by omega)) (by positivity) (by positivity)

end

/-! ### round_to -/

/-- round_to of a magnitude (m + δ) × 2^e, 0 ≤ δ < 1, where `sticky` tells whether δ is 0, and m then has bits enough (R35). -/
theorem roundsTo_round (f : Fmt) {md : Nat} (hm : md ≤ 4) (sat neg : Bool) {m : Nat} (e : Int) {sticky : Bool} {δ : ℝ} (h0 : 0 ≤ δ)
    (h1 : δ < 1) (hs : sticky = true ↔ 0 < δ) (hp : sticky = true → f.fbits < Nat.log2 m) :
    roundsTo f md sat neg ((m + δ) * (2 : ℝ) ^ e) (f.round md sat neg m e sticky) := by
  by_cases hz : m = 0
  · -- zero
    subst hz
    have hf : sticky = false := Bool.eq_false_iff.mpr fun ht => by simpa using hp ht
    have hd : δ = 0 := le_antisymm (not_lt.mp fun hd => by simp [hs.mpr hd] at hf) h0
    have zero := Halfway.of_eq (f.mag_strictMono (Nat.lt_succ_self 0))
    have result := roundsTo_encoded (neg := neg) (tiny := false) sat hm zero (by simp)
    rw [show roundedBits md neg 0 0 = 0 by simp [roundedBits, roundsUp_zero, b2n], f.mag_zero] at result
    unfold Fmt.encoded at result
    rw [if_neg (by omega)] at result
    simpa [hd, hf, Fmt.round] using result
  · have low := zpow_log2_le (e := e) hz h0
    have high := lt_zpow_log2 (m := m) (e := e) h1
    obtain ⟨top, htop⟩ : ∃ top, top = e + (Nat.log2 m : Int) := ⟨_, rfl⟩
    obtain ⟨q, hq⟩ : ∃ q, q = max (top - (f.fbits : Int)) f.qmin := ⟨_, rfl⟩
    obtain ⟨j, hj⟩ : ∃ j : Nat, q = f.qmin + j := ⟨(q - f.qmin).toNat, by omega⟩
    rw [← htop] at low high
    obtain ⟨n, r, hr, half⟩ := roundAt_halfway md neg m (e := e) (q := q) h0 h1 hs fun ht => by have := hp ht; omega
    obtain ⟨n0, r0, hr0, half0⟩ := roundAt_halfway md neg m (e := e) (q := top - (f.fbits : Int)) h0 h1 hs
      fun ht => by have := hp ht; omega
    obtain ⟨bound, lead⟩ := significand_bounds half low high (k := f.fbits) (by omega)
    obtain ⟨bound0, lead0⟩ := significand_bounds half0 low high (k := f.fbits) le_rfl
    have normal : 2 ^ f.fbits ≤ n ∨ j = 0 := by
      by_cases hj0 : j = 0
      · exact .inr hj0
      · exact .inl (lead (by omega))
    rw [hj, ← f.mag_eq normal bound.le, show ((n : ℝ) + 1) = ((n + 1 : Nat) : ℝ) by push_cast; rfl,
      ← f.mag_eq (normal.imp_left (by omega)) bound] at half
    have parity : (j * 2 ^ f.fbits + n) % 2 = n % 2 := by
      have := f.two_le_pow_fbits
      have : 2 ∣ j * 2 ^ f.fbits := this.mul_left j
      omega
    have result := roundsTo_encoded sat hm half fun _ => (Fmt.tinyAt_iff (neg := neg) hm half0 (lead0 rfl) bound0).symm
    convert result using 1
    unfold Fmt.round Fmt.encoded roundedBits
    rw [if_neg (by simp [hz])]
    simp only [← htop, ← hq, hr, hr0, parity, show (q - f.qmin).toNat = j by omega, Nat.add_assoc]

end Sys2Proof.Machine
end

section
/-! Operations on finite operands as one rounding of their exact result (R35, R79). -/

namespace Sys2Proof.Machine
open Sys2Proof.Cert

section
variable {f : Fmt} {md : Nat} {a b c : FV} {x y z : ℝ}

/-- round_to of an exact magnitude. -/
theorem roundsTo_round_exact (f : Fmt) {md : Nat} (hm : md ≤ 4) (sat neg : Bool) (m : Nat) (e : Int) :
    roundsTo f md sat neg ((m : ℝ) * (2 : ℝ) ^ e) (f.round md sat neg m e false) := by
  simpa using roundsTo_round f hm sat neg (m := m) e (δ := 0) le_rfl one_pos (sticky := false) (by simp) (by simp)

theorem round_zero (f : Fmt) (md : Nat) (sat neg : Bool) (e : Int) : f.round md sat neg 0 e false = (f.signed neg 0, 0) := rfl

/-- The factor of a sign. -/
def signOf (n : Bool) : ℝ := if n then -1 else 1

theorem abs_signOf (n : Bool) : |signOf n| = 1 := by cases n <;> simp [signOf]

theorem signOf_xor (p q : Bool) : signOf (p ^^ q) = signOf p * signOf q := by cases p <;> cases q <;> simp [signOf]

/-- A value that stands for a number is finite. -/
theorem fin_of_standsFor (h : standsFor a x) : ∃ n m e, a = .fin n m e ∧ x = signOf n * (m * (2 : ℝ) ^ e) := by
  cases a with
  | nan s => exact h.elim
  | inf n => exact h.elim
  | fin n m e => exact ⟨n, m, e, rfl, h.trans (by rw [mul_assoc]; rfl)⟩

theorem standsFor_fin (n : Bool) (m : Nat) (e : Int) : standsFor (.fin n m e) (signOf n * (m * (2 : ℝ) ^ e)) := by
  rw [← mul_assoc]
  exact rfl

/-! ### Sums -/

/-- The exact sum of two numbers is an integer multiple of a power of two. -/
theorem exactAdd_eq (mode : Nat) (an : Bool) (am : Nat) (ae : Int) (bn : Bool) (bm : Nat) (be : Int) :
    ∃ (z : Int) (e : Int), exactAdd mode an am ae bn bm be =
      (if z = 0 then (if am = 0 && bm = 0 then zeroSign mode an bn else mode == 2, 0, e) else (decide (z < 0), z.natAbs, e)) ∧
      signOf an * (am * (2 : ℝ) ^ ae) + signOf bn * (bm * (2 : ℝ) ^ be) = z * (2 : ℝ) ^ e := by
  have cast : ∀ (s : Bool) (m : Nat) (k e : Int), e ≤ k →
      (((if s then -1 else 1 : Int) * (m * 2 ^ (k - e).toNat : Nat) : Int) : ℝ) * (2 : ℝ) ^ e = signOf s * (m * (2 : ℝ) ^ k) := by
    intro s m k e h
    have hk : (2 : ℝ) ^ k = 2 ^ (k - e).toNat * (2 : ℝ) ^ e := by
      rw [← zpow_natCast, ← zpow_add₀ (by norm_num)]
      congr 1
      omega
    rw [hk]
    cases s <;> simp [signOf] <;> ring
  refine ⟨_, min ae be, rfl, ?_⟩
  rw [Int.cast_add, add_mul, cast an am ae _ (min_le_left ..), cast bn bm be _ (min_le_right ..)]

theorem roundsTo_add (hm : md ≤ 4) (ha : standsFor a x) (hb : standsFor b y) (h : x + y ≠ 0) :
    roundsTo f md false (decide (x + y < 0)) |x + y| (f.add md a b) := by
  obtain ⟨an, am, ae, rfl, rfl⟩ := fin_of_standsFor ha
  obtain ⟨bn, bm, be, rfl, rfl⟩ := fin_of_standsFor hb
  obtain ⟨s, e, hs, hv⟩ := exactAdd_eq md an am ae bn bm be
  have pos : (0 : ℝ) < (2 : ℝ) ^ e := by positivity
  rw [hv] at h ⊢
  have hz : s ≠ 0 := fun h0 => h (by simp [h0])
  rw [if_neg hz] at hs
  have neg : decide ((s : ℝ) * (2 : ℝ) ^ e < 0) = decide (s < 0) := by
    rw [decide_eq_decide, ← Int.cast_lt_zero (R := ℝ)]
    exact ⟨fun h => neg_of_mul_neg_left h pos.le, fun h => mul_neg_of_neg_of_pos h pos⟩
  have mag : |(s : ℝ) * (2 : ℝ) ^ e| = (s.natAbs : ℝ) * (2 : ℝ) ^ e := by
    rw [abs_mul, abs_of_pos pos, Nat.cast_natAbs, Int.cast_abs]
  unfold Fmt.add
  simp only [hs]
  rw [neg, mag]
  exact roundsTo_round_exact f hm false _ _ _

theorem add_of_sum_zero (ha : standsFor a x) (hb : standsFor b y) (h : x + y = 0) :
    f.add md a b = sumZero f md (isNegative a) (isNegative b) := by
  obtain ⟨an, am, ae, rfl, rfl⟩ := fin_of_standsFor ha
  obtain ⟨bn, bm, be, rfl, rfl⟩ := fin_of_standsFor hb
  obtain ⟨s, e, hs, hv⟩ := exactAdd_eq md an am ae bn bm be
  have hz : s = 0 := by
    have : (s : ℝ) = 0 := (mul_eq_zero.mp (hv.symm.trans h)).resolve_right (by positivity)
    exact_mod_cast this
  rw [if_pos hz] at hs
  unfold Fmt.add
  simp only [hs, round_zero]
  have zeros : an = bn → am = 0 ∧ bm = 0 := by
    rintro rfl
    have sum : (am : ℝ) * (2 : ℝ) ^ ae + bm * (2 : ℝ) ^ be = 0 := by
      have sign : signOf an ≠ 0 := by cases an <;> norm_num [signOf]
      rw [← mul_add] at h
      exact (mul_eq_zero.mp h).resolve_left sign
    obtain ⟨hA, hB⟩ := (add_eq_zero_iff_of_nonneg (by positivity) (by positivity)).mp sum
    exact ⟨by exact_mod_cast (mul_eq_zero.mp hA).resolve_right (by positivity),
      by exact_mod_cast (mul_eq_zero.mp hB).resolve_right (by positivity)⟩
  unfold sumZero isNegative zeroSign
  by_cases hs' : an = bn
  · obtain ⟨rfl, rfl⟩ := zeros hs'
    simp [hs']
  · simp [hs']

/-! ### Products -/

theorem roundsTo_ofFV (hm : md ≤ 4) (ha : standsFor a x) : roundsTo f md false (isNegative a) |x| (f.ofFV md false a) := by
  obtain ⟨n, m, e, rfl, rfl⟩ := fin_of_standsFor ha
  rw [abs_mul, abs_signOf, one_mul, abs_of_nonneg (by positivity)]
  exact roundsTo_round_exact f hm false n m e

/-- The exact product of two numbers, which raises no flag. -/
theorem mul_of_standsFor (ha : standsFor a x) (hb : standsFor b y) :
    ∃ p, a.mul b = (p, 0) ∧ standsFor p (x * y) ∧ isNegative p = Bool.xor (isNegative a) (isNegative b) := by
  obtain ⟨an, am, ae, rfl, rfl⟩ := fin_of_standsFor ha
  obtain ⟨bn, bm, be, rfl, rfl⟩ := fin_of_standsFor hb
  refine ⟨_, rfl, ?_, rfl⟩
  have product := standsFor_fin (an ^^ bn) (am * bm) (ae + be)
  rw [signOf_xor, zpow_add₀ (by norm_num)] at product
  convert product using 1
  push_cast
  ring

theorem roundsTo_mulTo (hm : md ≤ 4) (ha : standsFor a x) (hb : standsFor b y) :
    roundsTo f md false (Bool.xor (isNegative a) (isNegative b)) |x * y| (f.mulTo md a b) := by
  obtain ⟨p, hp, value, sign⟩ := mul_of_standsFor ha hb
  unfold Fmt.mulTo
  simp only [hp, flags_zero_or]
  rw [← sign]
  exact roundsTo_ofFV hm value

theorem fma_eq_add {p : FV} (hp : a.mul b = (p, 0)) : f.fma md a b c = f.add md p c := by
  unfold Fmt.fma
  simp only [hp, flags_zero_or]

/-! ### Quotients -/

/-- A quotient whose dividend is shifted to k bits more than it has over the divisor has k bits. -/
theorem two_pow_le_shifted_div {m n k j : Nat} (hm : m ≠ 0) (hn : n ≠ 0) (hk : j + 1 + Nat.log2 n ≤ Nat.log2 m + k) : 2 ^ j ≤ m * 2 ^ k / n := by
  rw [Nat.le_div_iff_mul_le (Nat.pos_of_ne_zero hn)]
  calc 2 ^ j * n ≤ 2 ^ j * 2 ^ (Nat.log2 n + 1) := Nat.mul_le_mul_left _ Nat.lt_log2_self.le
    _ = 2 ^ (j + 1 + Nat.log2 n) := by rw [← pow_add]; congr 1; omega
    _ ≤ 2 ^ (Nat.log2 m + k) := Nat.pow_le_pow_right (by norm_num) hk
    _ = 2 ^ Nat.log2 m * 2 ^ k := pow_add ..
    _ ≤ m * 2 ^ k := Nat.mul_le_mul_right _ (Nat.log2_self_le hm)

theorem roundsTo_div (hm : md ≤ 4) (ha : standsFor a x) (hb : standsFor b y) (hy : y ≠ 0) :
    roundsTo f md false (Bool.xor (isNegative a) (isNegative b)) |x / y| (f.div md a b) := by
  obtain ⟨an, m, e, rfl, rfl⟩ := fin_of_standsFor ha
  obtain ⟨bn, n, g, rfl, rfl⟩ := fin_of_standsFor hb
  have hn : n ≠ 0 := fun h0 => hy (by simp [h0])
  have mag : |signOf an * (m * (2 : ℝ) ^ e) / (signOf bn * (n * (2 : ℝ) ^ g))| = m / n * (2 : ℝ) ^ (e - g) := by
    rw [abs_div, abs_mul, abs_signOf, abs_mul (signOf bn), abs_signOf, one_mul, one_mul, abs_of_nonneg (by positivity),
      abs_of_nonneg (by positivity), zpow_sub₀ (by norm_num)]
    ring
  rw [mag]
  unfold Fmt.div
  simp only [hn, if_false]
  split
  case isTrue h0 =>
    have zero := roundsTo_round_exact f hm false (Bool.xor an bn) 0 (e - g)
    rw [round_zero, Nat.cast_zero] at zero
    rw [h0, Nat.cast_zero, zero_div]
    exact zero
  case isFalse h0 =>
    obtain ⟨k, hk⟩ : ∃ k, k = f.fbits + 4 + Nat.log2 n - Nat.log2 m := ⟨_, rfl⟩
    rw [← hk]
    have npos : (0 : ℝ) < n := by positivity
    have rem : ((m * 2 ^ k % n : Nat) : ℝ) < n := by exact_mod_cast Nat.mod_lt _ (Nat.pos_of_ne_zero hn)
    have bits : f.fbits < Nat.log2 (m * 2 ^ k / n) := by
      have := two_pow_le_shifted_div (n := n) (k := k) (j := f.fbits + 1) h0 hn (by omega)
      exact (Nat.le_log2 (by have := Nat.two_pow_pos (f.fbits + 1); omega)).mpr this
    have value : (m : ℝ) / n * (2 : ℝ) ^ (e - g) =
        ((m * 2 ^ k / n : Nat) + ((m * 2 ^ k % n : Nat) : ℝ) / n) * (2 : ℝ) ^ (e - g - (k : Int)) := by
      have hdiv : (n : ℝ) * (m * 2 ^ k / n : Nat) + (m * 2 ^ k % n : Nat) = m * 2 ^ k := by exact_mod_cast Nat.div_add_mod (m * 2 ^ k) n
      rw [zpow_sub₀ (by norm_num) _ (k : Int), zpow_natCast, div_mul_eq_mul_div, div_eq_iff npos.ne']
      field_simp
      linear_combination -hdiv
    rw [value]
    refine roundsTo_round f hm false _ _ (by positivity) ((div_lt_one npos).mpr rem) ?_ fun _ => bits
    rw [bne_iff_ne, div_pos_iff_of_pos_right npos, Nat.cast_pos, Nat.pos_iff_ne_zero]

/-! ### Square roots -/

/-- The bits that `isqrt` finds one by one are those of the square root. -/
theorem isqrt_eq (n : Nat) {b r : Nat} (hr : r * r ≤ n) (hn : n < (r + 2 ^ b) * (r + 2 ^ b)) : isqrt n b r = Nat.sqrt n := by
  induction b generalizing r with
  | zero => exact Nat.eq_sqrt.mpr ⟨hr, hn⟩
  | succ b ih =>
    unfold isqrt
    split
    case isTrue h => exact ih h (by rwa [Nat.add_assoc, ← Nat.two_mul, ← pow_succ'])
    case isFalse h => exact ih hr (not_le.mp h)

theorem lt_sq_two_pow_log2 (v : Nat) : v < (0 + 2 ^ (Nat.log2 v / 2 + 1)) * (0 + 2 ^ (Nat.log2 v / 2 + 1)) := by
  rw [Nat.zero_add, ← pow_add]
  exact Nat.lt_log2_self.trans_le (Nat.pow_le_pow_right (by norm_num) (by omega))

theorem roundsTo_sqrt (hm : md ≤ 4) (ha : standsFor a x) (hx : 0 < x) : roundsTo f md false false (Real.sqrt x) (f.sqrt md a) := by
  obtain ⟨n, m, e, rfl, rfl⟩ := fin_of_standsFor ha
  have h0 : m ≠ 0 := fun h0 => by simp [h0] at hx
  have hn : n = false := by
    cases n
    · rfl
    · have : (0 : ℝ) ≤ m * (2 : ℝ) ^ e := by positivity
      simp only [signOf, if_true, neg_mul, one_mul] at hx
      linarith
  subst hn
  unfold Fmt.sqrt
  simp only [h0, if_false, Bool.false_eq_true]
  obtain ⟨sh, hsh⟩ : ∃ sh, sh = 2 * (f.fbits + 3) + (if e % 2 = 0 then 0 else 1) := ⟨_, rfl⟩
  obtain ⟨k, hk⟩ : ∃ k : Int, e = 2 * k + sh := ⟨(e - sh) / 2, by split at hsh <;> omega⟩
  obtain ⟨v, hv⟩ : ∃ v, v = m * 2 ^ sh := ⟨_, rfl⟩
  rw [← hsh, ← hv, isqrt_eq v (Nat.zero_le _) (lt_sq_two_pow_log2 v), show (e - (sh : Int)) / 2 = k by omega]
  have root : Real.sqrt (signOf false * (m * (2 : ℝ) ^ e)) = (Nat.sqrt v + (Real.sqrt v - Nat.sqrt v)) * (2 : ℝ) ^ k := by
    have square : signOf false * (m * (2 : ℝ) ^ e) = v * ((2 : ℝ) ^ k) ^ 2 := by
      rw [hv, hk, zpow_add₀ (by norm_num), zpow_natCast, mul_comm 2 k, zpow_mul, zpow_ofNat]
      simp only [signOf, Bool.false_eq_true, if_false]
      push_cast
      ring
    rw [square, Real.sqrt_mul (Nat.cast_nonneg v), Real.sqrt_sq (by positivity)]
    ring
  rw [root]
  have low : (Nat.sqrt v : ℝ) ≤ Real.sqrt v := Real.nat_sqrt_le_real_sqrt
  have high : Real.sqrt v < Nat.sqrt v + 1 := Real.real_sqrt_lt_nat_sqrt_succ
  refine roundsTo_round f hm false false k (by linarith) (by linarith) ?_ fun _ => ?_
  · rw [bne_iff_ne, sub_pos, Real.lt_sqrt (Nat.cast_nonneg _)]
    have le : Nat.sqrt v * Nat.sqrt v ≤ v := Nat.sqrt_le v
    rw [sq]
    norm_cast
    omega
  · have bits : 2 ^ (f.fbits + 1) ≤ Nat.sqrt v := by
      rw [Nat.le_sqrt, ← pow_add, hv]
      calc 2 ^ (f.fbits + 1 + (f.fbits + 1)) ≤ 2 ^ sh := Nat.pow_le_pow_right (by norm_num) (by omega)
        _ ≤ m * 2 ^ sh := Nat.le_mul_of_pos_left _ (Nat.pos_of_ne_zero h0)
    exact (Nat.le_log2 (by have := Nat.two_pow_pos (f.fbits + 1); omega)).mpr bits

end

end Sys2Proof.Machine

namespace Sys2Proof.Proofs
open Sys2Proof.Machine Sys2Proof.Cert

/-- Settles O11: each operation rounds its exact result once, which `round` brackets between two numbers of the format. -/
theorem rounding : Obligations.Rounding := by
  refine ⟨fun f md sat neg m e hm => roundsTo_round_exact f hm sat neg m e, fun f md a b c x y z hm ha hb hc => ?_, by decide, by decide⟩
  obtain ⟨p, hp, value, sign⟩ := mul_of_standsFor ha hb
  refine ⟨roundsTo_add hm ha hb, add_of_sum_zero ha hb, roundsTo_mulTo hm ha hb, fun h => ?_, fun h => ?_, roundsTo_div hm ha hb,
    roundsTo_sqrt hm ha⟩
  · exact fma_eq_add hp ▸ roundsTo_add hm value hc h
  · exact (fma_eq_add hp).trans (sign ▸ add_of_sum_zero value hc h)

end Sys2Proof.Proofs
end

section
/-! Element-wise instructions whose elements raise flags (R38, R122). -/

namespace Sys2Proof.Machine
open Sys2Proof.Cert

/-! ### Raised flags -/

/-- s with flags raised in the hart in focus (R37). -/
def State.raised (fl : Flags) (s : State) : State := s.modHart (Hart.raise fl)

theorem State.raised_zero (s : State) : s.raised 0 = s := by
  unfold State.raised State.modHart
  rw [Hart.raise_zero]

theorem Hart.raise_ff (fl : Flags) (h : Hart) : (h.raise fl).ff = h.ff ||| fl := by
  apply BitVec.eq_of_getLsbD_eq
  intro i hi
  unfold Hart.ff
  rw [BitVec.getLsbD_extractLsb', Hart.raise_status, getLsbD_setField, if_pos (by omega), Nat.add_sub_cancel_left, BitVec.testBit_toNat]
  simp [hi, Hart.ff]
  omega

theorem Hart.raise_raise (fl gl : Flags) (h : Hart) : (h.raise fl).raise gl = h.raise (fl ||| gl) := by
  have same : ((h.raise fl).raise gl).status = (h.raise (fl ||| gl)).status := by
    apply BitVec.eq_of_getLsbD_eq
    intro i _
    simp only [Hart.raise_status (fl := gl), Hart.raise_ff, Hart.raise_status, getLsbD_setField, BitVec.or_assoc]
    split <;> rfl
  exact congrArg (fun st => { h with status := st }) same

theorem State.raised_raised (fl gl : Flags) (s : State) : (s.raised fl).raised gl = s.raised (fl ||| gl) :=
  congrArg (fun h => { s with me := { s.me with hart := h } }) (Hart.raise_raise fl gl s.me.hart)

theorem State.raised_fen (fl : Flags) (s : State) : (s.raised fl).me.hart.fen = s.me.hart.fen := Hart.raise_fen fl s.me.hart

/-- The flags of the results r of a list of elements. -/
def flagsIn (r : Nat → Nat × Flags) (els : List Nat) : Flags := els.foldr (fun i fl => (r i).2 ||| fl) 0

theorem getLsbD_flagsIn (r : Nat → Nat × Flags) (els : List Nat) (b : Nat) :
    (flagsIn r els).getLsbD b = true ↔ ∃ i ∈ els, (r i).2.getLsbD b = true := by
  induction els with
  | nil => simp [flagsIn]
  | cons i rest ih => simp [flagsIn, ← ih]

/-! ### Runs -/

section
variable {f : Nat → M (Nat × Flags)} {r : Nat → Nat × Flags} {els : List Nat} {s : State}

/-- A run over elements that raise no enabled flag. -/
theorem elemRun_raised (h : ∀ i ∈ els, ∀ fl, f i (s.raised fl) = (.ok (r i), s.raised fl))
    (hok : ∀ i ∈ els, (r i).2 &&& s.me.hart.fen = 0) (fl : Flags) :
    elemRun f els (s.raised fl) = (.ok (els.map fun i => (i, (r i).1), flagsIn r els, none), s.raised (fl ||| flagsIn r els)) := by
  induction els generalizing fl with
  | nil => simp [elemRun, flagsIn]
  | cons i rest ih =>
    have one : observe (f i) (s.raised fl) = (.ok (.ok (r i)), s.raised fl) := by rw [M.run_observe, h i (by simp)]
    have next := ih (fun j hj => h j (by simp [hj])) (fun j hj => hok j (by simp [hj])) (fl ||| (r i).2)
    unfold elemRun
    rw [M.bind_of_ok one]
    dsimp only
    rw [M.bind_modify, show (s.raised fl).modHart (Hart.raise (r i).2) = _ from State.raised_raised .., M.bind_get, State.raised_fen,
      if_neg (not_not.mpr (hok i (by simp))), M.bind_of_ok next]
    simp [flagsIn, BitVec.or_assoc]

/-- A run up to an element that raises an enabled flag (R38). -/
theorem elemRun_trapped {pre post : List Nat} {e : Nat} (h : ∀ i ∈ pre ++ [e], ∀ fl, f i (s.raised fl) = (.ok (r i), s.raised fl))
    (hok : ∀ i ∈ pre, (r i).2 &&& s.me.hart.fen = 0) (hbad : (r e).2 &&& s.me.hart.fen ≠ 0) (fl : Flags) :
    ∃ gl hl, elemRun f (pre ++ e :: post) (s.raised fl) = (.ok (pre.map fun i => (i, (r i).1), gl,
      some (e, .trap { code := flagCause ((r e).2 &&& s.me.hart.fen), tval := BitVec.ofNat 64 e })), s.raised hl) := by
  induction pre generalizing fl with
  | nil =>
    have one : observe (f e) (s.raised fl) = (.ok (.ok (r e)), s.raised fl) := by rw [M.run_observe, h e (by simp)]
    refine ⟨(r e).2, fl ||| (r e).2, ?_⟩
    unfold elemRun
    rw [List.nil_append]
    dsimp only
    rw [M.bind_of_ok one]
    dsimp only
    rw [M.bind_modify, show (s.raised fl).modHart (Hart.raise (r e).2) = _ from State.raised_raised .., M.bind_get, State.raised_fen,
      if_pos hbad]
    rfl
  | cons i rest ih =>
    have one : observe (f i) (s.raised fl) = (.ok (.ok (r i)), s.raised fl) := by rw [M.run_observe, h i (by simp)]
    obtain ⟨gl, hl, next⟩ := ih (fun j hj => h j (by simp at hj ⊢; tauto)) (fun j hj => hok j (by simp [hj])) (fl ||| (r i).2)
    refine ⟨(r i).2 ||| gl, hl, ?_⟩
    unfold elemRun
    rw [List.cons_append]
    dsimp only
    rw [M.bind_of_ok one]
    dsimp only
    rw [M.bind_modify, show (s.raised fl).modHart (Hart.raise (r i).2) = _ from State.raised_raised .., M.bind_get, State.raised_fen,
      if_neg (not_not.mpr (hok i (by simp))), M.bind_of_ok next]
    rfl

/-! ### Runs that write a register -/

/-- A run over elements that raise no enabled flag, with what their values are put into. -/
theorem elementwise_put (h : ∀ i ∈ els, ∀ fl, f i (s.raised fl) = (.ok (r i), s.raised fl))
    (hok : ∀ i ∈ els, (r i).2 &&& s.me.hart.fen = 0) {put : List (Nat × Nat) → M Unit} {t : State}
    (hput : put (els.map fun i => (i, (r i).1)) (s.raised (flagsIn r els)) = (.ok (), t)) :
    elementwise els f put s = (.ok (flagsIn r els), t.modHart (Hart.count 6 els.length)) := by
  have run := elemRun_raised h hok 0
  rw [State.raised_zero, flags_zero_or] at run
  unfold elementwise
  rw [M.bind_get, M.bind_of_ok run]
  simp only [endElems]
  rw [M.bind_of_ok hput, M.bind_modify]
  rfl

/-- A run over elements that raise no enabled flag, with the writes of the register. -/
theorem elementwise_raised (h : ∀ i ∈ els, ∀ fl, f i (s.raised fl) = (.ok (r i), s.raised fl))
    (hok : ∀ i ∈ els, (r i).2 &&& s.me.hart.fen = 0) (d : BitVec 5) (lat : Nat) (fixed : Bool) :
    ∃ t, elementwise els f (fun l => putElems d s.me.vec.width l lat fixed) s = (.ok (flagsIn r els), t) ∧
      (s.raised (flagsIn r els)).elemsWritten t d els fun i => (r i).1 := by
  obtain ⟨change, regs⟩ := State.putV_spec d s.me.vec.width (els.map fun i => (i, (r i).1)) lat fixed (s.raised (flagsIn r els))
  exact ⟨_, elementwise_put h hok (putElems_eq ..), change.count 6 els.length, regs⟩

/-- t is s after the elements of a list have been written, where element e trapped (R38). -/
def State.elemsStopped (s t : State) (d : BitVec 5) (els : List Nat) (g : Nat → Nat) (e : Nat) : Prop :=
  ∃ fl u, (s.raised fl).elemsWritten u d els g ∧ t = u.modHart fun h => { h with es := BitVec.ofNat 18 e }

theorem State.elemsWritten.count {t : State} {d : BitVec 5} {g : Nat → Nat} (h : s.elemsWritten t d els g) (e n : Nat) :
    s.elemsWritten (t.modHart (Hart.count e n)) d els g := ⟨h.change.count e n, h.regs⟩

theorem flagCause_class (fl : Flags) : flagCause fl / 64 = 4 := by
  unfold flagCause
  split_ifs <;> rfl

/-- The end of a run that trapped outside class 2: the values made are written, and es is the element's index. -/
theorem endElems_of_trap (s0 : State) (d : BitVec 5) (els : List Nat) (g : Nat → Nat) (e lat : Nat) (fixed : Bool) {t : Trap}
    (ht : t.code / 64 ≠ 2) (u : State) :
    (endElems s0 (fun l => putElems d u.me.vec.width l lat fixed) (els.map fun i => (i, g i)) (some (e, .trap t))).stops u (.trap t)
      fun w => ∃ x, u.elemsWritten x d els g ∧ w = x.modHart fun h => { h with es := BitVec.ofNat 18 e } := by
  have left : t.left (s0.me.vec.vl.toNat - e) = t := if_neg ht
  unfold endElems M.stops
  simp only [left]
  cases els with
  | nil => exact ⟨_, rfl, _, (State.elemsWritten.nil u d g).count 6 0, rfl⟩
  | cons i rest =>
    obtain ⟨change, regs⟩ := State.putV_spec d u.me.vec.width ((i :: rest).map fun i => (i, g i)) lat fixed u
    have wrote : u.elemsWritten _ d (i :: rest) g := ⟨change, regs⟩
    exact ⟨_, rfl, _, wrote.count 6 _, rfl⟩

/-- A run up to an element that raises an enabled flag, with the writes of the elements below it. -/
theorem elementwise_trapped {pre post : List Nat} {e : Nat} (h : ∀ i ∈ pre ++ [e], ∀ fl, f i (s.raised fl) = (.ok (r i), s.raised fl))
    (hok : ∀ i ∈ pre, (r i).2 &&& s.me.hart.fen = 0) (hbad : (r e).2 &&& s.me.hart.fen ≠ 0) (d : BitVec 5) (lat : Nat) (fixed : Bool) :
    (elementwise (pre ++ e :: post) f fun l => putElems d s.me.vec.width l lat fixed).stops s
      (.trap { code := flagCause ((r e).2 &&& s.me.hart.fen), tval := BitVec.ofNat 64 e })
      fun t => s.elemsStopped t d pre (fun i => (r i).1) e := by
  obtain ⟨gl, hl, run⟩ := elemRun_trapped (post := post) h hok hbad 0
  rw [State.raised_zero] at run
  obtain ⟨t, stop, u, wrote, ht⟩ := endElems_of_trap s d pre (fun i => (r i).1) e lat fixed
    (t := { code := flagCause ((r e).2 &&& s.me.hart.fen), tval := BitVec.ofNat 64 e }) (by rw [flagCause_class]; decide) (s.raised hl)
  refine ⟨t, ?_, hl, u, wrote, ht⟩
  unfold elementwise
  rw [M.bind_get, M.bind_of_ok run]
  exact M.bind_of_error stop

end

end Sys2Proof.Machine
end

section
/-! Reusable element-wise instructions with flags, as the statements put them (R38, R122). -/

namespace Sys2Proof.Machine
open Sys2Proof.Cert

section
variable {s t : State} {d : BitVec 5} {els : List Nat} {p : Nat → Prop} {g : Nat → Nat} {fl : Flags}

/-- What elements written with flags raised leave of the registers (R122). -/
theorem State.elemsWritten.regs_of_raised (h : s.vectorReady) (hw : (s.raised fl).elemsWritten t d els g) (hp : ∀ i, i ∈ els ↔ p i)
    (hl : ∀ i, p i → i < s.me.vec.vl.toNat) : s.elemsBecome t d s.me.vec.width p g ∧ s.keepsV t [d] := by
  obtain ⟨hpv, -, -, -⟩ := h.plain
  have regs := hw.regs
  have copy : (s.raised fl).copyV d = none := copyV_of_noPfx hpv d
  simp only [copy, reduceCtorEq, or_false] at regs
  refine ⟨elemsBecome_of_setElems h.runs ?_ hp hl, fun n hn => ?_⟩
  · rw [regs d, if_pos rfl]
    rfl
  · rw [regs n, if_neg (by simpa using hn)]
    rfl

/-- The completion of an instruction that wrote elements and raised flags. -/
theorem State.vecChange.completes_of_raised (h : s.vectorReady) (hc : (s.raised fl).vecChange t) (st : BitVec 3) :
    let u := t.clearKf.complete st 0 (s.pc + 4)
    s.vecFrame u st (s.me.hart.statusWith fl) ∧ u.me.vec.v = t.me.vec.v := by
  obtain ⟨-, hfm, -, -⟩ := h.plain
  have fm : (s.raised fl).me.hart.fm = false := (Hart.raise_getLsbD_status fl _ (by omega)).trans hfm
  have step : ((s.raised fl).me.hart.ss && !(s.raised fl).me.hart.prv) = false := by
    rw [← h.runs.noStep]
    exact congrArg₂ (fun x y => x && !y) (Hart.raise_getLsbD_status _ _ (by omega)) (Hart.raise_getLsbD_status _ _ (by omega))
  rw [clearKf_of_off (hc.fm.trans fm)]
  exact hc.completes step st

theorem State.elemsStopped.frame {e : Nat} (h : s.elemsStopped t d els g e) (he : e < 2 ^ 18) :
    t.pc = s.pc ∧ t.es = e ∧ t.mem = s.mem ∧ t.me.hart.x = s.me.hart.x ∧ t.me.vec.k = s.me.vec.k := by
  obtain ⟨fl, u, wrote, rfl⟩ := h
  obtain ⟨_, _, _, _, _, _, _, rfl⟩ := wrote.change
  refine ⟨rfl, ?_, rfl, rfl, rfl⟩
  show (BitVec.ofNat 18 e).toNat = e
  rw [BitVec.toNat_ofNat, Nat.mod_eq_of_lt he]

theorem State.elemsStopped.regs (h : s.vectorReady) {e : Nat} (hs : s.elemsStopped t d els g e) (hp : ∀ i, i ∈ els ↔ p i)
    (hl : ∀ i, p i → i < s.me.vec.vl.toNat) : s.elemsBecome t d s.me.vec.width p g ∧ s.keepsV t [d] := by
  obtain ⟨fl, u, wrote, rfl⟩ := hs
  have regs := wrote.regs_of_raised h hp hl
  exact regs

end

/-- The elements below one of the active elements. -/
theorem actives_split {s : State} {k : BitVec 3} {lo e : Nat} (he : e ∈ s.actives k lo) :
    ∃ pre post, s.actives k lo = pre ++ e :: post ∧ ∀ n, n ∈ pre ↔ n ∈ s.actives k lo ∧ n < e := by
  obtain ⟨pre, post, hs⟩ := List.append_of_mem he
  have sorted := actives_pairwise s k lo
  rw [hs, List.pairwise_append, List.pairwise_cons] at sorted
  obtain ⟨-, ⟨above, -⟩, below⟩ := sorted
  refine ⟨pre, post, hs, fun n => ⟨fun hn => ⟨by simp [hs, hn], below n hn e (by simp)⟩, fun ⟨hn, hlt⟩ => ?_⟩⟩
  rw [hs, List.mem_append, List.mem_cons] at hn
  rcases hn with hn | rfl | hn
  · exact hn
  · omega
  · have := above n hn
    omega

/-- A reusable instruction whose run stops, where nothing could be reused. -/
theorem reusable_stops {s : State} (hi : s.reuseIdle) {lat : Nat} {fixed : Bool} {q : ReuseReq}
    {run : M (Option (Flags × Option LoadRecord))} {e : Stop} {Q : State → Prop} (h : run.stops s e Q) :
    (reusable q lat fixed run).stops s e Q := by
  simpa using hinted_stops (hint := 0) (lat := lat) (fixed := fixed) (q := q) hi h

/-- A reusable element-wise instruction whose elements are computed from the registers as they stand at its issue. -/
theorem vecFlagged_of_reusable {s : State} (h : s.vectorReady) {i : Instr} {d : BitVec 5} {k : BitVec 3} (q : VReq) {body : M Unit}
    {req : ReuseReq} {lat : Nat} {fixed : Bool} {F : Nat → M (Nat × Flags)} {r : Nat → Nat × Flags} (hx : exec i s = runVector q body s)
    (hsh : q.shape = true) (hany : q.anyEs = false) (hkf : q.kf = true)
    (hb : body s = reusable req lat fixed (do
      let fl ← elementwise (s.actives k s.es) F (fun l => putElems d s.me.vec.width l lat fixed)
      pure (some (fl, none))) s)
    (hF : ∀ n, s.active k n → ∀ fl, F n (s.raised fl) = (.ok (r n), s.raised fl)) :
    vecFlagged s i q.st d s.me.vec.width (s.active k) r := by
  obtain ⟨hpv, hfm, hidle, -⟩ := h.plain
  have act : ∀ n, n ∈ s.actives k s.es ↔ s.active k n := fun n => mem_actives_iff_active hfm hpv
  have inVl : ∀ n, s.active k n → n < s.me.vec.vl.toNat := fun n hn => hn.2.1
  refine ⟨fun hok => ?_, fun e he hbad hlow => ?_⟩
  · have gives : s.es < s.me.vec.vl.toNat → body.gives s fun _ t =>
        (s.raised (flagsIn r (s.actives k s.es))).elemsWritten t d (s.actives k s.es) fun n => (r n).1 := fun _ => by
      obtain ⟨t, ht, wrote⟩ := elementwise_raised (fun n hn => hF n ((act n).mp hn)) (fun n hn => hok n ((act n).mp hn)) d lat fixed
      have run : (do
          let fl ← elementwise (s.actives k s.es) F (fun l => putElems d s.me.vec.width l lat fixed)
          pure (some (fl, none)) : M (Option (Flags × Option LoadRecord))) s = (.ok (some (_, none)), t) := (M.bind_of_ok ht).trans rfl
      obtain ⟨u, hu, frees⟩ := reusable_of_idle (q := req) (lat := lat) (fixed := fixed) hidle wrote.change.others run
      exact ⟨(), u, hb.trans hu, wrote.of_frees frees⟩
    have idle : ¬s.es < s.me.vec.vl.toNat →
        (s.raised (flagsIn r (s.actives k s.es))).elemsWritten s d (s.actives k s.es) fun n => (r n).1 := fun hes => by
      rw [actives_nil k hes, show flagsIn r [] = 0 from rfl, State.raised_zero]
      exact .nil ..
    obtain ⟨t, ht, wrote⟩ := runVector_gives h.runs q body (pairs_of_noPfx hpv _) (nullified_of_noPfx hpv) hsh hany gives idle
      fun t ht => ht.change.streams.trans h.runs.streams
    obtain ⟨becomes, keeps⟩ := wrote.regs_of_raised h act inVl
    obtain ⟨frame, hv⟩ := wrote.change.completes_of_raised h q.st
    rw [if_pos hkf] at ht
    refine ⟨_, flagsIn r (s.actives k s.es), hx.trans ht, elemsBecome_of_v_eq becomes hv, keepsV_of_v_eq keeps hv, frame, fun b _ => ?_⟩
    simp only [getLsbD_flagsIn, act]
  · obtain ⟨pre, post, split, below⟩ := actives_split ((act e).mpr he)
    simp only [act] at below
    obtain ⟨hlo, hlt, -⟩ := id he
    have stops := elementwise_trapped (f := F) (post := post) (fun n hn => hF n ?now) (fun n hn => hlow n ((below n).mp hn).2 ((below n).mp hn).1)
      hbad d lat fixed
    case now =>
      rcases List.mem_append.mp hn with hn | hn
      · exact ((below n).mp hn).1
      · exact List.mem_singleton.mp hn ▸ he
    rw [← split] at stops
    obtain ⟨t, ht, stopped⟩ := runVector_stops h.runs q body (pairs_of_noPfx hpv _) (nullified_of_noPfx hpv) hsh (lt_of_le_of_lt hlo hlt)
      (show body.stops s _ _ by unfold M.stops; rw [hb]; exact reusable_stops hidle (M.stops_bind_left stops))
    have small : e < 2 ^ 18 := by have := h.runs.vl_le.2; omega
    obtain ⟨hpc, hes, hmem, hxr, hk⟩ := stopped.frame small
    obtain ⟨becomes, keeps⟩ := stopped.regs h below fun n hn => inVl n hn.1
    exact ⟨t, hx.trans (hpc ▸ ht), hes, becomes, keeps, hmem, hxr, hk⟩

end Sys2Proof.Machine
end

section
/-! Vector floating-point instructions (R126 to R129). -/

namespace Sys2Proof.Machine
open Sys2Proof.Cert

/-- An instruction whose width, class or registers do not suit traps before anything else that it does (R16, R66). -/
theorem runVector_illShaped {s : State} (h : s.vectorReady) {q : VReq} (body : M Unit) (hq : q.shape = false) :
    runVector q body s = .next (s.enterTrap false s.pc { code := 0x183 }) := by
  obtain ⟨hpv, -, -, -⟩ := h.plain
  have hg : (s.me.vec.grant == 0) = false := by
    have := h.runs.grant_pos
    simp only [beq_eq_false_iff_ne]
    omega
  refine runM_gate_trap _ _ h.runs.live ?_
  rw [gate_plain _ s h.runs.pend hpv]
  simp [h.runs.allowed, hg, h.runs.legal, hq]

/-- An element-wise computation of a ready hart, with the flags of its elements (R38, R122). -/
theorem vecFlagged_vArith {s : State} (h : s.vectorReady) {i : Instr} (q : VArith) {f : State → Nat → List Nat → Nat × Flags}
    (hx : exec i s = vArith q f s) (hsh : q.shape = true) (hr : q.reuse = true) {r : Nat → Nat × Flags}
    (hf : ∀ n, f s s.me.vec.width ((q.srcs ++ if q.old then [q.d] else []).map fun v => s.elem v n) = r n) :
    vecFlagged s i q.st q.d s.me.vec.width (s.active q.k) r := by
  unfold vArith at hx
  simp only [hr, if_true] at hx
  refine vecFlagged_of_reusable h _ hx hsh rfl rfl (M.bind_get _ s) fun n _ fl => ?_
  have read := srcElems_of_unbound (s := s.raised fl) h.runs.streams h.runs.overrides s.me.vec.width n (q.srcs ++ if q.old then [q.d] else [])
  rw [M.bind_of_ok read, ← hf n]
  simp only [flags_zero_or]
  rfl

theorem vecFmt_bits {l : BitVec 1} {w : Nat} {g : Fmt} (h : vecFmt l w = some g) : g.bits = w := by
  unfold vecFmt at h
  split at h
  case h_1 =>
    cases h
    split <;> rfl
  case h_2 =>
    rw [Option.ite_none_left_eq_some] at h
    cases h.2
    rfl
  case h_3 =>
    rw [Option.ite_none_left_eq_some] at h
    cases h.2
    rfl
  case h_4 => cases h

section
variable {s : State} {i : Instr} {op : Nat} {st : BitVec 3} {d : BitVec 5} {srcs : List (BitVec 5)} {old : Bool} {k : BitVec 3}
  {l : BitVec 1} {lat : Nat → Nat} {fixed : Bool} {f : Fmt → Nat → List Nat → Nat × Flags}

/-- A vector floating-point instruction at a width that has a format gives its function of the active elements; at another it traps. -/
theorem vFp_results (h : s.vectorReady) (hx : exec i s = vFp op st d srcs old k l lat fixed f s) {r : Fmt → Nat → Nat × Flags}
    (hr : ∀ g n, f g s.me.hart.rm ((srcs ++ if old then [d] else []).map fun v => s.elem v n) = r g n) :
    (∀ g, vecFmt l s.me.vec.width = some g → vecFlagged s i st d g.bits (s.active k) (r g)) ∧
      (vecFmt l s.me.vec.width = none → exec i s = .next (s.enterTrap false s.pc { code := 0x183 })) := by
  unfold vFp at hx
  refine ⟨fun g hg => ?_, fun hg => hx.trans (runVector_illShaped h _ (by simp [hg]))⟩
  rw [vecFmt_bits hg]
  refine vecFlagged_vArith h _ hx (by simp [hg]) rfl fun n => ?_
  simp only [hg, hr g n]

end

/-! ### Signs (R126) -/

theorem b2n_odd (x : Nat) : b2n (x % 2 == 1) = x % 2 := by
  unfold b2n
  rcases Nat.mod_two_eq_zero_or_one x with h | h <;> simp [h]

theorem b2n_not_odd (x : Nat) : b2n (!(x % 2 == 1)) = 1 - x % 2 := by
  unfold b2n
  rcases Nat.mod_two_eq_zero_or_one x with h | h <;> simp [h]

theorem b2n_xor_odd (x y : Nat) : b2n ((x % 2 == 1) ^^ (y % 2 == 1)) = (x + y) % 2 := by
  unfold b2n
  rcases Nat.mod_two_eq_zero_or_one x with h | h <;> rcases Nat.mod_two_eq_zero_or_one y with h' | h' <;> simp [Nat.add_mod, h, h']

end Sys2Proof.Machine

namespace Sys2Proof.Proofs
open Sys2Proof.Machine Sys2Proof.Cert

/-- Settles O38: each instruction is the same element-wise computation with its own function of a format and its operands. -/
theorem vectorFloatResults : Obligations.VectorFloatResults := by
  intro s st d a b k l h m gives bits
  have sign : ∀ (g : Fmt) (x y : Nat) (f : Bool → Bool → Bool) (z : Nat), b2n (f (x / 2 ^ (g.bits - 1) % 2 == 1) (y / 2 ^ (g.bits - 1) % 2 == 1)) = z →
      ((g.withSign [x, y] f, 0) : Nat × Flags) = (x % 2 ^ (g.bits - 1) + z * 2 ^ (g.bits - 1), 0) := fun g x y f z hz => hz ▸ rfl
  refine ⟨?_, ?_, ?_, ?_, ?_, ?_, ?_, ?_, ?_, ?_, ?_, ?_, ?_, ?_, ?_, ?_, ?_, ?_, ?_⟩
  · exact vFp_results (i := .vfadd st d a b k l) h (rfl : _ = execVfadd st d a b k l s) fun _ _ => rfl
  · exact vFp_results (i := .vfsub st d a b k l) h (rfl : _ = execVfsub st d a b k l s) fun _ _ => rfl
  · exact vFp_results (i := .vfmul st d a b k l) h (rfl : _ = execVfmul st d a b k l s) fun _ _ => rfl
  · exact vFp_results (i := .vfdiv st d a b k l) h (rfl : _ = execVfdiv st d a b k l s) fun _ _ => rfl
  · exact vFp_results (i := .vfsqrt st d a k l) h (rfl : _ = execVfsqrt st d a k l s) fun _ _ => rfl
  · exact vFp_results (i := .vfexp2 st d a k l) h (rfl : _ = execVfexp2 st d a k l s) fun _ _ => rfl
  · exact vFp_results (i := .vflog2 st d a k l) h (rfl : _ = execVflog2 st d a k l s) fun _ _ => rfl
  · exact vFp_results (i := .vfrece st d a k l) h (rfl : _ = execVfrece st d a k l s) fun _ _ => rfl
  · exact vFp_results (i := .vfrsqe st d a k l) h (rfl : _ = execVfrsqe st d a k l s) fun _ _ => rfl
  · exact vFp_results (i := .vfma st d a b k l) h (rfl : _ = execVfma st d a b k l s) fun _ _ => rfl
  · exact vFp_results (i := .vfms st d a b k l) h (rfl : _ = execVfms st d a b k l s) fun _ _ => rfl
  · exact vFp_results (i := .vfnma st d a b k l) h (rfl : _ = execVfnma st d a b k l s) fun _ _ => rfl
  · exact vFp_results (i := .vfnms st d a b k l) h (rfl : _ = execVfnms st d a b k l s) fun _ _ => rfl
  · exact vFp_results (i := .vfmin st d a b k l) h (rfl : _ = execVfmin st d a b k l s) fun _ _ => rfl
  · exact vFp_results (i := .vfmax st d a b k l) h (rfl : _ = execVfmax st d a b k l s) fun _ _ => rfl
  · exact vFp_results (i := .vfsgnj st d a b k l) h (rfl : _ = execVfsgnj st d a b k l s) fun g n => sign g _ _ _ _ (b2n_odd _)
  · exact vFp_results (i := .vfsgnjn st d a b k l) h (rfl : _ = execVfsgnjn st d a b k l s) fun g n => sign g _ _ _ _ (b2n_not_odd _)
  · exact vFp_results (i := .vfsgnjx st d a b k l) h (rfl : _ = execVfsgnjx st d a b k l s) fun g n => sign g _ _ _ _ (b2n_xor_odd _ _)
  · exact vFp_results (i := .vfkind st d a k l) h (rfl : _ = execVfkind st d a k l s) fun _ _ => rfl

end Sys2Proof.Proofs
end

section
/-! Whole-destination instructions and reductions, where no flag is enabled (R38, R142). -/

namespace Sys2Proof.Machine
open Sys2Proof.Cert

/-! ### Whole-destination runs -/

theorem State.raised_interruptAhead (fl : Flags) (s : State) : (s.raised fl).interruptAhead = s.interruptAhead := by
  have ie : (s.raised fl).me.hart.ie = s.me.hart.ie := Hart.raise_getLsbD_status fl _ (by omega)
  have me : (s.raised fl).me.hart.me = s.me.hart.me := Hart.raise_getLsbD_status fl _ (by omega)
  have same : (s.raised fl).interrupts = s.interrupts := by
    unfold State.interrupts
    dsimp only
    rw [ie, me]
    rfl
  exact congrArg (bestBy id) same

theorem State.vecChange.interruptAhead {s t : State} (h : s.vecChange t) : t.interruptAhead = s.interruptAhead := by
  obtain ⟨_, _, _, _, _, _, _, rfl⟩ := h
  rfl

/-- A whole-destination run that ends well where nothing could interrupt it (R38, R287). -/
theorem wholeVector_gives {α : Type} {m : M α} {s : State} {Q : α → State → Prop}
    (h : m.gives s fun a t => t.interruptAhead = none ∧ Q a t) : (wholeVector m).gives s Q := by
  obtain ⟨a, t, hm, ht, hQ⟩ := h
  have dest : wholeDest m s = (.ok a, t) := by
    unfold wholeDest
    rw [M.bind_get, M.bind_of_ok ((M.run_observe m s).trans (by rw [hm]))]
    rfl
  refine ⟨a, t, ?_, hQ⟩
  unfold wholeVector
  rw [M.bind_get, M.bind_of_ok dest, M.bind_of_ok ((M.run_observe (trapPoint 0) t).trans (by rw [trapPoint_of_calm ht]))]
  rfl

/-- A reusable instruction whose run ends well, where nothing could be reused. -/
theorem reusable_gives {s : State} (hi : s.reuseIdle) {lat : Nat} {fixed : Bool} {q : ReuseReq}
    {run : M (Option (Flags × Option LoadRecord))} {Q : State → Prop}
    (h : run.gives s fun _ t => t.others = s.others ∧ ∀ u, t.frees u → Q u) : (reusable q lat fixed run).gives s fun _ t => Q t := by
  simpa using hinted_gives (hint := 0) (lat := lat) (fixed := fixed) (q := q) hi h

/-- Flags of an operation, none of which is enabled. -/
theorem raiseFlags_of_fen {s : State} (h : s.me.hart.fen = 0) (fl gl : Flags) (v : X) :
    raiseFlags gl v (s.raised fl) = (.ok (), s.raised (fl ||| gl)) := by
  have none_ : gl &&& (0 : Flags) = 0 := BitVec.and_zero
  rw [raiseFlags_eq, State.raised_fen, h, if_pos none_]
  exact congrArg _ (State.raised_raised fl gl s)

theorem raiseEach_of_fen {s : State} (h : s.me.hart.fen = 0) (fls : List Flags) (fl : Flags) :
    reduceOp.raiseEach fls (s.raised fl) = (.ok (), s.raised (fls.foldl (· ||| ·) fl)) := by
  induction fls generalizing fl with
  | nil => rfl
  | cons gl rest ih => exact (M.bind_of_ok (raiseFlags_of_fen h fl gl 0)).trans (ih (fl ||| gl))

/-! ### Reductions -/

/-- All active elements, those below es among them, which whole-destination instructions process (R5, R38). -/
theorem actives_all {s : State} (hf : s.me.hart.fm = false) (hv : s.me.hart.pv = false) (k : BitVec 3) :
    s.actives k 0 = (List.range s.me.vec.vl.toNat).filter fun n => (s.rK k).getLsbD n := by
  unfold State.actives
  simp [State.masked, State.kfOk, State.pred, hf, hv]

theorem srcWhole_of_unbound {s : State} (hs : s.me.vec.streams = []) (ho : s.me.hart.overrides = []) (n : BitVec 5) (w i : Nat) :
    srcWhole n w i s = (.ok (getElem s.me.vec.grant w s.me.vec.v[n.toNat] i), s) := by
  unfold srcWhole
  exact (M.bind_of_ok (srcElem_of_unbound hs ho n w i)).trans (M.bind_of_ok (raiseFlags_zero ..))

theorem srcList_of_unbound {s : State} (hs : s.me.vec.streams = []) (ho : s.me.hart.overrides = []) (n : BitVec 5) (w : Nat)
    (els : List Nat) : srcList n w els s = (.ok (els.map fun i => (i, getElem s.me.vec.grant w s.me.vec.v[n.toNat] i)), s) := by
  induction els with
  | nil => rfl
  | cons i rest ih =>
    unfold srcList
    rw [M.bind_of_ok (srcWhole_of_unbound hs ho ..), M.bind_of_ok ih]
    rfl

/-- What a reduction answers without its flags: element 0 of v[d], for an instruction whose flags are OR'ed (R38, R142). -/
theorem reduceOp_gives {s : State} (h : s.vectorReady) (hes : s.es < s.me.vec.vl.toNat) {i : Instr} {op : Nat} {st : BitVec 3}
    {d a b : BitVec 5} {k : BitVec 3} {ok : Bool} {lat : State → Nat → Nat} {f : State → Nat → List (Nat × Nat) → Nat × List Flags}
    (hx : exec i s = reduceOp op st d a b k ok lat f s) (hok : ok = true) {r : Nat} {fls : List Flags}
    (hr : f s (s.elem b 0) (((List.range s.me.vec.vl.toNat).filter fun n => (s.rK k).getLsbD n).map fun n => (n, s.elem a n)) = (r, fls))
    (hfen : fls = [] ∨ s.me.hart.fen = 0) :
    ∃ t, exec i s = .next t ∧ s.elemsBecome t d s.me.vec.width (fun n => n = 0) (fun _ => r) ∧ s.keepsV t [d] ∧
      s.vecFrame t st (s.me.hart.statusWith (fls.foldl (· ||| ·) 0)) := by
  obtain ⟨hpv, hfm, hidle, hcalm⟩ := h.plain
  rw [← actives_all hfm hpv] at hr
  obtain ⟨fl, hfl⟩ : ∃ fl, fl = fls.foldl (· ||| ·) 0 := ⟨_, rfl⟩
  have raise : reduceOp.raiseEach fls s = (.ok (), s.raised fl) := by
    rcases hfen with rfl | hfen
    · rw [hfl, List.foldl_nil, State.raised_zero]
      rfl
    · rw [hfl, ← raiseEach_of_fen hfen, State.raised_zero]
  obtain ⟨t, ht, wrote⟩ : ∃ t, exec i s = .next (t.clearKf.complete st 0 (s.pc + 4)) ∧
      (s.raised fl).elemsWritten t d [0] fun _ => r := by
    rw [hx]
    unfold reduceOp
    refine runVector_gives h.runs _ _ (pairs_of_noPfx hpv _) (nullified_of_noPfx hpv) hok rfl (fun _ => ?_) (fun hb => absurd hes hb)
      fun t ht => ht.change.streams.trans h.runs.streams
    refine M.gives_bind ⟨s, s, rfl, reusable_gives hidle (wholeVector_gives ?_)⟩
    obtain ⟨change, regs⟩ := State.putV_spec d s.me.vec.width [(0, r)] (lat s (s.actives k 0).length) false (s.raised fl)
    refine M.gives_bind ⟨s.elem b 0, s, srcWhole_of_unbound h.runs.streams h.runs.overrides b _ 0, ?_⟩
    refine M.gives_bind ⟨(s.actives k 0).map fun n => (n, s.elem a n), s,
      srcList_of_unbound h.runs.streams h.runs.overrides a _ _, ?_⟩
    beta_reduce
    rw [hr]
    refine M.gives_bind ⟨(), s.raised fl, raise, M.gives_bind ⟨(), _, putElems_eq .., M.gives_bind ⟨(), _, rfl, _, _, rfl, ?_⟩⟩⟩
    have wrote := State.elemsWritten.count (t := State.putV ..) (g := fun _ => r) (els := [0]) ⟨change, regs⟩ 6 (s.actives k 0).length
    exact ⟨wrote.change.interruptAhead.trans ((State.raised_interruptAhead fl s).trans hcalm), wrote.change.others,
      fun u hu => wrote.of_frees hu⟩
  obtain ⟨becomes, keeps⟩ := wrote.regs_of_raised h (p := fun n => n = 0) (fun n => by simp) fun n hn => by omega
  obtain ⟨frame, hv⟩ := wrote.change.completes_of_raised h st
  exact ⟨_, ht, elemsBecome_of_v_eq becomes hv, keepsV_of_v_eq keeps hv, hfl ▸ frame⟩

/-- A fold of numbers of a width is the fold of the words. -/
theorem foldl_words {w : Nat} {f : Nat → Nat → Nat} {g : BitVec w → BitVec w → BitVec w} {v : Nat → Nat}
    (hf : ∀ x y : BitVec w, f x.toNat y.toNat % 2 ^ w = (g x y).toNat) (hv : ∀ n, (BitVec.ofNat w (v n)).toNat = v n) (els : List Nat)
    (x : BitVec w) : (els.map fun n => (n, v n)).foldl (fun acc e => f acc e.2 % 2 ^ w) x.toNat =
      (els.foldl (fun acc n => g acc (BitVec.ofNat w (v n))) x).toNat := by
  induction els generalizing x with
  | nil => rfl
  | cons n rest ih =>
    rw [List.map_cons, List.foldl_cons, List.foldl_cons, ← ih, ← hf, hv]

section
variable {s : State} (h : s.vectorReady) (hes : s.es < s.me.vec.vl.toNat) {i : Instr} {op : Nat} {st : BitVec 3} {d a b : BitVec 5}
  {k : BitVec 3}
include h hes

/-- An integer reduction gives the fold of the words (R142). -/
theorem intReduce_gives (h8 : 8 ≤ s.me.vec.width) {f : Nat → Nat → Nat → Nat}
    (hx : exec i s = intReduce op st d a b k f s) {g : BitVec s.me.vec.width → BitVec s.me.vec.width → BitVec s.me.vec.width}
    (hf : ∀ x y : BitVec s.me.vec.width, f s.me.vec.width x.toNat y.toNat % 2 ^ s.me.vec.width = (g x y).toNat) :
    vecGives s i st d s.me.vec.width (fun n => n = 0) fun _ =>
      (((List.range s.me.vec.vl.toNat).filter fun n => (s.rK k).getLsbD n).foldl
        (fun acc n => g acc (BitVec.ofNat s.me.vec.width (s.elem a n))) (BitVec.ofNat s.me.vec.width (s.elem b 0))).toNat := by
  have status : s.me.hart.statusWith 0 = s.me.hart.status := congrArg Hart.status (Hart.raise_zero s.me.hart)
  obtain ⟨t, ht, becomes, keeps, frame⟩ := reduceOp_gives h hes hx (decide_eq_true h8) rfl (.inl rfl)
  rw [← foldl_words hf (toNat_elem s a), toNat_elem]
  exact ⟨t, ht, becomes, keeps, status ▸ frame⟩

/-- A floating-point reduction where no flag is enabled (R142). -/
theorem fpReduce_gives (hfen : s.me.hart.fen = 0) {l : BitVec 1} {fmt : Fmt} (hg : vecFmt l s.me.vec.width = some fmt) {lat : State → Nat → Nat}
    {f : Fmt → Nat → State → Nat → List (Nat × Nat) → Nat × List Flags} (hx : exec i s = fpReduce op st d a b k l lat f s)
    {r : Nat × List Flags}
    (hr : f fmt s.me.hart.rm s (s.elem b 0) (((List.range s.me.vec.vl.toNat).filter fun n => (s.rK k).getLsbD n).map fun n => (n, s.elem a n)) =
      r) :
    ∃ t, exec i s = .next t ∧ s.elemsBecome t d fmt.bits (fun n => n = 0) (fun _ => r.1) ∧ s.keepsV t [d] ∧
      s.vecFrame t st (s.me.hart.statusWith (r.2.foldl (· ||| ·) 0)) := by
  rw [vecFmt_bits hg]
  exact reduceOp_gives h hes hx (by rw [hg]; rfl) (by simpa only [hg] using hr) (.inr hfen)

end

/-- The ordered sum and its flags, taken together (R47). -/
theorem orderedSum_eq (g : Fmt) (m : Nat) (l : List (Nat × Nat)) (x : Nat) (fl : Flags) :
    l.foldl (fun (acc : Nat × Flags) e => ((g.add m (g.decode acc.1) (g.decode e.2)).1, acc.2 ||| (g.add m (g.decode acc.1) (g.decode e.2)).2))
      (x, fl) = ((orderedSum g m x l).1, (orderedSum g m x l).2.foldl (· ||| ·) fl) := by
  induction l generalizing x fl with
  | nil => rfl
  | cons e rest ih => exact ih _ _

/-- A fold that gathers the flags in a list, and the fold that unites them. -/
theorem foldl_flags (f : Nat → Nat → Nat × Flags) (l : List (Nat × Nat)) (x : Nat) (fls : List Flags) :
    let r := l.foldl (fun (acc : Nat × List Flags) e =>
      let (r, fl) := f acc.1 e.2
      (r, acc.2 ++ [fl])) (x, fls)
    l.foldl (fun (acc : Nat × Flags) e => ((f acc.1 e.2).1, acc.2 ||| (f acc.1 e.2).2)) (x, fls.foldl (· ||| ·) 0) =
      (r.1, r.2.foldl (· ||| ·) 0) := by
  induction l generalizing x fls with
  | nil => rfl
  | cons e rest ih => simpa using ih (f x e.2).1 (fls ++ [(f x e.2).2])

end Sys2Proof.Machine

namespace Sys2Proof.Proofs
open Sys2Proof.Machine Sys2Proof.Cert

/-- The statement about integer reductions, operation by operation. -/
theorem integerReductions_holds : integerReductions := by
  intro s st d a b k h h8 hes w on folds
  have hw : 0 < s.me.vec.width := by omega
  have lt : ∀ x : BitVec s.me.vec.width, x.toNat % 2 ^ s.me.vec.width = x.toNat := fun x => Nat.mod_eq_of_lt x.isLt
  refine ⟨?_, ?_, ?_, ?_, ?_, ?_, ?_, ?_⟩
  · exact intReduce_gives (i := .vrsum st d a b k) h hes h8 (rfl : _ = execVrsum st d a b k s) fun x y => (BitVec.toNat_add x y).symm
  · exact intReduce_gives (i := .vrmin st d a b k) h hes h8 (rfl : _ = execVrmin st d a b k s) fun x y => by rw [min_signed hw, lt]
  · exact intReduce_gives (i := .vrmax st d a b k) h hes h8 (rfl : _ = execVrmax st d a b k s) fun x y => by rw [max_signed hw, lt]
  · exact intReduce_gives (i := .vrminn st d a b k) h hes h8 (rfl : _ = execVrminn st d a b k s) fun x y => by rw [min_natural, lt]
  · exact intReduce_gives (i := .vrmaxn st d a b k) h hes h8 (rfl : _ = execVrmaxn st d a b k s) fun x y => by rw [max_natural, lt]
  · exact intReduce_gives (i := .vrand st d a b k) h hes h8 (rfl : _ = execVrand st d a b k s) fun x y => by rw [← BitVec.toNat_and, lt]
  · exact intReduce_gives (i := .vrior st d a b k) h hes h8 (rfl : _ = execVrior st d a b k s) fun x y => by rw [← BitVec.toNat_or, lt]
  · exact intReduce_gives (i := .vrxor st d a b k) h hes h8 (rfl : _ = execVrxor st d a b k s) fun x y => by rw [← BitVec.toNat_xor, lt]

/-- The statement about floating-point reductions; the tree has a sum unless all its leaves are absent. -/
theorem floatReductions_holds : floatReductions := by
  intro s st d a b k l g h hfen hes hg m vl on start gives one depth tree
  have sum : one (fun x y => g.add m (g.decode x) (g.decode y)) = _ := orderedSum_eq g m on start 0
  have extreme : ∀ isMax, one (fun x y => g.minMax isMax x y) = _ := fun isMax => foldl_flags (fun x y => g.minMax isMax x y) on start []
  have pair : ∀ root fls, tree = (root, fls) → gives (.vfrpair st d a b k l) (match root with
      | some r => ((g.add m (g.decode start) (g.decode r)).1, fls.foldl (· ||| ·) 0 ||| (g.add m (g.decode start) (g.decode r)).2)
      | none => (start, fls.foldl (· ||| ·) 0)) := by
    intro root fls ht
    unfold tree depth at ht
    cases root with
    | none => exact fpReduce_gives (i := .vfrpair st d a b k l) (r := (start, fls)) h hes hfen hg (rfl : _ = execVfrpair st d a b k l s) (by
        dsimp only
        rw [ht])
    | some r =>
      have flags : fls.foldl (· ||| ·) 0 ||| (g.add m (g.decode start) (g.decode r)).2 =
          (fls ++ [(g.add m (g.decode start) (g.decode r)).2]).foldl (· ||| ·) 0 := by simp
      dsimp only
      rw [flags]
      exact fpReduce_gives (i := .vfrpair st d a b k l) (r := (_, _)) h hes hfen hg (rfl : _ = execVfrpair st d a b k l s) (by
        dsimp only
        rw [ht])
  refine ⟨?_, ?_, ?_, ?_⟩
  · rw [sum]
    exact fpReduce_gives (i := .vfrseq st d a b k l) h hes hfen hg (rfl : _ = execVfrseq st d a b k l s) rfl
  · rw [extreme]
    exact fpReduce_gives (i := .vfrmin st d a b k l) h hes hfen hg (rfl : _ = fpExtreme 0x2C0A st d a b k l false s) rfl
  · rw [extreme]
    exact fpReduce_gives (i := .vfrmax st d a b k l) h hes hfen hg (rfl : _ = fpExtreme 0x2C0B st d a b k l true s) rfl
  · exact pair tree.1 tree.2 rfl

/-- Settles O45: a reduction folds over the active elements, on words, or on numbers of a format with the flags of its operations. -/
theorem reductions : Obligations.Reductions := ⟨integerReductions_holds, floatReductions_holds⟩

end Sys2Proof.Proofs
end

section
/-! Quantising instructions: vqdec and vqenc (R130, R133). -/

namespace Sys2Proof.Machine
open Sys2Proof.Cert

/-! ### Narrow elements (R130) -/

theorem srcElem_eq_elem {s : State} (hs : s.me.vec.streams = []) (ho : s.me.hart.overrides = []) (n : BitVec 5) (i : Nat) :
    srcElem n s.me.vec.width i s = (.ok (s.elem n i, 0), s) := srcElem_of_unbound hs ho n _ i

theorem noMarkerIn_of_unbound {s : State} (hs : s.me.vec.streams = []) (ho : s.me.hart.overrides = []) (n : BitVec 5) (j m : Nat) :
    noMarkerIn n s.me.vec.width j m s = (.ok ((List.range m).all fun i => s.elem n (j + i) != 8), s) := by
  induction m generalizing j with
  | zero => rfl
  | succ m ih =>
    unfold noMarkerIn
    rw [M.bind_of_ok (srcElem_eq_elem hs ho n j)]
    simp only [List.range_succ_eq_map, List.all_cons, List.all_map, Nat.add_zero]
    by_cases h8 : s.elem n j = 8
    · rw [if_pos h8, h8]
      rfl
    · rw [if_neg h8, ih, bne_iff_ne.mpr h8, Bool.true_and]
      simp only [Function.comp_def, Nat.succ_eq_add_one, Nat.add_assoc, Nat.add_comm 1]

theorem readBlockHeader_of_unbound {s : State} (hs : s.me.vec.streams = []) (ho : s.me.hart.overrides = []) (n : BitVec 5) (b : Nat) :
    readBlockHeader n b s = (.ok (getElem s.me.vec.grant 32 s.me.vec.v[(n + 1).toNat] b), s) := by
  unfold readBlockHeader
  rw [M.bind_get]
  simp [Vec.streamScale, Vec.stream?, hs, rV_of_overrides ho]

/-- A narrow element where nothing is bound: its value under the header of its block. -/
theorem narrowElem_of_unbound {s : State} (hs : s.me.vec.streams = []) (ho : s.me.hart.overrides = []) (n : BitVec 5) (code i : Nat) :
    narrowElem n code i s = (.ok (narrowOf s n code i), s) := by
  unfold narrowElem narrowOf
  rw [M.bind_get, M.bind_of_ok (srcElem_eq_elem hs ho n i)]
  dsimp only
  by_cases hc : s.me.vec.isScaled code = true
  · rw [if_pos hc, if_pos hc, M.bind_of_ok (readBlockHeader_of_unbound hs ho n _)]
    by_cases hm : code = 16 ∧ s.elem n i = 8
    · have marker : (code == 16 && s.elem n i == 8) = true := by simp [hm]
      rw [if_pos hm, M.bind_of_ok (noMarkerIn_of_unbound hs ho ..), marker, Bool.true_and]
      rfl
    · have marker : (code == 16 && s.elem n i == 8) = false := by simpa using hm
      rw [if_neg hm, marker, Bool.false_and]
      rfl
  · rw [if_neg hc, if_neg hc]
    rfl

theorem width_of_classCode {w cls code : Nat} (h : classCode w cls = some code) : w = 2 ∨ w = 4 ∨ w = 8 := by
  unfold classCode at h
  split at h <;> simp at h ⊢

/-- The widths of narrow elements (R66). -/
theorem width_of_classOk {v : Vec} {c : BitVec 2} (h : v.classOk c = true) : v.width = 2 ∨ v.width = 4 ∨ v.width = 8 := by
  unfold Vec.classOk at h
  split at h
  case h_1 code hc => exact width_of_classCode hc
  case h_2 => cases h

/-! ### Wide groups (R130) -/

theorem readWide_of_overrides {s : State} (ho : s.me.hart.overrides = []) (n : BitVec 5) (i : Nat) :
    readWide n i s = (.ok (wideElem s n i), s) := by
  unfold readWide
  rw [M.bind_get, rV_of_overrides ho]
  rfl

theorem encodeScale_of_overrides {s : State} (ho : s.me.hart.overrides = []) (d : BitVec 5) (code i : Nat) :
    encodeScale d code i s = (.ok (if s.me.vec.isScaled code then
      headerScale (getElem s.me.vec.grant 32 s.me.vec.v[(d + 1).toNat] (i / s.me.vec.block)) else some (1, 0)), s) := by
  unfold encodeScale
  rw [M.bind_get, rV_of_overrides ho]
  split <;> rfl

theorem wideElem_congr {s t : State} (hg : t.me.vec.grant = s.me.vec.grant) (hv : t.me.vec.v = s.me.vec.v) (n : BitVec 5) (i : Nat) :
    wideElem t n i = wideElem s n i := by
  unfold wideElem
  simp only [hg, hv]

/-- The values of register r of a wide group, by their places in it. -/
def groupPart (g r : Nat) (l : List (Nat × Nat)) : List (Nat × Nat) :=
  (l.filter fun x => x.1 / (32 * g) == r).map fun x => (x.1 % (32 * g), x.2)

/-- s with the first m registers of the wide group at d written. -/
def State.putGroup (d : BitVec 5) (lat : Nat) (l : List (Nat × Nat)) (m : Nat) (s : State) : State :=
  (List.range m).foldl (fun t r =>
    t.wVat (d + BitVec.ofNat 5 r) (setElems s.me.vec.grant 32 (groupPart s.me.vec.grant r l) t.me.vec.v[(d + BitVec.ofNat 5 r).toNat])
      lat false) s

theorem putWide_eq (d : BitVec 5) (w lat : Nat) (l : List (Nat × Nat)) (s : State) :
    putWide d w lat l s = (.ok (), s.putGroup d lat l (32 / w)) := rfl

theorem State.putGroup_spec (d : BitVec 5) (lat : Nat) (l : List (Nat × Nat)) {m : Nat} (hm : m ≤ 32) (s : State) :
    s.vecChange (s.putGroup d lat l m) ∧ ∀ n : BitVec 5, (s.putGroup d lat l m).me.vec.v[n.toNat] =
      if (n - d).toNat < m then setElems s.me.vec.grant 32 (groupPart s.me.vec.grant (n - d).toNat l) s.me.vec.v[n.toNat]
      else s.me.vec.v[n.toNat] := by
  induction m with
  | zero => exact ⟨.refl s, fun n => rfl⟩
  | succ m ih =>
    obtain ⟨change, regs⟩ := ih (by omega)
    have step : s.putGroup d lat l (m + 1) = (s.putGroup d lat l m).wVat (d + BitVec.ofNat 5 m) (setElems s.me.vec.grant 32
        (groupPart s.me.vec.grant m l) (s.putGroup d lat l m).me.vec.v[(d + BitVec.ofNat 5 m).toNat]) lat false := by
      unfold State.putGroup
      rw [List.range_succ, List.foldl_append]
      rfl
    have wrote := State.wVat_spec (d + BitVec.ofNat 5 m) (setElems s.me.vec.grant 32 (groupPart s.me.vec.grant m l)
      (s.putGroup d lat l m).me.vec.v[(d + BitVec.ofNat 5 m).toNat]) lat false (s.putGroup d lat l m)
    rw [step]
    refine ⟨change.trans wrote.change, fun n => ?_⟩
    rw [wrote.v_eq, getElem_set_reg, regs n, regs]
    by_cases hn : n = d + BitVec.ofNat 5 m
    · have place : (n - d).toNat = m := by bv_omega
      rw [if_pos hn, ← hn, place, if_neg (by omega), if_pos (by omega)]
    · have place : (n - d).toNat ≠ m := by bv_omega
      rw [if_neg hn]
      by_cases hlt : (n - d).toNat < m
      · rw [if_pos hlt, if_pos (by omega)]
      · rw [if_neg hlt, if_neg (by omega)]

theorem mem_wideRegs {d n : BitVec 5} {w : Nat} : n ∈ wideRegs d w ↔ (n - d).toNat < 32 / w := by
  unfold wideRegs
  rw [List.mem_map]
  refine ⟨fun ⟨r, hr, hn⟩ => ?_, fun h => ⟨(n - d).toNat, List.mem_range.mpr h, by bv_omega⟩⟩
  have hr := List.mem_range.mp hr
  have : (n - d).toNat ≤ r := by bv_omega
  omega

/-- The elements of a wide group after values have been written to some of them (R130). -/
theorem getElem_putGroup {g : Nat} (hg : 1 ≤ g) (hg' : g ≤ 16) (f : Nat → Nat) (els : List Nat) (img : Img) (i : Nat) :
    getElem g 32 (setElems g 32 (groupPart g (i / (32 * g)) (els.map fun n => (n, f n))) img) (i % (32 * g)) =
      if i ∈ els then f i % 2 ^ 32 else getElem g 32 img (i % (32 * g)) := by
  obtain ⟨e, he⟩ : ∃ e, e = 32 * g := ⟨_, rfl⟩
  obtain ⟨q, hq⟩ : ∃ q, q = i / e := ⟨_, rfl⟩
  have size : g * 1024 / 32 = e := by omega
  have back : ∀ n, n / e = q → q * e + n % e = n := fun n hn => by rw [← hn, Nat.mul_comm]; exact Nat.div_add_mod n e
  have part : groupPart g q (els.map fun n => (n, f n)) = ((els.filter fun n => n / e == q).map (· % e)).map fun j => (j, f (q * e + j)) := by
    unfold groupPart
    rw [List.filter_map, List.map_map, List.map_map, ← he]
    refine List.map_congr_left fun n hn => ?_
    have hn : n / e = q := by simpa using (List.mem_filter.mp hn).2
    simp only [Function.comp_apply, back n hn]
  have mem : i % e ∈ (els.filter fun n => n / e == q).map (· % e) ↔ i ∈ els := by
    simp only [List.mem_map, List.mem_filter, beq_iff_eq]
    refine ⟨fun ⟨n, ⟨hn, hd⟩, hm⟩ => ?_, fun h => ⟨i, ⟨h, hq.symm⟩, rfl⟩⟩
    rwa [← back i hq.symm, ← hm, back n hd]
  have bound : ∀ j ∈ (els.filter fun n => n / e == q).map (· % e), j < g * 1024 / 32 := fun j hj => by
    obtain ⟨n, -, rfl⟩ := List.mem_map.mp hj
    rw [size]
    exact Nat.mod_lt _ (by omega)
  rw [← he, ← hq, part, getElem_setElems hg' (by simp [ElemWidth]) _ _ bound _ (by rw [size]; exact Nat.mod_lt _ (by omega)),
    back i hq.symm]
  simp only [mem]

/-- t is s with values written to the wide group at d (R130). -/
structure State.groupWritten (s t : State) (d : BitVec 5) (l : List (Nat × Nat)) : Prop where
  change : s.vecChange t
  regs : ∀ n : BitVec 5, t.me.vec.v[n.toNat] =
    if (n - d).toNat < 32 / s.me.vec.width then
      setElems s.me.vec.grant 32 (groupPart s.me.vec.grant (n - d).toNat l) s.me.vec.v[n.toNat]
    else s.me.vec.v[n.toNat]

theorem State.groupWritten.nil (s : State) (d : BitVec 5) : s.groupWritten s d [] :=
  ⟨.refl s, fun n => by simp [groupPart, setElems]⟩

theorem State.groupWritten.keeps {s t : State} {d : BitVec 5} {l : List (Nat × Nat)} (h : s.groupWritten t d l) :
    s.keepsV t (wideRegs d s.me.vec.width) := fun n hn => by
  rw [h.regs n, if_neg (fun hlt => hn (mem_wideRegs.mpr hlt))]

theorem State.vecChange.grant {s t : State} (h : s.vecChange t) : t.me.vec.grant = s.me.vec.grant := by
  obtain ⟨_, _, _, _, _, _, _, rfl⟩ := h
  rfl

/-- The elements of a wide group written (R130). -/
theorem State.groupWritten.elems {s t : State} {d : BitVec 5} {f : Nat → Nat} {els : List Nat} (hg : 1 ≤ s.me.vec.grant)
    (hg' : s.me.vec.grant ≤ 16) (hw : s.me.vec.width = 2 ∨ s.me.vec.width = 4 ∨ s.me.vec.width = 8)
    (h : s.groupWritten t d (els.map fun n => (n, f n))) {i : Nat} (hi : i < s.me.vec.grant * 1024 / s.me.vec.width) :
    wideElem t d i = if i ∈ els then f i % 2 ^ 32 else wideElem s d i := by
  have place : i / (32 * s.me.vec.grant) < 32 / s.me.vec.width := by
    refine Nat.div_lt_of_lt_mul ?_
    rcases hw with hw | hw | hw <;> rw [hw] at hi ⊢ <;> omega
  have small : 32 / s.me.vec.width ≤ 32 := Nat.div_le_self ..
  have index : (d + BitVec.ofNat 5 (i / (32 * s.me.vec.grant)) - d).toNat = i / (32 * s.me.vec.grant) := by
    generalize i / (32 * s.me.vec.grant) = q at *
    bv_omega
  unfold wideElem
  simp only [h.change.grant]
  rw [h.regs, index, if_pos place, getElem_putGroup hg hg']

/-! ### vqdec -/

section
variable {s : State} (h : s.vectorReady) (hfen : s.me.hart.fen = 0)
include h hfen

/-- vqdec writes binary32 values of the active elements to the wide group at d (R133). -/
theorem vqdec_gives (st : BitVec 3) {d a : BitVec 5} (k : BitVec 3) {c : BitVec 2} (hc : s.me.vec.classOk c = true)
    (hh : s.me.vec.headerOk a (s.me.vec.classOf c) = true) (hwide : wideOk d s.me.vec.width = true) {r : Nat → Nat × Flags}
    (hr : r = fun n => ((Fmt.f32.ofFV s.me.hart.rm false (narrowOf s a (s.me.vec.classOf c) n).1).1,
      (narrowOf s a (s.me.vec.classOf c) n).2 ||| (Fmt.f32.ofFV s.me.hart.rm false (narrowOf s a (s.me.vec.classOf c) n).1).2)) :
    ∃ t fl, exec (.vqdec st d a k c) s = .next t ∧ s.keepsV t (wideRegs d s.me.vec.width) ∧ s.vecFrame t st (s.me.hart.statusWith fl) ∧
      flagsOf fl (s.active k) r ∧ ∀ n < s.me.vec.grant * 1024 / s.me.vec.width,
        (s.active k n → wideElem t d n = (r n).1 % 2 ^ 32) ∧ (¬s.active k n → wideElem t d n = wideElem s d n) := by
  obtain ⟨hpv, hfm, -, -⟩ := h.plain
  have act : ∀ n, n ∈ s.actives k s.es ↔ s.active k n := fun n => mem_actives_iff_active hfm hpv
  obtain ⟨t, ht, wrote⟩ : ∃ t, exec (.vqdec st d a k c) s = .next (t.clearKf.complete st 0 (s.pc + 4)) ∧
      (s.raised (flagsIn r (s.actives k s.es))).groupWritten t d ((s.actives k s.es).map fun n => (n, (r n).1)) := by
    refine runVector_gives h.runs _ _ (pairs_of_noPfx hpv _) (nullified_of_noPfx hpv) (by simp [hc, hh, hwide]) rfl (fun _ => ?_)
      (fun hes => ?_) fun t ht => ht.change.streams.trans h.runs.streams
    · obtain ⟨change, regs⟩ := State.putGroup_spec d 10 ((s.actives k s.es).map fun n => (n, (r n).1)) (Nat.div_le_self 32 s.me.vec.width)
        (s.raised (flagsIn r (s.actives k s.es)))
      refine M.gives_bind ⟨s, s, rfl, M.gives_bind ⟨_, _, elementwise_put (r := r) (fun n _ gl => ?_)
        (fun n _ => by rw [hfen]; exact BitVec.and_zero) (putWide_eq ..), (), _, rfl, change.count 6 _, regs⟩⟩
      rw [M.bind_of_ok (narrowElem_of_unbound (s := s.raised gl) h.runs.streams h.runs.overrides a _ n), hr]
      rfl
    · rw [actives_nil k hes, show flagsIn r [] = 0 from rfl, State.raised_zero]
      exact .nil ..
  obtain ⟨frame, hv⟩ := wrote.change.completes_of_raised h st
  refine ⟨_, _, ht, keepsV_of_v_eq wrote.keeps hv, frame, fun b _ => ?_, fun n hn => ?_⟩
  · simp only [getLsbD_flagsIn, act]
  · have final := wideElem_congr (wrote.change.grant.trans (congrArg (fun x => x.me.vec.grant) frame).symm).symm hv d n
    rw [final, State.groupWritten.elems (s := s.raised _) h.runs.grant_pos h.runs.grant_le (width_of_classOk hc) wrote hn]
    exact ⟨fun hp => if_pos ((act n).mpr hp), fun hp => if_neg fun hm => hp ((act n).mp hm)⟩

end

/-! ### vqenc -/

/-- vqenc makes the codes of the active elements, each for itself (R133). -/
theorem vqenc_flagged {s : State} (h : s.vectorReady) (st : BitVec 3) {d a : BitVec 5} (k : BitVec 3) {c : BitVec 2}
    (hok : s.me.vec.encodeOk d a c = true) :
    vecFlagged s (.vqenc st d a k c) st d s.me.vec.width (s.active k) fun n =>
      quantise (s.me.vec.classOf c) s.me.hart.rm (wideElem s a n) (if s.me.vec.isScaled (s.me.vec.classOf c) then
        headerScale (getElem s.me.vec.grant 32 s.me.vec.v[(d + 1).toNat] (n / s.me.vec.block)) else some (1, 0)) := by
  have unbound : ∀ n, (s.me.vec.stream? n).isNone = true := fun n => by simp [Vec.stream?, h.runs.streams]
  refine vecFlagged_of_reusable (i := .vqenc st d a k c) h _ (rfl : _ = execVqenc st d a k c s) ?_ rfl rfl (M.bind_get _ s) fun n _ fl => ?_
  · simp [hok, unbound]
  · rw [M.bind_of_ok (readWide_of_overrides (s := s.raised fl) h.runs.overrides a n),
      M.bind_of_ok (encodeScale_of_overrides (s := s.raised fl) h.runs.overrides d _ n)]
    rfl

end Sys2Proof.Machine
end

section
/-! The outlier format: vqenco on Q4X blocks (R42, R133). -/

namespace Sys2Proof.Machine
open Sys2Proof.Cert

/-! ### One block -/

theorem encodeBlock_nil (m : Nat) (x : Nat → Nat) (scale : Option (Nat × Int)) (marked : Bool) :
    encodeBlock m x scale marked [] = ([], none, 0) := by
  cases marked <;> rfl

/-- The codes of a block are those of its elements, in their order. -/
theorem encodeBlock_codes (m : Nat) (x : Nat → Nat) (scale : Option (Nat × Int)) (marked : Bool) (mine : List Nat) :
    (encodeBlock m x scale marked mine).1 = mine.map fun n => (n, ((encodeBlock m x scale marked mine).1.lookup n).getD 0) := by
  obtain ⟨f, hf⟩ : ∃ f : Nat → Nat, (encodeBlock m x scale marked mine).1 = mine.map fun n => (n, f n) := by
    obtain ⟨o, ho⟩ : ∃ o, o = if marked then none else largest x (mine.filter fun i => exceedsQ4x m (x i) scale) := ⟨_, rfl⟩
    refine ⟨fun n => if o = some n then 8 else (quantise 16 m (x n) scale).1, ?_⟩
    unfold encodeBlock
    simp only [← ho]
    have codes : (mine.map fun i => if o = some i then ((i, 8, 0) : Nat × Nat × Flags) else
        (i, (quantise 16 m (x i) scale).1, (quantise 16 m (x i) scale).2)).map (fun t => (t.1, t.2.1)) =
        mine.map fun n => (n, if o = some n then 8 else (quantise 16 m (x n) scale).1) := by
      rw [List.map_map]
      refine List.map_congr_left fun n _ => ?_
      simp only [Function.comp_apply]
      split <;> rfl
    cases o <;> exact codes
  rw [hf]
  refine List.map_congr_left fun n hn => ?_
  rw [List.lookup_graph f hn]
  rfl

/-- What vqenco makes of block b of the active elements els (R133). -/
def State.encodedBlock (s : State) (d a : BitVec 5) (els : List Nat) (b : Nat) : List (Nat × Nat) × Option Nat × Flags :=
  encodeBlock s.me.hart.rm (wideElem s a) (headerScale (getElem s.me.vec.grant 32 s.me.vec.v[(d + 1).toNat] b))
    ((List.range s.me.vec.block).any fun j => !decide (b * s.me.vec.block + j ∈ els) &&
      getElem s.me.vec.grant 4 s.me.vec.v[d.toNat] (b * s.me.vec.block + j) == 8)
    (els.filter fun i => i / s.me.vec.block == b)

/-- The new header of block b, where it gets an outlier. -/
def State.encodedHeader (s : State) (d a : BitVec 5) (els : List Nat) (b : Nat) : List (Nat × Nat) :=
  match (s.encodedBlock d a els b).2.1 with
  | some byte => [(b, byte * 2 ^ 24 + getElem s.me.vec.grant 32 s.me.vec.v[(d + 1).toNat] b % 2 ^ 24)]
  | none => []

theorem State.raised_encodedBlock (fl : Flags) (s : State) (d a : BitVec 5) (els : List Nat) (b : Nat) :
    (s.raised fl).encodedBlock d a els b = s.encodedBlock d a els b := by
  have rm : (s.raised fl).me.hart.rm = s.me.hart.rm := by
    show fieldOf (s.me.hart.raise fl).status 2 3 = _
    rw [Hart.raise_status, fieldOf_setField_apart _ _ (by omega)]
    rfl
  unfold State.encodedBlock
  rw [rm]
  rfl

theorem State.raised_encodedHeader (fl : Flags) (s : State) (d a : BitVec 5) (els : List Nat) (b : Nat) :
    (s.raised fl).encodedHeader d a els b = s.encodedHeader d a els b := by
  unfold State.encodedHeader
  rw [State.raised_encodedBlock]
  rfl

/-! ### All blocks -/

section
variable {s : State} {d a : BitVec 5} {els : List Nat}

theorem encodeBlocks_cons (ho : s.me.hart.overrides = []) (b : Nat) (rest : List Nat) :
    encodeBlocks d a els (b :: rest) s =
      if (els.filter fun i => i / s.me.vec.block == b).isEmpty then encodeBlocks d a els rest s
      else (do
        raiseFlags (s.encodedBlock d a els b).2.2 0
        let (l, hs) ← encodeBlocks d a els rest
        pure ((s.encodedBlock d a els b).1 ++ l, s.encodedHeader d a els b ++ hs)) s := by
  conv_lhs => unfold encodeBlocks
  rw [M.bind_get]
  simp only [rV_of_overrides ho]
  by_cases he : (els.filter fun i => i / s.me.vec.block == b).isEmpty = true
  · rw [if_pos he, if_pos he]
  · rw [if_neg he, if_neg he]
    rfl

/-- The blocks encoded where no flag is enabled. -/
theorem encodeBlocks_raised (ho : s.me.hart.overrides = []) (hfen : s.me.hart.fen = 0) (bs : List Nat) (fl : Flags) :
    encodeBlocks d a els bs (s.raised fl) =
      (.ok (bs.flatMap fun b => (s.encodedBlock d a els b).1, bs.flatMap fun b => s.encodedHeader d a els b),
        s.raised (fl ||| flagsIn (fun b => (0, (s.encodedBlock d a els b).2.2)) bs)) := by
  induction bs generalizing fl with
  | nil => simp [encodeBlocks, flagsIn]
  | cons b rest ih =>
    rw [encodeBlocks_cons (s := s.raised fl) ho, State.raised_encodedBlock, State.raised_encodedHeader]
    by_cases he : (els.filter fun i => i / s.me.vec.block == b).isEmpty = true
    · have none_ : s.encodedBlock d a els b = ([], none, 0) := by
        unfold State.encodedBlock
        rw [List.isEmpty_iff.mp he]
        exact encodeBlock_nil ..
      rw [show (s.raised fl).me.vec.block = s.me.vec.block from rfl, if_pos he, ih]
      simp [flagsIn, none_, State.encodedHeader]
    · rw [show (s.raised fl).me.vec.block = s.me.vec.block from rfl, if_neg he, M.bind_of_ok (raiseFlags_of_fen hfen ..), M.bind_of_ok (ih _)]
      simp only [flagsIn, List.foldr_cons, BitVec.or_assoc, List.flatMap_cons]
      rfl

/-- The codes of some blocks as one list of elements with their codes. -/
theorem flatMap_encodedBlock (bs : List Nat) : (bs.flatMap fun b => (s.encodedBlock d a els b).1) =
    (bs.flatMap fun b => els.filter fun i => i / s.me.vec.block == b).map fun n =>
      (n, ((s.encodedBlock d a els (n / s.me.vec.block)).1.lookup n).getD 0) := by
  rw [List.map_flatMap]
  congr 1
  funext b
  refine (encodeBlock_codes ..).trans (List.map_congr_left fun n hn => ?_)
  have hb : n / s.me.vec.block = b := by simpa using (List.mem_filter.mp hn).2
  rw [hb]
  rfl

/-- The new headers of some blocks as one list of blocks with their headers. -/
theorem flatMap_encodedHeader (bs : List Nat) : (bs.flatMap fun b => s.encodedHeader d a els b) =
    (bs.filter fun b => (s.encodedBlock d a els b).2.1.isSome).map fun b =>
      (b, (s.encodedBlock d a els b).2.1.getD 0 * 2 ^ 24 + getElem s.me.vec.grant 32 s.me.vec.v[(d + 1).toNat] b % 2 ^ 24) := by
  induction bs with
  | nil => rfl
  | cons b rest ih =>
    rw [List.flatMap_cons, ih, State.encodedHeader, List.filter_cons]
    cases hb : (s.encodedBlock d a els b).2.1 <;> simp [hb]

end

/-! ### The two registers -/

/-- Elements of any width that a register holds after some have been written. -/
theorem elemsBecome_of_setElems_at {s t : State} (h : s.vectorRuns) {d : BitVec 5} {w : Nat} (hw : ElemWidth w) {els : List Nat}
    {p : Nat → Prop} {f : Nat → Nat}
    (hv : t.me.vec.v[d.toNat] = setElems s.me.vec.grant w (els.map fun i => (i, f i)) s.me.vec.v[d.toNat])
    (hp : ∀ i, i ∈ els ↔ p i) (hl : ∀ i, p i → i < s.me.vec.grant * 1024 / w) : s.elemsBecome t d w p f := by
  intro i hi
  rw [hv, getElem_setElems h.grant_le hw f els (fun j hj => hl j ((hp j).mp hj)) _ hi]
  exact ⟨fun hpi => if_pos ((hp i).mpr hpi), fun hpi => if_neg fun hm => hpi ((hp i).mp hm)⟩

theorem width_of_q4x {v : Vec} {c : BitVec 2} (h : v.classOf c = 16) : v.width = 4 := by
  unfold Vec.classOf classCode at h
  split at h <;> simp at h ⊢
  assumption

/-- vl is made of whole blocks of at least 16 elements (R16, R40). -/
theorem State.vectorRuns.blocks {s : State} (h : s.vectorRuns) (hb : s.me.vec.block ≠ 0) :
    16 ≤ s.me.vec.block ∧ s.me.vec.block ∣ s.me.vec.vl.toNat := by
  have within := h.within
  simp only [Vec.illegal, Bool.or_eq_false_iff] at within
  obtain ⟨-, whole⟩ := within
  have code : s.me.vec.bl ≠ 0 := fun h0 => hb (by rw [Vec.block, h0]; rfl)
  have whole : s.me.vec.bl ≠ 0 → s.me.vec.vl.toNat % s.me.vec.block = 0 := by simpa [Vec.block] using whole
  refine ⟨?_, Nat.dvd_of_mod_eq_zero (whole code)⟩
  unfold Vec.block blockLen at hb ⊢
  split at hb <;> simp at hb ⊢

/-- t is s with values written to the elements of v[d] and to the headers in v[d + 1]. -/
structure State.blocksWritten (s t : State) (d : BitVec 5) (l hs : List (Nat × Nat)) : Prop where
  change : s.vecChange t
  codes : t.me.vec.v[d.toNat] = setElems s.me.vec.grant 4 l s.me.vec.v[d.toNat]
  headers : t.me.vec.v[(d + 1).toNat] = setElems s.me.vec.grant 32 hs s.me.vec.v[(d + 1).toNat]
  keeps : s.keepsV t [d, d + 1]

/-- s with codes and headers written as vqenco writes them. -/
def State.putBlocks (d : BitVec 5) (l hs : List (Nat × Nat)) (s : State) : State :=
  let u := s.wVat d (setElems s.me.vec.grant 4 l s.me.vec.v[d.toNat]) 14 false
  u.wVat (d + 1) (setElems s.me.vec.grant 32 hs u.me.vec.v[(d + 1).toNat]) 14 false

theorem State.putBlocks_spec (d : BitVec 5) (l hs : List (Nat × Nat)) (s : State) : s.blocksWritten (s.putBlocks d l hs) d l hs := by
  obtain ⟨change, regs, -⟩ := State.wVat_spec d (setElems s.me.vec.grant 4 l s.me.vec.v[d.toNat]) 14 false s
  unfold State.putBlocks
  dsimp only
  generalize s.wVat d (setElems s.me.vec.grant 4 l s.me.vec.v[d.toNat]) 14 false = u at *
  obtain ⟨change', regs', -⟩ := State.wVat_spec (d + 1) (setElems s.me.vec.grant 32 hs u.me.vec.v[(d + 1).toNat]) 14 false u
  have next : d + 1 ≠ d := by bv_omega
  have read : ∀ n : BitVec 5, (u.wVat (d + 1) (setElems s.me.vec.grant 32 hs u.me.vec.v[(d + 1).toNat]) 14 false).me.vec.v[n.toNat] =
      if n = d + 1 then setElems s.me.vec.grant 32 hs s.me.vec.v[(d + 1).toNat]
      else if n = d then setElems s.me.vec.grant 4 l s.me.vec.v[d.toNat] else s.me.vec.v[n.toNat] := fun n => by
    simp only [regs']
    simp only [regs, getElem_set_reg, if_neg next]
  refine ⟨change.trans change', ?_, ?_, fun n hn => ?_⟩
  · rw [read, if_neg next.symm, if_pos rfl]
  · rw [read, if_pos rfl]
  · obtain ⟨hd, hd'⟩ : n ≠ d ∧ n ≠ d + 1 := by simpa using hn
    rw [read, if_neg hd', if_neg hd]

theorem State.blocksWritten.count {s t : State} {d : BitVec 5} {l hs : List (Nat × Nat)} (h : s.blocksWritten t d l hs) (e n : Nat) :
    s.blocksWritten (t.modHart (Hart.count e n)) d l hs := ⟨h.change.count e n, h.codes, h.headers, h.keeps⟩

/-- What vqenco leaves before its completion, where no flag is enabled (R133). -/
theorem vqenco_runs {s : State} (h : s.vectorReady) (hfen : s.me.hart.fen = 0) (hes : s.es < s.me.vec.vl.toNat) (st : BitVec 3)
    {d a : BitVec 5} (k : BitVec 3) {c : BitVec 2} (hok : s.me.vec.encodeOk d a c = true) (hc : s.me.vec.classOf c = 16)
    {bs : List Nat} (hbs : bs = List.range (s.me.vec.vl.toNat / s.me.vec.block)) {fl : Flags}
    (hfl : fl = flagsIn (fun b => (0, (s.encodedBlock d a (s.actives k 0) b).2.2)) bs) :
    ∃ t, exec (.vqenco st d a k c) s = .next (t.clearKf.complete st 0 (s.pc + 4)) ∧
      (s.raised fl).blocksWritten t d (bs.flatMap fun b => (s.encodedBlock d a (s.actives k 0) b).1)
        (bs.flatMap fun b => s.encodedHeader d a (s.actives k 0) b) := by
  obtain ⟨hpv, -, -, hcalm⟩ := h.plain
  have blocks := encodeBlocks_raised (d := d) (a := a) (els := s.actives k 0) h.runs.overrides hfen bs 0
  rw [State.raised_zero, flags_zero_or, ← hfl, hbs] at blocks
  rw [hbs]
  generalize (List.range (s.me.vec.vl.toNat / s.me.vec.block)).flatMap (fun b => (s.encodedBlock d a (s.actives k 0) b).1) = l at *
  generalize (List.range (s.me.vec.vl.toNat / s.me.vec.block)).flatMap (fun b => s.encodedHeader d a (s.actives k 0) b) = hs at *
  have wrote := (State.putBlocks_spec d l hs (s.raised fl)).count 6 (s.actives k 0).length
  have calm := wrote.change.interruptAhead.trans ((State.raised_interruptAhead fl s).trans hcalm)
  exact runVector_gives h.runs _ _ (pairs_of_noPfx hpv _) (nullified_of_noPfx hpv) (by simp [hok, hc]) rfl
    (fun _ => wholeVector_gives (M.gives_bind ⟨s, s, rfl, M.gives_bind ⟨_, _, blocks, (), _, rfl, calm, wrote⟩⟩))
    (fun hb => absurd hes hb) fun t ht => ht.change.streams.trans h.runs.streams

end Sys2Proof.Machine
end

section
/-! The statement about the quantising instructions. -/

namespace Sys2Proof.Proofs
open Sys2Proof.Machine Sys2Proof.Cert

/-- The statement about vqdec and vqenc. -/
theorem quantiseResults_holds : quantiseResults := by
  intro s st d a k c h hc v code m
  exact ⟨fun hh hwide hfen => vqdec_gives h hfen st k hc hh hwide rfl, fun hok => vqenc_flagged h st k hok⟩

/-- vqenco's lists of codes and headers are the statement's blocks: els are the elements that it calls on. -/
theorem outlierEncoding_holds : outlierEncoding := by
  intro s st d a k c h hfen hes hok hc hblk v blk on mine head marked r
  obtain ⟨hpv, hfm, -, -⟩ := h.plain
  obtain ⟨hlen, hdvd⟩ := h.runs.blocks hblk
  have hw := width_of_q4x hc
  have hvl := h.runs.vl_le.1
  rw [hw] at hvl
  have all := actives_all hfm hpv k
  have mem : ∀ n, n ∈ s.actives k 0 ↔ on n = true := fun n => by simp [all, on, v]
  have own : ∀ b, (s.actives k 0).filter (fun i => i / s.me.vec.block == b) = mine b := fun b => by
    rw [all, List.filter_filter]
    refine List.filter_congr fun n hn => ?_
    simp [on, v, blk, List.mem_range.mp hn, Bool.and_comm]
  have enc : ∀ b, s.encodedBlock d a (s.actives k 0) b = r b := fun b => by
    have same : ∀ n, decide (n ∈ s.actives k 0) = on n := fun n => by
      rw [Bool.eq_iff_iff, decide_eq_true_iff, mem]
    unfold State.encodedBlock
    simp only [own, same]
    unfold r marked State.elem
    rw [hw]
  obtain ⟨t, ht, wrote⟩ := vqenco_runs h hfen hes st k hok hc rfl rfl
  rw [flatMap_encodedBlock, flatMap_encodedHeader] at wrote
  simp only [enc, own] at wrote
  obtain ⟨frame, hv⟩ := wrote.change.completes_of_raised h st
  have on_lt : ∀ n, on n = true → n < v.vl.toNat := fun n hn => by
    simp only [on, Bool.and_eq_true, decide_eq_true_iff] at hn
    exact hn.1
  have block_lt : ∀ n, on n = true → n / blk < v.vl.toNat / blk := fun n hn =>
    Nat.div_lt_div_of_lt_of_dvd hdvd (on_lt n hn)
  have mem_mine : ∀ n b, n ∈ mine b ↔ on n = true ∧ n / blk = b := fun n b => by
    simp only [mine, List.mem_filter, List.mem_range, Bool.and_eq_true, beq_iff_eq]
    exact ⟨fun hn => hn.2, fun hn => ⟨on_lt n hn.1, hn⟩⟩
  have mine_lt : ∀ b, mine b ≠ [] → b < v.vl.toNat / blk := fun b hb => by
    obtain ⟨n, hn⟩ := List.exists_mem_of_ne_nil _ hb
    obtain ⟨hon, rfl⟩ := (mem_mine n b).mp hn
    exact block_lt n hon
  have empty : ∀ b, mine b = [] → r b = ([], none, 0) := fun b hb => by
    unfold r
    rw [hb, encodeBlock_nil]
  refine ⟨_, _, ht, keepsV_of_v_eq wrote.keeps hv, frame, elemsBecome_of_v_eq (elemsBecome_of_setElems_at h.runs (.inr (.inl rfl)) wrote.codes
    (fun n => ?_) fun n hn => (on_lt n hn).trans_le hvl) hv, elemsBecome_of_v_eq (elemsBecome_of_setElems_at h.runs (by simp [ElemWidth])
    wrote.headers (fun b => ?_) fun b hb => ?_) hv, fun i _ => ?_⟩
  · simp only [List.mem_flatMap, List.mem_range, mem_mine]
    exact ⟨fun ⟨_, _, hn, _⟩ => hn, fun hn => ⟨n / blk, block_lt n hn, hn, rfl⟩⟩
  · rw [List.mem_filter, List.mem_range, Option.isSome_iff_ne_none]
    refine ⟨fun ⟨_, ho⟩ => ⟨fun hb => ho (by rw [empty b hb]), ho⟩, fun ⟨hb, ho⟩ => ⟨mine_lt b hb, ho⟩⟩
  · have few : s.me.vec.vl.toNat / s.me.vec.block ≤ s.me.vec.vl.toNat / 16 := Nat.div_le_div_left hlen (by omega)
    have below : b < s.me.vec.vl.toNat / s.me.vec.block := mine_lt b hb.1
    omega
  · rw [getLsbD_flagsIn]
    simp only [List.mem_range]
    refine ⟨fun ⟨b, _, hf⟩ => ⟨b, fun hb => ?_, hf⟩, fun ⟨b, hb, hf⟩ => ⟨b, mine_lt b hb, hf⟩⟩
    rw [empty b hb] at hf
    simp at hf

/-- Settles O42: each element is decoded or encoded for itself, and vqenco encodes block by block. -/
theorem quantisation : Obligations.Quantisation := ⟨quantiseResults_holds, outlierEncoding_holds⟩

end Sys2Proof.Proofs
end

section
/-! Instruction words: every well-formed instruction is what its word decodes to, and the words that are none (R51, R53, R63 to R68). -/

namespace Sys2Proof.Laws.RoundTrip

/-- The word of every instruction names it: each constructor by its own law. -/
theorem statement (i : Instr) : Statement i :=
  Instr.casesOn (motive := Statement) i
    ecall eret wfi brk tlbi tlbia vname fencei sysr sysw syswVown syswWpart pfx addR subR andR orR xorR sll srl sra slt sltn minR maxR
    minn maxn addS subS clz ctz popc addi andi ori xori slli srli srai slti sltin li lih mul mulh mulhn mulhsn div divn rem remn fadd fsub
    fmul fdiv fsqrt fma fmin fmax feq flt fle fkind fcvt fcvtf lb lh lw ld lbn lhn lwn pref sb sh sw sd mkref rtag pub amoswap amoadd
    amoand amoor amoxor amomin amomax amominn amomaxn amocas beq bne blt bge bltn bgen jump jal jalr orderedLoad orderedStore fence
    barinit barbind bararr barwait barsync barrierPhaseRelease joinSet leaveSet wmset wmadv wmrd watermarkWaitEnd waitm epush epushT epop
    epopT epushAt nest nestAt doneH yieldH setvl setvlm vld vlds vldl vldp vlm vlmn vst vsts vstl vsm vsmn vldx vstx vbind vunbind
    readAhead vpref vprefs vadd vsub vaddSI vaddSN vsubSI vsubSN vmul vmulh vmulhn vand vor vxor vsll vsrl vsra vmin vmax vminn vmaxn vdiv
    vdivn vrem vremn vaddi vrsubi vandi vori vxori vslli vsrli vsrai vfadd vfsub vfmul vfdiv vfsqrt vfmin vfmax vfsgnj vfsgnjn vfsgnjx
    vfexp2 vflog2 vfrece vfrsqe vfkind vfma vfms vfnma vfnms vmac vnmsac vdot vdistIp vdistL2 vdistHam vqdec vqenc vqenco vcvt vunpk vlut
    vexpand vcompress vperm vlift vdrop vbcast vrev vzip vunzip vrsum vrmin vrmax vrminn vrmaxn vrand vrior vrxor vfrseq vfrpair vfrmin
    vfrmax vmseq vmsne vmslt vmsle vmsltn vmslen vmfeq vmflt vmfle kand kor kxor kandn knot kpopc kfirst vsel vmv vmvx vins vmvvk vmvkv
    mopF64 mopF32 mopBf16 mopE4m3 mopE5m2 mopQ4x mopI4 halfRateWindow mzero mrd mwr mld mst padd psub pmul pcmpeq pcmplt pcmpltn ptdot
    pcred pneg pand por pxor pnot pmaj psel pshl pshr pcopy prun plock lockPlaced punlock lockRelease pfence phset phget microprogramStart
    rowOperation syncWindow refresh dwcfg dwlaunch dwlaunchAt raceBegin raceEnd dwcap dwrd dwldw dwmpMin dwmpMax dwrst dwwin meridianAlarm
    waitmExpiry asynchronousTrap sliceExpiry waitingSwitchOut switchIn waitConditionObserved nestHandoff wayConversion engineCopy
    engineCturn enginePref engineSnap engineFill startRoot configure unconfigure swapOut restorePart freezeSet freezeClear resumeMaster
    abortMaster logRead logClear attest imageTransfer cxlMemRead cxlMemWrite completionTimeout hostSnoop transferRepeat laneDiagnosis
    unitLoss moduleReset coolantPressureLoss powerWindow illegalInstruction temperatureThrottle softError

end Sys2Proof.Laws.RoundTrip

namespace Sys2Proof
open Laws

/-- A word that names an instruction has an allocated major (R63). -/
theorem majorAllocated_of_rawDecode {n : Nat} {i : Instr} (h : rawDecode n = some i) : majorAllocated (n / 2 ^ 26) = true := by
  unfold rawDecode at h
  split at h
  case h_50 => cases h
  all_goals next major => rw [major]; rfl

/-- The word of a well-formed instruction is none of the two permanently illegal ones: the first would be `ecall 0`, and the major of the
other is reserved (R63, R68). -/
theorem permanentlyIllegalWord_of_rawDecode {w : BitVec 32} {i : Instr} (h : rawDecode w.toNat = some i) (hi : i.wf = true) :
    permanentlyIllegalWord w = false := by
  unfold permanentlyIllegalWord
  rw [Bool.or_eq_false_iff, beq_eq_false_iff_ne, beq_eq_false_iff_ne]
  refine ⟨?_, ?_⟩
  · rintro rfl
    obtain rfl : Instr.ecall 0 0 = i := Option.some.inj h
    exact absurd hi (by decide)
  · rintro rfl
    exact absurd (majorAllocated_of_rawDecode h) (by decide)

/-- A word decodes to the well-formed instruction that its selectors and fields name, where that is encoded as the word (R53). -/
theorem decode_of_rawDecode {w : BitVec 32} {i : Instr} (h : rawDecode w.toNat = some i) (he : encodeNat i = some w.toNat)
    (hi : i.wf = true) : decode w = .ok i := by
  have hc : i.check = none := Option.isNone_iff_eq_none.mp hi
  unfold decode
  rw [permanentlyIllegalWord_of_rawDecode h hi, majorAllocated_of_rawDecode h]
  simp only [Bool.false_eq_true, if_false, if_true, h, he, hc]

end Sys2Proof

namespace Sys2Proof.Proofs
open Sys2Proof.Laws

/-- Settles O1: by the law of its constructor the word has 32 bits and names the instruction, which its encoding gives back. -/
theorem decodeOfEncode : Obligations.DecodeOfEncode := by
  unfold Obligations.DecodeOfEncode
  intro i w hi hw
  obtain ⟨hlt, hraw⟩ := RoundTrip.statement i hi w hw
  have hn : (BitVec.ofNat 32 w).toNat = w := Nat.mod_eq_of_lt hlt
  exact decode_of_rawDecode (by rw [hn]; exact hraw) (by rw [hn]; exact hw) hi

/-- Settles O2: the words of instructions by O1; the others are rejected before their fields are read. -/
theorem workedWordsDecode : Obligations.WorkedWordsDecode :=
  ⟨decodeOfEncode (.addR 2 5 6 7) _ rfl rfl, decodeOfEncode (.fadd 0 3 4 5 1 1) _ rfl rfl, decodeOfEncode (.ld 0 8 2 0 2) _ rfl rfl,
    decodeOfEncode (.padd 0 3 1 2 3 0) _ rfl rfl, decodeOfEncode (.vmvkv 0 0 1 0) _ rfl rfl, decodeOfEncode (.vst 0 0 31 0 0) _ rfl rfl,
    rfl, rfl, rfl⟩

end Sys2Proof.Proofs
end

section
/-! A step on a word that is no instruction: what a trap leaves of the slot of its hart (R68, R283 to R285). -/

namespace Sys2Proof.Machine

/-! ### What the writing of a frame leaves of the slot -/

/-- The log of errors is no part of a slot (R339). -/
@[simp] theorem State.logError_me (stack : Nat) (word pa agent : X) (s : State) : (s.logError stack word pa agent).me = s.me := by
  unfold State.logError
  simp only
  split
  · split
    · rfl
    · split <;> rfl
  · rfl

@[simp] theorem State.logAt_me (kind action pa pos : Nat) (a : Agent) (s : State) : (s.logAt kind action pa pos a).me = s.me :=
  State.logError_me _ _ _ _ s

/-- Decoding a granule changes memory, tags, codewords and logs alone (R331). -/
theorem State.decodeGranule_me (kind pa : Nat) (a : Agent) (s : State) : (s.decodeGranule kind pa a).2.me = s.me := by
  have bad : ∀ b (u : State), (u.foundBad kind pa b a).me = u.me := fun b u => State.logAt_me _ _ _ _ _ (u.poisonLine pa)
  unfold State.decodeGranule
  split
  · rfl
  · split
    · rfl
    · exact State.logAt_me _ _ _ _ _ _
    · exact bad _ s
    · simp only
      split
      · exact bad _ _
      · rfl

theorem State.frameFails_me (frame : Nat) (s : State) : (s.frameFails frame).2.me = s.me := by
  unfold State.frameFails
  split
  · rfl
  · split
    · rfl
    · exact List.foldlRecOn (motive := fun acc : Bool × State => acc.2.me = s.me) _ _ rfl fun acc kept g _ =>
        (State.decodeGranule_me 0x03 g s.hartAgent acc.2).trans kept

/-- What a store ends is of the vector state alone (R117, R260). -/
theorem State.noteStore_slot (pa n : Nat) (s : State) : ∃ v, (s.noteStore pa n).me = { s.me with vec := v } := by
  obtain ⟨_, _, h, -⟩ : s.frees (s.dropLoads fun l => l.meets pa n) := by
    unfold State.dropLoads
    split
    · exact State.dropEntries_frees _ s
    · exact .refl s
  unfold State.noteStore State.keepAhead
  rw [h]
  split
  · exact ⟨_, rfl⟩
  · exact ⟨_, rfl⟩

/-- The writing of a frame, or its failure, ends the hart's wait for its bank and is no matter of another part of the hart (R284). -/
theorem State.putFrame_slot (words : List X) (s : State) :
    ∃ v stopped wait, (s.putFrame words).me = { s.me with vec := v, hart := { s.me.hart with
      stopped := stopped, wait := wait, frame := none } } ∧ (wait = none ∨ wait = s.me.hart.wait) := by
  have kept := State.frameFails_me (s.frameOf s.me.hart) s
  unfold State.putFrame
  simp only
  generalize s.frameFails (s.frameOf s.me.hart) = r at kept
  obtain ⟨_ | _, t⟩ := r
  · obtain ⟨v, hv⟩ := State.noteStore_slot (s.frameOf s.me.hart) 64
      (t.physWrite (s.frameOf s.me.hart) (words.flatMap fun w => leBytes 8 w.toNat))
    refine ⟨v, s.me.hart.stopped, s.me.hart.wait, ?_, .inr rfl⟩
    simp only [State.modHart, hv, State.physWrite_me]
    rw [show t.me = s.me from kept]
  · refine ⟨s.me.vec, true, none, ?_, .inl rfl⟩
    simp only [State.modHart, State.logAt_me]
    rw [show t.me = s.me from kept]

/-! ### The slot after a trap -/

/-- A trap leaves the hart in its slot, found ready; at most it waits for the bank of its frame (R283, R284). -/
theorem State.enterTrap_slot (isAsync : Bool) (epc : X) (t : Trap) (s : State) :
    let v := s.enterTrap isAsync epc t
    v.me.core = s.me.core ∧ v.me.idx = s.me.idx ∧ v.me.hart.pid = s.me.hart.pid ∧ v.me.hart.hid = s.me.hart.hid ∧
      v.me.hart.held = false ∧ v.me.hart.wait.any Wait.atLock = false ∧ v.me.hart.wait.any Wait.atPort = false := by
  unfold State.enterTrap
  simp only
  split
  · exact ⟨rfl, rfl, rfl, rfl, rfl, rfl, rfl⟩
  · generalize hu : s.modHart _ = u
    obtain ⟨_, _, wait, slot, hw⟩ := u.putFrame_slot _
    have ready : wait = none := hw.elim id fun h => h.trans (by rw [← hu]; rfl)
    rw [slot, ready, ← hu]
    exact ⟨rfl, rfl, rfl, rfl, rfl, rfl, rfl⟩

/-- The issue of a word that is no instruction (R68). -/
theorem issue_of_reject {t u : State} {w : BitVec 32} {r : Reject} (hf : t.fetch = (.ok w, u)) (hd : decode w = .error r) :
    issue t = exec (.illegalInstruction w) u := by
  unfold issue
  simp only [hf, hd]

end Sys2Proof.Machine

namespace Sys2Proof.Proofs
open Sys2Proof.Machine

/-- Settles O4: the step issues the word, which traps, and the trap leaves no wait that would keep a place. -/
theorem rejectedWordTraps : Obligations.RejectedWordTraps := by
  unfold Obligations.RejectedWordTraps
  intro s u o w r hi hd hp t hs hf hw hl hc hx v mine
  obtain ⟨core, idx, pid, hid, held, lock, port⟩ := u.enterTrap_slot false u.pc
    { code := if w = 0#32 ∨ w = 0xFFFFFFFF#32 then 0x001 else 0x000, tval := w.setWidth 64 }
  have run : step s = s.settleIssue o.core o.idx (.next v) := by
    rw [step_of_pick s o hi hd hp hs, issue_of_reject hf hw, illegalInstruction_traps u w hl]
  have places : v.settlePlaces = { v with
      plockers := v.plockers.filter fun q => !mine q.pid q.hid
      portWaits := v.portWaits.filter fun q => !mine q.pid q.hid } := by
    rw [settlePlaces_of_not_held held, lock, port]
    simp only [v, pid, hid]
    rfl
  have here : v.me.core = o.core ∧ v.me.idx = o.idx := ⟨core.trans hc, idx.trans hx⟩
  rw [run, State.settleIssue]
  simp only [here, and_self, true_and, if_true, places]
  exact if_neg fun h => Bool.false_ne_true (held.symm.trans h.2)

end Sys2Proof.Proofs
end

section
/-! Reads of a register whose result is in flight (R55, R57). -/

namespace Sys2Proof.Machine

/-! ### One result in flight -/

/-- The one result in flight is one of register r, and is not current yet (R55, R56). -/
structure State.awaits (s : State) (p : Pend) (r : Reg) : Prop where
  only : s.me.hart.pend = [p]
  reg : p.before.reg = r
  late : s.cycle < p.ready
  notZero : ¬(r = .x 0 ∨ r = .k 0)

section
variable {s : State} {p : Pend} {r : Reg}

theorem State.awaits.inFlightOf (h : s.awaits p r) (q : Reg) : s.inFlightOf q = if q = r then some p else none := by
  obtain ⟨only, rfl, late, notZero⟩ := h
  unfold State.inFlightOf
  by_cases hq : q = p.before.reg
  · rw [hq, if_neg notZero]
    simp [only, late]
  · simp [only, hq, Ne.symm hq]

/-- Readers wait for a scoreboarded result alone (R55). -/
theorem State.awaits.scoreboard (h : s.awaits p r) (l : List Reg) :
    s.scoreboard l = if p.fixed = false ∧ r ∈ l then p.ready else 0 := by
  have waited : ∀ q, ((s.inFlightOf q).bind fun p => if p.fixed then none else some p.ready) =
      if p.fixed = false ∧ q = r then some p.ready else none := fun q => by
    by_cases hq : q = r <;> cases hf : p.fixed <;> simp [h.inFlightOf, hq, hf]
  have latest : ∀ (l : List Reg) (c : Nat), c ≤ p.ready →
      (l.filterMap fun q => if p.fixed = false ∧ q = r then some p.ready else none).foldl max c =
        if p.fixed = false ∧ r ∈ l then p.ready else c := fun l => by
    induction l with
    | nil => simp
    | cons q rest ih =>
      intro c hc
      by_cases hq : p.fixed = false ∧ q = r
      · simp only [List.filterMap_cons, if_pos hq, List.foldl_cons, max_eq_right hc, ih _ le_rfl]
        simp [hq]
      · grind
  unfold State.scoreboard
  simp only [waited]
  exact latest l 0 (Nat.zero_le _)

theorem State.awaits.awaitReads_fixed (h : s.awaits p r) (hf : p.fixed = true) (l : List Reg) : awaitReads l s = (.ok (), s) := by
  simp [awaitReads, M.bind_get, h.scoreboard, hf]

theorem State.awaits.awaitReads_scoreboarded (h : s.awaits p r) (hf : p.fixed = false) {l : List Reg} (hr : r ∈ l) :
    awaitReads l s = (.error (.hold p.ready), s) := by
  simp [awaitReads, M.bind_get, h.scoreboard, hf, hr, h.late]

/-! ### Reads -/

theorem State.awaits.checkRead_other (h : s.awaits p r) (w : Nat) {q : Reg} (hq : q ≠ r) : checkRead w q s = (.ok (), s) := by
  simp [checkRead, M.bind_get, h.inFlightOf, hq]

/-- An early read traps under status.sc with the register and the missing cycles (R57). -/
theorem State.awaits.checkRead_trap (h : s.awaits p r) (hsc : s.me.hart.sc = true) (hlt : p.ready < s.cycle + 256) (w : Nat) :
    checkRead w r s =
      (.error (.trap { code := r.earlyCause, tval := BitVec.ofNat 64 (r.num + 256 * (p.ready - s.cycle)) }), s) := by
  have cycles : (p.ready - s.cycle) % 256 * 256 = 256 * (p.ready - s.cycle) := by omega
  simp [checkRead, M.bind_get, h.inFlightOf, hsc, cycles, xOf]

theorem State.awaits.checkEarly_trap (h : s.awaits p r) (hsc : s.me.hart.sc = true) (hlt : p.ready < s.cycle + 256)
    (wid : List (BitVec 5 × Nat)) {l : List Reg} (hr : r ∈ l) :
    checkEarly wid l s =
      (.error (.trap { code := r.earlyCause, tval := BitVec.ofNat 64 (r.num + 256 * (p.ready - s.cycle)) }), s) := by
  induction l with
  | nil => cases hr
  | cons q rest ih =>
    unfold checkEarly
    rw [M.bind_get]
    by_cases hq : q = r
    · rw [hq]
      exact M.bind_of_error (h.checkRead_trap hsc hlt _)
    · rw [M.bind_of_ok (h.checkRead_other _ hq)]
      exact ih ((List.mem_cons.mp hr).resolve_left (Ne.symm hq))

/-! ### The checks before an instruction -/

/-- Without a PFX the checks of a scalar instruction that is none of R18 come to those of its sources. -/
theorem gate_scalar_reads {q : Req} (hv : s.me.hart.pv = false) (hs : q.sup = false) (hf : q.first = false) (hq : q.scalar = true) :
    gate q s = (checkReads q.wid q.srcs >>= fun _ => pure true) s := by
  have hp : s.me.hart.pairs q = true := by simp [Hart.pairs, hv]
  have h0 : s.pred 0 = true := by simp [State.pred, hv]
  unfold gate
  simp [M.bind_get, M.bind_require, hs, hp, hv, hq, hf, h0, M.bind_of_ok (awaitReads_nil s), checkEarly]

/-- Without a PFX the checks of a vector instruction that the hart may run come to those of its sources. -/
theorem gate_vector_reads {q : Req} (hv : s.me.hart.pv = false) (ho : s.owns = true) (hg : 1 ≤ s.me.vec.grant)
    (hb : s.me.vec.vill = false) (hs : q.sup = false) (hq : q.scalar = false) (hsh : q.shape = true) (hst : q.strips = none) :
    gate q s = (checkReads q.wid q.srcs >>= fun _ => pure true) s := by
  have hp : s.me.hart.pairs q = true := by simp [Hart.pairs, hv]
  have hn : s.me.hart.nullified = false := by simp [Hart.nullified, hv]
  have hd : s.vecDenied = false := by simp [State.vecDenied, ho]
  have h0 : ¬s.me.vec.grant = 0 := by omega
  unfold gate
  simp only [M.bind_get, M.bind_require, hs, hp, hv, hn, hq, hd, ho, hb, hsh, hst, Bool.false_and, Bool.and_false, Bool.not_true,
    Bool.not_false, Bool.or_false, Bool.false_eq_true, if_true, if_false, beq_eq_false_iff_ne.mpr h0, List.nil_append]

/-- An instruction whose checks stop it. -/
theorem State.checks.stops {i : Instr} {q : Req} {e : Stop} (h : s.checks i q) (hl : s.me.live = true)
    (hg : gate q s = (.error e, s)) : exec i s = .next (s.stopBy e) := by
  obtain ⟨k, hk⟩ := h
  rw [hk, runM, if_pos hl, M.bind_of_error hg]

/-- What an instruction does whose checks come to those of its sources, and which reads the register whose result is in flight: with
status.sc set it traps where the latency is fixed (R57), and it waits for a scoreboarded result (R55). -/
theorem State.awaits.reads_early (h : s.awaits p r) (hl : s.me.live = true) (hlt : p.ready < s.cycle + 256) {i : Instr} {q : Req}
    (hc : s.checks i q) (hg : gate q s = (checkReads q.wid q.srcs >>= fun _ => pure true) s) (hr : r ∈ q.srcs) :
    (p.fixed = true → s.me.hart.sc = true → exec i s = .next (s.enterTrap false s.pc
      { code := r.earlyCause, tval := BitVec.ofNat 64 (r.num + 256 * (p.ready - s.cycle)) })) ∧
    (p.fixed = false → exec i s = .next (s.modHart fun h => { h with
      readyAt := p.ready, stall := (s.cycle, p.ready), held := true, overrides := [] })) := by
  refine ⟨fun hf hsc => ?_, fun hf => ?_⟩
  · have early : checkReads q.wid q.srcs s = _ := (M.bind_of_ok (h.awaitReads_fixed hf _)).trans (h.checkEarly_trap hsc hlt _ hr)
    exact hc.stops hl (hg.trans (M.bind_of_error early))
  · have held := hc.stops hl (hg.trans (M.bind_of_error (M.bind_of_error (h.awaitReads_scoreboarded hf hr))))
    rw [held, State.stopBy, max_eq_left h.late]

end

/-! ### Early reads of x registers with status.sc clear -/

/-- s with the values that were chosen for early reads, and the count of free values after that (R57). -/
def State.choosing (s : State) (l : List RegVal) (n : Nat) : State :=
  { s.modHart fun h => { h with overrides := l } with fresh := n }

section
variable {s : State} {p : Pend} {a : BitVec 5} {v : X}

/-- An early read of an x register gives its value before the producer, or the result (R57). -/
theorem State.awaits.checkRead_chooses (h : s.awaits p (.x a)) (hb : p.before = .x a v) (hsc : s.me.hart.sc = false) (w : Nat) :
    ∃ y, (y = v ∨ y = s.me.hart.x[a.toNat]) ∧
      checkRead w (.x a) s = (.ok (), s.choosing (s.me.hart.overrides ++ [.x a y]) (s.fresh + 1)) := by
  have values : earlyValues s.cycle (s.regVal (.x a)) [p] = [.x a v, .x a s.me.hart.x[a.toNat]] := by
    simp [earlyValues, lateResults, h.late, hb, State.regVal]
  have read : checkRead w (.x a) s = (.ok (), s.choosing (s.me.hart.overrides ++
      [[RegVal.x a v, .x a s.me.hart.x[a.toNat]].getD (Config.freeChoice s.fresh 0 % 2) (s.regVal (.x a))]) (s.fresh + 1)) := by
    unfold checkRead
    simp only [M.bind_get, h.inFlightOf, if_true, hsc, Bool.false_eq_true, if_false, h.only, hb, RegVal.reg, decide_true,
      List.filter_cons_of_pos, List.filter_nil, values]
    rfl
  rcases Nat.mod_two_eq_zero_or_one (Config.freeChoice s.fresh 0) with hm | hm
  · exact ⟨v, .inl rfl, by rw [read, hm]; rfl⟩
  · exact ⟨_, .inr rfl, by rw [read, hm]; rfl⟩

/-- A register that an instruction names twice is read as one value (log entry 7). -/
theorem State.awaits.checkReads_chooses (h : s.awaits p (.x a)) (hb : p.before = .x a v) (hf : p.fixed = true)
    (hsc : s.me.hart.sc = false) (ho : s.me.hart.overrides = []) (b : BitVec 5) :
    ∃ y l n, (y = v ∨ y = s.me.hart.x[a.toNat]) ∧ (∀ o ∈ l, o.reg = .x a) ∧
      checkReads [] [.x a, .x b] s = (.ok (), s.choosing (.x a y :: l) n) := by
  obtain ⟨y, hy, first⟩ := h.checkRead_chooses hb hsc 64
  rw [ho] at first
  have reads : checkReads [] [.x a, .x b] s = (checkRead 64 (.x b) >>= fun _ => pure ()) (s.choosing [.x a y] (s.fresh + 1)) :=
    (M.bind_of_ok (h.awaitReads_fixed hf _)).trans (M.bind_of_ok first)
  have h1 : (s.choosing [.x a y] (s.fresh + 1)).awaits p (.x a) := ⟨h.only, h.reg, h.late, h.notZero⟩
  by_cases hab : b = a
  · subst hab
    obtain ⟨z, -, second⟩ := h1.checkRead_chooses hb hsc 64
    exact ⟨y, [.x b z], _, hy, by simp [RegVal.reg], reads.trans (M.bind_of_ok second)⟩
  · exact ⟨y, [], _, hy, by simp, reads.trans (M.bind_of_ok (h1.checkRead_other 64 (by simpa using hab)))⟩

end

theorem rX_choosing {s : State} (ho : s.me.hart.overrides = []) {a : BitVec 5} (ha : a ≠ 0) {y : X} {l : List RegVal}
    (hl : ∀ o ∈ l, o.reg = .x a) (n : Nat) (r : BitVec 5) :
    (s.choosing (.x a y :: l) n).rX r = if r = a then y else s.rX r := by
  have first : (RegVal.x a y).reg = .x a := rfl
  by_cases hr : r = a
  · subst hr
    simp only [State.rX, if_neg ha, State.chosen, State.choosing, State.modHart, List.find?_cons, first, decide_true, if_true]
  · have others : l.find? (fun o => o.reg = .x r) = none := by
      simp only [List.find?_eq_none, decide_eq_true_eq]
      exact fun o hm he => hr (Reg.x.inj (he.symm.trans (hl o hm)))
    have apart : ¬Reg.x a = .x r := fun he => hr (Reg.x.inj he).symm
    simp only [State.rX, State.chosen, State.choosing, State.modHart, List.find?_cons, first, apart, decide_false, others, ho,
      List.find?_nil, if_neg hr]

/-! ### The write of a result -/

/-- A write of x[d] changes the registers of the hart, its tags and its results in flight alone (R9, R55). -/
theorem wXat_frame (d : BitVec 5) (v : X) (tag : Bool) (lat : Nat) (fixed : Bool) (s : State) :
    ∃ l, s.wXat d v tag lat fixed = s.modHart fun h => { h.withX d v tag with pend := l } := by
  unfold State.wXat State.wX Hart.withX
  by_cases hd : d = 0
  · exact ⟨s.me.hart.pend, by simp only [hd, if_true]; rfl⟩
  · exact ⟨_, by simp only [hd, if_false]; rfl⟩

/-- The completion of an instruction that wrote x[d], without a step trap to follow, whatever was in flight before (R7). -/
theorem complete_wXat_eq_after (d : BitVec 5) (v : X) (tag : Bool) (lat : Nat) (fixed : Bool) (st : BitVec 3) (delay : Nat) (npc : X)
    {s : State} (hs : (s.me.hart.ss && !s.me.hart.prv) = false) :
    (s.wXat d v tag lat fixed).complete st delay npc = (s.wXat d v tag lat fixed).after st delay npc := by
  refine complete_eq_after _ _ _ _ ?_
  unfold Hart.ss Hart.prv at *
  rw [ss_wXat]
  exact hs

/-- A result and the completion of its instruction: what programs read of registers and memory then (R7, R9). -/
theorem wXat_after_reads (d : BitVec 5) (v : X) (tag : Bool) (lat : Nat) (fixed : Bool) (st : BitVec 3) (delay : Nat) (npc : X)
    (s : State) :
    let t := (s.wXat d v tag lat fixed).after st delay npc
    t.pc = npc ∧ t.mem = s.mem ∧
      ∀ r, t.rX r = if r = d ∧ d ≠ 0 then v else if r = 0 then 0 else s.me.hart.x[r.toNat] := by
  obtain ⟨l, h⟩ := wXat_frame d v tag lat fixed s
  rw [h]
  refine ⟨rfl, rfl, fun r => (rX_of_overrides rfl r).trans ?_⟩
  have reg : ((s.modHart fun h => { h.withX d v tag with pend := l }).after st delay npc).me.hart.x[r.toNat] =
      if r = d ∧ d ≠ 0 then v else s.me.hart.x[r.toNat] := Hart.getElem_withX s.me.hart d r v tag
  rw [reg]
  grind

end Sys2Proof.Machine

namespace Sys2Proof.Proofs
open Sys2Proof.Machine Sys2Proof.Cert

theorem scalarEarlyReads : Cert.scalarEarlyReads := by
  intro s st d a b p v hl hv ha hp hb hlate hlt
  have h : s.awaits p (.x a) := ⟨hp, congrArg RegVal.reg hb, hlate, by simpa using ha⟩
  obtain ⟨trap, wait⟩ := h.reads_early hl hlt (i := .addR st d a b) ⟨_, rfl⟩ (gate_scalar_reads hv rfl rfl rfl) (by simp)
  refine ⟨trap, fun hf hsc ho hs => ?_, wait⟩
  obtain ⟨y, l, n, hy, hreg, reads⟩ := h.checkReads_chooses hb hf hsc ho b
  let u := s.choosing (.x a y :: l) n
  have sum : u.rX a + u.rX b = y + (if b = a then y else s.rX b) := by
    rw [rX_choosing ho ha hreg n a, rX_choosing ho ha hreg n b, if_pos rfl]
  have run : exec (.addR st d a b) s = .next ((u.wXat d (u.rX a + u.rX b) false 1 true).complete st 0 (s.pc + 4)) := by
    have passed : gate { st := st, srcs := [a, b].map .x, dst := .x d } s = (.ok true, u) :=
      (gate_scalar_reads hv rfl rfl rfl).trans (M.bind_of_ok reads)
    show runScalar _ _ s = _
    unfold runScalar runM
    rw [if_pos hl, M.bind_of_ok passed]
    simp only [if_true, M.run_bind, M.run_get, putX_plain _ _ _ _ _ u hv, M.run_pure]
    rfl
  rw [run, complete_wXat_eq_after _ _ _ _ _ _ _ _ (s := u) hs]
  obtain ⟨hpc, hmem, hx⟩ := wXat_after_reads d (u.rX a + u.rX b) false 1 true st 0 (s.pc + 4) u
  refine ⟨_, y, rfl, hy.imp_right fun e => ?_, hpc, hmem, fun r => ?_⟩
  · rw [e, rX_of_overrides ho, if_neg ha]
  · rw [hx, sum, rX_of_overrides ho r]
    rfl

theorem vectorEarlyReads : Cert.vectorEarlyReads := by
  intro s st c d a b k e f p hready hp hlate hlt early
  obtain ⟨⟨⟨hl, -, -, hv, -⟩, hown, hg, -, legal, -, -, -, -⟩, hst⟩ := hready
  have reads := fun (q : Req) => gate_vector_reads (s := s) (q := q) hv hown hg legal
  have strips : ∀ (x : Prop) [Decidable x] l, (if x then s.me.vec.stripsTrap l else none) = none := fun x _ l => by
    rw [stripsTrap_of_streams (v := s.me.vec) hst, ite_self]
  refine ⟨fun v hb h8 => ?_, fun v hb hc => ?_⟩
  · have h : s.awaits p (.v a) := ⟨hp, congrArg RegVal.reg hb, hlate, by simp⟩
    exact ⟨h.reads_early hl hlt ⟨_, rfl⟩ (reads _ rfl rfl (decide_eq_true h8) (strips _ _)) (by simp),
      h.reads_early hl hlt ⟨_, rfl⟩ (reads _ rfl rfl (decide_eq_true h8) (strips _ _)) (by simp)⟩
  · have h : s.awaits p (.k c) := ⟨hp, congrArg RegVal.reg hb, hlate, by simpa using hc⟩
    exact ⟨h.reads_early hl hlt ⟨_, rfl⟩ (reads _ rfl rfl rfl (strips _ _)) (by simp),
      h.reads_early hl hlt ⟨_, rfl⟩ (reads _ rfl rfl rfl (strips _ _)) (by simp)⟩

/-- Settles O18: what the checks of the sources answer where one of them has its result in flight. -/
theorem earlyReads : Obligations.EarlyReads := ⟨scalarEarlyReads, vectorEarlyReads⟩

end Sys2Proof.Proofs
end

section
/-! The scalar integer operations of the model as operations on 64-bit vectors (R75 to R78). -/

namespace Sys2Proof.Machine

theorem min_toInt (x y : X) : (if ltS y x then y else x) = BitVec.ofInt 64 (min x.toInt y.toInt) := by
  unfold ltS
  by_cases h : y.toInt < x.toInt
  · simp [h, min_eq_right h.le]
  · simp [h, min_eq_left (not_lt.mp h)]

theorem max_toInt (x y : X) : (if ltS x y then y else x) = BitVec.ofInt 64 (max x.toInt y.toInt) := by
  unfold ltS
  by_cases h : x.toInt < y.toInt
  · simp [h, max_eq_right h.le]
  · simp [h, max_eq_left (not_lt.mp h)]

theorem min_toNat (x y : X) : (if ltN y x then y else x) = BitVec.ofNat 64 (min x.toNat y.toNat) := by
  unfold ltN
  by_cases h : y.toNat < x.toNat
  · simp [h, min_eq_right h.le]
  · simp [h, min_eq_left (not_lt.mp h)]

theorem max_toNat (x y : X) : (if ltN x y then y else x) = BitVec.ofNat 64 (max x.toNat y.toNat) := by
  unfold ltN
  by_cases h : x.toNat < y.toNat
  · simp [h, max_eq_right h.le]
  · simp [h, max_eq_left (not_lt.mp h)]

theorem clampX_eq (i : Int) : clampX i = BitVec.ofInt 64 (max (-2 ^ 63) (min (2 ^ 63 - 1) i)) := by
  unfold clampX
  rw [clampInt_eq (by norm_num)]

/-- A shift amount is the low 6 bits of its register (R75). -/
theorem shiftAmount_eq (y : X) : y.toNat % 64 = (y.extractLsb' 0 6).toNat := by
  rw [BitVec.extractLsb'_toNat, Nat.shiftRight_zero]

/-! ### Counts of bits -/

theorem xOf_leadingZeros (x : X) : xOf (leadingZeros 64 x.toNat) = x.clz := by
  unfold leadingZeros
  by_cases h0 : x = 0#64
  · subst h0
    rfl
  have pos : x.toNat ≠ 0 := fun h => h0 (BitVec.eq_of_toNat_eq h)
  have lt : x.clz.toNat < 64 := BitVec.clz_lt_iff_ne_zero.mpr h0
  have top : Nat.log2 x.toNat = 64 - 1 - x.clz.toNat := by
    refine (Nat.log2_eq_iff pos).mpr ⟨BitVec.two_pow_sub_clz_le_toNat_of_ne_zero (by omega) h0, ?_⟩
    rw [show 64 - 1 - x.clz.toNat + 1 = 64 - x.clz.toNat by omega]
    exact BitVec.toNat_lt_two_pow_sub_clz
  rw [if_neg pos, top, show 64 - 1 - (64 - 1 - x.clz.toNat) = x.clz.toNat by omega, Proofs.xOf_toNat, BitVec.setWidth_eq]

/-- The first bit that is 1 ends the count. -/
theorem trailingZeros_eq {n v k : Nat} (hk : k ≤ n) (h0 : ∀ i < k, v.testBit i = false) (h1 : k < n → v.testBit k = true) :
    trailingZeros n v = k := by
  induction n generalizing v k with
  | zero => exact (Nat.le_zero.mp hk).symm
  | succ n ih =>
    unfold trailingZeros
    cases k with
    | zero =>
      have := h1 (by omega)
      rw [Nat.testBit_zero, decide_eq_true_eq] at this
      rw [if_pos this]
    | succ k =>
      have even : ¬v % 2 = 1 := by simpa [Nat.testBit_zero] using h0 0 (by omega)
      rw [if_neg even, ih (v := v / 2) (k := k) (by omega) (fun i hi => ?_) (fun hn => ?_), Nat.add_comm]
      · rw [← Nat.testBit_succ]
        exact h0 (i + 1) (by omega)
      · rw [← Nat.testBit_succ]
        exact h1 (by omega)

theorem xOf_trailingZeros (x : X) : xOf (trailingZeros 64 x.toNat) = x.ctz := by
  have le : x.ctz.toNat ≤ 64 := BitVec.ctz_eq_reverse_clz ▸ BitVec.clz_le
  rw [trailingZeros_eq le (fun i hi => ?_) (fun hlt => ?_), Proofs.xOf_toNat, BitVec.setWidth_eq]
  · rw [BitVec.testBit_toNat]
    exact BitVec.getLsbD_false_of_lt_ctz hi
  · rw [BitVec.testBit_toNat]
    exact BitVec.getLsbD_true_ctz_of_ne_zero (BitVec.ctz_lt_iff_ne_zero.mp hlt)

theorem popCount_succ (n v : Nat) : popCount (n + 1) v = popCount n v + (v.testBit n).toNat := by
  induction n generalizing v with
  | zero =>
    show v % 2 + 0 = 0 + _
    rw [Nat.testBit_zero]
    rcases Nat.mod_two_eq_zero_or_one v with h | h <;> simp [h]
  | succ n ih =>
    show v % 2 + popCount (n + 1) (v / 2) = v % 2 + popCount n (v / 2) + _
    rw [ih, Nat.testBit_succ, Nat.add_assoc]

theorem cpopNatRec_eq_popCount (x : X) (n : Nat) : x.cpopNatRec n 0 = popCount n x.toNat := by
  induction n with
  | zero => rfl
  | succ n ih => rw [BitVec.cpopNatRec_succ, BitVec.cpopNatRec_add, ih, popCount_succ, BitVec.testBit_toNat]

theorem xOf_popCount (x : X) : xOf (popCount 64 x.toNat) = x.cpop := by
  rw [← cpopNatRec_eq_popCount]
  rfl

/-! ### Products and quotients -/

theorem extractLsb'_ofInt_high (p : Int) : (BitVec.ofInt 128 p).extractLsb' 64 64 = BitVec.ofInt 64 (p / 2 ^ 64) := by
  apply BitVec.eq_of_toNat_eq
  rw [BitVec.extractLsb'_toNat, BitVec.toNat_ofInt, BitVec.toNat_ofInt, Nat.shiftRight_eq_div_pow]
  push_cast
  omega

theorem mulh_signed (x y : X) :
    BitVec.ofInt 64 (x.toInt * y.toInt / 2 ^ 64) = (x.signExtend 128 * y.signExtend 128).extractLsb' 64 64 := by
  rw [← extractLsb'_ofInt_high, BitVec.ofInt_mul]
  rfl

theorem mulh_mixed (x y : X) :
    BitVec.ofInt 64 (x.toInt * (y.toNat : Int) / 2 ^ 64) = (x.signExtend 128 * y.setWidth 128).extractLsb' 64 64 := by
  rw [← extractLsb'_ofInt_high, BitVec.ofInt_mul, BitVec.ofInt_natCast, BitVec.ofNat_toNat]
  rfl

theorem mulh_natural (x y : X) :
    xOf (x.toNat * y.toNat / 2 ^ 64) = (x.setWidth 128 * y.setWidth 128).extractLsb' 64 64 := by
  apply BitVec.eq_of_toNat_eq
  rw [xOf, BitVec.toNat_ofNat]
  exact mul_natural_high x y

theorem divS_eq (x y : X) : divS x y = if y = 0 then BitVec.allOnes 64 else x.sdiv y := by
  unfold divS
  split
  · rfl
  · exact BitVec.eq_of_toInt_eq (by rw [BitVec.toInt_ofInt, BitVec.toInt_sdiv])

theorem remS_eq (x y : X) : remS x y = if y = 0 then x else x.srem y := by
  unfold remS
  rw [← BitVec.toInt_srem, BitVec.ofInt_toInt]

theorem divN_eq (x y : X) : divN x y = if y = 0 then BitVec.allOnes 64 else x / y := by
  unfold divN
  rw [← BitVec.toNat_udiv, Proofs.xOf_toNat, BitVec.setWidth_eq]

theorem remN_eq (x y : X) : remN x y = if y = 0 then x else x % y := by
  unfold remN
  rw [← BitVec.toNat_umod, Proofs.xOf_toNat, BitVec.setWidth_eq]

/-- A division takes 8 to 40 cycles, and 8 where its divisor is 0 or its quotient is below 2^4 (R78). -/
theorem divLatency_bounds (isNat : Bool) (x y : X) : 8 ≤ divLatency isNat x y ∧ divLatency isNat x y ≤ 40 := by
  unfold divLatency
  dsimp only
  generalize (if isNat = true then divN x y else divS x y) = q
  by_cases h : y = 0 ∨ (if isNat then q.toNat else q.toInt.natAbs) < 16
  · rw [if_pos h]
    omega
  · rw [if_neg h]
    omega

theorem divLatency_least (isNat : Bool) {x y : X} {q : Nat}
    (hq : y ≠ 0 → (if isNat then (divN x y).toNat else (divS x y).toInt.natAbs) = q) (h : y = 0 ∨ q < 16) : divLatency isNat x y = 8 := by
  unfold divLatency
  refine if_pos (Decidable.or_iff_not_imp_left.mpr fun hy => ?_)
  have quotient := hq hy
  cases isNat <;> simp only [Bool.false_eq_true, if_false, if_true] at quotient ⊢ <;> rw [quotient] <;> exact h.resolve_left hy

/-! ### Words that the tables do not list -/

theorem decode_of_rawDecode_none {w : BitVec 32} (h : rawDecode w.toNat = none) : ∃ r, decode w = .error r := by
  unfold decode
  split
  · exact ⟨_, rfl⟩
  · split
    · rw [h]
      exact ⟨_, rfl⟩
    · exact ⟨_, rfl⟩

theorem major_of_extract {w : BitVec 32} {m : BitVec 6} (h : w.extractLsb' 26 6 = m) : w.toNat / 2 ^ 26 = m.toNat := by
  have lt := w.isLt
  rw [← h, BitVec.extractLsb'_toNat, Nat.shiftRight_eq_div_pow]
  omega

theorem rawInt_of_unlisted {n : Nat} (h : 0x13 ≤ n % 256) : rawInt n = none := by
  unfold rawInt
  split
  case h_20 => rfl
  all_goals omega

theorem rawMulDiv_of_unlisted {n : Nat} (h : 8 ≤ n % 256) : rawMulDiv n = none := by
  unfold rawMulDiv
  split
  case h_9 => rfl
  all_goals omega

end Sys2Proof.Machine
end

section
/-! Scalar instructions that compute a register, and control transfers (R75 to R78, R86 to R88). -/

namespace Sys2Proof.Machine
open Sys2Proof.Cert

/-- A register-writing instruction whose value is that of a table. -/
theorem gives_of_computeX {s : State} (h : s.settled) {i : Instr} {st : BitVec 3} {d : BitVec 5} {srcs : List (BitVec 5)} {lat : Nat}
    {f : State → X} {v : X} (hi : exec i s = computeX st d srcs lat true f s) (hv : f s = v) : gives s i st d v lat := by
  unfold gives
  rw [hi, computeX_settled st d srcs lat true f s h, hv]

/-- A division of a settled hart (R78). -/
theorem divRR_settled {s : State} (h : s.settled) (st : BitVec 3) (d a b : BitVec 5) (isNat : Bool) (f : X → X → X) :
    divRR st d a b isNat f s = .next (s.afterX d (f (s.rX a) (s.rX b)) false (divLatency isNat (s.rX a) (s.rX b)) false st 0 (s.pc + 4)) := by
  obtain ⟨hl, hp, ho, hv, hs⟩ := h
  unfold divRR
  rw [runScalar_plain _ _ _ hl hp hv (by simp) (by simp) rfl]
  simp only [M.run_bind, M.run_get, putX_plain _ _ _ _ _ s hv, M.run_pure]
  rw [complete_wXat _ _ _ _ _ _ _ _ _ hp hs]

/-- A jump of a settled hart to an aligned target (R87, R88). -/
theorem jumpLink_settled {s : State} (h : s.settled) (st : BitVec 3) (dst : Dst) (srcs : List Reg) (target : State → X)
    (ha : fieldOf (target s) 0 2 = 0) :
    jumpLink st dst none srcs target s = .next (s.after st 2 (target s)) ∧
    ∀ d, jumpLink st dst (some d) srcs target s = .next (s.afterX d (s.pc + 4) false 1 true st 2 (target s)) := by
  obtain ⟨hl, hp, ho, hv, hs⟩ := h
  have passed : gate { st := st, srcs := srcs, dst := dst } s = (.ok true, s) := gate_scalar _ hp hv rfl (by simp) (by simp)
  have aligned : (fieldOf (target s) 0 2 == 0) = true := beq_iff_eq.mpr ha
  unfold jumpLink runM
  refine ⟨?_, fun d => ?_⟩ <;> rw [if_pos hl, M.bind_of_ok passed] <;>
    simp only [if_true, M.run_bind, M.run_get, aligned, M.run_require_true, putX_plain _ _ _ _ _ s hv, done, M.run_modify]
  · rw [complete_eq_after _ _ _ s hs]
  · rw [complete_wXat _ _ _ _ _ _ _ _ _ hp hs]

/-- A jump of a settled hart to a target that is not aligned (R88). -/
theorem jumpLink_misaligned {s : State} (h : s.settled) (st : BitVec 3) (dst : Dst) (link : Option (BitVec 5)) (srcs : List Reg)
    (target : State → X) (ha : fieldOf (target s) 0 2 ≠ 0) :
    jumpLink st dst link srcs target s = .next (s.enterTrap false s.pc { code := 0x0C1, tval := target s }) := by
  obtain ⟨hl, hp, ho, hv, hs⟩ := h
  have passed : gate { st := st, srcs := srcs, dst := dst } s = (.ok true, s) := gate_scalar _ hp hv rfl (by simp) (by simp)
  have misaligned : (fieldOf (target s) 0 2 == 0) = false := beq_eq_false_iff_ne.mpr ha
  refine runM_trap _ _ _ s s hl ?_
  rw [M.bind_of_ok passed]
  simp only [if_true, M.run_bind, M.run_get, misaligned, M.run_require_false]

/-- A branch target is aligned where the pc is (R6, R52). -/
theorem fieldOf_branchTarget {n : Nat} (pc : X) (off : BitVec n) : fieldOf (branchTarget pc off) 0 2 = fieldOf pc 0 2 := by
  unfold fieldOf branchTarget
  rw [BitVec.extractLsb'_toNat, BitVec.extractLsb'_toNat, BitVec.toNat_add, BitVec.toNat_mul,
    show (4 : X).toNat = 4 from rfl, Nat.shiftRight_zero, Nat.shiftRight_zero]
  omega

/-- A word whose selectors name no instruction traps with 0x000 (R68, R75, R78). -/
theorem unlisted_traps {s : State} (hl : s.me.live = true) {w : BitVec 32} (h : rawDecode w.toNat = none) (hw : w ≠ 0#32 ∧ w ≠ 0xFFFFFFFF#32) :
    (∃ r, decode w = .error r) ∧
      exec (.illegalInstruction w) s = .next (s.enterTrap false s.pc { code := 0x000, tval := w.setWidth 64 }) := by
  refine ⟨decode_of_rawDecode_none h, ?_⟩
  rw [Proofs.illegalInstruction_traps s w hl, if_neg (by tauto)]

/-- The permanently illegal words have the majors 0 and 63 (R63, R68). -/
theorem ne_illegal_of_major {w : BitVec 32} {m : BitVec 6} (h : w.extractLsb' 26 6 = m) (h0 : m ≠ 0#6) (h1 : m ≠ 63#6) :
    w ≠ 0#32 ∧ w ≠ 0xFFFFFFFF#32 := by
  refine ⟨?_, ?_⟩
  · rintro rfl
    exact h0 (h.symm.trans (by decide))
  · rintro rfl
    exact h1 (h.symm.trans (by decide))

end Sys2Proof.Machine

namespace Sys2Proof.Proofs
open Sys2Proof.Machine Sys2Proof.Cert

theorem integerRegisterResults_holds : integerRegisterResults := by
  intro s st d a b h x y
  refine ⟨?_, ?_, ?_, ?_, ?_, ?_, ?_, ?_, ?_, ?_, ?_, ?_, ?_, ?_, ?_, ?_, ?_, ?_, ?_, fun w hm hf => ?_⟩
  iterate 5 exact gives_of_computeX h rfl rfl
  · exact gives_of_computeX h rfl (congrArg (x <<< ·) (shiftAmount_eq y))
  · exact gives_of_computeX h rfl (congrArg (x >>> ·) (shiftAmount_eq y))
  · exact gives_of_computeX h rfl (congrArg (x.sshiftRight ·) (shiftAmount_eq y))
  iterate 2 exact gives_of_computeX h rfl rfl
  · exact gives_of_computeX h rfl (min_toInt x y)
  · exact gives_of_computeX h rfl (max_toInt x y)
  · exact gives_of_computeX h rfl (min_toNat x y)
  · exact gives_of_computeX h rfl (max_toNat x y)
  · exact gives_of_computeX h rfl (clampX_eq _)
  · exact gives_of_computeX h rfl (clampX_eq _)
  · exact gives_of_computeX h rfl (xOf_leadingZeros x)
  · exact gives_of_computeX h rfl (xOf_trailingZeros x)
  · exact gives_of_computeX h rfl (xOf_popCount x)
  · rw [BitVec.extractLsb'_toNat, Nat.shiftRight_zero] at hf
    have none_listed : rawDecode w.toNat = none :=
      (Laws.RoundTrip.major_2 _ (major_of_extract hm)).trans (rawInt_of_unlisted hf)
    exact unlisted_traps h.1 none_listed (ne_illegal_of_major hm (by decide) (by decide))

theorem integerImmediateResults_holds : integerImmediateResults := by
  intro s st d a i j k l m h x
  refine ⟨?_, ?_, ?_, ?_, ?_, ?_, ?_, ?_, ?_, ?_, ?_⟩
  iterate 10 exact gives_of_computeX h rfl rfl
  refine gives_of_computeX h rfl (BitVec.eq_of_getLsbD_eq fun n hn => ?_)
  simp only [zimm, BitVec.getLsbD_or, BitVec.getLsbD_shiftLeft, BitVec.getLsbD_setWidth, BitVec.getLsbD_append, BitVec.getLsbD_extractLsb']
  by_cases h16 : n < 16
  · simp [h16, hn]
  · simp [h16, hn, show n - 16 < 48 by omega, BitVec.getLsbD_of_ge m n (by omega)]

/-- Settles O8: each instruction computes its register from its sources, and the function is that of the table. -/
theorem integerResults : Obligations.IntegerResults := ⟨integerRegisterResults_holds, integerImmediateResults_holds⟩

/-- Settles O9: the multiplications are cuts of one product of 128 bits; the quotient decides the latency of a division and of its remainder. -/
theorem multiplyDivideResults : Obligations.MultiplyDivideResults := by
  intro s st d a b h x y late
  have divides : ∀ (isNat : Bool) (f : X → X → X) {i : Instr} {v : X} {q : Nat}, exec i s = divRR st d a b isNat f s → f x y = v →
      (y ≠ 0 → (if isNat then (divN x y).toNat else (divS x y).toInt.natAbs) = q) → late i v q := by
    intro isNat f i v q hi hf hq
    refine ⟨divLatency isNat x y, (divLatency_bounds ..).1, (divLatency_bounds ..).2, divLatency_least isNat hq, ?_⟩
    rw [hi, divRR_settled h, ← hf]
  have signed : y ≠ 0 → (divS x y).toInt.natAbs = (x.sdiv y).toInt.natAbs := fun hy => by rw [divS_eq, if_neg hy]
  have natural : y ≠ 0 → (divN x y).toNat = (x / y).toNat := fun hy => by rw [divN_eq, if_neg hy]
  refine ⟨gives_of_computeX h rfl rfl, gives_of_computeX h rfl (mulh_signed x y), gives_of_computeX h rfl (mulh_natural x y),
    gives_of_computeX h rfl (mulh_mixed x y), divides false divS rfl (divS_eq x y) signed, divides true divN rfl (divN_eq x y) natural,
    divides false remS rfl (remS_eq x y) signed, divides true remN rfl (remN_eq x y) natural, fun w hm hf => ?_⟩
  rw [BitVec.extractLsb'_toNat, Nat.shiftRight_zero] at hf
  have none_listed : rawDecode w.toNat = none :=
    (Laws.RoundTrip.major_10 _ (major_of_extract hm)).trans (rawMulDiv_of_unlisted hf)
  exact unlisted_traps h.1 none_listed (ne_illegal_of_major hm (by decide) (by decide))

theorem branches_hold : branches := by
  intro s st a b i h x y goes
  have by_condition : ∀ {j : Instr} (cond : X → X → Bool), exec j s = branchIf st a b i cond s → goes j (cond x y) := fun cond hj =>
    hj.trans (branchIf_settled st a b i cond s h)
  exact ⟨by_condition (fun x y => x == y) rfl, by_condition (fun x y => x != y) rfl, by_condition (fun x y => ltS x y) rfl,
    by_condition (fun x y => !ltS x y) rfl, by_condition (fun x y => ltN x y) rfl, by_condition (fun x y => !ltN x y) rfl⟩

theorem jumps_hold : jumps := by
  intro s st d a i j h
  refine ⟨fun hpc => ?_, fun ht => ?_, fun ht => ?_⟩
  · have aligned : fieldOf (branchTarget s.pc i) 0 2 = 0 := (fieldOf_branchTarget s.pc i).trans hpc
    exact ⟨(jumpLink_settled h st .none [] (fun t => branchTarget t.pc i) aligned).1,
      (jumpLink_settled h st (.x d) [] (fun t => branchTarget t.pc i) aligned).2 d⟩
  · exact (jumpLink_settled h st (.x d) [.x a] (fun t => t.rX a + simm j) ht).2 d
  · exact jumpLink_misaligned h st (.x d) (some d) [.x a] (fun t => t.rX a + simm j) ht

/-- Settles O12: a branch by its condition, a jump by the alignment of its target. -/
theorem controlTransfers : Obligations.ControlTransfers := ⟨branches_hold, jumps_hold⟩

end Sys2Proof.Proofs
end

section
/-! System instructions: ecall, break, eret, and the handles that an invalidation finds (R90 to R92, R95, R165). -/

namespace Sys2Proof.Machine

/-! ### ecall and break -/

/-- A scalar instruction that does nothing but trap (R90, R91). -/
theorem runScalar_traps {s : State} (hl : s.me.live = true) (hp : s.me.hart.pend = []) (hv : s.me.hart.pv = false) (st : BitVec 3)
    (body : M X) {t : Trap} (hb : body s = (.error (.trap t), s)) :
    runScalar { st := st, pfxOk := false } body s = .next (s.enterTrap false s.pc t) := by
  rw [runScalar_plain _ _ _ hl hp hv (by simp) (by simp) rfl, hb]
  rfl

theorem ecall_zero_permanentlyIllegal (st : BitVec 3) :
    (st.setWidth 32 <<< 23 = 0#32 ∨ st.setWidth 32 <<< 23 = 0xFFFFFFFF#32) ↔ st = 0 := by
  revert st
  decide

/-- The words of ecall with n = 0: their fields name an instruction that is none (R90). -/
theorem decode_ecall_zero (st : BitVec 3) :
    decode (st.setWidth 32 <<< 23) = .error (if st = 0 then .permanentlyIllegal else .badOperand) := by
  have illegal : permanentlyIllegalWord (st.setWidth 32 <<< 23) = decide (st = 0) := by
    unfold permanentlyIllegalWord
    rw [← decide_eq_decide.mpr (ecall_zero_permanentlyIllegal st), Bool.decide_or]
    rfl
  have value : (st.setWidth 32 <<< 23).toNat = layWord 0 [(st.toNat, 23), ((0 : BitVec 5).toNat, 18)] := by
    revert st
    decide
  obtain ⟨-, hmj, hlow, hst, hn⟩ := Laws.RoundTrip.shape_20 (mj := 0) (low := 0) st 0 (by decide) (by decide) value.symm
  have raw : rawDecode (st.setWidth 32 <<< 23).toNat = some (.ecall st 0) := by
    rw [Laws.RoundTrip.major_0 _ hmj]
    unfold rawSystem
    rw [show (st.setWidth 32 <<< 23).toNat / 2 ^ 9 % 16 = 0 by omega, show (st.setWidth 32 <<< 23).toNat % 512 = 0 by omega]
    show some (Instr.ecall _ _) = _
    rw [hst, hn]
  have encoded : encodeNat (.ecall st 0) = some (st.setWidth 32 <<< 23).toNat := congrArg some value.symm
  unfold decode
  rw [illegal, majorAllocated_of_rawDecode raw]
  by_cases h0 : st = 0
  · simp only [h0, decide_true, if_true]
  · simp only [h0, decide_false, Bool.false_eq_true, if_false, if_true, raw, encoded]
    rfl

/-! ### eret -/

/-- The status after a return from a trap (R92): bit 15 is prv, bit 16 pp, bit 17 ie and bit 18 pie. -/
theorem getLsbD_returnStatus (w : X) (level enabled : Bool) (i : Nat) :
    (setField w 15 4 (b2n level + b2n enabled * 4 + 8)).getLsbD i =
      if i = 15 then level else if i = 16 then false else if i = 17 then enabled else if i = 18 then true else w.getLsbD i := by
  rw [getLsbD_setField]
  by_cases h : 15 ≤ i ∧ i < 15 + 4
  · obtain rfl | rfl | rfl | rfl : i = 15 ∨ i = 16 ∨ i = 17 ∨ i = 18 := by omega
    all_goals
      rw [if_pos h]
      cases level <;> cases enabled <;> rfl
  · rw [if_neg h, if_neg (by omega), if_neg (by omega), if_neg (by omega), if_neg (by omega)]

/-- What a return from a trap changes (R92, R283, R295). -/
theorem State.returnFromTrap_frame (e p : X) (s : State) :
    s.returnFromTrap e p = { s with me := { s.me with
      hart := { s.me.hart with
        status := setField s.me.hart.status 15 4 (b2n s.me.hart.pp + b2n s.me.hart.pie * 4 + 8), pc := s.me.hart.epc,
        es := e.extractLsb' 0 18, pv := p.getLsbD 63, pword := p.extractLsb' 0 32, readyAt := s.cycle + 8, stall := (0, 0),
        overrides := [], reached := [] }
      vec := if s.me.hart.pp = false ∧ s.owns = false then { s.me.vec with lz := true } else s.me.vec } } := by
  unfold State.returnFromTrap
  by_cases h : s.me.hart.pp = false ∧ s.owns = false
  · rw [if_pos (show (!s.me.hart.pp && !s.owns) = true by simp [h]), if_pos h]
    rfl
  · rw [if_neg (show ¬(!s.me.hart.pp && !s.owns) = true by simpa using h), if_neg h]
    rfl

/-- eret at supervisor level (R92). -/
theorem exec_eret {s : State} (h : s.settled) (hprv : s.me.hart.prv = true) (st : BitVec 3) (e p : BitVec 5) :
    exec (.eret st e p) s = .next (if bitAt (s.rX p) 63 && !legalPfx ((s.rX p).extractLsb' 0 32)
      then s.enterTrap false s.pc { code := 0x000, tval := ((s.rX p).extractLsb' 0 32).setWidth 64 }
      else (s.returnFromTrap (s.rX e) (s.rX p)).modHart (Hart.count 3 1)) := by
  obtain ⟨hl, hp, -, hv, -⟩ := h
  have passed : gate { st := st, srcs := [.x e, .x p], pfxOk := false, sup := true } s = (.ok true, s) :=
    gate_scalar _ hp hv rfl (fun _ => hprv) (by simp)
  show execEret st e p s = _
  unfold execEret runM
  rw [if_pos hl, M.bind_of_ok passed, M.bind_get]
  cases hx : bitAt (s.rX p) 63 && !legalPfx ((s.rX p).extractLsb' 0 32)
  · simp only [M.bind_require, Bool.not_false, if_true, M.run_modify, Bool.false_eq_true, if_false]
  · simp only [M.bind_require, Bool.not_true, Bool.false_eq_true, if_false, if_true]
    rfl

/-! ### Invalidations -/

/-- tlbia with no plane instruction to wait for invalidates and completes (R95). -/
theorem exec_tlbia {s : State} (h : s.settled) (hprv : s.me.hart.prv = true) (st : BitVec 3) (hw : s.planeWork s.pid none = []) :
    exec (.tlbia st) s = .next ((s.invalidate s.pid none).complete st 0 (s.pc + 4)) := by
  obtain ⟨hl, hp, -, hv, -⟩ := h
  show invalidateOp st [] (fun _ => some none) s = _
  unfold invalidateOp
  rw [runScalar_plain _ _ _ hl hp hv (fun _ => hprv) (by simp) rfl]
  simp [M.run_bind, hw]

/-- An invalidation changes the hart in focus in its handles alone, and only where it is of the partition (R165). -/
theorem State.invalidate_hart (pid : Nat) (region : Option X) (s : State) :
    (s.invalidate pid region).me.hart = if s.me.live && s.me.hart.pid == pid then s.me.hart.staleHandles region else s.me.hart := by
  unfold State.invalidate State.modPart State.mapSlots
  dsimp only
  generalize hu : ({ s with tlb := _, fife := _ } : State) = u
  have freed : u.freeAllRegs.me.hart = s.me.hart ∧ u.freeAllRegs.me.live = s.me.live := by
    obtain ⟨v, o, ⟨_, _, hv, -⟩, hf⟩ := u.freeAllRegs_eq
    rw [hf, hv, ← hu]
    exact ⟨rfl, rfl⟩
  rw [apply_ite Slot.hart, ite_self, apply_ite Slot.hart, freed.1, freed.2]

/-- An invalidation leaves a handle whose range is empty (R165). -/
theorem Hart.staleHandles_of_empty (region : Option X) {h : Hart} (n : Fin 16) (he : handleLen h.p[n].word = 0) :
    (h.staleHandles region).p[n] = h.p[n] := by
  have none_met : meetsRegion region h.p[n].va (handleLen h.p[n].word) = false := by
    rw [he]
    unfold meetsRegion
    cases region <;> rfl
  unfold Hart.staleHandles
  simp only [Fin.getElem_fin, Vector.getElem_map] at none_met ⊢
  rw [none_met, Bool.and_false]
  rfl

end Sys2Proof.Machine

namespace Sys2Proof.Proofs
open Sys2Proof.Machine Sys2Proof.Cert

/-- Settles O20: both instructions pass their checks, which read no register, and trap; the words with n = 0 are eight. -/
theorem callsTrap : Obligations.CallsTrap := by
  intro s st n hl hp hv w
  refine ⟨runScalar_traps hl hp hv st _ rfl, runScalar_traps hl hp hv st _ rfl, decode_ecall_zero st, ?_⟩
  rw [illegalInstruction_traps s w hl]
  simp only [w, ecall_zero_permanentlyIllegal]

/-- Settles O21: the status is that of `getLsbD_returnStatus`, every other field that of the operands. -/
theorem returnFromTrap : Obligations.ReturnFromTrap := by
  intro s st e p h hprv xe xp
  have run := exec_eret h hprv st e p
  refine ⟨fun ok => ?_, fun h63 hx => ?_⟩
  · rw [if_neg (by simpa [bitAt] using ok), State.returnFromTrap_frame] at run
    have status := getLsbD_returnStatus s.me.hart.status s.me.hart.pp s.me.hart.pie
    refine ⟨_, run, rfl, status 15, status 17, status 18, status 16, fun i hi => ?_, rfl, rfl⟩
    exact (status i).trans (by rw [if_neg (by omega), if_neg (by omega), if_neg (by omega), if_neg (by omega)])
  · rw [run, if_pos (by rw [Bool.and_eq_true, Bool.not_eq_true']; exact ⟨h63, hx⟩)]

/-- A module in which a settled hart of supervisor level has in every handle register a valid handle of die_lo 1 and die_hi 0, whose range is
empty. -/
def emptyHandles : State :=
  { State.reset with me := { State.reset.me with
      live := true
      hart := { State.reset.me.hart with status := 0x8000, p := Vector.replicate 16 { word := 0x8000020000000000, va := 0 } } } }

/-- Refutes O25: tlbia leaves stale clear in a valid handle whose die_hi lies below its die_lo, since no region meets its empty range. -/
theorem not_systemInstructions : ¬Obligations.SystemInstructions := by
  intro h
  have settled : emptyHandles.settled := ⟨rfl, rfl, rfl, rfl, rfl⟩
  obtain ⟨-, -, -, -, -, tlbia, -⟩ := h emptyHandles 0 0 0 settled
  obtain ⟨t, run, -, -, -, -, stale⟩ := tlbia rfl rfl
  rw [exec_tlbia settled rfl 0 rfl, Host.Outcome.next.injEq] at run
  have hart : (emptyHandles.invalidate emptyHandles.pid none).me.hart = emptyHandles.me.hart.staleHandles none :=
    (State.invalidate_hart ..).trans (if_pos rfl)
  have done := complete_eq_after 0 0 (emptyHandles.pc + 4) (emptyHandles.invalidate emptyHandles.pid none) (by rw [hart]; rfl)
  have handles : t.me.hart.p = (emptyHandles.invalidate emptyHandles.pid none).me.hart.p := by rw [← run, done]; rfl
  have set := stale 0 rfl
  rw [handles, hart, Hart.staleHandles_of_empty none 0 rfl] at set
  exact absurd set (by decide)

end Sys2Proof.Proofs
end

section
/-! What a scalar access does to the copies of lines (R84, R316 to R318, R366). -/

namespace Sys2Proof.Machine

theorem State.dirtyLine_copied (pa : Nat) (low high : Bool) (s : State) : s.copied (s.dirtyLine pa low high) := .of_lines s _ _ _ _ _

theorem State.copied.putDir {s t : State} (h : s.copied t) (hs : s.sram = []) (e : DirEntry) : s.copied (t.putDir e) :=
  h.trans (State.putDir_copied (h.sram hs) e)

/-- A scalar access changes the copies of lines alone, whatever its hint and wherever it is served (R84). -/
theorem State.touch_copied {s : State} (h : s.sram = []) (p : Phys) (hc : s.lineClean p.pa) (n : Nat) (write : Bool) (hint core : Nat)
    (a : Agent) : s.copied (s.touch p n write hint core a) := by
  have free := State.unhold_copied p.pa n write s
  have home : ∀ w k, s.copied ((s.unhold p.pa n write).touchHome p n w k a) := fun w k =>
    free.trans (State.touchHome_copied (free.sram h) p (free.lineClean hc) n w k a)
  have dirty : ∀ (c : Bool) low high, s.copied (if c then (s.unhold p.pa n write).dirtyLine p.pa low high else s.unhold p.pa n write) :=
    fun c low high => by
      cases c
      · exact free
      · exact free.trans (State.dirtyLine_copied ..)
  unfold State.touch
  dsimp only
  split
  · exact home write 1
  · split
    · split
      · split
        · exact (dirty _ _ _).putDir h _
        · exact free
      · have hit : ∀ e, s.copied (if write = true then (if (s.dirAt p.pa).modified = true then s.unhold p.pa n write
            else (s.unhold p.pa n write).dirtyLine p.pa (halvesOf p.pa n).1 (halvesOf p.pa n).2).putDir e
            else s.unhold p.pa n write) := fun e => by
          split
          · split
            · exact free.putDir h e
            · exact (free.trans (State.dirtyLine_copied ..)).putDir h e
          · exact free
        split
        · exact ((hit _).trans (State.recall_copied ((hit _).sram h) _)).putDir h _
        · exact hit _
    · have missed := home (write && (hint != 0 || inT3 p.pa)) 0
      have probed := missed.trans (State.probe_copied (missed.sram h) p.pa write)
      split
      · rw [decodeLine_of_clean (probed.sram h), newCopy_of_clean (probed.sram h)]
        split
        · exact probed.putDir h _
        · exact probed
      · exact missed

end Sys2Proof.Machine
end

section
/-! Scalar loads (R81, R83, R84). -/

namespace Sys2Proof.Machine
open Sys2Proof.Cert

theorem State.copied.me {s t : State} (h : s.copied t) : t.me = s.me := h.loaded.me

/-- A scalar read at an address that is reached (R81, R84). -/
theorem readAt_of_clean {s : State} {p : Phys} (hs : s.sram = []) (ht : tagAt s.tags (p.pa / 8) ≠ 3) (hc : s.lineClean p.pa)
    (va : X) (n hint : Nat) (a : Agent) : s.readAt p va n hint a =
      (.ok (leNat (memBytes s.mem p.pa n), if p.managed then tagAt s.tags (p.pa / 8) else 0), s.touch p n false hint s.me.core a) := by
  unfold State.readAt
  rw [readRaw_of_clean hs (p := { p with l1 := some s.me.core }) ht hc]
  rfl

/-- The number that a scalar load writes to its register (R81). -/
def loadedX (l : Nat) (zext : Bool) (v : Nat) : X := if zext then xOf v else xOf (ofIntBits 64 (sextNat (8 * 2 ^ l) v))

/-- What a scalar load writes where it reaches its address (R81). -/
theorem loadX_of_reaches {s : State} {va : X} {p : Phys} {l : Nat} (hv : s.me.hart.pv = false) (hm : s.memOk)
    (ha : va.toNat % 2 ^ l = 0) (hr : s.reaches .load va p) (d : BitVec 5) (zext : Bool) (hint : Nat) :
    ∃ lat, loadX d va l zext hint s = (.ok (), (s.touch p (2 ^ l) false hint s.me.core s.hartAgent).wXat d
      (loadedX l zext (bytesAt s p.pa (2 ^ l))) (l == 3 && p.managed && tagAt s.tags (p.pa / 8) == 1) lat false) := by
  obtain ⟨-, -, htag, -, hsram, hflips⟩ := id hr
  have touched := State.touch_copied hsram p hflips (2 ^ l) false hint s.me.core s.hartAgent
  have aligned : (va.toNat % 2 ^ l == 0) = true := beq_iff_eq.mpr ha
  have read : liftRead (fun t => t.readAt p va (2 ^ l) hint t.hartAgent) s = _ :=
    liftRead_of_ok (readAt_of_clean hsram htag hflips va (2 ^ l) hint s.hartAgent)
  have tag : (l == 3 && (if p.managed = true then tagAt s.tags (p.pa / 8) else 0) == 1) =
      (l == 3 && p.managed && tagAt s.tags (p.pa / 8) == 1) := by
    cases p.managed
    · simp
    · simp
  refine ⟨s.loadLatency p, ?_⟩
  unfold loadX
  rw [aligned, M.bind_of_ok (M.run_require_true ..), M.bind_of_ok (access_of_reaches hr ..), M.bind_get, M.bind_of_ok read]
  dsimp only
  rw [putX_plain _ _ _ _ _ _ (by rw [touched.me]; exact hv), tag, leNat_memBytes hm]
  rfl

/-- A load of a settled hart (R81, R84). -/
theorem loads_of_loadOp {s : State} (h : s.settled) {i : Instr} {st : BitVec 3} {d a : BitVec 5} {disp : BitVec 8} {l : Nat} {zext : Bool}
    {hint : BitVec 2} (hi : exec i s = loadOp st d a disp l zext hint s) {r : Nat → X} (hr : ∀ v, loadedX l zext v = r v) :
    loads s i st d (s.rX a + disp.signExtend 64 * BitVec.ofNat 64 (2 ^ l)) l hint.toNat r := by
  obtain ⟨hl, hp, -, hv, hs⟩ := h
  intro p hm ha reached
  obtain ⟨-, -, -, -, hsram, hflips⟩ := id reached
  have touched := State.touch_copied hsram p hflips (2 ^ l) false hint.toNat s.me.core s.hartAgent
  obtain ⟨lat, hload⟩ := loadX_of_reaches hv hm ha reached d zext hint.toNat
  refine ⟨touched.frame, lat, ?_⟩
  rw [hr] at hload
  rw [hi]
  unfold loadOp
  rw [runScalar_plain _ _ _ hl hp hv (by simp) (by simp) rfl, M.bind_get, M.bind_of_ok (show loadX d (scalarAddr (s.rX a) disp l) l zext
    hint.toNat s = _ from hload)]
  dsimp only [M.run_pure]
  rw [complete_wXat _ _ _ _ _ _ _ _ _ (by rw [touched.me]; exact hp) (by rw [touched.me]; exact hs)]

/-- A sign-extended number as an extension of its bits (R81). -/
theorem xOf_sextNat {w : Nat} (hw : 0 < w) (v : Nat) : xOf (ofIntBits 64 (sextNat w v)) = (BitVec.ofNat w v).signExtend 64 := by
  have value : sextNat w v = (BitVec.ofNat w v).toInt := by
    have half : 2 ^ w = 2 * 2 ^ (w - 1) := by rw [← Nat.pow_succ', Nat.succ_eq_add_one, Nat.sub_add_cancel hw]
    unfold sextNat
    rw [BitVec.toInt_eq_toNat_cond, BitVec.toNat_ofNat]
    by_cases hlt : v % 2 ^ w < 2 ^ (w - 1)
    · rw [if_pos hlt, if_pos (by omega)]
    · rw [if_neg hlt, if_neg (by omega)]
  rw [value]
  unfold BitVec.signExtend ofIntBits xOf
  refine BitVec.eq_of_toInt_eq ?_
  rw [BitVec.toInt_ofInt, ← BitVec.toInt_ofInt]
  refine congrArg BitVec.toInt (BitVec.eq_of_toNat_eq ?_)
  rw [BitVec.toNat_ofNat, BitVec.toNat_ofInt]
  omega

end Sys2Proof.Machine

namespace Sys2Proof.Proofs
open Sys2Proof.Machine Sys2Proof.Cert

/-- Settles O13: one lemma over the loads, and the extension of each. -/
theorem loads : Obligations.Loads := by
  intro s st d a h i hs at_
  have signed : ∀ (l : Nat) (v : Nat), loadedX l false v = (BitVec.ofNat (8 * 2 ^ l) v).signExtend 64 := fun l v =>
    xOf_sextNat (Nat.mul_pos (by decide) (Nat.two_pow_pos l)) v
  exact ⟨loads_of_loadOp hs rfl (signed 0), loads_of_loadOp hs rfl (signed 1), loads_of_loadOp hs rfl (signed 2),
    loads_of_loadOp hs rfl fun v => (signed 3 v).trans (BitVec.signExtend_eq _), loads_of_loadOp (zext := true) hs rfl fun _ => rfl,
    loads_of_loadOp (zext := true) hs rfl fun _ => rfl, loads_of_loadOp (zext := true) hs rfl fun _ => rfl⟩

end Sys2Proof.Proofs
end

section
/-! What scalar and ordered stores leave (R81, R117, R200, R246, R260). -/

namespace Sys2Proof.Machine
open Sys2Proof.Cert

/-- The tags after a word has been given a tag (R81). -/
theorem tagAt_tagSet (t : List (Nat × BitVec 2)) (w j : Nat) (v : BitVec 2) : tagAt (tagSet t w 1 v) j = if j = w then v else tagAt t j := by
  by_cases hv : v = 0
  · subst hv
    exact tagAt_tagSet_zero t w j
  have list : tagSet t w 1 v = t.filter (fun c => c.1 < w) ++ (w, v) :: t.filter (fun c => w + 1 ≤ c.1) := by
    unfold tagSet
    rw [if_neg hv, List.append_assoc]
    rfl
  by_cases hj : j = w
  · subst hj
    have low : (t.filter fun c => decide (c.1 < j)).find? (fun c => c.1 == j) = none := by
      refine List.find?_eq_none.mpr fun c hc => ?_
      have := of_decide_eq_true (List.mem_filter.mp hc).2
      simp
      omega
    unfold tagAt
    rw [list, List.find?_append, low, Option.none_or, List.find?_cons_of_pos (by simp), if_pos rfl]
  · rw [if_neg hj, ← (tagAt_tagSet_zero t w j).trans (if_neg hj)]
    unfold tagAt
    rw [list, List.find?_append, List.find?_cons_of_neg (by simp; omega), ← List.find?_append]
    unfold tagSet
    rw [if_pos rfl, List.append_nil]

/-- t is s but for the copies of lines, what a store ends, the counters of tickets and of free values, and what has been read ahead (R117, R200,
R260, R312). -/
def State.ended (s t : State) : Prop :=
  ∃ lines dir flips under held owned f fresh tickets pregs streams, t = { s with
    lines := lines, dir := dir, flips := flips, under := under, hostHeld := held, hostOwned := owned, fife := f, fresh := fresh,
    tickets := tickets, me := { s.me with vec := { s.me.vec with pregs := pregs, streams := streams } } }

theorem State.ended.refl (s : State) : s.ended s := ⟨_, _, _, _, _, _, _, _, _, _, _, rfl⟩

theorem State.ended.trans {s t u : State} (h : s.ended t) (h' : t.ended u) : s.ended u := by
  obtain ⟨_, _, _, _, _, _, _, _, _, _, _, rfl⟩ := h
  obtain ⟨_, _, _, _, _, _, _, _, _, _, _, rfl⟩ := h'
  exact ⟨_, _, _, _, _, _, _, _, _, _, _, rfl⟩

theorem State.ended.sram {s t : State} (h : s.ended t) : t.sram = s.sram := by
  obtain ⟨_, _, _, _, _, _, _, _, _, _, _, rfl⟩ := h
  rfl

theorem State.copied.ended {s t : State} (h : s.copied t) : s.ended t := by
  rw [h.loaded.frame]
  exact ⟨_, _, _, _, _, _, _, _, _, _, _, rfl⟩

theorem State.frees.ended {s t : State} (h : s.frees t) : s.ended t := by
  obtain ⟨_, _, rfl, -⟩ := h
  exact ⟨_, _, _, _, _, _, _, _, _, _, _, rfl⟩

/-- Bytes stored in a state and in another that differs from it in what stores end. -/
theorem State.ended.put {s t : State} (h : s.ended t) (p : Phys) (n v : Nat) (tag : BitVec 2) : (s.put p n v tag).ended (t.put p n v tag) := by
  obtain ⟨_, _, _, _, _, _, _, _, _, _, _, rfl⟩ := h
  exact ⟨_, _, _, _, _, _, _, _, _, _, _, rfl⟩

theorem State.keepAhead_ended (ok : Host.Cell → Bool) (s : State) : s.ended (s.keepAhead ok) := by
  unfold State.keepAhead
  split
  · exact ⟨_, _, _, _, _, _, _, _, _, _, _, rfl⟩
  · exact .refl s

theorem State.dropLoads_ended (dead : LoadRecord → Bool) (s : State) : s.ended (s.dropLoads dead) := by
  unfold State.dropLoads
  split
  · exact (State.dropEntries_frees _ s).ended
  · exact .refl s

/-- What a store ends, with bytes that streams have read ahead (R117, R260). -/
theorem State.noteStoreAt_ended (va : X) (pa n : Nat) (s : State) : s.ended (s.noteStoreAt va pa n) :=
  ((State.dropLoads_ended _ s).trans (State.dropLoads_ended _ _)).trans (State.keepAhead_ended _ _)

/-- T3 lines are made whole in their copies alone (R246, R318). -/
theorem State.wholeT3_copied {s : State} (h : s.sram = []) : s.copied s.wholeT3 := by
  have probes : ∀ (l : List DirEntry) (t : State), s.copied t → s.copied (l.foldl (fun t e => t.probe e.pa false) t) := fun l => by
    induction l with
    | nil => exact fun t ht => ht
    | cons e rest ih => exact fun t ht => ih _ (ht.trans (State.probe_copied (ht.sram h) ..))
  have decodes : ∀ (l : List Line) (t : State), s.copied t → s.copied (l.foldl (fun t k => t.decodeLine k.pa .bank noAgent) t) := fun l => by
    induction l with
    | nil => exact fun t ht => ht
    | cons k rest ih =>
      intro t ht
      rw [List.foldl_cons, decodeLine_of_clean (ht.sram h)]
      exact ih t ht
  exact (decodes _ _ (probes _ s (.refl s))).trans (.of_lines _ _ _ _ _ _)

/-- What an order does with a store (R117, R200, R246). -/
theorem State.storeOrder_ended {s : State} (h : s.sram = []) (o : BitVec 3) (c : BitVec 4) : s.ended (s.storeOrder o c) := by
  obtain ⟨t, ht⟩ : ∃ t : State, t = if o = 4 then { s with tickets := s.tickets + 1 } else s := ⟨_, rfl⟩
  have drawn : s.ended t := by
    rw [ht]
    split
    · exact ⟨_, _, _, _, _, _, _, _, _, _, _, rfl⟩
    · exact .refl s
  have released : s.ended (if o = 2 ∨ o = 3 ∨ o = 4 then t.release c.toNat else t) := by
    split
    · unfold State.release
      split
      · exact drawn.trans (State.wholeT3_copied (drawn.sram.trans h)).ended
      · exact drawn
    · exact drawn
  unfold State.storeOrder
  rw [← ht]
  dsimp only
  split
  · exact released.trans (State.keepAhead_ended _ _)
  · exact released

/-- The completion of a scalar store of n bytes with a tag (R81). -/
theorem State.ended.completes {s t : State} {p : Phys} {n v : Nat} {tag : BitVec 2} (h : (s.put p n v tag).ended t)
    (hs : (s.me.hart.ss && !s.me.hart.prv) = false) (st : BitVec 3) :
    let u := t.complete st 0 (s.pc + 4)
    s.storeFrame u st ∧ u.me.hart.x = s.me.hart.x ∧ u.me.hart.xtag = s.me.hart.xtag ∧ s.stored u p.pa n v ∧
      ∀ w, tagAt u.tags w = if w = p.pa / 8 then (if p.managed then tag else 0) else tagAt s.tags w := by
  obtain ⟨_, _, _, _, _, _, _, _, _, _, _, rfl⟩ := h
  rw [complete_eq_after _ _ _ _ (by exact hs)]
  refine ⟨?_, rfl, rfl, ⟨fun a ha => ?_, fun j hj => ?_⟩, fun w => tagAt_tagSet ..⟩
  · unfold State.storeFrame State.after
    rw [Nat.max_zero]
    rfl
  · exact memRead_memWrite_outside _ _ _ _ (by rw [leBytes_length]; exact ha)
  · refine (memRead_memWrite_inside _ _ _ _ (Nat.le_add_right ..) (by rw [leBytes_length]; omega)).trans ?_
    rw [Nat.add_sub_cancel_left, getD_leBytes n v j hj]

end Sys2Proof.Machine
end

section
/-! Scalar and ordered stores, and the escape check of references (R81, R201, R204, R205). -/

namespace Sys2Proof.Machine
open Sys2Proof.Cert

/-! ### The instructions that store -/

/-- i is the store of the low 2^l bytes of x[d] at an address, and what else it does after it leaves memory and the hart (R81, R201). -/
structure State.runsStore (s : State) (i : Instr) (st : BitVec 3) (d : BitVec 5) (va : X) (l hint : Nat) : Prop where
  ends : ∀ t, storeX d va l hint s = (.ok (), t) → t.sram = [] → ∃ u, t.ended u ∧ exec i s = .next (u.complete st 0 (s.pc + 4))
  traps : ∀ tr t, storeX d va l hint s = (.error (.trap tr), t) → exec i s = .next (t.enterTrap false t.pc tr)

theorem runsStore_of_storeOp {s : State} (h : s.settled) {i : Instr} {st : BitVec 3} {d a : BitVec 5} {disp : BitVec 8} {l : Nat}
    {hint : BitVec 2} (hi : exec i s = storeOp st d a disp l hint s) :
    s.runsStore i st d (s.rX a + disp.signExtend 64 * BitVec.ofNat 64 (2 ^ l)) l hint.toNat := by
  obtain ⟨hl, hp, -, hv, -⟩ := h
  unfold storeOp at hi
  rw [runScalar_plain _ _ _ hl hp hv (by simp) (by simp) rfl, M.bind_get] at hi
  refine ⟨fun t ht _ => ⟨t, .refl t, ?_⟩, fun tr t ht => ?_⟩
  · rw [hi, M.bind_of_ok (show storeX d (scalarAddr (s.rX a) disp l) l hint.toNat s = _ from ht)]
    rfl
  · rw [hi, M.bind_of_error (show storeX d (scalarAddr (s.rX a) disp l) l hint.toNat s = _ from ht)]
    rfl

theorem runsStore_of_orderedStore {s : State} (h : s.settled) (st : BitVec 3) (d a : BitVec 5) (c : BitVec 4) (o t : BitVec 3) :
    s.runsStore (.orderedStore st d a c o t) st d (s.rX a) (t.toNat % 4) 0 := by
  obtain ⟨hl, hp, -, hv, -⟩ := h
  have run : ∀ r, r = exec (.orderedStore st d a c o t) s → r = _ := fun r hr => hr.trans
    (runScalar_plain { st := st, srcs := [.x a, .x d], pfxOk := false } (do
      let u ← get
      storeX d (u.rX a) (t.toNat % 4) 0
      modify (State.storeOrder o c)
      pure (u.pc + 4)) s hl hp hv (by simp) (by simp) rfl)
  have run := run _ rfl
  rw [M.bind_get] at run
  refine ⟨fun u hu hs => ⟨u.storeOrder o c, State.storeOrder_ended hs o c, ?_⟩, fun tr u hu => ?_⟩
  · rw [run, M.bind_of_ok hu]
    rfl
  · rw [run, M.bind_of_error hu]
    rfl

/-! ### The word that is stored -/

theorem access_of_locate {s : State} {k : Access} {va : X} {p : Phys} (h : s.locate k va = (.ok p, s)) (stride : X) (remaining : Nat) :
    Machine.access k va stride remaining s = (.ok p, s) := by
  unfold Machine.access accessBy
  rw [M.bind_get, M.bind_get, show s.locateBy s.me.core k va = _ from h]
  rfl

theorem State.keepUnder_copied (before : State) (pa : Nat) (s : State) : s.copied (State.keepUnder before pa s) := by
  unfold State.keepUnder
  dsimp only
  split
  · exact .of_lines s _ _ _ _ _
  · exact .refl s

/-- A write that is performed changes the bytes and the copies of lines (R81, R84, R366). -/
theorem writeAt_of_writeRaw {s : State} {p : Phys} {va : X} {n v : Nat} {tag : BitVec 2} {a : Agent} (hs : s.sram = []) (hc : s.lineClean p.pa)
    (h : s.writeRaw { p with l1 := some s.me.core } va n v tag a = (.ok (), s.put p n v tag)) (hint : Nat) :
    ∃ t, s.writeAt p va n v tag hint a = (.ok (), t) ∧ (s.put p n v tag).copied t := by
  unfold State.writeAt
  rw [h]
  exact ⟨_, rfl, (State.touch_copied (s := s.put p n v tag) hs p hc n true hint s.me.core a).trans (State.keepUnder_copied ..)⟩

/-- The write of a whole word of a managed page clears its poison (R333). -/
theorem writeRaw_of_poison {s : State} {p : Phys} (hs : s.sram = []) (hm : p.managed = true) (ht : tagAt s.tags (p.pa / 8) = 3) (va : X)
    (v : Nat) (tag : BitVec 2) (a : Agent) : s.writeRaw p va 8 v tag a = (.ok (), s.put p 8 v tag) := by
  have poisoned : s.poisonedAt true p.pa = true := by simp [State.poisonedAt, ht]
  unfold State.writeRaw
  simp only [meetRemote_of_clean hs, poisoned, if_true, hm, beq_self_eq_true, Bool.and_self]
  rw [State.put, hm]
  rfl

/-- Whether a store is of a tagged reference to a managed page, which the escape check concerns (R205). -/
def State.storesRef (s : State) (p : Phys) (d : BitVec 5) (l : Nat) : Bool := p.managed && l == 3 && s.rTag d

/-- The bytes of a scalar store written with their tag, and what the store ends (R81, R260). -/
def storeBytes (p : Phys) (va : X) (l v : Nat) (ref : Bool) (hint : Nat) : M Unit := do
  liftRead (fun t => t.writeAt p va (2 ^ l) v (if ref then 1 else 0) hint t.hartAgent)
  modify (State.noteStoreAt va p.pa (2 ^ l))

/-- A scalar store of an aligned address that is served: the check of poison, that of a reference, and the write (R81). -/
theorem storeX_eq {s : State} {d : BitVec 5} {va : X} {l : Nat} {p : Phys} (ha : va.toNat % 2 ^ l = 0)
    (hloc : s.locate .store va = (.ok p, s)) (hint : Nat) : storeX d va l hint s =
      if p.managed = true ∧ tagAt s.tags (p.pa / 8) = 3 ∧ l < 3 then (.error (.trap (s.errorTrap 0x301 va p.pa true)), s)
      else ((if s.storesRef p d l then escapeCheck p va (s.rX d) d else pure ()) >>= fun _ =>
        storeBytes p va l ((s.rX d).toNat % 2 ^ (8 * 2 ^ l)) (s.storesRef p d l) hint) s := by
  have aligned : (va.toNat % 2 ^ l == 0) = true := beq_iff_eq.mpr ha
  have narrow : (p.managed && tagAt s.tags (p.pa / 8) == 3 && decide (l < 3)) =
      decide (p.managed = true ∧ tagAt s.tags (p.pa / 8) = 3 ∧ l < 3) := by
    rw [Bool.eq_iff_iff]
    simp [and_assoc]
  have same : (p.managed && l == 3 && s.rTag d) = s.storesRef p d l := rfl
  unfold storeX
  rw [aligned, M.bind_of_ok (M.run_require_true ..), M.bind_of_ok (access_of_locate hloc ..), M.bind_get, narrow]
  dsimp only
  by_cases hn : p.managed = true ∧ tagAt s.tags (p.pa / 8) = 3 ∧ l < 3
  · rw [if_pos hn, if_pos (decide_eq_true hn)]
    rfl
  · rw [if_neg hn, if_neg (by simpa using hn), same]
    cases s.storesRef p d l <;> rfl

/-- A store of a word that its checks let pass (R81): the check of a reference leaves u, and the write is performed there. -/
theorem storeX_of_writeRaw {s u : State} {d : BitVec 5} {va : X} {l : Nat} {p : Phys} (ha : va.toNat % 2 ^ l = 0)
    (hloc : s.locate .store va = (.ok p, s)) (hpoison : ¬(p.managed = true ∧ tagAt s.tags (p.pa / 8) = 3 ∧ l < 3))
    (hcheck : (if s.storesRef p d l then escapeCheck p va (s.rX d) d else pure ()) s = (.ok (), u))
    (hu : s.copied u) (hs : s.sram = []) (hc : s.lineClean p.pa)
    (hw : u.writeRaw { p with l1 := some u.me.core } va (2 ^ l) ((s.rX d).toNat % 2 ^ (8 * 2 ^ l)) (if s.storesRef p d l then 1 else 0)
      u.hartAgent = (.ok (), u.put p (2 ^ l) ((s.rX d).toNat % 2 ^ (8 * 2 ^ l)) (if s.storesRef p d l then 1 else 0))) (hint : Nat) :
    ∃ t, storeX d va l hint s = (.ok (), t) ∧
      (s.put p (2 ^ l) ((s.rX d).toNat % 2 ^ (8 * 2 ^ l)) (if s.storesRef p d l then 1 else 0)).ended t := by
  obtain ⟨t, ht, copied⟩ := writeAt_of_writeRaw (hu.sram hs) (hu.lineClean hc) hw hint
  refine ⟨t.noteStoreAt va p.pa (2 ^ l), ?_, (hu.ended.put ..).trans (copied.ended.trans (State.noteStoreAt_ended ..))⟩
  rw [storeX_eq ha hloc, if_neg hpoison, M.bind_of_ok hcheck]
  unfold storeBytes
  rw [M.bind_of_ok (liftRead_of_ok ht)]
  rfl

/-- The completion of a store whose word is written (R81, R201). -/
theorem State.runsStore.completes {s t : State} {i : Instr} {st : BitVec 3} {d : BitVec 5} {va : X} {l hint : Nat}
    (h : s.runsStore i st d va l hint) (hss : (s.me.hart.ss && !s.me.hart.prv) = false) (hs : s.sram = []) {p : Phys} {v : Nat} {tag : BitVec 2}
    (ht : storeX d va l hint s = (.ok (), t)) (hp : (s.put p (2 ^ l) v tag).ended t) :
    ∃ u, exec i s = .next u ∧ s.storeFrame u st ∧ u.me.hart.x = s.me.hart.x ∧ u.me.hart.xtag = s.me.hart.xtag ∧
      s.stored u p.pa (2 ^ l) v ∧ ∀ w, tagAt u.tags w = if w = p.pa / 8 then (if p.managed then tag else 0) else tagAt s.tags w := by
  obtain ⟨u, hu, run⟩ := h.ends t ht (hp.sram.trans hs)
  exact ⟨_, run, (hp.trans hu).completes hss st⟩

theorem storedValue_eq (x : X) (l : Nat) : x.toNat % 2 ^ (8 * 2 ^ l) = x.toNat % 256 ^ 2 ^ l := by
  rw [Nat.pow_mul]

/-- A store of plain data to an address that is reached (R81). -/
theorem stores_of_runsStore {s : State} (h : s.settled) {i : Instr} {st : BitVec 3} {d : BitVec 5} {va : X} {l hint : Nat}
    (hi : s.runsStore i st d va l hint) : stores s i st d va l := by
  obtain ⟨-, -, -, -, hss⟩ := h
  intro p ha hr href
  obtain ⟨hloc, -, htag, -, hsram, hflips⟩ := id hr
  have plain : s.storesRef p d l = false := by
    rw [Bool.eq_false_iff]
    simpa [State.storesRef, and_assoc] using href
  obtain ⟨t, ht, ended⟩ := storeX_of_writeRaw ha hloc (fun h => htag h.2.1) (by rw [plain]; rfl) (.refl s) hsram hflips
    (writeRaw_of_clean (p := { p with l1 := some s.me.core }) hsram htag hflips ..) hint
  rw [plain, storedValue_eq] at ended
  have done := hi.completes hss hsram ht ended
  simpa using done

/-- A store to poison that covers less than its word (R333). -/
theorem denied_of_runsStore {s : State} {i : Instr} {st : BitVec 3} {d : BitVec 5} {va : X} {l hint : Nat} (hi : s.runsStore i st d va l hint)
    (hl : l < 3) {p : Phys} (ha : va.toNat % 2 ^ l = 0) (hloc : s.locate .store va = (.ok p, s)) (hm : p.managed = true)
    (ht : tagAt s.tags (p.pa / 8) = 3) :
    exec i s = .next (s.enterTrap false s.pc { code := 0x301, tval := va, info0 := BitVec.ofNat 64 (p.pa / 8 * 8) }) := by
  refine hi.traps _ s ?_
  rw [storeX_eq ha hloc, if_pos ⟨hm, ht, hl⟩]
  rfl

end Sys2Proof.Machine
end

section
/-! The halves that the host owns, as accesses to other words leave them (R245, R317). -/

namespace Sys2Proof.Machine
open Sys2Proof.Cert

theorem hostOwned_writeBack (k : Line) (s : State) : (s.writeBack k).hostOwned = s.hostOwned := by
  unfold State.writeBack
  split <;> rfl

theorem hostOwned_recall {s : State} (h : s.sram = []) (e : DirEntry) : (s.recall e).hostOwned = s.hostOwned := by
  unfold State.recall
  rw [decodeLines_of_clean h]
  dsimp only
  split
  · split <;> rfl
  · rfl

theorem hostOwned_putDir {s : State} (h : s.sram = []) (e : DirEntry) : (s.putDir e).hostOwned = s.hostOwned := by
  unfold State.putDir
  dsimp only
  split
  · rfl
  · split
    · rfl
    · split
      · exact hostOwned_recall (by exact h) _
      · rfl

theorem hostOwned_probe {s : State} (h : s.sram = []) (pa : Nat) (write : Bool) : (s.probe pa write).hostOwned = s.hostOwned := by
  have recalled := hostOwned_recall h (s.dirAt pa)
  have sram := (State.recall_copied h (s.dirAt pa)).sram h
  unfold State.probe
  dsimp only
  split
  · exact (hostOwned_putDir sram _).trans recalled
  · split
    · exact (hostOwned_putDir sram _).trans recalled
    · exact recalled

theorem hostOwned_evictLine {s : State} (h : s.sram = []) (k : Line) : (s.evictLine k).hostOwned = s.hostOwned := by
  have probed : (if inT3 k.pa then s.probe k.pa true else s).hostOwned = s.hostOwned := by
    split
    · exact hostOwned_probe h ..
    · rfl
  have sram : (if inT3 k.pa then s.probe k.pa true else s).sram = [] := by
    split
    · exact (State.probe_copied h ..).sram h
    · exact h
  unfold State.evictLine
  dsimp only
  rw [decodeLine_of_clean sram, ite_self]
  exact (hostOwned_writeBack _ _).trans probed

theorem hostOwned_placeLine {s : State} (h : s.sram = []) {pa : Nat} (hc : s.lineClean pa) (n : Nat) (whole write cold : Bool) (a : Agent) :
    (s.placeLine pa n whole write cold a).hostOwned = s.hostOwned := by
  have placed : ∀ u : State, s.copied u → u.hostOwned = s.hostOwned → ∀ l,
      ({ (u.fillLine pa a).newCopy pa .bank with lines := l } : State).hostOwned = s.hostOwned := fun u hu ho l => by
    rw [fillLine_of_clean (hu.lineClean hc), newCopy_of_clean (hu.sram h)]
    exact ho
  unfold State.placeLine
  dsimp only
  split
  · rfl
  · split
    · rfl
    · split
      · exact placed _ (.refl s) rfl _
      · exact placed _ (State.evictLine_copied h _) (hostOwned_evictLine h _) _
      · exact placed _ (.refl s) rfl _

theorem hostOwned_touchHome {s : State} (h : s.sram = []) (p : Phys) (hc : s.lineClean p.pa) (n : Nat) (write : Bool) (hint : Nat)
    (a : Agent) : (s.touchHome p n write hint a).hostOwned = (s.unhold p.pa n write).hostOwned := by
  have free := State.unhold_copied p.pa n write s
  obtain ⟨t, ht⟩ : ∃ t, t = (s.unhold p.pa n write).probe p.pa write := ⟨_, rfl⟩
  have probed : s.copied t := ht ▸ free.trans (State.probe_copied (free.sram h) ..)
  have owned : t.hostOwned = (s.unhold p.pa n write).hostOwned := ht ▸ hostOwned_probe (free.sram h) ..
  have place := fun whole w => hostOwned_placeLine (probed.sram h) (probed.lineClean hc) n whole w false a
  have placed := fun whole w => State.placeLine_copied (probed.sram h) (probed.lineClean hc) n whole w false a
  unfold State.touchHome
  rw [← ht]
  dsimp only
  split
  · exact owned
  · split
    · split
      · exact owned
      · split
        · exact (hostOwned_evictLine ((placed ..).sram (probed.sram h)) _).trans ((place ..).trans owned)
        · exact (place ..).trans owned
    · split
      · exact (place ..).trans owned
      · exact owned

theorem mem_hostOwned_unhold {s : State} {pa n g : Nat} {write : Bool} (h : g ∈ (s.unhold pa n write).hostOwned) : g ∈ s.hostOwned :=
  (List.mem_filter.mp h).1

/-- A scalar read makes the host own nothing (R317). -/
theorem mem_hostOwned_touch {s : State} (h : s.sram = []) {p : Phys} (hc : s.lineClean p.pa) {n core : Nat} {a : Agent} {g : Nat}
    (hg : g ∈ (s.touch p n false 0 core a).hostOwned) : g ∈ s.hostOwned := by
  have free := State.unhold_copied p.pa n false s
  have home : ∀ k, ∀ g ∈ ((s.unhold p.pa n false).touchHome p n false k a).hostOwned, g ∈ s.hostOwned := fun k g hg => by
    rw [hostOwned_touchHome (free.sram h) p (free.lineClean hc)] at hg
    exact mem_hostOwned_unhold (mem_hostOwned_unhold hg)
  unfold State.touch at hg
  simp only [Bool.false_and, Bool.false_eq_true, if_false, if_true] at hg
  split at hg
  · exact home 1 g hg
  · split at hg
    · exact mem_hostOwned_unhold hg
    · have missed := free.trans (State.touchHome_copied (free.sram h) p (free.lineClean hc) n false 0 a)
      have probed := missed.trans (State.probe_copied (missed.sram h) p.pa false)
      rw [decodeLine_of_clean (probed.sram h), newCopy_of_clean (probed.sram h)] at hg
      split at hg
      · rw [hostOwned_putDir (probed.sram h), hostOwned_probe (missed.sram h)] at hg
        exact home 0 g hg
      · rw [hostOwned_probe (missed.sram h)] at hg
        exact home 0 g hg

/-- A read of halves that the host does not own changes nothing that the host holds (R317). -/
theorem unhold_of_not_owned {s : State} {pa n : Nat} (h : ∀ g ∈ s.hostOwned, touchesHalf pa n g = false) : s.unhold pa n false = s := by
  have kept : s.hostOwned.filter (fun g => !touchesHalf pa n g) = s.hostOwned :=
    List.filter_eq_self.mpr fun g hg => by rw [h g hg]; rfl
  unfold State.unhold
  rw [kept]
  rfl

end Sys2Proof.Machine
end

section
/-! The escape check of a reference (R204, R205). -/

namespace Sys2Proof.Machine
open Sys2Proof.Cert

/-- The header of the object that may contain a word is good, and reading it changes nothing, where it holds no poison, no codeword of it is in
error, and the host does not own it (R204, R317, R331). -/
theorem seeHeader_of_clear {s : State} (hs : s.sram = []) {pa : Nat} (hc : headerClear s pa)
    (ho : ∀ h, s.headerBelow (pa / 8) = some h → h / 8 ∉ s.hostOwned) (a : Agent) : ∃ at_, s.seeHeader pa a = ((true, at_), s) := by
  unfold State.seeHeader
  rcases hh : s.headerBelow (pa / 8) with _ | h
  · exact ⟨pa, rfl⟩
  · obtain ⟨hflips, hpoison⟩ := hc h hh
    have granule : flipsAt s.flips (8 * h / 16) = [] := by
      rw [show 8 * h / 16 = h / 2 by omega]
      exact hflips
    have free : s.unhold (8 * h / 16 * 16) 16 false = s := unhold_of_not_owned fun g hg => by
      rw [Bool.eq_false_iff]
      intro touches
      simp only [touchesHalf, Bool.and_eq_true, decide_eq_true_eq] at touches
      have same : g = h / 8 := by omega
      exact ho h hh (same ▸ hg)
    have read : s.meetPlain 0x02 (8 * h) a = (.good, s) := by
      unfold State.meetPlain State.meetHome
      rw [free]
      simp only [meetRemote_of_clean hs, readSram_of_clean hs, ite_self, Bool.or_self, Bool.false_eq_true, if_false, hpoison,
        decodeGranule_of_clean granule]
    refine ⟨8 * h, ?_⟩
    simp only [read]
    rfl

/-- The object that contains a word is the same whatever copies of lines there are. -/
theorem State.copied.containing {s t : State} (h : s.copied t) (pa : Nat) : t.containing pa = s.containing pa := by
  obtain ⟨mem, tags, -⟩ := h.memory
  unfold State.containing State.headerBelow State.physWord
  rw [mem, tags]

theorem State.copied.headerBelow {s t : State} (h : s.copied t) (w : Nat) : t.headerBelow w = s.headerBelow w := by
  obtain ⟨-, tags, -⟩ := h.memory
  unfold State.headerBelow
  rw [tags]

theorem State.copied.headerClear {s t : State} (h : s.copied t) {pa : Nat} (hc : headerClear s pa) : headerClear t pa := by
  obtain ⟨-, tags, -⟩ := h.memory
  intro w hw
  obtain ⟨hflips, hpoison⟩ := hc w (h.headerBelow _ ▸ hw)
  refine ⟨h.clean _ hflips, ?_⟩
  unfold State.poisonedAt at *
  rw [tags]
  exact hpoison

/-- A reference names a header (R204, R205): it is aligned, its page is managed, and its word has tag 10. -/
def State.namesHeader (s : State) (ref : X) (q : Phys) : Prop :=
  ref.toNat % 8 = 0 ∧ q.managed = true ∧ tagAt s.tags (q.pa / 8) = 2

/-- The state after the header at q has been read (R205). -/
def State.readHeaderAt (q : Phys) (s : State) : State := s.touch q 8 false 0 s.me.core s.hartAgent

theorem readHeader_of_not_named {s : State} {ref : X} {q : Phys} (hr : s.reaches .otherRead ref q) (hn : ¬s.namesHeader ref q) :
    readHeader ref s = (.error (.trap { code := 0x142, tval := ref }), s) := by
  have no : ¬(decide (ref.toNat % 8 = 0) && q.managed && tagAt s.tags (q.pa / 8) == 2) = true := by
    simpa [State.namesHeader, and_assoc] using hn
  unfold readHeader
  rw [M.bind_of_ok (access_of_reaches hr ..), M.bind_get, if_neg no]
  rfl

theorem readHeader_of_named {s : State} {ref : X} {q : Phys} (hr : s.reaches .otherRead ref q) (hn : s.namesHeader ref q) (hm : s.memOk) :
    readHeader ref s = if headerValid (BitVec.ofNat 64 (bytesAt s q.pa 8)) = true
      then (.ok (q, BitVec.ofNat 64 (bytesAt s q.pa 8)), s.readHeaderAt q)
      else (.error (.trap { code := 0x142, tval := ref }), s.readHeaderAt q) := by
  obtain ⟨-, -, htag, -, hsram, hflips⟩ := id hr
  have named : (decide (ref.toNat % 8 = 0) && q.managed && tagAt s.tags (q.pa / 8) == 2) = true := by
    simpa [State.namesHeader, and_assoc] using hn
  have read : liftRead (fun t => t.readAt q ref 8 0 t.hartAgent) s = _ :=
    liftRead_of_ok (readAt_of_clean hsram htag hflips ref 8 0 s.hartAgent)
  unfold readHeader
  rw [M.bind_of_ok (access_of_reaches hr ..), M.bind_get, if_pos named, M.bind_of_ok read]
  dsimp only
  rw [leNat_memBytes hm, show xOf (bytesAt s q.pa 8) = BitVec.ofNat 64 (bytesAt s q.pa 8) from rfl, M.bind_require]
  unfold State.readHeaderAt
  split <;> rfl

/-- The address at which the frame of a trap gives a header (R205; log entry 13). -/
def headerVirt (p : Phys) (va : X) (h : Nat) : X := va / 8 * 8 - xOf (p.pa / 8 * 8 - h)

/-- The scope of an object, that of no object being the system (R204). -/
def scopeOf (c : Option (Nat × X)) : Nat := match c with | some (_, v) => fieldOf v 36 4 | none => 8

/-- Whether a reference to an object with a header escapes from it into a word of an object (R205). -/
abbrev escapes (h : X) (c : Option (Nat × X)) : Prop :=
  scopeOf c ≠ 15 ∧ (scopeRank (fieldOf h 36 4) < scopeRank (scopeOf c) ∨ bitAt h 0)

/-- The trap of a reference that escapes (R205; log entry 13). -/
def escapeTrap (p : Phys) (va : X) (reg : BitVec 5) (c : Option (Nat × X)) : Trap :=
  { code := 0x140, tval := va, info0 := xOf (scopeOf c + reg.toNat * 256),
    info1 := match c with | some (w, _) => headerVirt p va w | none => 0 }

/-- The escape check, the named header having been read and the containing one being good (R205). -/
theorem escapeCheck_eq {s u : State} {p q : Phys} {va ref h : X} {reg : BitVec 5} {at_ : Nat} (hread : readHeader ref s = (.ok (q, h), u))
    (hsee : u.seeHeader p.pa u.hartAgent = ((true, at_), u)) : escapeCheck p va ref reg s =
      match u.containing p.pa with
      | .error a => (.error (.trap { code := 0x142, tval := headerVirt p va a }), u)
      | .ok c => if escapes h c then (.error (.trap (escapeTrap p va reg c)), u) else (.ok (), u) := by
  unfold escapeCheck
  rw [M.bind_of_ok hread]
  dsimp only
  rw [M.bind_get, hsee]
  dsimp only
  rw [M.bind_set]
  simp only [Bool.not_true, Bool.false_eq_true, if_false]
  rcases u.containing p.pa with a | c
  · rfl
  · dsimp only
    by_cases hc : escapes h c
    · rw [if_pos hc]
      exact (M.run_ite ..).trans (if_pos hc)
    · rw [if_neg hc]
      exact (M.run_ite ..).trans (if_neg hc)

/-- A store of a reference to a word that is reached, whose escape check passes (R205). -/
theorem stored_of_escapeCheck {s u : State} (h : s.settled) {i : Instr} {st : BitVec 3} {d : BitVec 5} {va : X} {hint : Nat}
    (hi : s.runsStore i st d va 3 hint) {p : Phys} (ha : va.toNat % 8 = 0) (hr : s.reaches .store va p) (hm : p.managed = true)
    (ht : s.rTag d = true) (hu : s.copied u) (hcheck : escapeCheck p va (s.rX d) d s = (.ok (), u)) :
    ∃ t, exec i s = .next t ∧ s.storeFrame t st ∧ t.me.hart.x = s.me.hart.x ∧ t.me.hart.xtag = s.me.hart.xtag ∧
      s.stored t p.pa 8 (s.rX d).toNat ∧ ∀ w, tagAt t.tags w = if w = p.pa / 8 then 1 else tagAt s.tags w := by
  obtain ⟨-, -, -, -, hss⟩ := h
  obtain ⟨hloc, -, htag, -, hsram, hflips⟩ := id hr
  have isRef : s.storesRef p d 3 = true := by simp [State.storesRef, hm, ht]
  obtain ⟨-, tags, -⟩ := hu.memory
  obtain ⟨t, run, ended⟩ := storeX_of_writeRaw ha hloc (fun h => htag h.2.1) (by rw [isRef]; exact hcheck) hu hsram hflips
    (writeRaw_of_clean (p := { p with l1 := some u.me.core }) (hu.sram hsram) (tags ▸ htag) (hu.lineClean hflips) ..) hint
  rw [isRef, show (s.rX d).toNat % 2 ^ (8 * 2 ^ 3) = (s.rX d).toNat from Nat.mod_eq_of_lt (s.rX d).isLt] at ended
  have done := hi.completes hss hsram run ended
  simpa [hm] using done

/-- A store of a reference to a word that is reached, which its escape check refuses (R205). -/
theorem trapped_of_escapeCheck {s u : State} {i : Instr} {st : BitVec 3} {d : BitVec 5} {va : X} {hint : Nat}
    (hi : s.runsStore i st d va 3 hint) {p : Phys} (ha : va.toNat % 8 = 0) (hr : s.reaches .store va p) (hm : p.managed = true)
    (ht : s.rTag d = true) (hu : s.copied u) {tr : Trap} (hcheck : escapeCheck p va (s.rX d) d s = (.error (.trap tr), u)) :
    exec i s = .next (u.enterTrap false s.pc tr) := by
  obtain ⟨hloc, -, htag, -⟩ := hr
  have isRef : s.storesRef p d 3 = true := by simp [State.storesRef, hm, ht]
  have pc : u.pc = s.pc := congrArg (fun m : Slot => m.hart.pc) hu.me
  rw [← pc]
  refine hi.traps tr u ?_
  rw [storeX_eq ha hloc, if_neg fun h => htag h.2.1, isRef, if_pos rfl, M.bind_of_error hcheck]

/-- The stores of references (R205). -/
theorem storesReference_of_runsStore {s : State} (h : s.settled) {i : Instr} {st : BitVec 3} {d : BitVec 5} {va : X} {hint : Nat}
    (hi : s.runsStore i st d va 3 hint) : storesReference s i st d va := by
  intro p q ha hr hm ht hq ref named hd u
  obtain ⟨-, -, -, -, hsram, hflips⟩ := id hq
  have read : s.copied u := State.touch_copied hsram q hflips 8 false 0 s.me.core s.hartAgent
  refine ⟨fun hn => ?_, fun hn hmem hbad => ?_, fun hn hmem hgood hclear howned => ?_⟩
  · refine trapped_of_escapeCheck hi ha hr hm ht (.refl s) ?_
    unfold escapeCheck
    rw [M.bind_of_error (readHeader_of_not_named hq hn)]
  · refine trapped_of_escapeCheck hi ha hr hm ht read ?_
    unfold escapeCheck
    rw [M.bind_of_error ((readHeader_of_named hq hn hmem).trans (if_neg (by rw [hbad]; exact Bool.false_ne_true)))]
    rfl
  · have hread := (readHeader_of_named hq hn hmem).trans (if_pos hgood)
    obtain ⟨at_, hsee⟩ := seeHeader_of_clear (read.sram hsram) (read.headerClear hclear)
      (fun w hw ho => howned w (read.headerBelow _ ▸ hw) (mem_hostOwned_touch hsram hflips ho)) u.hartAgent
    have check := escapeCheck_eq (va := va) (reg := d) hread hsee
    refine ⟨fun a hc => ?_, fun c hc => ?_⟩
    · rw [show (s.readHeaderAt q).containing p.pa = .error a from (read.containing p.pa).trans hc] at check
      exact ⟨_, trapped_of_escapeCheck hi ha hr hm ht read check⟩
    · rw [show (s.readHeaderAt q).containing p.pa = .ok c from (read.containing p.pa).trans hc] at check
      dsimp only at check
      refine ⟨fun he => ?_, fun he => ?_⟩
      · have trapped := trapped_of_escapeCheck hi ha hr hm ht read (check.trans (if_pos he))
        refine ⟨(escapeTrap p va d c).info1, trapped.trans ?_⟩
        unfold escapeTrap
        rw [Nat.mul_comm]
        rfl
      · exact stored_of_escapeCheck h hi ha hr hm ht read (check.trans (if_neg he))

end Sys2Proof.Machine
end

section
/-! The statements on scalar stores (R81, R83, R201, R205). -/

namespace Sys2Proof.Proofs
open Sys2Proof.Machine Sys2Proof.Cert

theorem plainStores_holds : plainStores := by
  intro s st d a h i hs at_
  exact ⟨stores_of_runsStore hs (runsStore_of_storeOp hs rfl), stores_of_runsStore hs (runsStore_of_storeOp hs rfl),
    stores_of_runsStore hs (runsStore_of_storeOp hs rfl), stores_of_runsStore hs (runsStore_of_storeOp hs rfl)⟩

theorem storesToPoison_holds : storesToPoison := by
  intro s st d a h i p hs at_ poisoned denied
  have narrow : ∀ (j : Instr) (l : Nat), l < 3 → exec j s = storeOp st d a i l h s → denied j l := by
    rintro j l hl hj ⟨ha, hloc, hm, ht, -, -⟩
    exact denied_of_runsStore (runsStore_of_storeOp hs hj) hl ha hloc hm ht
  refine ⟨narrow _ 0 (by decide) rfl, narrow _ 1 (by decide) rfl, narrow _ 2 (by decide) rfl, ?_⟩
  rintro ⟨ha, hloc, hm, ht, hsram, hflips⟩ href
  obtain ⟨-, -, -, -, hss⟩ := id hs
  have plain : s.storesRef p d 3 = false := by simp [State.storesRef, href]
  obtain ⟨t, run, ended⟩ := storeX_of_writeRaw ha hloc (fun h => absurd h.2.2 (by decide)) (by rw [plain]; rfl) (.refl s) hsram hflips
    (writeRaw_of_poison (p := { p with l1 := some s.me.core }) hsram hm ht ..) h.toNat
  rw [plain, show (s.rX d).toNat % 2 ^ (8 * 2 ^ 3) = (s.rX d).toNat from Nat.mod_eq_of_lt (s.rX d).isLt] at ended
  obtain ⟨u, hu, frame, -, -, stored, tags⟩ := (runsStore_of_storeOp (i := .sd st d a h i) hs rfl).completes hss hsram run ended
  refine ⟨u, hu, frame, stored, fun w => ?_⟩
  rw [tags w]
  simp

/-- Settles O14: plain stores, stores to poison, and stores of references by what their escape check finds. -/
theorem stores : Obligations.Stores := by
  refine ⟨plainStores_holds, storesToPoison_holds, fun s st d a h i c o t hs => ⟨?_, fun ht => ?_⟩⟩
  · exact storesReference_of_runsStore hs (runsStore_of_storeOp (i := .sd st d a h i) (l := 3) hs rfl)
  · have run := runsStore_of_orderedStore hs st d a c o t
    rw [ht] at run
    exact storesReference_of_runsStore hs run

end Sys2Proof.Proofs
end

section
/-! The traps of scalar accesses: what refuses an address, and a word of poison (R81, R82, R159, R301, R310, R315, R332). -/

namespace Sys2Proof.Machine
open Sys2Proof.Cert

/-! ### The checks before an access -/

/-- The checks of a scalar access of 2^l bytes before its data is met: its alignment, and what its address maps to (R81). -/
def accessCheck (kind : Access) (va : X) (l : Nat) : M Unit := do
  require (va.toNat % 2 ^ l == 0) 0x0C0 va
  let _ ← access kind va 0 1
  pure ()

theorem accessCheck_of_misaligned {va : X} {l : Nat} (h : va.toNat % 2 ^ l ≠ 0) (kind : Access) (s : State) :
    accessCheck kind va l s = (.error (.trap { code := 0x0C0, tval := va }), s) := by
  have misaligned : (va.toNat % 2 ^ l == 0) = false := beq_eq_false_iff_ne.mpr h
  unfold accessCheck
  rw [misaligned, M.bind_of_error (M.run_require_false ..)]

theorem accessCheck_of_access {s : State} {kind : Access} {va : X} {l : Nat} {e : Stop} (ha : va.toNat % 2 ^ l = 0)
    (h : Machine.access kind va 0 1 s = (.error e, s)) : accessCheck kind va l s = (.error e, s) := by
  have aligned : (va.toNat % 2 ^ l == 0) = true := beq_iff_eq.mpr ha
  unfold accessCheck
  rw [aligned, M.bind_of_ok (M.run_require_true ..), M.bind_of_error h]

/-- A meaning that begins with the checks of its access stops where they do. -/
theorem bind_of_accessCheck {α : Type} {s : State} {kind : Access} {va : X} {l : Nat} {e : Stop} (h : accessCheck kind va l s = (.error e, s))
    (rest : Phys → M α) : (do
      require (va.toNat % 2 ^ l == 0) 0x0C0 va
      let p ← access kind va 0 1
      rest p) s = (.error e, s) := by
  unfold accessCheck at h
  cases ha : va.toNat % 2 ^ l == 0
  · rw [ha, M.bind_of_error (M.run_require_false ..)] at h
    rw [M.bind_of_error (M.run_require_false ..)]
    cases h
    rfl
  · rw [ha, M.bind_of_ok (M.run_require_true ..)] at h
    rw [M.bind_of_ok (M.run_require_true ..)]
    rcases hp : Machine.access kind va 0 1 s with ⟨r | p, t⟩
    · rw [M.bind_of_error hp] at h ⊢
      cases h
      rfl
    · rw [M.bind_of_ok hp] at h
      cases h

/-- An access whose unit refuses it (R159, R310, R315). -/
theorem access_of_refused {s : State} {kind : Access} {va : X} {p : Phys} {c : Nat}
    (ht : s.translate s.me.core s.pid s.me.hart.prv kind va s.hartAgent = (.ok p, s))
    (hu : s.unitOf p.pa s.me.hart.hid s.me.hart.pid = .refuse c) (stride : X) (remaining : Nat) :
    Machine.access kind va stride remaining s = (.error (.trap ((XFault.mk c 3 0 0).trap kind va stride remaining 1)), s) := by
  have located : s.locateBy s.me.core kind va = (.error (.fault { code := c, level := 3, entry := 0 }), s) := by
    unfold State.locateBy
    rw [show s.translate s.me.core s.me.hart.pid s.me.hart.prv kind va s.hartAgent = _ from ht]
    dsimp only
    rw [hu]
  unfold Machine.access accessBy
  rw [M.bind_get, M.bind_get, located]
  rfl

/-- A row above the usable ones is refused (R310). -/
theorem unitOf_of_reservedRow {s : State} {pa : Nat} (hd : isDram pa = true) (hr : 1008 ≤ rowOf pa) (hid : BitVec 32) (pid : Nat) :
    s.unitOf pa hid pid = .refuse 0x20B := by
  have reserved : reservedRow pa = true := by simp [reservedRow, hd, hr]
  unfold State.unitOf
  rw [if_pos hd, if_pos reserved]

/-- A block of scratch that the ways do not grant is refused (R315). -/
theorem unitOf_of_ungranted {s : State} {pa : Nat} (hd : isDram pa = false) (hs : isScratch pa = true) (hl : s.scratchLost pa = false)
    (hw : 64 * (s.wpart (pa / 2 ^ 36 % 8) (pa / 2 ^ 14 % 8)).req ≤ pa / 2 ^ 17 % 1024) (hid : BitVec 32) (pid : Nat) :
    s.unitOf pa hid pid = .refuse 0x086 := by
  unfold State.unitOf
  simp only [hd, hs, hl, if_pos hw, Bool.false_eq_true, if_false, if_true]

/-! ### Loads, stores and atomics -/

theorem loadX_of_accessCheck {s : State} {va : X} {l : Nat} {e : Stop} (h : accessCheck .load va l s = (.error e, s)) (d : BitVec 5)
    (zext : Bool) (hint : Nat) : loadX d va l zext hint s = (.error e, s) := bind_of_accessCheck h _

theorem storeX_of_accessCheck {s : State} {va : X} {l : Nat} {e : Stop} (h : accessCheck .store va l s = (.error e, s)) (d : BitVec 5)
    (hint : Nat) : storeX d va l hint s = (.error e, s) := bind_of_accessCheck h _

/-- Poison is read as such wherever a word of a line without errors is met (R81, R332). -/
theorem readRaw_of_poison {s : State} {p : Phys} (hs : s.sram = []) (hp : s.poisonedAt p.managed p.pa = true) (va : X) (n : Nat) (a : Agent) :
    s.readRaw p va n a = (.error { code := 0x300, tval := va, info0 := BitVec.ofNat 64 (p.pa / 8 * 8) }, s) := by
  have met : s.meetGranule 0x02 p a = (.poisoned, s) := by
    unfold State.meetGranule
    simp only [meetRemote_of_clean hs, readSram_of_clean hs, hp, Bool.false_eq_true, if_false, if_true]
  unfold State.readRaw
  rw [met]
  dsimp only
  rw [hp]
  rfl

theorem loadX_of_poison {s : State} {va : X} {l : Nat} {p : Phys} (ha : va.toNat % 2 ^ l = 0) (hloc : s.locate .load va = (.ok p, s))
    (hs : s.sram = []) (hp : s.poisonedAt p.managed p.pa = true) (d : BitVec 5) (zext : Bool) (hint : Nat) :
    loadX d va l zext hint s = (.error (.trap { code := 0x300, tval := va, info0 := BitVec.ofNat 64 (p.pa / 8 * 8) }), s) := by
  have aligned : (va.toNat % 2 ^ l == 0) = true := beq_iff_eq.mpr ha
  have read : liftRead (fun t => t.readAt p va (2 ^ l) hint t.hartAgent) s =
      (.error (.trap { code := 0x300, tval := va, info0 := BitVec.ofNat 64 (p.pa / 8 * 8) }), s) := by
    unfold liftRead State.readAt
    rw [M.bind_get]
    dsimp only
    rw [readRaw_of_poison (p := { p with l1 := some s.me.core }) hs hp]
    rfl
  unfold loadX
  rw [aligned, M.bind_of_ok (M.run_require_true ..), M.bind_of_ok (access_of_locate hloc ..), M.bind_get, M.bind_of_error read]

/-- i traps wherever a meaning that changes nothing does. -/
def State.trapsAs {α : Type} (s : State) (i : Instr) (m : M α) : Prop :=
  ∀ tr, m s = (.error (.trap tr), s) → exec i s = .next (s.enterTrap false s.pc tr)

/-- A scalar instruction of a settled hart traps wherever its meaning does. -/
theorem trapsAs_of_runScalar {α : Type} {s : State} (h : s.settled) {i : Instr} {q : Req} {m : M α} {body : M X}
    (hi : exec i s = runScalar q body s) (hsup : q.sup = false) (hfirst : q.first = false) (hq : q.scalar = true)
    (hb : ∀ tr, m s = (.error (.trap tr), s) → body s = (.error (.trap tr), s)) : s.trapsAs i m := by
  obtain ⟨hl, hp, -, hv, -⟩ := h
  intro tr ht
  rw [hi, runScalar_plain _ _ _ hl hp hv (by simp [hsup]) (by simp [hfirst]) hq, hb tr ht]
  rfl

theorem trapsAs_of_loadOp {s : State} (h : s.settled) {i : Instr} {st : BitVec 3} {d a : BitVec 5} {disp : BitVec 8} {l : Nat} {zext : Bool}
    {hint : BitVec 2} (hi : exec i s = loadOp st d a disp l zext hint s) :
    s.trapsAs i (loadX d (s.rX a + disp.signExtend 64 * BitVec.ofNat 64 (2 ^ l)) l zext hint.toNat) :=
  trapsAs_of_runScalar h (q := { st := st, srcs := [.x a], dst := .x d }) hi rfl rfl rfl fun tr ht => by
    rw [M.bind_get]
    exact M.bind_of_error ht

theorem trapsAs_of_orderedLoad {s : State} (h : s.settled) (st : BitVec 3) (d a : BitVec 5) (c : BitVec 4) (o t : BitVec 3) :
    s.trapsAs (.orderedLoad st d a c o t) (loadX d (s.rX a) (t.toNat % 4) (decide (4 ≤ t.toNat)) 0) :=
  trapsAs_of_runScalar h (q := { st := st, srcs := [.x a], dst := .x d, pfxOk := false }) rfl rfl rfl rfl fun tr ht => by
    rw [M.bind_get]
    exact M.bind_of_error ht

theorem trapsAs_of_runsStore {s : State} {i : Instr} {st : BitVec 3} {d : BitVec 5} {va : X} {l hint : Nat} (h : s.runsStore i st d va l hint) :
    s.trapsAs i (accessCheck .store va l) := fun tr ht => h.traps tr s (storeX_of_accessCheck ht d hint)

theorem trapsAs_of_amoOp {s : State} (h : s.settled) {i : Instr} {st : BitVec 3} {d a : BitVec 5} {c : BitVec 4} {o : BitVec 3}
    {z : BitVec 1} {two : Bool} {f : AmoFn} (hi : exec i s = amoOp st d a c o z two f s) :
    s.trapsAs i (accessCheck .store (s.rX a) (2 + z.toNat)) := by
  have size : (if z = 0 then 4 else 8) = 2 ^ (2 + z.toNat) := by
    rcases BitVec.eq_zero_or_eq_one z with rfl | rfl <;> rfl
  refine trapsAs_of_runScalar h (q := { st := st, srcs := [.x a, .x d] ++ (if two then [.x (d + 1)] else []), dst := .x d }) hi rfl rfl rfl
    fun tr ht => ?_
  rw [M.bind_get]
  dsimp only
  rw [size]
  exact bind_of_accessCheck ht _

/-- What holds of whatever the shared operation of atomics gives a meaning holds of the ten atomics (R203). -/
theorem amo_forms {s : State} {st : BitVec 3} {d a : BitVec 5} {c : BitVec 4} {o : BitVec 3} {z : BitVec 1} {P : Instr → Prop}
    (h : ∀ i two f, exec i s = amoOp st d a c o z two f s → P i) :
    P (.amoswap st d a c o z) ∧ P (.amoadd st d a c o z) ∧ P (.amocas st d a c o z) ∧ P (.amoand st d a c o z) ∧ P (.amoor st d a c o z) ∧
      P (.amoxor st d a c o z) ∧ P (.amomin st d a c o z) ∧ P (.amomax st d a c o z) ∧ P (.amominn st d a c o z) ∧
      P (.amomaxn st d a c o z) := by
  exact ⟨h _ false (fun _ _ x _ => some x) rfl, h _ false (fun w old x _ => some ((old + x) % 2 ^ w)) rfl,
    h _ true (fun _ old x y => if old = x then some y else none) rfl, h _ false (fun _ old x _ => some (old &&& x)) rfl,
    h _ false (fun _ old x _ => some (old ||| x)) rfl, h _ false (fun _ old x _ => some (old ^^^ x)) rfl,
    h _ false (fun w old x _ => some (if sextNat w x < sextNat w old then x else old)) rfl,
    h _ false (fun w old x _ => some (if sextNat w old < sextNat w x then x else old)) rfl,
    h _ false (fun _ old x _ => some (min old x)) rfl, h _ false (fun _ old x _ => some (max old x)) rfl⟩

/-! ### Traps -/

/-- i traps with 0x0C0 where its address is not a multiple of 2^l (R81). -/
theorem misaligned_of_trapsAs {s : State} {i : Instr} {kind : Access} {va : X} {l : Nat} (h : s.trapsAs i (accessCheck kind va l))
    (ha : va.toNat % 2 ^ l ≠ 0) : exec i s = .next (s.enterTrap false s.pc { code := 0x0C0, tval := va }) :=
  h _ (accessCheck_of_misaligned ha kind s)

/-- What a load does, before anything else, is to check its access. -/
theorem accessCheck_of_loads {s : State} {i : Instr} {d : BitVec 5} {va : X} {l hint : Nat} {zext : Bool}
    (h : s.trapsAs i (loadX d va l zext hint)) : s.trapsAs i (accessCheck .load va l) := fun tr ht => h tr (loadX_of_accessCheck ht d zext hint)

/-- The traps of an aligned access that the address alone decides (R82, R159, R310, R315). -/
def State.refusals (s : State) (i : Instr) (kind : Access) (va : X) : Prop :=
  (∀ q, denial s kind va = some q → exec i s = .next (s.enterTrap false s.pc (denialTrap kind va q 0 1 1))) ∧
    ∀ p, s.translate s.me.core s.pid s.me.hart.prv kind va s.hartAgent = (.ok p, s) →
      (isDram p.pa = true → 1008 ≤ rowOf p.pa → exec i s = .next (s.enterTrap false s.pc { code := 0x20B, tval := va })) ∧
      (isDram p.pa = false → isScratch p.pa = true → s.scratchLost p.pa = false →
        64 * (s.wpart (p.pa / 2 ^ 36 % 8) (p.pa / 2 ^ 14 % 8)).req ≤ p.pa / 2 ^ 17 % 1024 →
        exec i s = .next (s.enterTrap false s.pc (denialTrap kind va (0x086, 3) 0 1 1)))

theorem refusals_of_trapsAs {s : State} {i : Instr} {kind : Access} {va : X} {l : Nat} (h : s.trapsAs i (accessCheck kind va l))
    (ha : va.toNat % 2 ^ l = 0) : s.refusals i kind va := by
  refine ⟨fun q hq => h _ (accessCheck_of_access ha (access_of_denial hq 0 1)), fun p hp => ⟨fun hd hr => ?_, fun hd hs hl hw => ?_⟩⟩
  · have refused := unitOf_of_reservedRow (s := s) hd hr s.me.hart.hid s.me.hart.pid
    exact h _ (accessCheck_of_access ha (access_of_refused hp refused 0 1))
  · have refused := unitOf_of_ungranted hd hs hl hw s.me.hart.hid s.me.hart.pid
    rw [← trap_of_denial (c := (0x086, 3)) rfl]
    exact h _ (accessCheck_of_access ha (access_of_refused hp refused 0 1))

/-- A load of poison (R81, R332). -/
theorem poison_of_loads {s : State} {i : Instr} {d : BitVec 5} {va : X} {l hint : Nat} {zext : Bool}
    (h : s.trapsAs i (loadX d va l zext hint)) (ha : va.toNat % 2 ^ l = 0) {p : Phys} (hloc : s.locate .load va = (.ok p, s))
    (hs : s.sram = []) (ht : tagAt s.tags (p.pa / 8) = 3)
    (hp : p.managed = true ∨ (tagAt s.tags (p.pa / 16 * 2) = 3 ∧ tagAt s.tags (p.pa / 16 * 2 + 1) = 3)) :
    exec i s = .next (s.enterTrap false s.pc { code := 0x300, tval := va, info0 := BitVec.ofNat 64 (p.pa / 8 * 8) }) := by
  refine h _ (loadX_of_poison ha hloc hs ?_ d zext hint)
  simpa [State.poisonedAt, ht] using hp

theorem mkref_misaligned {s : State} (h : s.settled) (st : BitVec 3) (d a : BitVec 5) (ha : (s.rX a).toNat % 8 ≠ 0) :
    exec (.mkref st d a) s = .next (s.enterTrap false s.pc { code := 0x0C0, tval := s.rX a }) := by
  have misaligned : ((s.rX a).toNat % 8 == 0) = false := beq_eq_false_iff_ne.mpr ha
  refine trapsAs_of_runScalar h (q := { st := st, srcs := [.x a], dst := .x d }) (m := require false 0x0C0 (s.rX a)) rfl rfl rfl rfl
    (fun tr ht => ?_) _ rfl
  rw [M.bind_get]
  dsimp only
  rw [misaligned]
  exact M.bind_of_error ht

theorem pub_misaligned {s : State} (h : s.settled) (st : BitVec 3) (d a : BitVec 5) (c : BitVec 4) (ht : s.rTag d = true)
    (ha : (s.rX a).toNat % 8 ≠ 0) :
    exec (.pub st d a c) s = .next (s.enterTrap false s.pc { code := 0x0C0, tval := s.rX a }) := by
  have misaligned : ((s.rX a).toNat % 8 == 0) = false := beq_eq_false_iff_ne.mpr ha
  refine trapsAs_of_runScalar h (q := { st := st, srcs := [.x d, .x a] }) (m := require false 0x0C0 (s.rX a)) rfl rfl rfl rfl
    (fun tr hr => ?_) _ rfl
  unfold abandonable
  rw [M.bind_get]
  dsimp only
  rw [ht, misaligned, M.bind_of_ok (M.run_require_true ..), M.bind_of_error hr]

end Sys2Proof.Machine

namespace Sys2Proof.Proofs
open Sys2Proof.Machine Sys2Proof.Cert

theorem misalignedAccessesTrap_holds : misalignedAccessesTrap := by
  intro s st d a h i c o z hs at_ trapsAt
  have load : ∀ (j : Instr) (l : Nat) (zext : Bool), exec j s = loadOp st d a i l zext h s → trapsAt j (at_ l) l := fun _ _ _ hj ha =>
    misaligned_of_trapsAs (accessCheck_of_loads (trapsAs_of_loadOp hs hj)) ha
  have store : ∀ (j : Instr) (l : Nat), exec j s = storeOp st d a i l h s → trapsAt j (at_ l) l := fun _ _ hj ha =>
    misaligned_of_trapsAs (trapsAs_of_runsStore (runsStore_of_storeOp hs hj)) ha
  obtain ⟨swap, add, cas, and_, or_, xor_, min_, max_, minn, maxn⟩ :=
    amo_forms (P := fun j => trapsAt j (s.rX a) (2 + z.toNat)) fun _ _ _ hj ha => misaligned_of_trapsAs (trapsAs_of_amoOp hs hj) ha
  refine ⟨load (.lh st d a h i) 1 false rfl, load (.lw st d a h i) 2 false rfl, load (.ld st d a h i) 3 false rfl,
    load (.lhn st d a h i) 1 true rfl, load (.lwn st d a h i) 2 true rfl, store (.sh st d a h i) 1 rfl, store (.sw st d a h i) 2 rfl,
    store (.sd st d a h i) 3 rfl, fun t ha => ?_, fun t ha => ?_, swap, add, cas, and_, or_, xor_, min_, max_, minn, maxn,
    mkref_misaligned hs st d a, pub_misaligned hs st d a c⟩
  · exact misaligned_of_trapsAs (accessCheck_of_loads (trapsAs_of_orderedLoad hs st d a c o t)) ha
  · exact misaligned_of_trapsAs (trapsAs_of_runsStore (runsStore_of_orderedStore hs st d a c o t)) ha

theorem accessFaults_holds : accessFaults := by
  intro s st d a h i c o z hs at_ faults amo
  have loads : ∀ {j : Instr} {e : BitVec 5} {va : X} {l hint : Nat} {zext : Bool}, s.trapsAs j (loadX e va l zext hint) →
      faults j .load va l := fun hj ha =>
    have refused := refusals_of_trapsAs (accessCheck_of_loads hj) ha
    ⟨refused.1, refused.2, fun _ _ hloc hsram _ ht hp => poison_of_loads hj ha hloc hsram ht hp⟩
  have stores : ∀ {j : Instr} {va : X} {l : Nat}, s.trapsAs j (accessCheck .store va l) → faults j .store va l := fun hj ha =>
    have refused := refusals_of_trapsAs hj ha
    ⟨refused.1, refused.2, fun _ hk => nomatch hk⟩
  have load : ∀ (j : Instr) (l : Nat) (zext : Bool), exec j s = loadOp st d a i l zext h s → faults j .load (at_ l) l := fun _ _ _ hj =>
    loads (trapsAs_of_loadOp hs hj)
  have store : ∀ (j : Instr) (l : Nat), exec j s = storeOp st d a i l h s → faults j .store (at_ l) l := fun _ _ hj =>
    stores (trapsAs_of_runsStore (runsStore_of_storeOp hs hj))
  exact ⟨load (.lb st d a h i) 0 false rfl, load (.lh st d a h i) 1 false rfl, load (.lw st d a h i) 2 false rfl,
    load (.ld st d a h i) 3 false rfl, load (.lbn st d a h i) 0 true rfl, load (.lhn st d a h i) 1 true rfl,
    load (.lwn st d a h i) 2 true rfl, store (.sb st d a h i) 0 rfl, store (.sh st d a h i) 1 rfl, store (.sw st d a h i) 2 rfl,
    store (.sd st d a h i) 3 rfl, fun t => loads (trapsAs_of_orderedLoad hs st d a c o t),
    fun t => stores (trapsAs_of_runsStore (runsStore_of_orderedStore hs st d a c o t)),
    amo_forms (P := amo) fun _ _ _ hj => stores (trapsAs_of_amoOp hs hj)⟩

/-- Settles O15: every scalar access checks its alignment and then its address, and a load then meets poison. -/
theorem scalarAccessTraps : Obligations.ScalarAccessTraps := ⟨misalignedAccessesTrap_holds, accessFaults_holds⟩

end Sys2Proof.Proofs
end

section
/-! Prefetches in a module where nothing holds an access back and no bit is flipped (R85, R118, R169, R301 to R304, R330). -/

namespace Sys2Proof.Machine
open Sys2Proof.Cert

/-! ### What a prefetch leaves -/

/-- t is s but for the copies of lines, the translations held, the count of free values, and es; no codeword of it is in error that was not
(R85, R304, R312). -/
structure State.prefetched (s t : State) : Prop where
  frame : t = { s with
    lines := t.lines, dir := t.dir, flips := t.flips, under := t.under, hostHeld := t.hostHeld, hostOwned := t.hostOwned,
    tlb := t.tlb, fresh := t.fresh, me := { s.me with hart := { s.me.hart with es := t.me.hart.es } } }
  clean : ∀ g, flipsAt s.flips g = [] → flipsAt t.flips g = []

theorem State.prefetched.refl (s : State) : s.prefetched s := ⟨rfl, fun _ h => h⟩

theorem State.prefetched.trans {s t u : State} (h : s.prefetched t) (h' : t.prefetched u) : s.prefetched u := by
  refine ⟨?_, fun g hg => h'.clean g (h.clean g hg)⟩
  have h2 := h'.frame
  rw [h.frame] at h2
  exact h2

theorem State.copied.prefetched {s t : State} (h : s.copied t) : s.prefetched t := by
  refine ⟨?_, h.clean⟩
  have frame := h.frame
  unfold State.copiesFrame at frame
  rw [frame]

theorem State.holdTlb_prefetched (e : TlbEntry) (s : State) : s.prefetched (s.holdTlb e) := ⟨rfl, fun _ h => h⟩

theorem State.prefetched.vec {s t : State} (h : s.prefetched t) : t.me.vec = s.me.vec := by rw [h.frame]

/-! ### Nothing that holds an access back -/

/-- No bit is flipped, and no microprogram, row-lock, way or refresh holds an access back (R169, R170, R178, R315). -/
structure State.idle (s : State) : Prop where
  clean : ∀ g, flipsAt s.flips g = []
  sram : s.sram = []
  seq : s.seq = []
  locks : s.locks = []
  wparts : s.wparts = []
  refresh : ∀ die < 16, refreshRest die s.cycle = 0
  late : s.lateRefreshes = []

theorem State.prefetched.idle {s t : State} (h : s.prefetched t) (hi : s.idle) : t.idle := by
  have clean := fun g => h.clean g (hi.clean g)
  obtain ⟨flips, hf⟩ : ∃ f, f = t.flips := ⟨_, rfl⟩
  rw [← hf] at clean
  refine ⟨hf ▸ clean, ?_, ?_, ?_, ?_, ?_, ?_⟩ <;> rw [h.frame]
  · exact hi.sram
  · exact hi.seq
  · exact hi.locks
  · exact hi.wparts
  · exact hi.refresh
  · exact hi.late

theorem State.idle.lineClean {s : State} (h : s.idle) (pa : Nat) : s.lineClean pa := fun g _ => h.clean g

theorem State.idle.dramWaits {s : State} (h : s.idle) (pa : Nat) (who : Option (Nat × BitVec 32)) : s.dramWaits pa who = false := by
  have rest : refreshRest (paDie pa) s.cycle = 0 := h.refresh _ (Nat.mod_lt _ (by decide))
  simp [State.dramWaits, State.bankBusy, State.refreshAt, State.rowLocked, rest, h.seq, h.locks, h.late]

theorem State.idle.wordWaits {s : State} (h : s.idle) (pa : Nat) (who : Option (Nat × BitVec 32)) : s.wordWaits pa who = false := by
  simp [State.wordWaits, State.wpart, h.dramWaits, h.wparts]

theorem State.idle.chargeRow {s : State} (h : s.idle) (pa : Nat) (who : Option (Nat × BitVec 32)) : s.chargeRow pa who = s := by
  have same : ({ s with seq := [] } : State) = s := by rw [← h.seq]
  unfold State.chargeRow
  split
  · rw [h.seq]
    exact same
  · rfl

/-! ### Translation -/

theorem State.idle.meetPlain {s : State} (h : s.idle) (kind pa : Nat) (a : Agent) : s.copied (s.meetPlain kind pa a).2 := by
  obtain ⟨u, hu⟩ : ∃ u, u = s.unhold (pa / 16 * 16) 16 false := ⟨_, rfl⟩
  have held : s.copied u := hu ▸ State.unhold_copied ..
  have granule : flipsAt u.flips (pa / 16) = [] := held.clean _ (h.clean _)
  unfold State.meetPlain State.meetHome
  rw [← hu]
  simp only [meetRemote_of_clean (held.sram h.sram), readSram_of_clean (held.sram h.sram), ite_self, Bool.or_self, Bool.false_eq_true, if_false,
    decodeGranule_of_clean granule]
  split <;> exact held

theorem State.idle.meetEach {s : State} (h : s.idle) (a : Agent) (l : List Nat) :
    s.copied (meetEach (fun g t => t.meetPlain 0x02 g a) l s).2 := by
  induction l generalizing s with
  | nil => exact .refl s
  | cons g rest ih =>
    have met := h.meetPlain 0x02 g a
    exact met.trans (ih (met.prefetched.idle h))

/-- A walk changes copies alone, and waits for nothing (R301, R303). -/
theorem State.idle.walk {s : State} (h : s.idle) (pid cls : Nat) (va : X) (a : Agent) (n level table : Nat) :
    s.prefetched (s.walk pid cls va a n level table).2 ∧ ∀ pa, (s.walk pid cls va a n level table).1 ≠ .error (.busy pa) := by
  induction n generalizing s level table with
  | zero => exact ⟨.refl s, fun _ => by simp [State.walk]⟩
  | succ n ih =>
    obtain ⟨pa, hpa⟩ : ∃ pa, pa = table + 8 * vaIndex va level := ⟨_, rfl⟩
    have met := h.meetPlain 0x02 pa a
    unfold State.walk
    dsimp only
    rw [← hpa]
    split
    · exact ⟨.refl s, fun _ => by simp⟩
    · rw [h.wordWaits, if_neg Bool.false_ne_true]
      rcases hm : s.meetPlain 0x02 pa a with ⟨d, u⟩
      rw [hm] at met
      have quiet := met.prefetched.idle h
      cases d
      case good =>
        dsimp only
        rw [quiet.chargeRow]
        split
        · exact ⟨met.prefetched, fun _ => by simp⟩
        · split
          · exact ⟨met.prefetched, fun _ => by simp⟩
          · split
            · exact ⟨met.prefetched, fun _ => by simp⟩
            · obtain ⟨walked, free⟩ := ih quiet (level + 1) (ptePa (u.physWord pa))
              exact ⟨met.prefetched.trans walked, free⟩
      all_goals exact ⟨met.prefetched, fun _ => by simp⟩

theorem State.idle.installSize {s : State} (h : s.idle) (pid : Nat) (e : X) (level at_ : Nat) (a : Agent) :
    s.prefetched (s.installSize pid e level at_ a).2 := by
  unfold State.installSize
  split
  · dsimp only
    split
    · exact .refl s
    · exact (h.meetEach a _).prefetched.trans ⟨rfl, fun _ h => h⟩
  · exact .refl s

/-- A translation changes copies and what is held alone, and waits for nothing (R301 to R304). -/
theorem State.idle.translate {s : State} (h : s.idle) (unit pid : Nat) (prv : Bool) (k : Access) (va : X) (a : Agent) :
    s.prefetched (s.translate unit pid prv k va a).2 ∧ ∀ pa, (s.translate unit pid prv k va a).1 ≠ .error (.busy pa) := by
  unfold State.translate
  dsimp only
  split
  · exact ⟨.refl s, fun _ => by simp⟩
  · split
    · split <;> exact ⟨.refl s, fun _ => by simp⟩
    · split
      · split
        · exact ⟨State.holdTlb_prefetched _ s, fun _ => by simp⟩
        · exact ⟨.refl s, fun _ => by simp⟩
      · split
        · exact ⟨.refl s, fun _ => by simp⟩
        · rename_i q _
          obtain ⟨walked, free⟩ := h.walk pid k.cls va a 3 0 q.cfg.root
          rcases hw : s.walk pid k.cls va a 3 0 q.cfg.root with ⟨f | ⟨e, level, at_⟩, u⟩
          · rw [hw] at walked free
            exact ⟨walked, fun pa he => free pa (congrArg Except.error (Except.error.inj he))⟩
          · rw [hw] at walked
            dsimp only
            split
            · have installed := walked.trans ((walked.idle h).installSize pid e level at_ a)
              refine ⟨?_, fun _ => by simp⟩
              dsimp only
              split
              · exact installed.trans (State.holdTlb_prefetched _ _)
              · exact (installed.trans (State.holdTlb_prefetched _ _)).trans (State.holdTlb_prefetched _ _)
            · exact ⟨walked, fun _ => by simp⟩

/-! ### Requests -/

theorem State.prefetchLine_copied {s : State} (h : s.sram = []) {p : Phys} (hc : s.lineClean p.pa) (tier : Nat) (cold : Bool)
    (core : Option Nat) (a : Agent) : s.copied (s.prefetchLine p tier cold core a) := by
  have free := State.unhold_copied (p.pa / 128 * 128) 128 false s
  have probed := free.trans (State.probe_copied (free.sram h) p.pa false)
  have placed := probed.trans (State.placeLine_copied (probed.sram h) (probed.lineClean hc) 128 true false cold a)
  unfold State.prefetchLine
  split
  · dsimp only
    split
    · split
      · exact placed.putDir h _
      · exact placed
    · exact placed
  · exact .refl s

/-- A request of a prefetch is sent or not, and nothing waits for it (R85, R169). -/
theorem sendPrefetch_of_idle {s : State} (h : s.idle) (k : Access) (va : X) (tier : Nat) (core : Option Nat) :
    ∃ t, sendPrefetch k va tier core s = (.ok (), t) ∧ s.prefetched t := by
  obtain ⟨changed, free⟩ := h.translate s.me.core s.pid s.me.hart.prv k va s.hartAgent
  unfold sendPrefetch
  rw [M.bind_get]
  rcases ht : s.translate s.me.core s.pid s.me.hart.prv k va s.hartAgent with ⟨(f | pa) | p, t⟩ <;> rw [ht] at changed free
  · exact ⟨s, rfl, .refl s⟩
  · exact absurd rfl (free pa)
  · dsimp only
    split
    · exact ⟨t, rfl, changed⟩
    · have quiet := changed.idle h
      exact ⟨_, rfl, changed.trans (State.prefetchLine_copied quiet.sram (quiet.lineClean p.pa) ..).prefetched⟩

/-- The requests of a vector prefetch (R118). -/
theorem prefetchElems_of_idle {s : State} (h : s.idle) (addr : Nat → X) (tier size : Nat) (l : List Nat) :
    ∃ t, prefetchElems addr tier size l s = (.ok (), t) ∧ s.prefetched t := by
  induction l generalizing s with
  | nil => exact ⟨s, rfl, .refl s⟩
  | cons i rest ih =>
    unfold prefetchElems
    split
    · obtain ⟨u, hu⟩ : ∃ u, u = s.modHart fun r => { r with es := BitVec.ofNat 18 i } := ⟨_, rfl⟩
      have at_i : s.prefetched u := hu ▸ ⟨rfl, fun _ h => h⟩
      obtain ⟨v, sent, changed⟩ := sendPrefetch_of_idle (at_i.idle h) .vload (addr i) (if tier = 0 then 1 else tier) none
      have upto := at_i.trans changed
      obtain ⟨t, ht, done⟩ := ih (upto.idle h)
      refine ⟨t, ?_, upto.trans done⟩
      rw [M.bind_of_ok (show setEs i s = (.ok (), u) from hu ▸ rfl), M.bind_of_ok sent]
      exact ht
    · exact ih h

/-! ### Completion -/

/-- The completion of a prefetch (R85, R118). -/
theorem State.prefetched.completes {s t : State} (h : s.prefetched t) (hs : (s.me.hart.ss && !s.me.hart.prv) = false) (st : BitVec 3) :
    let u := t.complete st 0 (s.pc + 4)
    u.pc = s.pc + 4 ∧ u.me.hart.es = 0 ∧ u.mem = s.mem ∧ u.tags = s.tags ∧ u.me.hart.x = s.me.hart.x ∧ u.me.hart.xtag = s.me.hart.xtag ∧
      u.me.hart.status = s.me.hart.status ∧ u.me.vec = s.me.vec ∧ u.me.hart.p = s.me.hart.p := by
  have status : t.me.hart.status = s.me.hart.status := by rw [h.frame]
  rw [complete_eq_after _ _ _ _ (by unfold Hart.ss Hart.prv; rw [status]; exact hs), h.frame]
  exact ⟨rfl, rfl, rfl, rfl, rfl, rfl, rfl, rfl, rfl⟩

theorem pref_completes {s : State} (h : s.settled) (hi : s.idle) (st : BitVec 3) (t : BitVec 2) (a : BitVec 5) (i : BitVec 8) :
    ∃ u, exec (.pref st t a i) s = .next (u.complete st 0 (s.pc + 4)) ∧ s.prefetched u := by
  obtain ⟨hl, hp, -, hv, -⟩ := h
  have run := runScalar_plain { st := st, srcs := [.x a] } (do
    let u ← get
    let va := scalarAddr (u.rX a) i 3
    if va.toNat % 8 = 0 then sendPrefetch .load va t.toNat (some u.me.core)
    pure (u.pc + 4)) s hl hp hv (by simp) (by simp) rfl
  rw [M.bind_get] at run
  dsimp only at run
  by_cases ha : (scalarAddr (s.rX a) i 3).toNat % 8 = 0
  · obtain ⟨u, sent, changed⟩ := sendPrefetch_of_idle hi .load (scalarAddr (s.rX a) i 3) t.toNat (some s.me.core)
    rw [if_pos ha, M.bind_of_ok sent] at run
    exact ⟨u, run, changed⟩
  · rw [if_neg ha] at run
    exact ⟨s, run, .refl s⟩

theorem vprefOp_completes {s : State} (h : s.vectorReady) (hi : s.idle) (hw : 8 ≤ s.me.vec.width) (st : BitVec 3) (a : BitVec 5)
    (rs : List Reg) (k : BitVec 3) (tier : Nat) (stride : State → Nat → X) :
    ∃ u, vprefOp st a rs k tier stride s = .next (u.complete st 0 (s.pc + 4)) ∧ s.prefetched u := by
  obtain ⟨hpv, -, -, -⟩ := h.plain
  have hr := h.runs
  refine runVector_gives hr _ _ (pairs_of_noPfx hpv _) (nullified_of_noPfx hpv) (decide_eq_true hw) rfl (fun _ => ?_) (fun _ => .refl s)
    (fun t ht => (congrArg Vec.streams ht.vec).trans hr.streams)
  obtain ⟨t, ht, changed⟩ := prefetchElems_of_idle hi (fun i => s.rX a + stride s i) tier (max (s.me.vec.width / 8) 1) (s.enabled k s.es)
  exact ⟨(), t, (M.bind_get ..).trans ht, changed⟩

end Sys2Proof.Machine

namespace Sys2Proof.Proofs
open Sys2Proof.Machine Sys2Proof.Cert

/-- Settles O16: a translation and a request change only copies, held translations and free values, and wait for nothing. -/
theorem prefetchesComplete : Obligations.PrefetchesComplete := by
  intro s st a b i k t hflips hsram hseq hlocks hwparts hrefresh hlate quiet
  have idle : s.idle := ⟨fun g => by rw [hflips]; rfl, hsram, hseq, hlocks, hwparts, hrefresh, hlate⟩
  have completes : ∀ {j : Instr}, (∃ u, exec j s = .next (u.complete st 0 (s.pc + 4)) ∧ s.prefetched u) →
      (s.me.hart.ss && !s.me.hart.prv) = false → quiet j := by
    rintro j ⟨u, run, changed⟩ hs
    exact ⟨_, run, changed.completes hs st⟩
  refine ⟨fun h => completes (pref_completes h idle st t a i) h.2.2.2.2, fun h hw => ?_⟩
  have noStep := h.runs.noStep
  exact ⟨completes (vprefOp_completes h idle hw st a [] k t.toNat fun u i => xOf (i * u.me.vec.width / 8)) noStep,
    completes (vprefOp_completes h idle hw st a [.x b] k t.toNat fun u i => xOf i * u.rX b) noStep⟩

end Sys2Proof.Proofs
end

section
/-! Reads of bit lanes whose memory the host owns (R110, R317). -/

namespace Sys2Proof.Machine
open Sys2Proof.Cert

/-- The address of the byte that holds a bit lane of a plane of a handle (R110, R162). -/
def lanePa (h : X) (l m : Nat) : Nat :=
  let at_ := laneOf h l
  hStack h * 2 ^ 36 + hSub h * 2 ^ 31 + (hBase h + m) * 2 ^ 21 + at_.1 * 2 ^ 17 + at_.2.1 * 2 ^ 10 + at_.2.2 / 8

/-- The read of a bit lane through a scratch handle takes the half that it lies in from the host, which keeps a shared copy (R110, R317). -/
theorem readLane_of_scratch {h : Handle} (hs : hScratch h.word = true) (l m : Nat) (s : State) :
    ∃ b, readLane h l m s = (.ok b, s.unhold (lanePa h.word l m) 1 false) := by
  unfold readLane
  rw [M.bind_get]
  simp only [hs, Bool.true_or, if_true]
  exact ⟨_, rfl⟩

/-- A run over one element whose operation raises no flag. -/
theorem elemRun_one {f : Nat → M (Nat × Flags)} {i v : Nat} {s t : State} (h : f i s = (.ok (v, 0), t)) :
    elemRun f [i] s = (.ok ([(i, v)], 0, none), t) := by
  have raise : t.modHart (Hart.raise 0) = t := by unfold State.modHart; rw [Hart.raise_zero]
  have none_ : (0 : Flags) &&& t.me.hart.fen = 0 := BitVec.zero_and
  unfold elemRun
  rw [M.bind_of_ok ((M.run_observe ..).trans (by rw [h]))]
  dsimp only
  rw [M.bind_modify, raise, M.bind_get, none_, if_neg (by simp)]
  rfl

/-- An element-wise computation of one element whose operation raises no flag. -/
theorem elementwise_one {f : Nat → M (Nat × Flags)} {put : List (Nat × Nat) → M Unit} {i v : Nat} {s t u : State}
    (h : f i s = (.ok (v, 0), t)) (hp : put [(i, v)] t = (.ok (), u)) :
    elementwise [i] f put s = (.ok 0, u.modHart (Hart.count 6 1)) := by
  unfold elementwise
  rw [M.bind_get, M.bind_of_ok (elemRun_one h)]
  exact M.bind_of_ok hp

/-- Handles whose phset is ready are not waited for (R163). -/
theorem awaitHandles_of_ready {s : State} {p : BitVec 4} (h : handleReady s p) : awaitHandles [p] s = (.ok (), s) := by
  have bound : ∀ (l : List Nat) (m : Nat), m ≤ s.cycle → (∀ c ∈ l, c ≤ s.cycle) → l.foldl max m ≤ s.cycle := by
    intro l
    induction l with
    | nil => exact fun m hm _ => hm
    | cons c rest ih => exact fun m hm hl => ih _ (max_le hm (hl c (by simp))) fun d hd => hl d (by simp [hd])
  unfold awaitHandles
  rw [M.bind_get, if_neg]
  · rfl
  · refine Nat.not_lt.mpr (bound _ 0 (Nat.zero_le _) fun c hc => ?_)
    obtain ⟨q, hq, rfl⟩ := List.mem_map.mp hc
    obtain ⟨hq, hp⟩ := List.mem_filter.mp hq
    simp only [List.any_cons, List.any_nil, Bool.or_false, beq_iff_eq] at hp
    exact h q hq hp.symm

/-- What vldp does in s once it has been let through: its checks and its elements (R110). -/
def vldpBody (d : BitVec 5) (p : BitVec 4) (b : BitVec 5) (k : BitVec 3) : M Unit := do
  awaitHandles [p]
  let x ← get
  let h := x.rP p
  let w := hWidth h.word
  let sew := x.me.vec.width
  let first := (x.rX b).toNat
  require (hValid h.word && !hStale h.word && !x.setLost h.word) 0x200 (zimm p)
  require (decide (first + x.me.vec.vl.toNat ≤ laneCount h.word)) 0x201 (zimm p)
  require (decide (w ≤ sew)) 0x202 (zimm p)
  if x.rowsWait x.pid x.me.hart.hid h.word then throw (.wait (.rows h.word))
  let _ ← elementwise (x.actives k x.es) (fun i => do
    let v ← readLanes h (first + i) 0 w
    pure (v, 0)) (fun l => putElems d sew l (24 + 48 * w) false)

theorem execVldp_eq (st : BitVec 3) (d : BitVec 5) (p : BitVec 4) (b : BitVec 5) (k : BitVec 3) (s : State) :
    exec (.vldp st d p b k) s =
      runVector { st := st, k := k, rs := [.x b], dst := .v d, writes := [d] } (vldpBody d p b k) s := rfl

/-- vldp of one element from one plane, through a scratch handle: the host no longer owns what has been read (R110, R317). -/
theorem vldp_hostOwned {s : State} (h : s.vectorReady) (st : BitVec 3) (d : BitVec 5) {p : BitVec 4} {b : BitVec 5} {k : BitVec 3} {i : Nat}
    (hp : live s p) (hl : s.setLost (s.rP p).word = false) (hc : (s.rX b).toNat + s.me.vec.vl.toNat ≤ laneCount (s.rP p).word)
    (hw : hWidth (s.rP p).word ≤ s.me.vec.width) (hr : s.rowsWait s.pid s.me.hart.hid (s.rP p).word = false)
    (hs : hScratch (s.rP p).word = true) (hone : hWidth (s.rP p).word = 1) (hi : s.actives k s.es = [i]) :
    ∃ t, exec (.vldp st d p b k) s = .next t ∧
      t.hostOwned = (s.unhold (lanePa (s.rP p).word ((s.rX b).toNat + i) 0) 1 false).hostOwned := by
  obtain ⟨hpv, hfm, -, -⟩ := h.plain
  obtain ⟨valid, stale, ready⟩ := hp
  obtain ⟨u, hu⟩ : ∃ u, u = s.unhold (lanePa (s.rP p).word ((s.rX b).toNat + i) 0) 1 false := ⟨_, rfl⟩
  obtain ⟨v, lanes⟩ : ∃ v, readLanes (s.rP p) ((s.rX b).toNat + i) 0 (hWidth (s.rP p).word) s = (.ok v, u) := by
    obtain ⟨v, read⟩ := readLane_of_scratch hs ((s.rX b).toNat + i) 0 s
    rw [hone, hu]
    exact ⟨_, M.bind_of_ok read⟩
  have busy : s.es < s.me.vec.vl.toNat := by
    have active := mem_actives.mp (hi ▸ List.mem_singleton_self i)
    omega
  have body : (vldpBody d p b k).gives s fun _ t => u.vecChange t := by
    unfold vldpBody
    refine M.gives_bind ⟨_, s, awaitHandles_of_ready ready, M.gives_bind ⟨s, s, rfl, ?_⟩⟩
    simp only [M.bind_require, valid, stale, hl, hc, hw, hr, hi, decide_true, Bool.not_false, Bool.and_self, if_true, Bool.false_eq_true,
      if_false, M.gives]
    exact ⟨(), _, M.bind_of_ok (elementwise_one (M.bind_of_ok lanes) (putElems_eq ..)), (State.putV_spec ..).1.count 6 1⟩
  obtain ⟨t, run, wrote⟩ := runVector_gives h.runs { st := st, k := k, rs := [.x b], dst := .v d, writes := [d] } _
    (pairs_of_noPfx hpv _) (nullified_of_noPfx hpv) rfl rfl (fun _ => body) (fun hb => absurd busy hb)
    fun t ht => (ht.streams.trans (by rw [hu]; exact h.runs.streams))
  refine ⟨_, (execVldp_eq ..).trans run, ?_⟩
  obtain ⟨_, _, _, _, _, _, _, rfl⟩ := wrote
  rw [if_pos rfl, clearKf_of_off (by rw [hu]; exact hfm), complete_eq_after _ _ _ _ (by rw [hu]; exact h.runs.noStep), ← hu]
  rfl

/-- A ready hart with a live scratch handle of one plane in p0, one active element, and memory of which the host owns a half of that plane's
row (R317). -/
def hostOwnsPlane : State :=
  let s := (State.reset.placeWord 0).modHart fun h => { h with
    status := 0x28000, p := h.p.set 0 { word := 0x8800000000C00000, va := 0 } }
  { (s.modVec fun v => { v with groups := [0], vl := 1 }) with hostOwned := [0x18000] }

theorem hostOwnsPlane_vectorReady : hostOwnsPlane.vectorReady := by decide +kernel

theorem hostOwnsPlane_memOk : hostOwnsPlane.memOk := by
  unfold State.memOk
  decide +kernel

theorem hostOwnsPlane_clean : hostOwnsPlane.flips = [] ∧ hostOwnsPlane.sram = [] ∧ ∀ c ∈ hostOwnsPlane.tags, c.2 ≠ 3 := by decide +kernel

/-- What vldp checks of lane 0 of p0 (R110). -/
theorem hostOwnsPlane_checks :
    let s := hostOwnsPlane
    let h := (s.rP 0).word
    live s 0 ∧ s.setLost h = false ∧ (s.rX 0).toNat + s.me.vec.vl.toNat ≤ laneCount h ∧ hWidth h ≤ s.me.vec.width ∧
      s.rowsWait s.pid s.me.hart.hid h = false := by decide +kernel

/-- What vldp reads of p0: one bit for element 0, in the half that the host owns. -/
theorem hostOwnsPlane_reads :
    let s := hostOwnsPlane
    let h := (s.rP 0).word
    hScratch h = true ∧ hWidth h = 1 ∧ s.actives 0 s.es = [0] ∧ (s.unhold (lanePa h ((s.rX 0).toNat + 0) 0) 1 false).hostOwned = [] ∧
      s.hostOwned = [0x18000] := by decide +kernel

end Sys2Proof.Machine

namespace Sys2Proof.Proofs
open Sys2Proof.Machine Sys2Proof.Cert

/-- Refutes O53: the clause on vldp leaves what the host owns as it was, while a lane that vldp reads in a half that the host owns leaves the
host a shared copy of it (R317). -/
theorem not_planeControl : ¬ Obligations.PlaneControl := by
  intro h
  obtain ⟨-, -, -, -, -, -, -, -, vldp⟩ := h hostOwnsPlane 0 0 0 1 0 0 0 hostOwnsPlane_vectorReady.1.1
  obtain ⟨flips, sram, tags⟩ := hostOwnsPlane_clean
  obtain ⟨handle, lost, lanes, width, waits⟩ := hostOwnsPlane_checks
  obtain ⟨scratch, planes, one, taken, owned⟩ := hostOwnsPlane_reads
  obtain ⟨t, run, -, -, frame⟩ := vldp hostOwnsPlane_vectorReady hostOwnsPlane_memOk flips sram tags handle lost lanes width waits
  obtain ⟨u, run', gone⟩ := vldp_hostOwned hostOwnsPlane_vectorReady 0 1 handle lost lanes width waits scratch planes one
  obtain rfl : t = u := Host.Outcome.next.inj (run.symm.trans run')
  have kept : t.hostOwned = hostOwnsPlane.hostOwned := by rw [frame]
  rw [kept, owned, taken] at gone
  cases gone

end Sys2Proof.Proofs
end

section
/-! The frame of the transfers of whole registers and of stream bindings, which read no v register by elements (R111 to R115, R285). -/

namespace Sys2Proof.Machine
open Sys2Proof.Cert

/-- What a vector instruction asks of its hart before it starts, strips being the trap of its bound sources. -/
@[reducible] def VReq.request (q : VReq) (strips : Option (Nat × X)) : Req :=
  { st := q.st, srcs := q.vs.map .v ++ q.rs ++ [.k q.k], dst := q.dst, first := true, grant := q.grant, cfg := true, shape := q.shape,
    scalar := false, noPred := q.noPred, wid := q.wid, strips := strips }

theorem gate_request {s : State} (h : s.vectorOwned) {q : VReq} (hsh : q.shape = true) : gate (q.request none) s = (.ok true, s) := by
  obtain ⟨⟨-, pend, -, pv, -⟩, owns, grant, -, vill, -⟩ := h
  rw [gate_plain _ s pend pv]
  simp [State.vecDenied, owns, vill, hsh, show s.me.vec.grant ≠ 0 by omega]

/-- A vector instruction without sources that could be bound, in a hart that owns its vector state: its body, and its completion (R7). -/
theorem runVector_whole {s : State} (h : s.vectorOwned) (q : VReq) (body : M Unit) (hv : q.vs = []) (hk : q.kf = false)
    (he : q.anyEs = true) (hsh : q.shape = true) (hb : checkBound q.writes s = (.ok (), s)) :
    runVector q body s = match body s with
      | (.ok _, t) => .next (t.complete q.st 0 (s.pc + 4))
      | (.error r, t) => .next (t.stopBy r) := by
  obtain ⟨⟨live, -⟩, -⟩ := id h
  have strips : (if q.anyEs || decide (s.es < s.me.vec.vl.toNat) then s.me.vec.stripsTrap q.vs else none) = none := by
    simp [hv, Vec.stripsTrap]
  have same : ∀ (n : Nat) (t : State), t.nextStrips n q.vs = t := fun n t => by simp [State.nextStrips, hv]
  unfold runVector runM
  rw [if_pos live, strips, M.bind_of_ok (gate_request h hsh)]
  simp only [he, hk, hb, same, Bool.true_or, Bool.false_eq_true, if_true, if_false, done, M.run_bind, M.run_get, M.run_modify]
  rcases body s with ⟨_ | _, t⟩ <;> rfl

/-- The same for a body that ends well without touching what a step trap depends on. -/
theorem runVector_completes {s t : State} (h : s.vectorOwned) (q : VReq) (body : M Unit) (hv : q.vs = []) (hk : q.kf = false)
    (he : q.anyEs = true) (hsh : q.shape = true) (hb : checkBound q.writes s = (.ok (), s)) (ht : body s = (.ok (), t))
    (hs : t.me.hart.status = s.me.hart.status) : runVector q body s = .next (t.after q.st 0 (s.pc + 4)) := by
  obtain ⟨⟨-, -, -, -, noStep⟩, -⟩ := id h
  rw [runVector_whole h q body hv hk he hsh hb, ht]
  dsimp only
  rw [complete_eq_after _ _ _ _ (by unfold Hart.ss Hart.prv; rw [hs]; exact noStep)]

end Sys2Proof.Machine
end

section
/-! 64-bit words that the vector unit stores one by one (R81, R101, R111, R115). -/

namespace Sys2Proof.Machine
open Sys2Proof.Cert

/-- t is s but for memory, its tags, the copies of lines and what stores end, what streams have read ahead among it; no codeword or word of it is
in error that was not (R81, R117, R260, R312). -/
structure State.stores (s t : State) : Prop where
  frame : t = { s with
    mem := t.mem, tags := t.tags, lines := t.lines, dir := t.dir, flips := t.flips, under := t.under, hostHeld := t.hostHeld,
    hostOwned := t.hostOwned, fife := t.fife
    me := { s.me with vec := { s.me.vec with pregs := t.me.vec.pregs, streams := t.me.vec.streams } } }
  bound : t.me.vec.streams.map (fun b => b.reg) = s.me.vec.streams.map (fun b => b.reg)
  clean : ∀ g, flipsAt s.flips g = [] → flipsAt t.flips g = []
  tags : ∀ w, tagAt s.tags w ≠ 3 → tagAt t.tags w ≠ 3

theorem State.stores.refl (s : State) : s.stores s := ⟨rfl, rfl, fun _ h => h, fun _ h => h⟩

theorem State.stores.trans {s t u : State} (h : s.stores t) (h' : t.stores u) : s.stores u := by
  refine ⟨?_, h'.bound.trans h.bound, fun g hg => h'.clean g (h.clean g hg), fun w hw => h'.tags w (h.tags w hw)⟩
  have h2 := h'.frame
  rw [h.frame] at h2
  exact h2

theorem State.copied.stores {s t : State} (h : s.copied t) : s.stores t := by
  have frame := h.frame
  unfold State.copiesFrame at frame
  refine ⟨?_, ?_, h.clean, fun w hw => ?_⟩ <;> rw [frame]
  exact hw

theorem State.frees.stores {s t : State} (h : s.frees t) : s.stores t := by
  obtain ⟨_, _, rfl, -⟩ := h
  exact ⟨rfl, rfl, fun _ h => h, fun _ h => h⟩

theorem State.put_stores (p : Phys) (n v : Nat) (s : State) : s.stores (s.put p n v 0) :=
  ⟨rfl, rfl, (State.put_storing p n v s).clean, (State.put_storing p n v s).tags⟩

theorem State.keepAhead_stores (ok : Host.Cell → Bool) (s : State) : s.stores (s.keepAhead ok) := by
  unfold State.keepAhead
  split
  · exact ⟨rfl, List.map_map .., fun _ h => h, fun _ h => h⟩
  · exact .refl s

theorem State.dropLoads_frees (dead : LoadRecord → Bool) (s : State) : s.frees (s.dropLoads dead) := by
  unfold State.dropLoads
  split
  · exact State.dropEntries_frees _ s
  · exact .refl s

/-- What a store ends leaves memory (R117, R260). -/
theorem State.noteStoreAt_stores (va : X) (pa n : Nat) (s : State) :
    s.stores (s.noteStoreAt va pa n) ∧ (s.noteStoreAt va pa n).mem = s.mem ∧ (s.noteStoreAt va pa n).tags = s.tags := by
  have dropped := (State.dropLoads_frees (fun l => l.overlaps va n) s).trans (State.dropLoads_frees (fun l => l.meets pa n) _)
  obtain ⟨mem, tags, -⟩ := dropped.memory
  unfold State.noteStoreAt State.noteStore
  refine ⟨dropped.stores.trans (State.keepAhead_stores _ _), ?_, ?_⟩ <;> unfold State.keepAhead <;> split
  exacts [mem, mem, tags, tags]

theorem State.stores.servesAs {s t : State} (h : s.stores t) : s.servesAs t := by
  have clean := h.clean
  have tags := h.tags
  have frame := h.frame
  obtain ⟨flips, hf⟩ : ∃ f, f = t.flips := ⟨_, rfl⟩
  obtain ⟨words, hw⟩ : ∃ f, f = t.tags := ⟨_, rfl⟩
  rw [← hf] at clean
  rw [← hw] at tags
  refine ⟨?_, ?_, ?_, ?_, ?_, ?_, ?_, ?_, ?_, ?_, ?_, ?_, ?_, ?_, hf ▸ clean, hw ▸ tags⟩ <;> rw [frame]
  · exact fun _ => rfl
  · exact fun h => h

theorem State.stores.interruptAhead {s t : State} (h : s.stores t) : t.interruptAhead = s.interruptAhead := by rw [h.frame]; rfl

/-- t is what stores in s of the words g that p names leave (R101, R111). -/
structure State.wordsStored (s t : State) (p : Nat → Prop) (ps : Nat → Phys) (g : Nat → Nat) : Prop where
  stores : s.stores t
  bits : s.bitsStored t 64 p (fun n => (ps n).pa) (fun _ => 0) g

section
variable {s u : State} {p : Nat → Prop} {ps : Nat → Phys} {g : Nat → Nat}

theorem State.wordsStored.refl (s : State) : s.wordsStored s (fun _ => False) ps g := ⟨.refl s, .none ..⟩

theorem State.wordsStored.congr {q : Nat → Prop} (h : s.wordsStored u p ps g) (hpq : ∀ n, p n ↔ q n) : s.wordsStored u q ps g :=
  ⟨h.stores, h.bits.congr hpq⟩

/-- A word written at an address that is reached, and what the store ends (R81, R260). -/
theorem State.wordsStored.write (h : s.wordsStored u p ps g) {k : Access} {va : X} {i : Nat} (hr : s.reaches k va (ps i))
    (hd : bitsApart 64 (fun n => p n ∨ n = i) (fun n => (ps n).pa) (fun _ => 0)) (hint : Nat) :
    ∃ t, liftRead (fun t => onOk (fun u => u.touchHome (ps i) 8 true hint u.hartAgent) (t.writeRaw (ps i) va 8 (g i) 0 t.hartAgent)) u =
      (.ok (), t) ∧ s.wordsStored (t.noteStoreAt va (ps i).pa 8) (fun n => p n ∨ n = i) ps g := by
  obtain ⟨-, -, htag, -, hsram, hflips⟩ := h.stores.servesAs.reaches hr
  obtain ⟨w, hw⟩ : ∃ w, w = u.put (ps i) 8 (g i) 0 := ⟨_, rfl⟩
  have put : u.stores w := hw ▸ State.put_stores ..
  obtain ⟨t, ht⟩ : ∃ t, t = w.touchHome (ps i) 8 true hint w.hartAgent := ⟨_, rfl⟩
  have touched : w.copied t := ht ▸ State.touchHome_copied (hw ▸ hsram) (ps i) (hw ▸ hflips) 8 true hint _
  obtain ⟨ended, mem, tags⟩ := State.noteStoreAt_stores va (ps i).pa 8 t
  obtain ⟨mem', tags', -⟩ := touched.memory
  refine ⟨t, liftRead_of_ok ?_, h.stores.trans (put.trans (touched.stores.trans ended)), ?_⟩
  · rw [writeRaw_of_clean hsram htag hflips, ← hw, ht]
    rfl
  · have stored := put_bitsStored_bytes (s := u) (w := 64) rfl (ps i) i (pa := fun n => (ps n).pa) (sh := fun _ => 0) (f := g) rfl rfl
    rw [show u.put (ps i) (64 / 8) (g i) 0 = w from hw.symm] at stored
    refine (h.bits.trans stored ?_).of_eq (mem.trans mem') (tags.trans tags')
    rintro m n hm rfl
    exact hd m n (.inl hm) (.inr rfl)

end
end Sys2Proof.Machine
end

section
/-! Stream bindings (R114, R115). -/

namespace Sys2Proof.Machine
open Sys2Proof.Cert

/-- The address of the word after word j. -/
theorem wordAddr_succ (base : X) (j : Nat) : base + BitVec.ofNat 64 (8 * j) + 8 = base + BitVec.ofNat 64 (8 * (j + 1)) := by
  rw [BitVec.add_assoc, show (8 : X) = BitVec.ofNat 64 8 from rfl, ← BitVec.ofNat_add]
  rfl

/-- Words stored in order, from word j of an area on (R101, R115). -/
theorem storeWords_of_reaches {s u : State} {base : X} {ps : Nat → Phys} {g : Nat → Nat} (hint : Nat) {ws : List X} {j : Nat}
    (hu : s.wordsStored u (· < j) ps g) (hg : ∀ i < ws.length, (ws.getD i 0).toNat = g (j + i))
    (hr : ∀ i < j + ws.length, s.reaches .otherWrite (base + BitVec.ofNat 64 (8 * i)) (ps i))
    (hd : bitsApart 64 (· < j + ws.length) (fun n => (ps n).pa) (fun _ => 0)) :
    ∃ t, storeWords (base + BitVec.ofNat 64 (8 * j)) hint ws u = (.ok (), t) ∧ s.wordsStored t (· < j + ws.length) ps g := by
  induction ws generalizing j u with
  | nil => exact ⟨u, rfl, hu⟩
  | cons w rest ih =>
    have reached := hr j (by simp)
    have value : w.toNat = g j := hg 0 (by simp)
    obtain ⟨t, ht, wrote⟩ := hu.write reached (bitsApart_of_imp hd fun n hn => by simp; omega) hint
    rw [← value] at ht
    have len : j + (w :: rest).length = j + 1 + rest.length := by simp; omega
    rw [len] at hr hd ⊢
    obtain ⟨v, hv, done⟩ := ih (j := j + 1) (wrote.congr fun n => by omega)
      (fun i hi => by simpa [Nat.add_assoc, Nat.add_comm 1] using hg (i + 1) (by simpa using hi)) hr hd
    refine ⟨v, ?_, done⟩
    unfold storeWords
    rw [M.bind_of_ok (access_of_reaches (hu.stores.servesAs.reaches reached) ..), M.bind_of_ok ht, M.bind_modify, wordAddr_succ]
    exact hv

/-- The access of the hart in focus through the translations of a unit, to an address that it reaches. -/
theorem accessBy_of_reachesBy {s : State} {unit : Nat} {k : Access} {va : X} {p : Phys} (h : s.reachesBy unit k va p) (stride : X)
    (remaining : Nat) : accessBy unit k va stride remaining s = (.ok p, s) := by
  unfold accessBy
  rw [M.bind_get, h.1]
  rfl

/-- Words read in order, from word j of an area on (R115, R212). -/
theorem readWordsBy_of_reaches {s u : State} {base : X} {ps : Nat → Phys} (hm : s.memOk) (hu : s.copied u) {n j : Nat}
    (hr : ∀ i < j + n, s.reaches .otherRead (base + BitVec.ofNat 64 (8 * i)) (ps i)) :
    ∃ t, readWordsBy s.me.core (base + BitVec.ofNat 64 (8 * j)) n u =
      (.ok ((List.range' j n).map fun i => BitVec.ofNat 64 (bytesAt s (ps i).pa 8)), t) ∧ s.copied t := by
  induction n generalizing j u with
  | zero => exact ⟨u, rfl, hu⟩
  | succ n ih =>
    have reached := hu.loaded.servesAs.reachesBy (hr j (by omega))
    obtain ⟨-, -, htag, -, hsram, hflips⟩ := id reached
    obtain ⟨mem, -, -⟩ := hu.memory
    have value : leNat (memBytes u.mem (ps j).pa 8) = bytesAt s (ps j).pa 8 := mem ▸ leNat_memBytes hm (ps j).pa 8
    have read := readAt_of_clean hsram htag hflips (base + BitVec.ofNat 64 (8 * j)) 8 0 u.hartAgent
    have touched := State.touch_copied hsram (ps j) hflips 8 false 0 u.me.core u.hartAgent
    obtain ⟨t, ht, copied⟩ := ih (hu.trans touched) (j := j + 1) (fun i hi => hr i (by omega))
    refine ⟨t, ?_, copied⟩
    unfold readWordsBy
    rw [M.bind_of_ok (accessBy_of_reachesBy reached ..), M.bind_of_ok (liftRead_of_ok (f := fun t => t.readAt (ps j) _ 8 0 t.hartAgent) read),
      wordAddr_succ]
    dsimp only
    rw [M.bind_of_ok ht, value]
    rfl

end Sys2Proof.Machine
end

section
/-! vbind and vunbind (R114, R115). -/

namespace Sys2Proof.Machine
open Sys2Proof.Cert

theorem checkBound_nil {s : State} (h : s.vectorOwned) : checkBound [] s = (.ok (), s) := by
  obtain ⟨⟨-, -, -, pv, -⟩, -⟩ := h
  simp [checkBound, M.bind_get, Hart.copyReg, pv]

/-- The binding of v[d] that the words of a record make (Table 5 of 05_vector_memory_instructions). -/
def bindingOf (d : BitVec 5) (ws : List X) : Stream :=
  { reg := d, data := ws.getD 0 0, scale := ws.getD 1 0, count := ws.getD 2 0, bounded := ws.getD 2 0 != 0, ctl := ws.getD 3 0, ahead := [] }

/-- What vbind does once it has been let through: its record is read and checked, and the binding made (R115). -/
def vbindBody (d a : BitVec 5) : M Unit := do
  let t ← get
  let va := t.rX a
  require (va.toNat % 64 == 0) 0x0C0 va
  let ws ← readWords va 8
  require (validStream ws) 0x186 va
  let u ← get
  require ((u.me.vec.stream? d).isSome || decide (u.bindingsUsed < 4)) 0x184 (xOf d.toNat)
  modify fun w => (w.inFlight (.v d) (w.cycle + 30) false).modVec (Vec.bind (bindingOf d ws))

theorem exec_vbind (st : BitVec 3) (d a : BitVec 5) (s : State) :
    exec (.vbind st d a) s = runVector { st := st, rs := [.x a], kf := false, anyEs := true } (vbindBody d a) s := rfl

/-- A record that is reached and valid, with a binding slot free (R114, R115). -/
theorem vbindBody_binds {s u : State} {d a : BitVec 5} {ws : List X} (ha : (s.rX a).toNat % 64 = 0)
    (hr : readWords (s.rX a) 8 s = (.ok ws, u)) (hv : validStream ws = true) (hu : u.bindingsUsed < 4) :
    vbindBody d a s = (.ok (), (u.inFlight (.v d) (u.cycle + 30) false).modVec (Vec.bind (bindingOf d ws))) := by
  unfold vbindBody
  rw [M.bind_get, M.bind_require, if_pos (by simpa using ha), M.bind_of_ok hr, M.bind_require, if_pos hv, M.bind_get, M.bind_require,
    if_pos (by simp [hu])]
  rfl

theorem vbind_binds {s : State} (h : s.vectorOwned) (st : BitVec 3) (d a : BitVec 5) {ps : Nat → Phys} (hm : s.memOk)
    (ha : (s.rX a).toNat % 64 = 0) (hr : ∀ j < 8, s.reaches .otherRead (s.rX a + BitVec.ofNat 64 (8 * j)) (ps j))
    {words : List X} (hw : words = (List.range 8).map fun j => BitVec.ofNat 64 (bytesAt s (ps j).pa 8)) (hv : validStream words = true)
    (hu : s.bindingsUsed < 4) :
    ∃ t, exec (.vbind st d a) s = .next t ∧ t.pc = s.pc + 4 ∧ t.mem = s.mem ∧ t.me.vec.v = s.me.vec.v ∧ t.me.hart.x = s.me.hart.x ∧
      t.me.vec.streams = s.me.vec.streams.filter (fun b => b.reg != d) ++ [bindingOf d words] := by
  obtain ⟨u, read, copied⟩ := readWordsBy_of_reaches (j := 0) (n := 8) (base := s.rX a) hm (.refl s) (fun i hi => hr i (by omega))
  rw [← List.range_eq_range', ← hw, Nat.mul_zero, show s.rX a + BitVec.ofNat 64 0 = s.rX a from BitVec.add_zero _] at read
  have words8 : readWords (s.rX a) 8 s = (.ok words, u) := (M.bind_get ..).trans read
  have frame := copied.frame
  unfold State.copiesFrame at frame
  have used : u.bindingsUsed = s.bindingsUsed := by rw [frame]; rfl
  have run := runVector_completes h { st := st, rs := [.x a], kf := false, anyEs := true } (vbindBody d a) rfl rfl rfl rfl
    (checkBound_nil h) (vbindBody_binds ha words8 hv (used ▸ hu)) (by rw [frame]; rfl)
  refine ⟨_, (exec_vbind ..).trans run, rfl, ?_⟩
  rw [frame]
  exact ⟨rfl, rfl, rfl, rfl⟩

/-- v[d] without its binding, reading as zeros (R115). -/
def State.unbind (d : BitVec 5) (s : State) : State :=
  (s.modVec fun v => { v with streams := v.streams.filter (fun o => o.reg != d), vdirty := v.vdirty ||| xOf (2 ^ 44) }).wVat d 0 30 false

/-- What vunbind does once it has been let through (R115). -/
def vunbindBody (d a : BitVec 5) : M Unit := do
  let t ← get
  match t.me.vec.stream? d with
  | none => pure ()
  | some b =>
    if a ≠ 0 then
      require ((t.rX a).toNat % 64 == 0) 0x0C0 (t.rX a)
      storeWords (t.rX a) 0 b.words
    modify (State.unbind d)

theorem exec_vunbind (st : BitVec 3) (d a : BitVec 5) (s : State) :
    exec (.vunbind st d a) s = runVector { st := st, rs := [.x a], kf := false, anyEs := true } (vunbindBody d a) s := rfl

theorem State.unbind_spec (d : BitVec 5) (s : State) :
    (s.unbind d).me.hart.status = s.me.hart.status ∧ (s.unbind d).mem = s.mem ∧ (s.unbind d).tags = s.tags ∧
      (s.unbind d).me.hart.x = s.me.hart.x ∧ (s.unbind d).me.vec.v = s.me.vec.v.set d.toNat 0 ∧
      (s.unbind d).me.vec.streams = s.me.vec.streams.filter (fun o => o.reg != d) := by
  unfold State.unbind
  generalize hu : State.modVec _ s = u
  obtain ⟨change, v_eq, -⟩ := State.wVat_spec d 0 30 false u
  generalize u.wVat d 0 30 false = t at change v_eq ⊢
  obtain ⟨_, _, _, _, _, _, _, rfl⟩ := change
  rw [v_eq, ← hu]
  exact ⟨rfl, rfl, rfl, rfl, rfl, rfl⟩

/-- The end of the binding of v[d] in s, after what u has stored (R115). -/
theorem State.stores.unbinds {s u : State} (h : s.stores u) (d : BitVec 5) (st : BitVec 3) :
    let t := (u.unbind d).after st 0 (s.pc + 4)
    t.pc = s.pc + 4 ∧ s.keepsV t [d] ∧ t.me.vec.v[d.toNat] = 0 ∧ t.me.hart.x = s.me.hart.x ∧
      t.me.vec.streams.map (fun o => o.reg) = (s.me.vec.streams.map (fun o => o.reg)).filter (fun r => r != d) := by
  obtain ⟨-, -, -, hx, hv, hstreams⟩ := State.unbind_spec d u
  intro t
  have v_eq : t.me.vec.v = s.me.vec.v.set d.toNat 0 := by
    refine hv.trans ?_
    rw [h.frame]
  refine ⟨rfl, fun n hn => ?_, ?_, hx.trans (by rw [h.frame]), ?_⟩
  · rw [v_eq, getElem_set_reg, if_neg (by simpa using hn)]
  · simp [v_eq]
  · rw [show t.me.vec.streams = _ from hstreams, ← h.bound, List.filter_map]
    rfl

end Sys2Proof.Machine

namespace Sys2Proof.Proofs
open Sys2Proof.Machine Sys2Proof.Cert

/-- Settles O49: the words of a record are read and stored one by one, and what stores end leaves the bindings of other registers. -/
theorem streamBindings : Obligations.StreamBindings := by
  intro s st d a ps h va words word
  have status {t : State} (ht : s.stores t) : (t.unbind d).me.hart.status = s.me.hart.status :=
    (State.unbind_spec d t).1.trans (by rw [ht.frame])
  have completes {t : State} (ht : vunbindBody d a s = (.ok (), t)) (hs : t.me.hart.status = s.me.hart.status) :=
    (exec_vunbind st d a s).trans
      (runVector_completes h _ _ rfl rfl rfl rfl (checkBound_nil h) ht hs)
  refine ⟨fun hm ha hr hv hu => vbind_binds h st d a hm ha hr rfl hv hu, fun hb => ?_,
    fun b hb => ⟨fun ha => ?_, fun ha hmis => ?_, fun ha hal hr hd => ?_⟩⟩
  · have body : vunbindBody d a s = (.ok (), s) := by
      unfold vunbindBody
      rw [M.bind_get, hb]
      rfl
    exact ⟨_, completes body rfl, rfl, rfl, rfl, rfl⟩
  · have body : vunbindBody d a s = (.ok (), s.unbind d) := by
      unfold vunbindBody
      rw [M.bind_get, hb]
      dsimp only
      rw [if_neg (not_not.2 ha)]
      rfl
    exact ⟨_, completes body (status (.refl s)), (State.stores.refl s).unbinds d st, (State.unbind_spec d s).2.1⟩
  · have body : vunbindBody d a s = (.error (.trap { code := 0x0C0, tval := s.rX a }), s) := by
      unfold vunbindBody
      rw [M.bind_get, hb]
      dsimp only
      rw [if_pos ha, M.bind_require, if_neg (by simpa using hmis)]
    rw [exec_vunbind, runVector_whole h _ _ rfl rfl rfl rfl (checkBound_nil h), body]
    rfl
  · have value : ∀ i < b.words.length, (b.words.getD i 0).toNat =
        ([b.data, b.scale, if b.bounded then b.count else 0, b.ctl].getD (0 + i) 0).toNat := by
      simp only [Stream.words, List.length_cons, List.length_nil]
      intro i hi
      interval_cases i <;> rfl
    have len : ∀ i, i < 0 + b.words.length ↔ i < 8 := by simp [Stream.words]
    obtain ⟨u, hu, stored⟩ := storeWords_of_reaches (j := 0) (ps := ps)
      (g := fun i => ([b.data, b.scale, if b.bounded then b.count else 0, b.ctl].getD i 0).toNat) 0
      ((State.wordsStored.refl s).congr (by simp)) value (fun i hi => hr i ((len i).1 hi))
      (bitsApart_of_imp hd fun i hi => (len i).1 hi)
    rw [Nat.mul_zero, show s.rX a + BitVec.ofNat 64 0 = s.rX a from BitVec.add_zero _] at hu
    have body : vunbindBody d a s = (.ok (), u.unbind d) := by
      unfold vunbindBody
      rw [M.bind_get, hb]
      dsimp only
      rw [if_pos ha, M.bind_require, if_pos (by simpa using hal), M.bind_of_ok hu]
      rfl
    obtain ⟨-, mem, tags, -⟩ := State.unbind_spec d u
    exact ⟨_, completes body (status stored.stores), stored.stores.unbinds d st, (stored.bits.congr len).of_eq mem tags⟩

end Sys2Proof.Proofs
end

section
/-! vsm and vsmn: whole registers stored word by word (R111 to R113). -/

namespace Sys2Proof.Machine
open Sys2Proof.Cert

section
variable {s u : State} {p : Nat → Prop} {ps : Nat → Phys} {g : Nat → Nat}

/-- A word that a transfer stores at an address that is reached (R111). -/
theorem State.wordsStored.transferStore (h : s.wordsStored u p ps g) {va : X} {i : Nat} (hr : s.reaches .vstore va (ps i))
    (hd : bitsApart 64 (fun n => p n ∨ n = i) (fun n => (ps n).pa) (fun _ => 0)) (left hint : Nat) :
    ∃ t, Machine.transferStore va (g i) left hint u = (.ok (), t) ∧ s.wordsStored t (fun n => p n ∨ n = i) ps g := by
  obtain ⟨t, ht, wrote⟩ := h.write hr hd hint
  refine ⟨_, ?_, wrote⟩
  unfold Machine.transferStore
  rw [M.bind_of_ok (access_of_reaches (h.stores.servesAs.reaches hr) ..), M.bind_of_ok ht]
  rfl

/-- Words stored in order, all of them at addresses that are reached (R111). -/
theorem storeAll_of_reaches (hc : s.interruptAhead = none) {base : X} (hint : Nat) {value : Nat → M Nat} {els : List Nat}
    (hv : ∀ u, s.stores u → ∀ e ∈ els, value e u = (.ok (g e), u)) (hu : s.wordsStored u p ps g)
    (hr : ∀ e ∈ els, s.reaches .vstore (base + xOf (8 * e)) (ps e))
    (hd : bitsApart 64 (fun n => p n ∨ n ∈ els) (fun n => (ps n).pa) (fun _ => 0)) :
    ∃ t, storeAll base hint value els u = (.ok none, t) ∧ s.wordsStored t (fun n => p n ∨ n ∈ els) ps g := by
  induction els generalizing p u with
  | nil => exact ⟨u, rfl, hu.congr fun n => by simp⟩
  | cons e rest ih =>
    obtain ⟨t, ht, wrote⟩ := hu.transferStore (hr e (by simp)) (bitsApart_of_imp hd fun n hn => hn.imp_right (by simp +contextual))
      (rest.length + 1) hint
    have split : ∀ n, (p n ∨ n = e) ∨ n ∈ rest ↔ p n ∨ n ∈ e :: rest := fun n => by rw [List.mem_cons, or_assoc]
    have one : (do trapPoint e; let v ← value e; Machine.transferStore (base + xOf (8 * e)) v (rest.length + 1) hint : M Unit) u =
        (.ok (), t) := by
      rw [M.bind_of_ok (trapPoint_of_calm (hu.stores.interruptAhead.trans hc) e), M.bind_of_ok (hv u hu.stores e (by simp))]
      exact ht
    obtain ⟨v, hv, stored⟩ := ih (fun w hw i hi => hv w hw i (by simp [hi])) wrote (fun i hi => hr i (by simp [hi]))
      (bitsApart_of_imp hd fun n => (split n).1)
    refine ⟨v, ?_, stored.congr split⟩
    unfold storeAll
    rw [M.bind_of_ok ((M.run_observe ..).trans (by rw [one]))]
    exact hv

/-- A word of a register that no stream is bound to, whatever has been stored (R111). -/
theorem imageWord_of_stores (h : s.vectorReady) (hu : s.stores u) (n : BitVec 5) (w : Nat) :
    imageWord n w u = (.ok (getElem s.me.vec.grant 64 s.me.vec.v[n.toNat] w), u) := by
  obtain ⟨-, streams⟩ := id h
  have bound : (u.me.vec.stream? n).isSome = false := by
    have none_ : u.me.vec.streams = [] := List.map_eq_nil_iff.mp (hu.bound.trans (by rw [streams]; rfl))
    simp [Vec.stream?, none_]
  have same : u.rV n = s.me.vec.v[n.toNat] := by
    rw [← rV_of_overrides h.runs.overrides n, hu.frame]
    rfl
  have grant : u.me.vec.grant = s.me.vec.grant := by
    rw [hu.frame]
    rfl
  unfold imageWord
  rw [M.bind_get, bound, same, grant]
  rfl

end

/-- The completion of a transfer that has stored its words (R111). -/
theorem State.stores.completes {s t : State} (h : s.stores t) (st : BitVec 3) :
    s.storeFrame (t.after st 0 (s.pc + 4)) st ∧ (t.after st 0 (s.pc + 4)).me.hart.x = s.me.hart.x ∧
      (t.after st 0 (s.pc + 4)).me.hart.xtag = s.me.hart.xtag := by
  have frame := h.frame
  unfold State.storeFrame State.after
  rw [frame, Nat.max_zero]
  exact ⟨rfl, rfl, rfl⟩

/-- What the statements on stores say of an instruction that stores words in order (R111, R113). -/
theorem storesElems_of_storeAll {s : State} (h : s.vectorReady) {i : Instr} {q : VReq} {body : M Unit} (hi : exec i s = runVector q body s)
    (hv : q.vs = []) (hk : q.kf = false) (he : q.anyEs = true) (hsh : q.shape = true) (hq : q.writes = []) {base : X} {hint : Nat}
    {value : Nat → M Nat} {els : List Nat} {p : Nat → Prop} {g : Nat → Nat}
    (hb : body s = (storeAll base hint value els >>= stopAtWord) s) (hg : ∀ u, s.stores u → ∀ e ∈ els, value e u = (.ok (g e), u))
    (hp : ∀ e, e ∈ els ↔ p e) :
    storesElems s i q.st 64 p .vstore (fun e => base + BitVec.ofNat 64 (8 * e)) (fun _ => 0) g fun _ => True := by
  intro ps hr hd _
  obtain ⟨-, -, -, calm⟩ := h.plain
  have mem : ∀ n, False ∨ n ∈ els ↔ p n := fun n => by rw [false_or, hp]
  obtain ⟨t, ht, wrote⟩ := storeAll_of_reaches calm hint hg (.refl s) (fun e he => hr e ((hp e).1 he)) (bitsApart_of_imp hd fun n => (mem n).1)
  have done : body s = (.ok (), t) := by
    rw [hb, M.bind_of_ok ht]
    rfl
  have run := runVector_completes h.1 q body hv hk he hsh (hq ▸ checkBound_nil h.1) done (by rw [wrote.stores.frame])
  obtain ⟨frame, hx, hxtag⟩ := wrote.stores.completes q.st
  exact ⟨_, hi.trans run, frame, hx, hxtag, (wrote.bits.congr mem).of_eq rfl rfl⟩

theorem mem_wordsFrom {es e : Nat} {l : List Nat} : e ∈ wordsFrom es l ↔ es ≤ e ∧ e ∈ l := by
  simp [wordsFrom, and_comm]

theorem mem_areaWords {d c e : Nat} : e ∈ areaWords d c ↔ e < 33 ∨ 48 ≤ e ∧ e < 48 + d * c := by
  unfold areaWords
  simp only [List.mem_append, List.mem_range, List.mem_map]
  refine or_congr_right ⟨fun ⟨w, hw, he⟩ => by omega, fun ⟨h1, h2⟩ => ⟨e - 48, by omega, by omega⟩⟩

theorem toList_getD_reg (v : Vector Img 32) (n : BitVec 5) : v.toList.getD n.toNat 0 = v[n.toNat] := by
  rw [List.getD_eq_getElem _ _ (by simpa using n.isLt), Vector.getElem_toList]

/-- vsm (R111). -/
theorem vsm_stores {s : State} (h : s.vectorReady) (st : BitVec 3) (d a n : BitVec 5) (hint : BitVec 2) (ha : (s.rX a).toNat % 8 = 0) :
    let per := 16 * s.me.vec.grant
    storesElems s (.vsm st d a n hint) st 64 (fun e => s.es ≤ e ∧ e < (n.toNat + 1) * per) .vstore
      (fun e => s.rX a + BitVec.ofNat 64 (8 * e)) (fun _ => 0)
      (fun e => getElem s.me.vec.grant 64 (s.me.vec.v.toList.getD (d + BitVec.ofNat 5 (e / per)).toNat 0) (e % per)) fun _ => True := by
  intro per
  refine storesElems_of_storeAll h (q := { st := st, rs := .x a :: (regsFrom d n).map .v, kf := false, anyEs := true, noPred := true })
    rfl rfl rfl rfl rfl rfl (hint := hint.toNat)
    (value := fun e => imageWord (d + BitVec.ofNat 5 (e / per)) (e % per)) (els := wordsFrom s.es (List.range ((n.toNat + 1) * per)))
    ?_ (fun u hu e _ => ?_) fun e => ?_
  · rw [M.bind_get, M.bind_require, if_pos (by simpa using ha)]
  · rw [imageWord_of_stores h hu, toList_getD_reg]
  · rw [mem_wordsFrom, List.mem_range]

/-- Word e of a named save area, as vsmn stores it (R112, R113). -/
def areaValue (v : Vec) (sel : List (BitVec 5)) (e : Nat) : M Nat :=
  if e = 0 then pure (v.grant * 256 + (v.contents sel).length)
  else if e < 33 then pure (v.mapEntry sel (e - 1)).toNat
  else match sel.find? (fun r => v.phys[r.toNat] == (v.contents sel).getD ((e - 48) / (16 * v.grant)) 0) with
    | some r => imageWord r ((e - 48) % (16 * v.grant))
    | none => pure 0

/-- Word e of a named save area where no selected register is bound to a stream. -/
def areaWord (v : Vec) (sel : List (BitVec 5)) (e : Nat) : Nat :=
  if e = 0 then v.grant * 256 + (v.contents sel).length
  else if e < 33 then (v.mapEntry sel (e - 1)).toNat
  else ((sel.find? fun r => v.phys[r.toNat] == (v.contents sel).getD ((e - 48) / (16 * v.grant)) 0).map
    fun r => getElem v.grant 64 v.v[r.toNat] ((e - 48) % (16 * v.grant))).getD 0

theorem areaValue_of_stores {s u : State} (h : s.vectorReady) (hu : s.stores u) (sel : List (BitVec 5)) (e : Nat) :
    areaValue s.me.vec sel e u = (.ok (areaWord s.me.vec sel e), u) := by
  unfold areaValue areaWord
  split
  · rfl
  split
  · rfl
  have content : ∀ (o : Option (BitVec 5)) (w : Nat), (match o with | some r => imageWord r w | none => pure 0 : M Nat) u =
      (.ok ((o.map fun r => getElem s.me.vec.grant 64 s.me.vec.v[r.toNat] w).getD 0), u) := by
    rintro (_ | r) w
    · rfl
    · exact imageWord_of_stores h hu r w
  exact content ..

/-- vsmn (R112, R113). -/
theorem vsmn_stores {s : State} (h : s.vectorReady) (st : BitVec 3) (a b : BitVec 5) (hint : BitVec 2) (ha : (s.rX a).toNat % 128 = 0) :
    let per := 16 * s.me.vec.grant
    let sel := selected (s.rX b)
    let held := s.me.vec.contents sel
    storesElems s (.vsmn st a b hint) st 64 (fun e => s.es ≤ e ∧ (e < 33 ∨ (48 ≤ e ∧ e < 48 + held.length * per))) .vstore
      (fun e => s.rX a + BitVec.ofNat 64 (8 * e)) (fun _ => 0) (areaWord s.me.vec sel) fun _ => True := by
  intro per sel held
  refine storesElems_of_storeAll h
    (q := { st := st, rs := [.x a, .x b] ++ sel.map .v, kf := false, anyEs := true, noPred := true })
    rfl rfl rfl rfl rfl rfl (hint := hint.toNat) (value := areaValue s.me.vec sel) (els := wordsFrom s.es (areaWords held.length per))
    ?_ (fun u hu e _ => areaValue_of_stores h hu sel e) fun e => ?_
  · rw [M.bind_get, M.bind_require, if_pos (by simpa using ha)]
    rfl
  · rw [mem_wordsFrom, mem_areaWords]

end Sys2Proof.Machine
end

section
/-! vlm and vlmn: whole registers loaded word by word (R111 to R113, R289). -/

namespace Sys2Proof.Machine
open Sys2Proof.Cert

/-! ### Words that are loaded -/

theorem bytesAt_of_mem {s t : State} (h : t.mem = s.mem) (pa n : Nat) : bytesAt t pa n = bytesAt s pa n := by
  unfold bytesAt
  rw [h]

theorem State.memOk.of_mem {s t : State} (hm : s.memOk) (h : t.mem = s.mem) : t.memOk := by
  unfold State.memOk at *
  rwa [h]

theorem readVec_of_reaches {s : State} {k : Access} {va : X} {p : Phys} (h : s.reaches k va p) (hm : s.memOk) (n hint : Nat) :
    readVec p va n hint s = (.ok (bytesAt s p.pa n), s.touchHome p n false hint s.hartAgent) := by
  obtain ⟨-, -, htag, -, hsram, hflips⟩ := id h
  have raw := readRaw_of_clean hsram htag hflips va n s.hartAgent
  rw [leNat_memBytes hm] at raw
  have touched : onOk (fun u => u.touchHome p n false hint u.hartAgent) (s.readRaw p va n s.hartAgent) =
      (.ok (bytesAt s p.pa n, if p.managed then tagAt s.tags (p.pa / 8) else 0), s.touchHome p n false hint s.hartAgent) := by
    rw [raw]
    rfl
  exact M.bind_of_ok (liftRead_of_ok
    (f := fun t => onOk (fun u => u.touchHome p n false hint u.hartAgent) (t.readRaw p va n t.hartAgent)) touched)

/-- A word that a transfer loads from an address that is reached (R111). -/
theorem transferLoad_of_reaches {s : State} {va : X} {p : Phys} (h : s.reaches .vload va p) (hm : s.memOk) (left hint : Nat) :
    ∃ t, transferLoad va left hint s = (.ok (bytesAt s p.pa 8, p), t) ∧ s.loaded t := by
  obtain ⟨-, -, -, -, hsram, hflips⟩ := id h
  refine ⟨_, ?_, (State.touchHome_copied hsram p hflips 8 false hint s.hartAgent).loaded⟩
  unfold transferLoad
  rw [M.bind_of_ok (access_of_reaches h ..), M.bind_of_ok (readVec_of_reaches h hm ..)]
  rfl

/-- The words of an area with their numbers and addresses, as a transfer loads them from s. -/
abbrev State.wordsAt (s : State) (ps : Nat → Phys) (els : List Nat) : List (Nat × Nat × Phys) :=
  els.map fun e => (e, bytesAt s (ps e).pa 8, ps e)

/-- Words loaded in order, all of them from addresses that are reached (R111). -/
theorem loadWords_of_reaches {s : State} {base : X} {ps : Nat → Phys} (hint more : Nat) {els : List Nat} (hc : s.interruptAhead = none)
    (hm : s.memOk) (hr : ∀ e ∈ els, s.reaches .vload (base + xOf (8 * e)) (ps e)) :
    ∃ t, loadWords base hint more els s = (.ok (s.wordsAt ps els, none), t) ∧ s.loaded t := by
  induction els generalizing s with
  | nil => exact ⟨s, rfl, .refl s⟩
  | cons e rest ih =>
    obtain ⟨t, ht, loaded⟩ := transferLoad_of_reaches (hr e (by simp)) hm (rest.length + 1 + more) hint
    obtain ⟨u, hu, after⟩ := ih (loaded.interruptAhead.trans hc) (hm.of_mem loaded.mem)
      fun i hi => loaded.servesAs.reaches (hr i (by simp [hi]))
    simp only [State.wordsAt, bytesAt_of_mem loaded.mem] at hu
    have one : (do trapPoint e; transferLoad (base + xOf (8 * e)) (rest.length + 1 + more) hint : M (Nat × Phys)) s =
        (.ok (bytesAt s (ps e).pa 8, ps e), t) := (M.bind_of_ok (trapPoint_of_calm hc e)).trans ht
    refine ⟨u, ?_, loaded.trans after⟩
    unfold loadWords
    rw [M.bind_of_ok ((M.run_observe ..).trans (by rw [one]))]
    dsimp only
    rw [M.bind_of_ok hu]
    rfl

/-- The completion of a transfer that has loaded its words (R111). -/
theorem State.loadChange.whole {s t : State} (h : s.loadChange t) (st : BitVec 3) : s.loadFrame (t.after st 0 (s.pc + 4)) st := by
  obtain ⟨_, _, _, _, _, _, _, _, _, _, _, _, _, _, rfl⟩ := h
  unfold State.loadFrame State.after
  rw [Nat.max_zero]

theorem leNat_lt (l : List Byte) : leNat l < 256 ^ l.length := by
  induction l with
  | nil => simp [leNat]
  | cons b rest ih =>
    have := b.isLt
    simp only [leNat, List.length_cons, Nat.pow_succ]
    omega

theorem bytesAt_word_lt (s : State) (pa : Nat) : bytesAt s pa 8 < 2 ^ 64 := by
  have := leNat_lt ((List.range 8).map fun j => memRead s.mem (pa + j))
  simpa [bytesAt] using this

/-! ### vlm (R111) -/

/-- The words of register j of a transfer, by their places in it. -/
def transferPart (g j : Nat) (l : List (Nat × Nat × Phys)) : List (Nat × Nat) :=
  (l.filter fun e => e.1 / (16 * g) == j).map fun e => (e.1 % (16 * g), e.2.1)

/-- The words of a register of a transfer after values have been written to some of them (R111). -/
theorem getElem_transferPart {g : Nat} (hg : g ≤ 16) (f : Nat → Nat) (ps : Nat → Phys) (els : List Nat) (img : Img) (j : Nat) {i : Nat}
    (hi : i < 16 * g) :
    getElem g 64 (setElems g 64 (transferPart g j (els.map fun n => (n, f n, ps n))) img) i =
      if j * (16 * g) + i ∈ els then f (j * (16 * g) + i) % 2 ^ 64 else getElem g 64 img i := by
  obtain ⟨e, he⟩ : ∃ e, e = 16 * g := ⟨_, rfl⟩
  have size : g * 1024 / 64 = e := by omega
  have back : ∀ n, n / e = j → j * e + n % e = n := fun n hn => by rw [← hn, Nat.mul_comm]; exact Nat.div_add_mod n e
  have part : transferPart g j (els.map fun n => (n, f n, ps n)) =
      ((els.filter fun n => n / e == j).map (· % e)).map fun k => (k, f (j * e + k)) := by
    unfold transferPart
    rw [List.filter_map, List.map_map, List.map_map, ← he]
    refine List.map_congr_left fun n hn => ?_
    have hn : n / e = j := by simpa using (List.mem_filter.mp hn).2
    simp only [Function.comp_apply, back n hn]
  have mem : i ∈ (els.filter fun n => n / e == j).map (· % e) ↔ j * e + i ∈ els := by
    simp only [List.mem_map, List.mem_filter, beq_iff_eq]
    refine ⟨fun ⟨n, ⟨hn, hd⟩, hm⟩ => ?_, fun h => ⟨j * e + i, ⟨h, ?_⟩, ?_⟩⟩
    · rwa [← hm, back n hd]
    · rw [Nat.add_comm, Nat.add_mul_div_right _ _ (by omega), Nat.div_eq_of_lt (by omega), Nat.zero_add]
    · rw [Nat.add_comm, Nat.add_mul_mod_self_right, Nat.mod_eq_of_lt (by omega)]
  have bound : ∀ k ∈ (els.filter fun n => n / e == j).map (· % e), k < g * 1024 / 64 := fun k hk => by
    obtain ⟨n, -, rfl⟩ := List.mem_map.mp hk
    rw [size]
    exact Nat.mod_lt _ (by omega)
  rw [← he, part, getElem_setElems hg (by simp [ElemWidth]) _ _ bound _ (by omega)]
  simp only [mem]

/-- The words of one register of a transfer put into it (R111). -/
def transferStep (g : Nat) (d : BitVec 5) (lat : Nat) (l : List (Nat × Nat × Phys)) (t : State) (r : BitVec 5) : State :=
  if transferPart g (r - d).toNat l = [] then t
  else t.wVat r (setElems g 64 (transferPart g (r - d).toNat l) t.me.vec.v[r.toNat]) lat false

theorem putTransfer_eq (d : BitVec 5) (lat : Nat) (l : List (Nat × Nat × Phys)) (regs : List (BitVec 5)) (s : State) :
    putTransfer d lat l regs s = regs.foldl (transferStep s.me.vec.grant d lat l) s := rfl

theorem transferStep_spec (g : Nat) (d : BitVec 5) (lat : Nat) (l : List (Nat × Nat × Phys)) (t : State) (r : BitVec 5) :
    t.vecChange (transferStep g d lat l t r) ∧ (transferStep g d lat l t r).me.vec.v =
      t.me.vec.v.set r.toNat (setElems g 64 (transferPart g (r - d).toNat l) t.me.vec.v[r.toNat]) := by
  unfold transferStep
  split
  case isTrue none_ =>
    rw [none_]
    exact ⟨.refl t, (Vector.set_getElem_self ..).symm⟩
  case isFalse =>
    have wrote := State.wVat_spec r (setElems g 64 (transferPart g (r - d).toNat l) t.me.vec.v[r.toNat]) lat false t
    exact ⟨wrote.change, wrote.v_eq⟩

/-- The words of a transfer put into registers that follow each other (R111). -/
theorem putTransfer_spec (d : BitVec 5) (lat : Nat) (l : List (Nat × Nat × Phys)) {m : Nat} (hm : m ≤ 32) (s : State) :
    let t := putTransfer d lat l ((List.range m).map fun r => d + BitVec.ofNat 5 r) s
    s.vecChange t ∧ ∀ n : BitVec 5, t.me.vec.v[n.toNat] =
      if (n - d).toNat < m then setElems s.me.vec.grant 64 (transferPart s.me.vec.grant (n - d).toNat l) s.me.vec.v[n.toNat]
      else s.me.vec.v[n.toNat] := by
  induction m with
  | zero => exact ⟨.refl s, fun n => rfl⟩
  | succ m ih =>
    obtain ⟨change, regs⟩ := ih (by omega)
    rw [putTransfer_eq] at change regs
    rw [putTransfer_eq, List.range_succ, List.map_append, List.foldl_append]
    generalize ((List.range m).map fun r => d + BitVec.ofNat 5 r).foldl (transferStep s.me.vec.grant d lat l) s = t at change regs ⊢
    obtain ⟨wrote, v_eq⟩ := transferStep_spec s.me.vec.grant d lat l t (d + BitVec.ofNat 5 m)
    refine ⟨change.trans wrote, fun n => ?_⟩
    rw [List.map_singleton, List.foldl_cons, List.foldl_nil, v_eq, getElem_set_reg]
    by_cases hn : n = d + BitVec.ofNat 5 m
    · have place : (n - d).toNat = m := by bv_omega
      rw [if_pos hn, ← hn, regs n, if_neg (by omega), if_pos (by omega)]
    · have place : (n - d).toNat ≠ m := by bv_omega
      rw [if_neg hn, regs n]
      by_cases hlt : (n - d).toNat < m
      · rw [if_pos hlt, if_pos (by omega)]
      · rw [if_neg hlt, if_neg (by omega)]

theorem putTransfer_regsFrom (d n : BitVec 5) (lat : Nat) (l : List (Nat × Nat × Phys)) (s : State) :
    let t := putTransfer d lat l (regsFrom d n) s
    s.vecChange t ∧ ∀ r : BitVec 5, t.me.vec.v[r.toNat] =
      if (r - d).toNat < n.toNat + 1 then setElems s.me.vec.grant 64 (transferPart s.me.vec.grant (r - d).toNat l) s.me.vec.v[r.toNat]
      else s.me.vec.v[r.toNat] := putTransfer_spec d lat l (by omega) s

theorem mem_regsFrom {d n r : BitVec 5} : r ∈ regsFrom d n ↔ (r - d).toNat < n.toNat + 1 := by
  unfold regsFrom
  rw [List.mem_map]
  refine ⟨fun ⟨j, hj, hr⟩ => ?_, fun h => ⟨(r - d).toNat, List.mem_range.mpr h, by bv_omega⟩⟩
  have := List.mem_range.mp hj
  have : (r - d).toNat ≤ j := by bv_omega
  omega

/-- What vlm does once it has been let through (R111). -/
def vlmBody (d a n : BitVec 5) (h : BitVec 2) : M Unit := do
  let t ← get
  require ((t.rX a).toNat % 8 == 0) 0x0C0 (t.rX a)
  let total := (n.toNat + 1) * 16 * t.me.vec.grant
  let (l, r) ← loadWords (t.rX a) h.toNat 0 (wordsFrom t.es (List.range total))
  modify (putTransfer d (t.vloadLatency (40 + 4 * (n.toNat + 1)) 0 (l.map (fun e => e.2.2))) l (regsFrom d n))
  stopAtWord r

theorem exec_vlm (st : BitVec 3) (d a n : BitVec 5) (h : BitVec 2) (s : State) :
    exec (.vlm st d a n h) s =
      runVector { st := st, rs := [.x a], writes := regsFrom d n, kf := false, anyEs := true, noPred := true } (vlmBody d a n h) s := rfl

theorem vlmBody_of_reaches {s : State} {d a n : BitVec 5} {hint : BitVec 2} {ps : Nat → Phys} {els : List Nat} (hc : s.interruptAhead = none)
    (hm : s.memOk) (ha : (s.rX a).toNat % 8 = 0) (he : els = wordsFrom s.es (List.range ((n.toNat + 1) * (16 * s.me.vec.grant))))
    (hr : ∀ e ∈ els, s.reaches .vload (s.rX a + xOf (8 * e)) (ps e)) :
    ∃ u lat, s.loaded u ∧
      vlmBody d a n hint s = (.ok (), putTransfer d lat (s.wordsAt ps els) (regsFrom d n) u) := by
  obtain ⟨u, hu, loaded⟩ := loadWords_of_reaches hint.toNat 0 hc hm hr
  refine ⟨u, s.vloadLatency (40 + 4 * (n.toNat + 1)) 0 ((s.wordsAt ps els).map fun e => e.2.2), loaded, ?_⟩
  unfold vlmBody
  rw [M.bind_get, M.bind_require, if_pos (by simpa using ha)]
  dsimp only
  rw [Nat.mul_assoc, ← he, M.bind_of_ok hu, M.bind_modify]
  rfl

/-- Word e of register j of an area of n + 1 registers lies in it. -/
theorem word_within {j n e per : Nat} (hj : j ≤ n) (he : e < per) : j * per + e < (n + 1) * per :=
  calc j * per + e < (j + 1) * per := by rw [Nat.succ_mul]; omega
    _ ≤ (n + 1) * per := Nat.mul_le_mul_right _ (by omega)

/-- vlm (R111). -/
theorem vlm_loads {s : State} (h : s.vectorReady) (st : BitVec 3) (d a n : BitVec 5) (hint : BitVec 2) (ha : (s.rX a).toNat % 8 = 0)
    {ps : Nat → Phys} (hm : s.memOk)
    (hr : ∀ e, s.es ≤ e ∧ e < (n.toNat + 1) * (16 * s.me.vec.grant) → s.reaches .vload (s.rX a + BitVec.ofNat 64 (8 * e)) (ps e)) :
    ∃ t, exec (.vlm st d a n hint) s = .next t ∧ s.keepsV t (regsFrom d n) ∧ s.loadFrame t st ∧
      ∀ j ≤ n.toNat, ∀ e < 16 * s.me.vec.grant,
        getElem s.me.vec.grant 64 (t.me.vec.v.toList.getD (d + BitVec.ofNat 5 j).toNat 0) e =
          if s.es ≤ j * (16 * s.me.vec.grant) + e then bytesAt s (ps (j * (16 * s.me.vec.grant) + e)).pa 8
          else getElem s.me.vec.grant 64 (s.me.vec.v.toList.getD (d + BitVec.ofNat 5 j).toNat 0) e := by
  obtain ⟨-, -, -, calm⟩ := h.plain
  obtain ⟨els, hels⟩ : ∃ els, els = wordsFrom s.es (List.range ((n.toNat + 1) * (16 * s.me.vec.grant))) := ⟨_, rfl⟩
  have mem : ∀ e, e ∈ els ↔ s.es ≤ e ∧ e < (n.toNat + 1) * (16 * s.me.vec.grant) := fun e => by
    rw [hels, mem_wordsFrom, List.mem_range]
  obtain ⟨u, lat, loaded, body⟩ := vlmBody_of_reaches (d := d) (hint := hint) calm hm ha hels fun e he => hr e ((mem e).1 he)
  obtain ⟨change, value⟩ := putTransfer_regsFrom d n lat (s.wordsAt ps els) u
  generalize putTransfer d lat _ _ u = t at body change value
  rw [loaded.me] at value
  have whole : s.loadChange t := loaded.loadChange.trans change.loadChange
  have run := runVector_completes h.1 { st := st, rs := [.x a], writes := regsFrom d n, kf := false, anyEs := true, noPred := true } _
    rfl rfl rfl rfl (checkBound_of_streams h.2 _) body whole.kept.1
  refine ⟨_, (exec_vlm ..).trans run, fun r hr => ?_, whole.whole st, fun j hj e he => ?_⟩
  · exact (value r).trans (if_neg fun hlt => hr (mem_regsFrom.mpr hlt))
  · have place : (d + BitVec.ofNat 5 j - d).toNat = j := by bv_omega
    have here := value (d + BitVec.ofNat 5 j)
    rw [place, if_pos (Nat.lt_succ_of_le hj)] at here
    rw [toList_getD_reg, toList_getD_reg]
    refine (congrArg (getElem s.me.vec.grant 64 · e) here).trans ?_
    rw [getElem_transferPart h.runs.grant_le _ _ _ _ _ he, Nat.mod_eq_of_lt (bytesAt_word_lt ..)]
    simp only [mem, word_within hj he, and_true]

end Sys2Proof.Machine
end

section
/-! vlmn: the contents of a named save area, each loaded once and mapped to the registers that name it (R112, R113, R289). -/

namespace Sys2Proof.Machine
open Sys2Proof.Cert

/-- t is s but for what loads and writes of v registers change; no codeword of it is in error that was not. -/
structure State.transferred (s t : State) : Prop where
  change : s.loadChange t
  clean : ∀ g, flipsAt s.flips g = [] → flipsAt t.flips g = []

theorem State.transferred.trans {s t u : State} (h : s.transferred t) (h' : t.transferred u) : s.transferred u :=
  ⟨h.change.trans h'.change, fun g hg => h'.clean g (h.clean g hg)⟩

theorem State.loaded.transferred {s t : State} (h : s.loaded t) : s.transferred t := ⟨h.loadChange, h.clean⟩

theorem State.vecChange.transferred {s t : State} (h : s.vecChange t) : s.transferred t := by
  refine ⟨h.loadChange, fun g hg => ?_⟩
  obtain ⟨_, _, _, _, _, _, _, rfl⟩ := h
  exact hg

theorem State.transferred.servesAs {s t : State} (h : s.transferred t) : s.servesAs t := by
  obtain ⟨change, clean⟩ := h
  obtain ⟨_, _, _, _, _, _, _, _, _, _, _, _, _, _, rfl⟩ := change
  exact ⟨rfl, rfl, rfl, rfl, rfl, rfl, rfl, rfl, rfl, rfl, rfl, rfl, fun _ => rfl, fun h => h, clean, fun _ h => h⟩

theorem State.loadChange.interruptAhead {s t : State} (h : s.loadChange t) : t.interruptAhead = s.interruptAhead := by
  obtain ⟨_, _, _, _, _, _, _, _, _, _, _, _, _, _, rfl⟩ := h
  rfl

theorem State.loadChange.grant {s t : State} (h : s.loadChange t) : t.me.vec.grant = s.me.vec.grant := by
  obtain ⟨_, _, _, _, _, _, _, _, _, _, _, _, _, _, rfl⟩ := h
  rfl

/-- v[d] mapped onto a physical register with its contents (R252). -/
theorem State.mapV_writes (d : BitVec 5) (id : Nat) (img : Img) (s : State) :
    s.vecChange (s.mapV d id img) ∧ (s.mapV d id img).me.vec.v = s.me.vec.v.set d.toNat img := by
  have freed := State.freeRegs_frees (s.modVec fun v =>
    { v with v := v.v.set d.toNat img, phys := v.phys.set d.toNat id, vdirty := v.vdirty ||| xOf (2 ^ d.toNat) })
  refine ⟨State.vecChange.trans ⟨_, _, _, _, _, _, _, rfl⟩ freed.vecChange, ?_⟩
  obtain ⟨_, _, h, -⟩ := freed
  unfold State.mapV
  rw [h]
  rfl

/-- A further register mapped onto the physical register of v[r], with its image (R113, R252). -/
def shareStep (r : BitVec 5) (img : Img) (lat : Nat) (u : State) (q : BitVec 5) : State :=
  (u.inFlight (.v q) (u.cycle + lat) false).mapV q (u.me.vec.phys[r.toNat]) img

theorem State.shareImage_cons (r : BitVec 5) (rest : List (BitVec 5)) (img : Img) (lat : Nat) (s : State) :
    s.shareImage (r :: rest) img lat = rest.foldl (shareStep r img lat) (s.wVat r img lat false) := rfl

theorem shareSteps_spec (r : BitVec 5) (img : Img) (lat : Nat) (l : List (BitVec 5)) (u : State) :
    u.vecChange (l.foldl (shareStep r img lat) u) ∧
      ∀ n : BitVec 5, (l.foldl (shareStep r img lat) u).me.vec.v[n.toNat] = if n ∈ l then img else u.me.vec.v[n.toNat] := by
  induction l generalizing u with
  | nil => exact ⟨.refl u, fun n => by simp⟩
  | cons q l ih =>
    obtain ⟨change, v_eq⟩ := State.mapV_writes q u.me.vec.phys[r.toNat] img (u.inFlight (.v q) (u.cycle + lat) false)
    have v_eq : (shareStep r img lat u q).me.vec.v = u.me.vec.v.set q.toNat img := v_eq
    obtain ⟨after, regs⟩ := ih (shareStep r img lat u q)
    refine ⟨(State.inFlight_vecChange ..).trans (change.trans after), fun n => (regs n).trans ?_⟩
    rw [v_eq, getElem_set_reg]
    by_cases hl : n ∈ l <;> by_cases hq : n = q <;> simp [hl, hq]

/-- Registers that all hold one image (R113). -/
theorem State.shareImage_spec (regs : List (BitVec 5)) (img : Img) (lat : Nat) (s : State) :
    s.vecChange (s.shareImage regs img lat) ∧
      ∀ n : BitVec 5, (s.shareImage regs img lat).me.vec.v[n.toNat] = if n ∈ regs then img else s.me.vec.v[n.toNat] := by
  cases regs with
  | nil => exact ⟨.refl s, fun n => by simp [State.shareImage]⟩
  | cons r rest =>
    have wrote := State.wVat_spec r img lat false s
    obtain ⟨after, regs⟩ := shareSteps_spec r img lat rest (s.wVat r img lat false)
    rw [State.shareImage_cons]
    refine ⟨wrote.change.trans after, fun n => (regs n).trans ?_⟩
    rw [wrote.v_eq, getElem_set_reg]
    by_cases hl : n ∈ rest <;> by_cases hq : n = r <;> simp [hl, hq]

/-- The image that the words of content j of a save area make. -/
def State.contentAt (s : State) (ps : Nat → Phys) (j : Nat) : Img :=
  setElems s.me.vec.grant 64 ((List.range (16 * s.me.vec.grant)).map fun w =>
    (w, bytesAt s (ps (48 + j * (16 * s.me.vec.grant) + w)).pa 8)) 0

theorem getElem_contentAt {s : State} (hg : s.me.vec.grant ≤ 16) (ps : Nat → Phys) (j : Nat) {e : Nat} (he : e < 16 * s.me.vec.grant) :
    getElem s.me.vec.grant 64 (s.contentAt ps j) e = bytesAt s (ps (48 + j * (16 * s.me.vec.grant) + e)).pa 8 := by
  unfold State.contentAt
  rw [getElem_setElems hg (by simp [ElemWidth]) _ _ (fun i hi => by have := List.mem_range.mp hi; omega) _ (by omega),
    if_pos (List.mem_range.mpr he), Nat.mod_eq_of_lt (bytesAt_word_lt ..)]

/-- The contents of a save area loaded in order, each mapped to the registers of its number (R113). -/
theorem loadContents_of_reaches {s u : State} {base : X} {hint lat : Nat} {ps : Nat → Phys} {map : Nat → List (BitVec 5)} {todo : List Nat}
    (hc : s.interruptAhead = none) (hm : s.memOk) (hu : s.transferred u)
    (hr : ∀ j ∈ todo, ∀ w < 16 * s.me.vec.grant, s.reaches .vload (base + xOf (8 * (48 + j * (16 * s.me.vec.grant) + w)))
      (ps (48 + j * (16 * s.me.vec.grant) + w)))
    (hmap : ∀ i j n, n ∈ map i → n ∈ map j → i = j) :
    ∃ t, loadContents base hint (16 * s.me.vec.grant) lat map todo u = (.ok (), t) ∧ s.transferred t ∧
      (∀ j ∈ todo, ∀ n ∈ map j, t.me.vec.v[n.toNat] = s.contentAt ps j) ∧
      ∀ n : BitVec 5, (∀ j ∈ todo, n ∉ map j) → t.me.vec.v[n.toNat] = u.me.vec.v[n.toNat] := by
  induction todo generalizing u with
  | nil => exact ⟨u, rfl, hu, by simp, fun _ _ => rfl⟩
  | cons j rest ih =>
    obtain ⟨els, hels⟩ : ∃ els, els = (List.range (16 * s.me.vec.grant)).map fun w => 48 + j * (16 * s.me.vec.grant) + w := ⟨_, rfl⟩
    have mem : u.mem = s.mem := by obtain ⟨-, -, -, -, -, mem, -⟩ := hu.change.kept; exact mem
    obtain ⟨t, ht, loaded⟩ := loadWords_of_reaches (s := u) (base := base) (ps := ps) hint (rest.length * (16 * s.me.vec.grant))
      (els := els) (hu.change.interruptAhead.trans hc) (hm.of_mem mem) fun e he => by
        obtain ⟨w, hw, rfl⟩ := List.mem_map.mp (hels ▸ he)
        exact hu.servesAs.reaches (hr j (by simp) w (List.mem_range.mp hw))
    have at_t := hu.trans loaded.transferred
    have image : setElems t.me.vec.grant 64
        ((u.wordsAt ps els).map fun x => (x.1 - 48 - j * (16 * s.me.vec.grant), x.2.1)) 0 = s.contentAt ps j := by
      unfold State.contentAt
      rw [at_t.change.grant, hels, List.map_map, List.map_map]
      congr 1
      refine List.map_congr_left fun w _ => ?_
      simp only [Function.comp_apply, bytesAt_of_mem mem]
      congr 1
      omega
    obtain ⟨lat', hlat⟩ : ∃ n, n = u.vloadLatency lat 0 ((u.wordsAt ps els).map fun e => e.2.2) := ⟨_, rfl⟩
    obtain ⟨shared, regs⟩ := State.shareImage_spec (map j) (s.contentAt ps j) lat' t
    obtain ⟨v, hv, done, mine, others⟩ := ih (at_t.trans shared.transferred) fun i hi => hr i (by simp [hi])
    refine ⟨v, ?_, done, fun i hi n hn => ?_, fun n hn => ?_⟩
    · unfold loadContents
      rw [M.bind_get, ← hels, M.bind_of_ok ht]
      dsimp only
      rw [M.bind_get, image, ← hlat, M.bind_set]
      exact hv
    · by_cases hrest : ∃ k ∈ rest, n ∈ map k
      · obtain ⟨k, hk, hnk⟩ := hrest
        obtain rfl := hmap k i n hnk hn
        exact mine k hk n hn
      · have first : i = j := by
          rcases List.mem_cons.mp hi with rfl | hi
          · rfl
          · exact absurd ⟨i, hi, hn⟩ hrest
        rw [others n fun k hk hnk => hrest ⟨k, hk, hnk⟩, regs n, if_pos (first ▸ hn), first]
    · rw [others n fun k hk => hn k (by simp [hk]), regs n, if_neg (hn j (by simp)), loaded.me]

/-- What vlmn does once its header and map have been read: they are checked, and the contents loaded (R113). -/
def loadArea (t : State) (base : X) (hint : Nat) (sel : List (BitVec 5)) (header : X) (entry : BitVec 5 → X) : M Unit := do
  let count := fieldOf header 0 6
  let index := fun q => fieldOf (entry q) 58 5
  require (fieldOf header 8 5 == t.me.vec.grant && decide (count ≤ 32) && sel.all (fun q => bitAt (entry q) 63 && decide (index q < count)))
    0x188 base
  let per := 16 * t.me.vec.grant
  let todo := (List.range 32).filter fun j => decide (t.es < 48 + (j + 1) * per) && sel.any (fun q => index q == j)
  loadContents base hint per (40 + 4 * sel.length) (fun j => sel.filter (fun q => index q == j)) todo

/-- What vlmn does once it has been let through (R113). -/
def vlmnBody (a b : BitVec 5) (h : BitVec 2) : M Unit := do
  let t ← get
  require ((t.rX a).toNat % 128 == 0) 0x0C0 (t.rX a)
  let (l, r) ← loadWords (t.rX a) h.toNat 0 (List.range 33)
  match r with
  | some (e, why) => do
    setEs e
    throw why
  | none => pure ()
  let word := fun (e : Nat) => xOf (((l.lookup e).map (fun x => x.1)).getD 0)
  loadArea t (t.rX a) h.toNat (selected (t.rX b)) (word 0) fun q => word (1 + q.toNat)

theorem exec_vlmn (st : BitVec 3) (a b : BitVec 5) (h : BitVec 2) (s : State) :
    exec (.vlmn st a b h) s = runVector { st := st, rs := [.x a, .x b], writes := selected (s.rX b), kf := false, anyEs := true, noPred := true }
      (vlmnBody a b h) s := rfl

/-- Word e of the header and map of a save area, as vlmn has read it. -/
theorem lookup_wordsAt (s : State) (ps : Nat → Phys) {e : Nat} (he : e < 33) :
    xOf ((((s.wordsAt ps (List.range 33)).lookup e).map (fun x => x.1)).getD 0) = BitVec.ofNat 64 (bytesAt s (ps e).pa 8) := by
  rw [State.wordsAt, List.lookup_graph (fun e => (bytesAt s (ps e).pa 8, ps e)) (List.mem_range.mpr he)]
  rfl

/-- vlmn of an area whose header and map fit (R113). -/
theorem vlmnBody_of_reaches {s : State} {a b : BitVec 5} {hint : BitVec 2} {ps : Nat → Phys} (hc : s.interruptAhead = none) (hm : s.memOk)
    (ha : (s.rX a).toNat % 128 = 0) (hr : ∀ e < 33, s.reaches .vload (s.rX a + xOf (8 * e)) (ps e)) :
    ∃ u, s.loaded u ∧ vlmnBody a b hint s = loadArea s (s.rX a) hint.toNat (selected (s.rX b)) (BitVec.ofNat 64 (bytesAt s (ps 0).pa 8))
      (fun q => BitVec.ofNat 64 (bytesAt s (ps (1 + q.toNat)).pa 8)) u := by
  obtain ⟨u, hu, loaded⟩ := loadWords_of_reaches hint.toNat 0 hc hm fun e he => hr e (List.mem_range.mp he)
  refine ⟨u, loaded, ?_⟩
  have entries : (fun q : BitVec 5 => xOf ((((s.wordsAt ps (List.range 33)).lookup (1 + q.toNat)).map (fun x => x.1)).getD 0)) =
      fun q => BitVec.ofNat 64 (bytesAt s (ps (1 + q.toNat)).pa 8) := funext fun q => lookup_wordsAt s ps (by omega)
  unfold vlmnBody
  rw [M.bind_get, M.bind_require, if_pos (by simpa using ha), M.bind_of_ok hu]
  dsimp only
  exact congrArg₂ (fun x f => loadArea s (s.rX a) hint.toNat (selected (s.rX b)) x f u) (lookup_wordsAt s ps (by omega)) entries

/-- The contents that a header and a map name, loaded and mapped (R113, R289). -/
theorem loadArea_of_reaches {s u : State} {base : X} {hint : Nat} {ps : Nat → Phys} {sel : List (BitVec 5)} {header : X}
    {entry : BitVec 5 → X} (hc : s.interruptAhead = none) (hm : s.memOk) (hu : s.loaded u) (hgrant : fieldOf header 8 5 = s.me.vec.grant)
    (hcount : fieldOf header 0 6 ≤ 32) (hsel : ∀ q ∈ sel, bitAt (entry q) 63 = true ∧ fieldOf (entry q) 58 5 < fieldOf header 0 6)
    (hr : ∀ q ∈ sel, s.es < 48 + (fieldOf (entry q) 58 5 + 1) * (16 * s.me.vec.grant) → ∀ w < 16 * s.me.vec.grant,
      s.reaches .vload (base + xOf (8 * (48 + fieldOf (entry q) 58 5 * (16 * s.me.vec.grant) + w)))
        (ps (48 + fieldOf (entry q) 58 5 * (16 * s.me.vec.grant) + w))) :
    ∃ t, loadArea s base hint sel header entry u = (.ok (), t) ∧ s.loadChange t ∧
      (∀ q ∈ sel, s.es < 48 + (fieldOf (entry q) 58 5 + 1) * (16 * s.me.vec.grant) →
        t.me.vec.v[q.toNat] = s.contentAt ps (fieldOf (entry q) 58 5)) ∧
      ∀ n : BitVec 5, (n ∈ sel → ¬s.es < 48 + (fieldOf (entry n) 58 5 + 1) * (16 * s.me.vec.grant)) →
        t.me.vec.v[n.toNat] = s.me.vec.v[n.toNat] := by
  obtain ⟨todo, htodo⟩ : ∃ l, l = (List.range 32).filter fun j =>
    decide (s.es < 48 + (j + 1) * (16 * s.me.vec.grant)) && sel.any (fun q => fieldOf (entry q) 58 5 == j) := ⟨_, rfl⟩
  have due : ∀ j, j ∈ todo ↔
      ∃ q ∈ sel, fieldOf (entry q) 58 5 = j ∧ s.es < 48 + (fieldOf (entry q) 58 5 + 1) * (16 * s.me.vec.grant) := by
    intro j
    simp only [htodo, List.mem_filter, List.mem_range, Bool.and_eq_true, decide_eq_true_eq, List.any_eq_true, beq_iff_eq]
    constructor
    · rintro ⟨-, hes, q, hq, rfl⟩
      exact ⟨q, hq, rfl, hes⟩
    · rintro ⟨q, hq, rfl, hes⟩
      exact ⟨Nat.lt_of_lt_of_le (hsel q hq).2 hcount, hes, q, hq, rfl⟩
  have named : ∀ j n, n ∈ sel.filter (fun q => fieldOf (entry q) 58 5 == j) ↔ n ∈ sel ∧ fieldOf (entry n) 58 5 = j := fun j n => by simp
  obtain ⟨t, ht, done, mine, others⟩ := loadContents_of_reaches (base := base) (hint := hint) (lat := 40 + 4 * sel.length) (ps := ps)
    (map := fun j => sel.filter fun q => fieldOf (entry q) 58 5 == j) (todo := todo) hc hm hu.transferred
    (fun j hj => by
      obtain ⟨q, hq, rfl, hl⟩ := (due j).1 hj
      exact hr q hq hl)
    fun i j n hi hj => ((named i n).1 hi).2.symm.trans ((named j n).1 hj).2
  refine ⟨t, ?_, done.change, fun q hq hl => mine _ ((due _).2 ⟨q, hq, rfl, hl⟩) q ((named _ q).2 ⟨hq, rfl⟩), fun n hn => ?_⟩
  · unfold loadArea
    rw [M.bind_require, if_pos, ← ht, htodo]
    simp only [Bool.and_eq_true, beq_iff_eq, decide_eq_true_eq, List.all_eq_true]
    exact ⟨⟨hgrant, hcount⟩, hsel⟩
  · rw [others n fun j hj hnj => ?_, hu.me]
    obtain ⟨q, hq, rfl, hl⟩ := (due j).1 hj
    obtain ⟨hns, same⟩ := (named _ n).1 hnj
    exact hn hns (same ▸ hl)

/-- vlmn (R112, R113, R289). -/
theorem vlmn_loads {s : State} (h : s.vectorReady) (st : BitVec 3) (a b : BitVec 5) (hint : BitVec 2) (ha : (s.rX a).toNat % 128 = 0)
    {ps : Nat → Phys} (hm : s.memOk) :
    let v := s.me.vec
    let g := v.grant
    let per := 16 * g
    let sel := selected (s.rX b)
    let word := fun e => (BitVec.ofNat 64 (bytesAt s (ps e).pa 8) : X)
    let index := fun (q : BitVec 5) => fieldOf (word (1 + q.toNat)) 58 5
    let loaded := fun (q : BitVec 5) => s.es < 48 + (index q + 1) * per
    fieldOf (word 0) 8 5 = g → fieldOf (word 0) 0 6 ≤ 32 →
    (∀ q ∈ sel, bitAt (word (1 + q.toNat)) 63 = true ∧ index q < fieldOf (word 0) 0 6) →
    (∀ e, e < 33 ∨ (∃ q ∈ sel, loaded q ∧ 48 + index q * per ≤ e ∧ e < 48 + (index q + 1) * per) →
      s.reaches .vload (s.rX a + BitVec.ofNat 64 (8 * e)) (ps e)) →
    ∃ t, exec (.vlmn st a b hint) s = .next t ∧ s.keepsV t sel ∧ s.loadFrame t st ∧
      ∀ q ∈ sel, ∀ e < per, getElem g 64 t.me.vec.v[q.toNat] e =
        if loaded q then (word (48 + index q * per + e)).toNat else getElem g 64 v.v[q.toNat] e := by
  intro v g per sel word index loaded hgrant hcount hsel hr
  obtain ⟨-, -, -, calm⟩ := h.plain
  obtain ⟨u, header, body⟩ := vlmnBody_of_reaches (b := b) (hint := hint) calm hm ha fun e he => hr e (.inl he)
  obtain ⟨t, area, change, mine, kept⟩ := loadArea_of_reaches (base := s.rX a) (hint := hint.toNat) (ps := ps) (sel := sel)
    (header := word 0) (entry := fun q => word (1 + q.toNat)) calm hm header hgrant hcount hsel fun q hq hl w hw =>
      hr _ (.inr ⟨q, hq, hl, Nat.le_add_right .., by rw [Nat.add_assoc]; exact Nat.add_lt_add_left (word_within le_rfl hw) _⟩)
  have run := (exec_vlmn st a b hint s).trans
    (runVector_completes h.1 _ _ rfl rfl rfl rfl (checkBound_of_streams h.2 _) (body.trans area) change.kept.1)
  refine ⟨_, run, fun n hn => kept n fun hs => absurd hs hn, change.whole st, fun q hq e he => ?_⟩
  by_cases hl : loaded q
  · rw [if_pos hl, BitVec.toNat_ofNat, Nat.mod_eq_of_lt (bytesAt_word_lt ..)]
    exact (congrArg (getElem g 64 · e) (mine q hq hl)).trans (getElem_contentAt h.runs.grant_le ps _ he)
  · rw [if_neg hl]
    exact congrArg (getElem g 64 · e) (kept q fun _ => hl)

end Sys2Proof.Machine

namespace Sys2Proof.Proofs
open Sys2Proof.Machine Sys2Proof.Cert

/-- Settles O48: the words of the registers or of the save area are loaded, or stored, one by one in ascending order from es on. -/
theorem multiRegisterTransfers : Obligations.MultiRegisterTransfers := by
  refine ⟨fun s st d a n hint h ha => ⟨fun ps hm hr => vlm_loads h st d a n hint ha hm hr, vsm_stores h st d a n hint ha⟩, ?_⟩
  intro s st a b hint h ha
  exact ⟨vsmn_stores h st a b hint ha, fun ps hm => vlmn_loads h st a b hint ha hm⟩

end Sys2Proof.Proofs
end
